-- ==== Sys2Proof/Word.lean ====
section
/-! DEFINITION. The word types of the Praith 440 (R2, R3): bytes, 32-bit words, 64-bit dwords. -/

namespace Sys2Proof

/-- A byte is 8 bits (R2). -/
abbrev Byte := BitVec 8

/-- A word is 32 bits (R2). -/
abbrev Word := BitVec 32

/-- A dword is 64 bits (R2). -/
abbrev Dword := BitVec 64

/-- A lane mask: bit i stands for lane i (R3). -/
abbrev Mask := BitVec 32

end Sys2Proof
end

