-- ==== Sys2Proof/Machine/Bits.lean ====
section
/-! DEFINITION. Helpers over bits, bytes, lanes and lists (R3, R9). -/

namespace Sys2Proof.Machine

/-- Field [h:l] of a number (R9 bits). -/
def bitsAt (x h l : Nat) : Nat := x / 2 ^ l % 2 ^ (h + 1 - l)

/-- Bit i of a number. -/
def bitAt (x i : Nat) : Bool := x / 2 ^ i % 2 == 1

/-- The n-bit pattern x read as two's complement. -/
def toSigned (n x : Nat) : Int := if bitAt x (n - 1) then (x : Int) - (2 ^ n : Nat) else (x : Int)

/-- R9 wrap. -/
def wrapTo (n : Nat) (x : Int) : Nat := (x % (2 ^ n : Nat)).toNat

/-- R9 clamp. -/
def clampTo (lo hi x : Int) : Int := if x < lo then lo else if hi < x then hi else x

/-- The low n bytes of a number, lowest first (R3). -/
def leBytes : Nat → Nat → List Byte
  | 0, _ => []
  | n + 1, x => BitVec.ofNat 8 x :: leBytes n (x / 256)

/-- The number that little-endian bytes stand for (R3). -/
def leNat : List Byte → Nat
  | [] => 0
  | b :: bs => b.toNat + 256 * leNat bs

/-- The little-endian field of n bytes at offset o of a record. -/
def fieldAt (r : List Byte) (o n : Nat) : Nat := leNat ((r.drop o).take n)

/-- A record with the bytes at offset o replaced. -/
def putAt (r : List Byte) (o : Nat) (bs : List Byte) : List Byte := r.take o ++ bs ++ r.drop (o + bs.length)

/-- Element i of a list replaced. -/
def setAt {α : Type} (l : List α) (i : Nat) (x : α) : List α := l.set i x

/-- Bit i of a lane mask (R3). -/
def hasLane (m : Mask) (i : Nat) : Bool := m.getLsbD i

/-- The lane mask of the lanes for which f holds. -/
def maskOf (f : Nat → Bool) : Mask :=
  BitVec.ofNat 32 ((List.range 32).foldr (fun i acc => (if f i then 1 else 0) + 2 * acc) 0)

/-- A mask with one lane. -/
def oneLane (i : Nat) : Mask := BitVec.ofNat 32 (2 ^ i)

/-- Lanes of a mask in ascending order. -/
def lanesOf (m : Mask) : List Nat := (List.range 32).filter (hasLane m)

/-- The lowest lane of a mask, 0 when it is empty. -/
def lowLane (m : Mask) : Nat := (lanesOf m).headD 0

/-- One word for each of the 32 lanes. -/
def perLane (f : Nat → Word) : List Word := (List.range 32).map f

/-- Number of 1 bits (R9 popc). -/
def popcount : Nat → Nat → Nat
  | 0, _ => 0
  | n + 1, x => x % 2 + popcount n (x / 2)

/-- Bits needed to write a number: 0 for 0, otherwise floor(log2 x) + 1. -/
def bitLen (x : Nat) : Nat := if x = 0 then 0 else Nat.log2 x + 1

/-- Round a number up to a multiple of n. -/
def roundUp (x n : Nat) : Nat := (x + n - 1) / n * n

/-- The first element for which f holds, replaced. -/
def updateFirst {α : Type} (p : α → Bool) (f : α → α) : List α → List α
  | [] => []
  | x :: xs => if p x then f x :: xs else x :: updateFirst p f xs

/-- Consecutive pieces of n elements; fuel bounds their number. -/
def chunks {α : Type} (n : Nat) : Nat → List α → List (List α)
  | 0, _ => []
  | fuel + 1, l => if l.isEmpty then [] else l.take n :: chunks n fuel (l.drop n)

/-- Insertion into a list sorted by a key, after equal keys. -/
def insertBy {α : Type} (key : α → Nat) (x : α) : List α → List α
  | [] => [x]
  | y :: ys => if key x < key y then x :: y :: ys else y :: insertBy key x ys

/-- A stable sort by a key. -/
def sortBy {α : Type} (key : α → Nat) (l : List α) : List α := l.foldl (fun acc x => insertBy key x acc) []

/-- A word from a number. -/
def word (x : Nat) : Word := BitVec.ofNat 32 x

/-- A dword from a number. -/
def dword (x : Nat) : Dword := BitVec.ofNat 64 x

end Sys2Proof.Machine
end

