-- ==== Sys2Proof/Machine/Types.lean ====
section
/-! DEFINITION. The values of the TYPE and ROUND fields of a mode register (R25), the latency classes (R41) and the profiles (R54). -/

namespace Sys2Proof.Machine

/-- TYPE (R25). -/
inductive Ty where
  | i32 | n32 | i16 | n16 | i8 | n8 | i64 | n64 | f32 | f16 | bf16 | f64 | dsb8i | dsb8f | dsb4i | dsb4f
  deriving DecidableEq, Repr

/-- ROUND (R25). -/
inductive Rnd where
  | rne | rtz | rup | rdn | rna
  deriving DecidableEq, Repr

/-- Which agents may execute an opcode (R54): all, main cores only (m), native wavefronts only (s), all but guests (n). -/
inductive Profile where
  | all | main | native | notGuest
  deriving DecidableEq, Repr

/-- The TYPE a 4-bit code names (R25). -/
def Ty.ofCode (x : Nat) : Ty :=
  match x with
  | 0 => .i32 | 1 => .n32 | 2 => .i16 | 3 => .n16 | 4 => .i8 | 5 => .n8 | 6 => .i64 | 7 => .n64
  | 8 => .f32 | 9 => .f16 | 10 => .bf16 | 11 => .f64 | 12 => .dsb8i | 13 => .dsb8f | 14 => .dsb4i | _ => .dsb4f

/-- The code of a TYPE. -/
def Ty.code : Ty → Nat
  | .i32 => 0 | .n32 => 1 | .i16 => 2 | .n16 => 3 | .i8 => 4 | .n8 => 5 | .i64 => 6 | .n64 => 7
  | .f32 => 8 | .f16 => 9 | .bf16 => 10 | .f64 => 11 | .dsb8i => 12 | .dsb8f => 13 | .dsb4i => 14 | .dsb4f => 15

/-- Element width in bits (R60, R62, R69). -/
def Ty.width : Ty → Nat
  | .i8 | .n8 | .dsb8i | .dsb8f => 8
  | .i16 | .n16 | .f16 | .bf16 => 16
  | .i32 | .n32 | .f32 => 32
  | .i64 | .n64 | .f64 => 64
  | .dsb4i | .dsb4f => 4

/-- TYPE 0 to 7 (R85). -/
def Ty.isInt : Ty → Bool
  | .i32 | .n32 | .i16 | .n16 | .i8 | .n8 | .i64 | .n64 => true
  | _ => false

/-- f16, bf16, f32 and f64 (R85). -/
def Ty.isFloat : Ty → Bool
  | .f32 | .f16 | .bf16 | .f64 => true
  | _ => false

/-- The dsb types (R69). -/
def Ty.isDsb : Ty → Bool
  | .dsb8i | .dsb8f | .dsb4i | .dsb4f => true
  | _ => false

/-- Signed integer types (R60). -/
def Ty.signed : Ty → Bool
  | .i32 | .i16 | .i8 | .i64 => true
  | _ => false

/-- Types whose data operands name pairs (R86). -/
def Ty.pair (t : Ty) : Bool := t.width == 64

/-- i64 and n64, where the bitwise and lane operations of any TYPE act on pairs (R101, R119, R122). -/
def Ty.intPair : Ty → Bool
  | .i64 | .n64 => true
  | _ => false

/-- Packed elements per lane (R60, R62): one for 32-bit and 64-bit types. -/
def Ty.count (t : Ty) : Nat := if t.width == 8 then 4 else if t.width == 16 then 2 else 1

/-- The rounding a 3-bit code names (R25; 5 to 7 are never stored, R26). -/
def Rnd.ofCode (x : Nat) : Rnd :=
  match x with
  | 0 => .rne | 1 => .rtz | 2 => .rup | 3 => .rdn | _ => .rna

/-- The code of a rounding. -/
def Rnd.code : Rnd → Nat
  | .rne => 0 | .rtz => 1 | .rup => 2 | .rdn => 3 | .rna => 4

/-- Fields of a mode register (R25). -/
def modeGuard (m : BitVec 22) : Nat := bitsAt m.toNat 3 0
/-- NEG (R25). -/
def modeNeg (m : BitVec 22) : Bool := m.getLsbD 4
/-- TYPE (R25). -/
def modeTy (m : BitVec 22) : Ty := Ty.ofCode (bitsAt m.toNat 8 5)
/-- ROUND (R25). -/
def modeRnd (m : BitVec 22) : Rnd := Rnd.ofCode (bitsAt m.toNat 11 9)
/-- SAT (R25). -/
def modeSat (m : BitVec 22) : Bool := m.getLsbD 12
/-- FTZ (R25). -/
def modeFtz (m : BitVec 22) : Bool := m.getLsbD 13
/-- PERM (R25). -/
def modePerm (m : BitVec 22) : Nat := bitsAt m.toNat 18 14
/-- MIG (R25). -/
def modeMig (m : BitVec 22) : Nat := bitsAt m.toNat 20 19

/-- Sticky bits of WARPSTAT (R30). -/
def stNV : BitVec 8 := 0x01
/-- DZ (R30). -/
def stDZ : BitVec 8 := 0x02
/-- OF (R30). -/
def stOF : BitVec 8 := 0x04
/-- UF (R30). -/
def stUF : BitVec 8 := 0x08
/-- NX (R30). -/
def stNX : BitVec 8 := 0x10
/-- SATD (R30). -/
def stSATD : BitVec 8 := 0x20
/-- FXOV (R30). -/
def stFXOV : BitVec 8 := 0x40
/-- READFREE (R30). -/
def stREADFREE : BitVec 8 := 0x80

/-- The profile of an opcode, from the marks of the opcode map (R54); reserved opcodes have none and answer all. -/
def opcodeProfile (o : Nat) : Profile :=
  if o = 0x07 ∨ o = 0x08 ∨ o = 0x0B then .main
  else if 0x62 ≤ o ∧ o ≤ 0x67 then .notGuest
  else if o = 0x79 ∨ o = 0x7A then .notGuest
  else if o = 0x81 ∨ o = 0x83 ∨ o = 0x8A ∨ o = 0x8B then .main
  else if 0xA1 ≤ o ∧ o ≤ 0xA5 then .main
  else if 0xAC ≤ o ∧ o ≤ 0xB0 then .main
  else if o = 0xB5 ∨ o = 0xB6 ∨ o = 0xB8 ∨ o = 0xB9 then .main
  else if 0xC0 ≤ o ∧ o ≤ 0xD0 then .main
  else if 0xD2 ≤ o ∧ o ≤ 0xDC then .main
  else if o = 0xDE then .main
  else if 0xE0 ≤ o ∧ o ≤ 0xEF then .native
  else .all

/-- The reserved opcodes (R54). -/
def opcodeReserved (o : Nat) : Bool :=
  o == 0x0E || o == 0x0F || (0x3C ≤ o && o ≤ 0x3F) || (0x6C ≤ o && o ≤ 0x6F) || o == 0x7E || o == 0x7F ||
  o == 0xA6 || o == 0xA7 || o == 0xBE || o == 0xBF || (0xF0 ≤ o && o ≤ 0xFF)

/-- ECSCLR, TMOVE and TSWAP, which a tenant may not execute (R217). -/
def opcodePrivileged (o : Nat) : Bool := o == 0xEA || o == 0xEB || o == 0xEC

/-- Long-latency instructions with a register destination (R41). -/
def opcodeLongReg (o : Nat) : Bool :=
  (0x52 ≤ o && o ≤ 0x5A) || o == 0x80 || o == 0x81 || o == 0x84 || o == 0x86 || o == 0x88 || o == 0x8B || o == 0x8C ||
  (0x8E ≤ o && o ≤ 0x96) || o == 0x9C || o == 0x9E || o == 0x9F || o == 0xA0 || o == 0xA1 || o == 0xA5 || o == 0xBC ||
  o == 0xC7 || o == 0xD7 || o == 0xD8 || o == 0xE4 || o == 0xE7 || o == 0xE9

/-- Long-latency instructions without one (R41). -/
def opcodeLongMem (o : Nat) : Bool :=
  o == 0x82 || o == 0x83 || o == 0x85 || o == 0x87 || o == 0x89 || o == 0x8A || o == 0x8D || o == 0xBB ||
  (0x97 ≤ o && o ≤ 0x9B) || o == 0x9D || o == 0xA4 || o == 0xE8 || o == 0xE1

/-- Control transfers, which must stand in the clause's last valid slot (R42 reason 7). -/
def opcodeTransfer (o : Nat) : Bool := (0x01 ≤ o && o ≤ 0x09) || o == 0x0B

end Sys2Proof.Machine
end

