-- ==== Sys2Proof/Machine/Flags.lean ====
section
/-! DEFINITION. Every flag computation of the integer instructions: roundT for integer TYPEs with its SATD bit (R38, R60), and the
results of R101, R102 and R104 on one element. -/

namespace Sys2Proof.Machine

/-- A result pattern and the sticky bits it raises. -/
abbrev Res := Nat × BitVec 8

/-- Lowest value of an integer TYPE (R60). -/
def Ty.minVal (t : Ty) : Int := if t.signed then -((2 ^ (t.width - 1) : Nat) : Int) else 0

/-- Highest value of an integer TYPE (R60). -/
def Ty.maxVal (t : Ty) : Int := if t.signed then ((2 ^ (t.width - 1) : Nat) : Int) - 1 else ((2 ^ t.width : Nat) : Int) - 1

/-- An element read under an integer TYPE (R101). -/
def Ty.read (t : Ty) (x : Nat) : Int := if t.signed then toSigned t.width x else (x : Int)

/-- roundT for an integer TYPE (R38, R60): clamped with SATD, or wrapped. -/
def roundInt (t : Ty) (sat : Bool) (x : Int) : Res :=
  if sat then
    let y := clampTo t.minVal t.maxVal x
    (wrapTo t.width y, if y = x then 0 else stSATD)
  else (wrapTo t.width x, 0)

/-- IADD, ISUB, IMUL, IMAD (R101). -/
def intAdd (t : Ty) (sat : Bool) (a b : Nat) : Res := roundInt t sat (t.read a + t.read b)
def intSub (t : Ty) (sat : Bool) (a b : Nat) : Res := roundInt t sat (t.read a - t.read b)
def intMul (t : Ty) (sat : Bool) (a b : Nat) : Res := roundInt t sat (t.read a * t.read b)
def intMad (t : Ty) (sat : Bool) (a b d : Nat) : Res := roundInt t sat (t.read a * t.read b + t.read d)

/-- IMULH (R101): bits [2w-1:w] of the product; never saturates. -/
def intMulh (t : Ty) (a b : Nat) : Res := (wrapTo (2 * t.width) (t.read a * t.read b) / 2 ^ t.width, 0)

/-- IMIN, IMAX (R101). -/
def intMin (t : Ty) (a b : Nat) : Res := (if t.read a ≤ t.read b then a else b, 0)
def intMax (t : Ty) (a b : Nat) : Res := (if t.read b ≤ t.read a then a else b, 0)

/-- The shift count: bits [5:0] of an element, modulo the width (R101). -/
def shiftCount (w b : Nat) : Nat := b % 64 % w

/-- SHL (R101): a x 2^s through roundT. -/
def intShl (t : Ty) (sat : Bool) (a s : Nat) : Res := roundInt t sat (t.read a * ((2 ^ s : Nat) : Int))

/-- SHR (R101): the element read unsigned. -/
def intShr (a s : Nat) : Res := (a / 2 ^ s, 0)

/-- SAR (R101): the element read signed. -/
def intSar (t : Ty) (a s : Nat) : Res := (wrapTo t.width (toSigned t.width a / ((2 ^ s : Nat) : Int)), 0)

/-- IABS (R102). -/
def intAbs (t : Ty) (sat : Bool) (a : Nat) : Res :=
  if t.signed then roundInt t sat (if t.read a < 0 then -t.read a else t.read a) else (a, 0)

/-- POPC (R102). -/
def intPopc (t : Ty) (a : Nat) : Nat := popcount t.width a

/-- CLZ (R102). -/
def intClz (t : Ty) (a : Nat) : Nat := t.width - bitLen a

/-- The lowest w bits of a number in reverse order (R102). -/
def revBits : Nat → Nat → Nat
  | 0, _ => 0
  | w + 1, a => a % 2 * 2 ^ w + revBits w (a / 2)

/-- The six comparisons (R103). -/
inductive Cmp where
  | eq | ne | lt | le | gt | ge
  deriving DecidableEq, Repr

/-- A comparison of two integers (R103). -/
def Cmp.holds (k : Cmp) (a b : Int) : Bool :=
  match k with
  | .eq => a == b
  | .ne => a != b
  | .lt => a < b
  | .le => a ≤ b
  | .gt => b < a
  | .ge => b ≤ a

end Sys2Proof.Machine
end

