-- ==== Sys2Proof/Config.lean ====
section
/-! DEFINITION. What one package of this kind fixes and the spec leaves open: constants without a body, so that nothing can be
proved of their values. -/

namespace Sys2Proof.Config

/-- Counts of the 1 GHz package clock between one read of TIMEBASE and the read before it (R29, R4: cycle counts are no
guarantees).  The argument is State.free. -/
opaque elapsed : Nat → Dword

/-- The result a function instruction returns among those R83 allows: opcode, TYPE, ROUND and the input's bits. -/
opaque ulpChoice : Nat → Nat → Nat → Nat → Nat

/-- The device certificate chain (R434). -/
opaque certificate : List Byte

/-- The SHA-512 digest of each measured item (R434), by its number and what the state holds of it. -/
opaque digest : Nat → List Nat → BitVec 512

/-- The CRC-64 of the first 248 bytes of a flit (R416), whose polynomial the spec leaves open. -/
opaque crc64 : List Byte → BitVec 64

/-- The credits that a mailbox of another device has granted this one before any message (R413), by device and endpoint. -/
opaque credits : Nat → Dword → Nat

/-- How the response to a command lays out the numbers it reports (R432, R437), by the command's code. -/
opaque layout : Nat → List Nat → List Byte

/-- The device's ECDSA signature of a text (R434). -/
opaque signature : List Byte → List Byte

/-- A free word (R7: an undefined value is never another context's data). -/
opaque freeWord : Nat → Word

end Sys2Proof.Config
end

