-- ==== Sys2Proof/Syntax.lean ====
section
/-! DEFINITION. The abstract syntax: one constructor of Instr for every row of spec/opcode_table.json (02 R48 to R55).
Operand fields keep the widths and names of the formats of R49.  The rows that have no bits are the events of the machine and the
Aderic commands; an Args record beside them says what the outside world, or the choice of the moment, gives them. -/

namespace Sys2Proof

/-- Format V3 (R49): destination, two sources with lane pattern and last-read bits, BS (R50). -/
structure V3 where
  d : BitVec 5
  a : BitVec 5
  pa : BitVec 3
  la : Bool
  b : BitVec 5
  pb : BitVec 3
  lb : Bool
  bs : Bool
  deriving DecidableEq, Repr

/-- Format VI (R49): destination, one source with pattern and last-read, a 10-bit immediate. -/
structure VI where
  d : BitVec 5
  a : BitVec 5
  pa : BitVec 3
  la : Bool
  imm : BitVec 10
  deriving DecidableEq, Repr

/-- Format S3 (R49): three scalar registers. -/
structure S3 where
  d : BitVec 5
  a : BitVec 5
  b : BitVec 5
  deriving DecidableEq, Repr

/-- Format SI (R49): two scalar registers and a 14-bit immediate. -/
structure SI where
  d : BitVec 5
  a : BitVec 5
  imm : BitVec 14
  deriving DecidableEq, Repr

/-- Format SL (R49): one register and a 19-bit immediate. -/
structure SL where
  d : BitVec 5
  imm : BitVec 19
  deriving DecidableEq, Repr

/-- Format B (R49): a clause offset. -/
structure B where
  imm : BitVec 24
  deriving DecidableEq, Repr

/-- Format BX (R49, R51): an even scalar pair that holds the target. -/
structure BX where
  s : BitVec 5
  deriving DecidableEq, Repr

/-- Format M (R49, R51): data, base, last-base and a 13-bit immediate. -/
structure M where
  d : BitVec 5
  base : BitVec 5
  lb : Bool
  imm : BitVec 13
  deriving DecidableEq, Repr

/-- Format MC (R49, R51): data, handle, first coordinate register, last-coords and an 8-bit immediate. -/
structure MC where
  d : BitVec 5
  h : BitVec 5
  c : BitVec 5
  lc : Bool
  imm : BitVec 8
  deriving DecidableEq, Repr

/-- Format MA (R49, R51): data, address with last bit, operand with last bit and the bits [6:0]. -/
structure MA where
  d : BitVec 5
  a : BitVec 5
  la : Bool
  o : BitVec 5
  lo : Bool
  z : BitVec 7
  deriving DecidableEq, Repr

/-- Format X (R49, R153, R177): three register fields and a 9-bit immediate. -/
structure X where
  x : BitVec 5
  y : BitVec 5
  z : BitVec 5
  imm : BitVec 9
  deriving DecidableEq, Repr

/-- Format MM (R49, R51): accumulator base and two operand specs. -/
structure MM where
  acc : BitVec 4
  a : BitVec 5
  b : BitVec 5
  deriving DecidableEq, Repr

/-- Who issues an Aderic command (R431, R432): a host or controller by number, a function's own driver, or a Bexfort
test requester (R435). -/
inductive Requester where
  | host (n : Nat)
  | function (n : Nat)
  | bexfort (n : Nat)
  deriving DecidableEq, Repr

/-- The transport that carries a command (R431): the mailbox of a function's BAR 0, MCTP over PCIe, or MCTP over the SMBus. -/
inductive Via where
  | mailbox (fn : Nat)
  | mctpPcie
  | mctpSmbus
  deriving DecidableEq, Repr

/-- A command's header and where it comes from (R431): requester, transport, TAG, a CODE that names no command (none where it is that of the
event's own row), LEN, and the bytes 12 to 15. -/
structure Cmd where
  req : Requester
  tag : BitVec 16
  via : Via := .mctpPcie
  code : Option (BitVec 16) := none
  len : Nat := 0
  zero : Nat := 0
  deriving DecidableEq, Repr

/-- Payload of FUNCTION (R432): create with its tables, or destroy. rings gives (stack, control-block address),
queues gives (queue, control-block address). -/
inductive FunctionOp where
  | create (fn partition root pasid : Nat) (rings queues : List (Nat × Nat))
  | destroy (fn : Nat)
  deriving DecidableEq, Repr

/-- Payload of GRANT (R432): frames, a 64-byte storage grant (R414), a heddle window, the port to a device, or this device's
number (R417). -/
inductive GrantOp where
  | frames (fn base len : Nat)
  | storage (fn index : Nat) (record : List Byte)
  | heddle (peer len : Nat)
  | route (device port : Nat)
  | device (number : Nat)
  deriving DecidableEq, Repr

/-- Payload of REGION (R347, R348): a 128-byte descriptor for an entry of the table, or the handle to destroy. -/
inductive RegionOp where
  | create (index : Nat) (descriptor : List Byte)
  | destroy (handle : Word)
  deriving DecidableEq, Repr

/-- Payload of ALLOC (R398, R332, R368): the entries at va to va + len take the attribute. -/
inductive AllocOp where
  | sill (va len frame : Nat)
  | stripe (va frame stack pch row0 rows bytes : Nat)
  | view (va len : Nat) (handle : Word)
  deriving DecidableEq, Repr

/-- A register that software outside the cores writes and that has no behaviour of its own (R5, R405, R407, R411). -/
inductive DevReg where
  | watchAddr (fn n : Nat)
  | watchThresh (fn n : Nat)
  | watchCtl (fn n : Nat)
  | bucket (fn stack : Nat)
  | firewall (bridge : Nat)
  | bar0 (fn offset : Nat)
  deriving DecidableEq, Repr

/-- A heddle flit (R416): sequence number, acknowledged sequence, class, credits returned, payload and CRC-64. -/
structure Flit where
  seq : BitVec 16
  ack : BitVec 16
  cls : BitVec 4
  credits : BitVec 24
  payload : List Byte
  crc : BitVec 64
  deriving DecidableEq, Repr

/-- A link whose lanes can be repaired or narrowed (R424). -/
inductive LinkId where
  | stack (stack pch : Nat)
  | bridge (b group : Nat)
  | heddle (port : Nat)
  | host
  deriving DecidableEq, Repr

/-- What one scrub period finds (R421): a corrected or an uncorrectable error in a granule. -/
structure ScrubFind where
  stack : Nat
  pch : Nat
  bank : Nat
  row : Nat
  granule : Nat
  uncorrectable : Bool
  deriving DecidableEq, Repr

/-- An uncorrectable error in an array of the package beside DRAM (R418): a lane of a vector register or a scalar of a warp,
a byte's word of a block's scratchpad or of a wavefront's local store, the 256-byte line of a dirty L2 line, an element of an
accumulator tile, of a bank accumulator or of a broadcast store, or a shuttle that waits in a shed entry, by its lane. -/
inductive ArrayError where
  | vector (warp reg lane : Nat)
  | scalar (warp reg : Nat)
  | scratch (block off : Nat)
  | local' (wave off : Nat)
  | line (pa : Nat)
  | tile (block ctx elem : Nat)
  | bankAcc (stack pch elem : Nat)
  | broadcast (stack pch elem : Nat)
  | shed (lane : Nat)
  deriving DecidableEq, Repr

/-- The operation that an Aderic command or an outside agent hands to the machine beside plain numbers. -/
inductive Payload where
  | none
  | function (f : FunctionOp)
  | grant (g : GrantOp)
  | region (r : RegionOp)
  | alloc (a : AllocOp)
  | reg (r : DevReg)
  | flit (f : Flit)
  | link (l : LinkId)
  | scrub (found : List ScrubFind)
  | requester (r : Requester)
  | array (e : ArrayError)
  deriving DecidableEq, Repr

/-- What the outside world, or the choice of the moment, gives an event of the machine (one of the rows that have no
bits).  Which field an event reads, and as what, its meaning says; since is 0, or for a request that has waited the time of its arrival. -/
structure Args where
  a : Nat := 0
  b : Nat := 0
  c : Nat := 0
  value : Dword := 0
  flag : Bool := false
  bytes : List Byte := []
  cmd : Cmd := { req := .host 0, tag := 0 }
  load : Payload := .none
  since : Nat := 0
  deriving DecidableEq, Repr

/-- One constructor per row of spec/opcode_table.json.  The rows that have no bits take what they need from Args. -/
inductive Instr where
  | nop
  | bra (o : B)
  | brau (o : B)
  | brx (o : BX)
  | call (o : B)
  | ret (o : BX)
  | join
  | bblk (o : B)
  | bjoin
  | exit
  | trap (i : BitVec 24)
  | tret
  | sysrd (o : X)
  | syswr (o : X)
  | iadd (o : V3)
  | isub (o : V3)
  | imul (o : V3)
  | imulh (o : V3)
  | imad (o : V3)
  | imin (o : V3)
  | imax (o : V3)
  | and (o : V3)
  | or (o : V3)
  | xor (o : V3)
  | andn (o : V3)
  | shl (o : V3)
  | shr (o : V3)
  | sar (o : V3)
  | sel (o : V3)
  | iabs (o : V3)
  | popc (o : V3)
  | clz (o : V3)
  | brev (o : V3)
  | isetpEq (o : V3)
  | isetpNe (o : V3)
  | isetpLt (o : V3)
  | isetpLe (o : V3)
  | isetpGt (o : V3)
  | isetpGe (o : V3)
  | iaddi (o : VI)
  | andi (o : VI)
  | ori (o : VI)
  | xori (o : VI)
  | shli (o : VI)
  | shri (o : VI)
  | sari (o : VI)
  | movi (o : SL)
  | movhi (o : SL)
  | sadd (o : S3)
  | ssub (o : S3)
  | smul (o : S3)
  | sand (o : S3)
  | sor (o : S3)
  | sxor (o : S3)
  | sshl (o : S3)
  | sshr (o : S3)
  | saddi (o : SI)
  | smovi (o : SL)
  | fadd (o : V3)
  | fsub (o : V3)
  | fmul (o : V3)
  | ffma (o : V3)
  | ffms (o : V3)
  | fnma (o : V3)
  | fmin (o : V3)
  | fmax (o : V3)
  | fabsd (o : V3)
  | fdot2 (o : V3)
  | fabs (o : V3)
  | fneg (o : V3)
  | frnd (o : V3)
  | fclass (o : V3)
  | fldexp (o : V3)
  | fexpt (o : V3)
  | fcpys (o : V3)
  | fsat (o : V3)
  | frcp (o : V3)
  | frsq (o : V3)
  | fsqrt (o : V3)
  | fexp2 (o : V3)
  | flog2 (o : V3)
  | fsin (o : V3)
  | fcos (o : V3)
  | ftanh (o : V3)
  | fdiv (o : V3)
  | fsetpEq (o : V3)
  | fsetpNe (o : V3)
  | fsetpLt (o : V3)
  | fsetpLe (o : V3)
  | fsetpGt (o : V3)
  | fsetpGe (o : V3)
  | fsetpUn (o : V3)
  | fredAdd (o : V3)
  | fredMax (o : V3)
  | fredMin (o : V3)
  | fredAmax (o : V3)
  | fscanAdd (o : V3)
  | fscanMax (o : V3)
  | fxacc (o : V3)
  | fxcvt (o : V3)
  | fpack (o : V3)
  | funpk (o : V3)
  | cvt (o : VI)
  | dsbscal (o : VI)
  | dsbenc (o : VI)
  | dsbdec (o : VI)
  | matchV (o : V3)
  | vote (o : V3)
  | plop (o : X)
  | pmov (o : X)
  | shuf (o : V3)
  | ired (o : V3)
  | iscan (o : V3)
  | mode (i : BitVec 24)
  | mshape (i : BitVec 24)
  | carry (o : X)
  | ld (o : M)
  | ld4 (o : M)
  | st (o : M)
  | st4 (o : M)
  | sld (o : M)
  | sst (o : M)
  | lds (o : M)
  | sts (o : M)
  | gather (o : MA)
  | scatter (o : MA)
  | spill (o : M)
  | fill (o : M)
  | ldc (o : MC)
  | stc (o : MC)
  | atomAdd (o : MA)
  | atomMin (o : MA)
  | atomMax (o : MA)
  | atomAnd (o : MA)
  | atomOr (o : MA)
  | atomXor (o : MA)
  | atomExch (o : MA)
  | atomFadd (o : MA)
  | cas (o : MA)
  | atomrfAdd (o : MA)
  | atomrfFadd (o : MA)
  | atomrfMax (o : MA)
  | atomrfMin (o : MA)
  | atomx (o : MA)
  | atomc (o : MC)
  | atomcrf (o : MC)
  | atoms (o : MA)
  | lr (o : MA)
  | sc (o : MA)
  | rdord (o : X)
  | pinord (o : X)
  | advord (o : X)
  | pref (o : M)
  | probe (o : X)
  | fenceAcq (o : X)
  | fenceRel (o : X)
  | fenceAr (o : X)
  | fenceRf (o : X)
  | bar (o : X)
  | bara (o : X)
  | barw (o : X)
  | clbar (o : X)
  | gbar
  | waitge (o : X)
  | waitne (o : X)
  | tlwait (o : X)
  | tlread (o : X)
  | ctrarm (o : X)
  | ctrwait (o : X)
  | region
  | grow (o : X)
  | shrink (o : X)
  | yield
  | strel (o : M)
  | ldacq (o : M)
  | home
  | mmat (o : MM)
  | mmatz (o : MM)
  | mmatar (o : MM)
  | mmatbr (o : MM)
  | commit (o : X)
  | waitb (o : X)
  | accz (o : X)
  | accrd (o : X)
  | accwr (o : X)
  | accst (o : X)
  | accld (o : X)
  | mqry (o : X)
  | msave (o : X)
  | mrest (o : X)
  | mcancel (o : X)
  | mbudg (o : X)
  | cring (o : X)
  | send (o : X)
  | recv (o : X)
  | caprd (o : X)
  | launch (o : X)
  | launchu (o : X)
  | cancel (o : X)
  | distL2 (o : X)
  | distIp (o : X)
  | topkMin (o : X)
  | topkMax (o : X)
  | bankop (o : X)
  | stkdisp (o : X)
  | migqry (o : X)
  | migr (o : X)
  | svc (o : X)
  | abmode (o : X)
  | vbcast (o : X)
  | bmac (o : X)
  | bmacx (o : X)
  | bmacrd (o : X)
  | bmacz (o : X)
  | rowact (o : X)
  | colrd (o : X)
  | colwr (o : X)
  | ecsrd (o : X)
  | ecsclr (o : X)
  | tmove (o : X)
  | tswap (o : X)
  | stksave (o : X)
  | skyield
  | pchown (o : X)
  | reservedOpcode (w : Word)
  | clauseBegin
  | longLatencyCompletion
  | pageFaultReplay
  | faultServiceFailure
  | shedRetry
  | shuttleLanding
  | guestWavefrontFormation
  | guestWarpFormation
  | shuttleReturn
  | guestPreemption
  | growGrant
  | growDeadlock
  | warpAgePromotion
  | fairnessTimerExpiry
  | joinFairnessLimit
  | memoryWaitWake
  | timelineWaitWake
  | counterWaitWake
  | batchWaitWake
  | svcReplyWake
  | recordCloseRequest
  | blockPlacement
  | blockFree
  | queueWriteUpdate
  | launchRecordConsume
  | launchComplete
  | copyRingNotify
  | copyEntryConsume
  | copyUnitLand
  | copyCommandDone
  | gateReevaluate
  | followOnIssue
  | engineStep
  | batchComplete
  | matrixBudgetPeriod
  | ringDoorbell
  | sillRingPoll
  | wavefrontStart
  | level3Save
  | wavefrontResume
  | wavefrontStarvation
  | sillPreemptTimeout
  | sillDispatchDone
  | allBankModeExpiry
  | abmodeBlockedEntry
  | bankopRun
  | bankopResultLand
  | splitQuiesceEnd
  | monitorWindowClose
  | moveStart
  | bucketAdmission
  | sliceEnd
  | warpTaken
  | preemptionDeadline
  | blockResumption
  | resumeEpisode
  | hostCxlAccess
  | priResponse
  | atsInvalidation
  | watchArm
  | watchFire
  | registerWrite
  | messageDelivery
  | nvmeCompletion
  | nvmeTimeout
  | driveWrite
  | flitReceive
  | laneRepair
  | scrubPeriod
  | rowRepair
  | coreLogicError
  | pseudoChannelRetirement
  | powerLimitStep
  | packageReset
  | cmdClaim
  | cmdHandover
  | cmdRelease
  | cmdMeasure
  | cmdGetcert
  | cmdStatus
  | cmdReadlog
  | cmdPartition
  | cmdFunction
  | cmdGrant
  | cmdInval
  | cmdMigrate
  | cmdRegion
  | cmdAlloc
  | cmdReserve
  | cmdSplit
  | cmdScrub
  | cmdSlice
  | cmdBucket
  | cmdLogctl
  | cmdCancel
  | cmdPower
  | cmdBudget
  | cmdLifecycle
  | svcSlotFree
  deriving DecidableEq, Repr

end Sys2Proof
end

