-- ==== Sys2Proof/Machine/State.lean ====
section
/-! DEFINITION. The state of the package as plain data: every register, memory, queue and table the spec gives it, the reasons a
step can stop, and the state after reset.  Lists hold what the spec makes and frees while the machine runs (warps,
blocks, commands, records); each object has a number of its own, its uid. -/

namespace Sys2Proof.Machine

/-- Byte memory in one canonical form: addresses strictly rising, and no entry equal to 0, what an unlisted address
reads as (R436: a wiped location reads zero; a block's scratchpad and a region's storage start at zero, R136, R348). -/
abbrev Memory := List Host.Cell

/-- The canonical form of a memory. -/
def Memory.wf : Memory → Bool
  | [] => true
  | [c] => c.2 != 0
  | c :: d :: rest => c.2 != 0 && decide (c.1 < d.1) && Memory.wf (d :: rest)

/-- Where one byte lives once it is translated (R251, R252): device memory or the peer aperture by device-physical
address, host memory, a bank-striped allocation (R332), a block's scratchpad, a wavefront's local store, or the linear
view of a region (R368). -/
inductive Loc where
  | dev (pa : Nat)
  | host (addr : Nat)
  | stripe (k idx : Nat)
  | scr (block off : Nat)
  | lds (wave off : Nat)
  | view (region byte : Nat)
  deriving DecidableEq, Repr

/-- A 256-byte line, or the tensor lines of a region, as race detection names it (R268, R269, R349): space 0 device, 1 tensor,
2 scratchpad, 3 host, 4 bank-striped, 5 local store. -/
structure LineKey where
  space : Nat
  obj : Nat
  line : Nat
  deriving DecidableEq, Repr

/-- The agents of race detection (R260, R278). -/
inductive AgentId where
  | block (uid : Nat)
  | warp (uid : Nat)
  | copy (uid : Nat)
  | matrix (block number : Nat)
  | bankop (uid : Nat)
  | dispatch (uid : Nat)
  deriving DecidableEq, Repr

/-- An open SFR record (R269): agent, the warp, lane or command that opened it, the line and a read and a write mask of one
bit for each 4-byte granule.  closable is false for engine commands; away marks a shuttle lane's record (R306). -/
structure SfrRecord where
  agent : AgentId
  owner : Nat
  key : LineKey
  rd : Dword
  wr : Dword
  closable : Bool
  away : Bool
  deriving DecidableEq, Repr

/-- One vector register name of a warp (R10 to R13): allocated or not, a deferred free, the lane words and their poison
marks (R419). -/
structure VReg where
  live : Bool
  due : Bool
  poison : Mask
  val : List Word
  deriving DecidableEq, Repr

/-- A name that no instruction has written (R11): it reads zero in every lane (R12). -/
def VReg.empty : VReg :=
  { live := false, due := false, poison := 0, val := List.replicate 32 0 }

/-- A hazard (R23): register class (0 vector, 1 scalar, 2 predicate), number, and the flag that must clear. -/
structure Hazard where
  cls : Nat
  reg : Nat
  flag : Nat
  deriving DecidableEq, Repr

/-- A write that a long-latency operation makes when it completes (R41): class 0 vector, 1 scalar. -/
structure LaneWrite where
  cls : Nat
  reg : Nat
  mask : Mask
  vals : List Word
  poison : Mask
  deriving DecidableEq, Repr

/-- An issued long-latency operation that has not completed (R22, R41, R237). -/
structure LongOp where
  flag : Option Nat
  split : Nat
  memory : Bool
  writes : List LaneWrite
  sticky : BitVec 8
  deriving DecidableEq, Repr

/-- A mask-stack entry (R88): pending or parked, clause address, lane mask. -/
structure MaskEntry where
  parked : Bool
  pc : Dword
  mask : Mask
  deriving DecidableEq, Repr

/-- What a blocked split waits for at a wait point that is executed again (R45, R386). -/
inductive Cond where
  | memGe (va value : Dword)
  | memNe (va value : Dword)
  | timeline (code : Nat) (value : Dword)
  | counter (off : Nat) (value : Dword)
  | batch (value : Dword)
  | barw (obj phase : Nat)
  | arrive (obj : Nat) (reg : Option Nat)
  | grow
  | recv (addr : Dword)
  | svcSlot (addr : Dword)
  | commit
  | contextFull
  | copyRing
  | abmode (stack pch : Nat)
  | record (l : Loc)
  | stripe (stack pch : Nat)
  | window (block : Nat)
  | migrating (va : Dword)
  | away
  deriving DecidableEq, Repr

/-- The state of a split (R236, R389).  wait is executed again when its condition holds; the others continue. -/
inductive Status where
  | ready
  | wait (c : Cond)
  | join
  | barrier (obj : Nat)
  | bblk (target : Dword)
  | bjoin
  | home
  | svc (reply : Dword)
  | shed
  | resume
  deriving DecidableEq, Repr

/-- Where a shuttle can go (R297). -/
inductive Dest where
  | stack (n : Nat)
  | core (n : Nat)
  deriving DecidableEq, Repr

/-- What a split has asked of one destination for the departures of its instruction (R298, R302): the further attempts made, and the lanes
that have been granted an entry and hold it until the instruction's departures are decided. -/
structure ShedAsk where
  dest : Dest
  tries : Nat
  granted : List Nat
  deriving DecidableEq, Repr

/-- What a lane of a guest wavefront or warp answers before its team decides an instruction's departures (R298, R303): the
agent that it would depart to, the reason of R308 before the shed's answer, and whether the team has decided. -/
structure Vote where
  dest : Option Dest
  early : Nat
  decided : Bool
  deriving DecidableEq, Repr

/-- What an access queues for: a pseudo-channel (R329), a page that migrates, by function and base (R403), or an entry of the
submission queue of a storage grant (R415). -/
inductive QueueAt where
  | pch (stack idx : Nat)
  | page (fn page : Nat)
  | drive (fn grant : Nat)
  deriving DecidableEq, Repr

/-- The place of an access in a queue: which queue, and the time of its arrival. -/
structure Queued where
  at' : QueueAt
  since : Nat
  deriving DecidableEq, Repr

/-- A split (R236): clause address and slot, the header and mode value its clause began with (R124), lane mask, mask stack,
overflow mask (R88), status, whether a handler holds it (R32), waiting time (R238), the hold of the fairness timer after an
LR (R152), what it has asked for a departure (R302), the place of its access in a queue (R329, R403), the JOIN clauses whose
fairness limit expired without it (R240), the instructions it has executed, by which the lanes of a guest wavefront keep
in step (R303), and what such a lane has answered for its instruction's departures (R298). -/
structure Split where
  pc : Dword
  slot : Nat
  begun : Bool
  hdr : Word
  mode : BitVec 22
  lanes : Mask
  stack : List MaskEntry
  overflow : Mask
  status : Status
  held : Bool
  waited : Nat
  lrHold : Nat
  asks : List ShedAsk
  queued : Option Queued
  missed : List Dword
  steps : Nat
  vote : Option Vote := none
  deriving DecidableEq, Repr

/-- A split index that is not live (R236). -/
def Split.free : Split :=
  { pc := 0, slot := 1, begun := false, hdr := 0, mode := 0x8, lanes := 0, stack := [], overflow := 0,
    status := .ready, held := false, waited := 0, lrHold := 0, asks := [], queued := none, missed := [], steps := 0 }

/-- The handler a warp is in (R32, R388, R393), with the split that runs it and, for a trap's, the cause of that trap (R92). -/
inductive Handler where
  | none
  | trap (split cause : Nat)
  | save (split : Nat)
  | restore (split : Nat)
  deriving DecidableEq, Repr

/-- A lane that has returned and is not placed yet (R310); group and left name its return group: the guest wavefront or warp it
left and the instruction at which it did. -/
structure Returned where
  lane : Nat
  pc : Dword
  slot : Nat
  group : Nat
  left : Nat
  deriving DecidableEq, Repr

/-- A trap that a lane carried home (R311). -/
structure Carried where
  lane : Nat
  pc : Dword
  slot : Nat
  cause : Nat
  info : Word
  deriving DecidableEq, Repr

/-- A lane's reservation (R150): the aligned 32-byte granule. -/
structure Resv where
  lane : Nat
  granule : Loc
  deriving DecidableEq, Repr

/-- An open idempotent region (R171): the splits as they stood when it was opened, the opener's, named by its index, at the
restart point, with those that lanes returning since have formed (R310); whether a handler opened it; and the bytes held in
the region store buffer (R384), oldest first; a byte of a tensor element is named by its place in the linear view. -/
structure OpenRegion where
  splits : List Split
  opener : Nat
  handled : Bool
  buf : List (Loc × Byte)
  deriving DecidableEq, Repr

/-- What a wavefront of a dispatch has (R319, R320, R218): stack, sill core, slot, level 1 or 3, dispatch, index, owned
pseudo-channel, expired claim, a posted pre-emption request with the turn in which it was posted (R322), and a SKYIELD after which no other
wavefront of the core has issued yet (R229). -/
structure WaveInfo where
  stack : Nat
  core : Nat
  slot : Nat
  level : Nat
  dispatch : Nat
  index : Nat
  owned : Option Nat
  claim : Option Nat
  request : Option Nat
  yielded : Bool := false
  deriving DecidableEq, Repr

/-- What an away lane has (R300, R303): home warp and lane, hops, EPOCH, MODEW, where it is docked (a stack, or a core), the guest
slot it runs in with the number of its guest wavefront or warp, and when it landed. -/
structure GuestInfo where
  home : Nat
  lane : Nat
  hops : Nat
  epoch : Nat
  modew : Bool
  onStack : Bool
  site : Nat
  sillCore : Nat
  slot : Option Nat
  group : Nat
  age : Nat
  deriving DecidableEq, Repr

/-- What kind of executing agent an entry of State.warps is. -/
inductive Kind where
  | main
  | dense
  | native
  | guest
  deriving DecidableEq, Repr

/-- A strong access that a home remembers while its agent's SFR is open, for the mixed-size check of debug mode (R258): the agent, the
warp or lane that made it, its first byte, its size, whether it writes, and whether a shuttle lane made it (R271). -/
structure StrongAcc where
  agent : AgentId
  owner : Nat
  loc : Loc
  size : Nat
  write : Bool
  away : Bool
  deriving DecidableEq, Repr

/-- An executing agent: a main-core warp (R10 to R33), a dense warp of a compacted block (R242), a native wavefront (R34), or
one away lane (R35, R303, R304).  idle: no split has been ready since the last selection (R238).  replay: the page that a replayable
agent waits for, and the TRAPINFO of the trap that it takes where the fault cannot be resolved (R131).  slab: the moving slab that a
level-3 wavefront of Aderic works on, by its region's key and number (R320, R364).  missed: the JOIN clauses whose fairness limit expired
while lanes were away, with those lanes (R240).  faulty: it is to take the uncorrectable-error trap with SRC 4 at its next slot (R422). -/
structure Warp where
  uid : Nat
  kind : Kind
  launch : Nat
  block : Nat
  idx : Nat
  core : Nat
  slot : Nat
  v : List VReg
  s : List Word
  spoison : Word
  p : List Mask
  f : List Nat
  hazards : List Hazard
  ops : List LongOp
  m : List (BitVec 22)
  shadow : List (BitVec 22)
  ms : BitVec 24
  carryV : Word
  carryS : Word
  sticky : BitVec 8
  quota : Nat
  trapcause : Word
  trappc : Dword
  trapinfo : Word
  splits : List Split
  running : Nat
  idle : Bool
  handler : Handler
  exited : Mask
  away : Mask
  returned : List Returned
  carried : List Carried
  resv : List Resv
  region : Option OpenRegion
  sfr : Nat
  closeReq : Bool
  expired : Bool
  replay : Option (Dword × Word)
  homes : List Nat
  parked : Bool
  wave : Option WaveInfo
  slab : Option (Nat × Nat)
  guest : Option GuestInfo
  lds : Memory
  ldsSize : Nat
  gone : Bool
  age : Nat
  missed : List (Dword × Mask) := []
  faulty : Bool := false
  deriving DecidableEq, Repr

/-- An armed arrival counter (R169): counter offset, range start and range length in the block's scratchpad. -/
structure Counter where
  off : Nat
  start : Nat
  len : Nat
  deriving DecidableEq, Repr

/-- A published copy entry that is not consumed: its index, the batch open in each context when it was published (R188), and the warp that
published it, if one did (R440). -/
structure Published where
  index : Nat
  batches : List (Nat × Nat)
  publisher : Option Nat
  deriving DecidableEq, Repr

/-- The bound copy ring (R203, R279): offset, entry count, notify offset, consumed index, the timeline number and index at
binding, the published index, and whether an overrun stopped it (R281). -/
structure Ring where
  off : Nat
  count : Nat
  notify : Nat
  consumed : Nat
  base : Nat
  from0 : Nat
  published : Nat
  pubs : List Published
  stopped : Bool
  deriving DecidableEq, Repr

/-- A queued matrix command (R183, R194, R195, R198): word, ms, spec pairs, next step, captured ROUND and FTZ, batch, the
register operand captured at issue (R182), and the warp that issued it. -/
structure MatCmd where
  uid : Nat
  word : Word
  ms : BitVec 24
  specA : Word × Word
  specB : Word × Word
  step : Nat
  round : Nat
  ftz : Bool
  batch : Nat
  regs : List (List Word)
  issuer : Nat
  follow : Bool
  deriving DecidableEq, Repr

/-- A failed batch not yet reported (R192, R292): number, cause code and TRAPINFO. -/
structure FailedBatch where
  batch : Nat
  cause : Nat
  info : Word
  deriving DecidableEq, Repr

/-- A matrix context (R28, R183 to R200): tiles and poisoned elements, queued commands, the number of the open batch, batches closed and not
complete, the last completed number and the highest up to which all completed normally, unreported failures and those of
batches not yet complete, the batch that holds each busy tile, and MBUDG's words. -/
structure MatCtx where
  tiles : List (List Word)
  poison : List Nat
  cmds : List MatCmd
  open' : Nat
  pendingClosed : List Nat
  done : Nat
  normal : Nat
  failed : List FailedBatch
  bad : List FailedBatch
  busy : List (Nat × Nat)
  stopped : Bool
  last : Nat
  total : Nat
  deriving DecidableEq, Repr

/-- A fresh matrix context (R28: accumulators are zero when a context is granted; R187: timeline 0). -/
def MatCtx.fresh : MatCtx :=
  { tiles := List.replicate 16 (List.replicate 256 0), poison := [], cmds := [], open' := 1, pendingClosed := [],
    done := 0, normal := 0, failed := [], bad := [], busy := [], stopped := false, last := 0, total := 0 }

/-- How far a block is in pre-emption (R386 to R395). -/
inductive Preempt where
  | none
  | requested
  | taken
  | resuming
  deriving DecidableEq, Repr

/-- A forwarding entry of a moved block (R395): the core that it left, the number of the last copy issued there, and the time
at which it was taken, before which its bank operations and dispatches of then were issued. -/
structure Move where
  core : Nat
  issued : Nat
  mark : Nat
  deriving DecidableEq, Repr

/-- A resident or taken block (R231, R379, R390), with its forwarding entries, oldest first (R395); pubs: the entries of its ring that were
published and not consumed when it was taken (R188, R392). -/
structure Block where
  uid : Nat
  launch : Nat
  index : Nat
  core : Nat
  warps : List Nat
  spare : List Nat
  group : Nat
  pos : Nat
  members : List Nat
  scratch : Memory
  scratchSize : Nat
  window : Nat
  counters : List Counter
  ring : Option Ring
  copyIssued : Nat
  copyDone : Nat
  copyFinished : List Nat
  copyFailed : List (Nat × Nat)
  gates : List (Nat × Nat)
  mctx : List MatCtx
  dense : List Nat
  compacted : Bool
  preempt : Preempt
  deadline : Bool
  tag : Nat
  moves : List Move
  freed : Bool
  pubs : List Published := []
  deriving DecidableEq, Repr

/-- A timeline of a launch (R168): issued, every command at or below done is done, finished out of order, and failures not
yet reported as (number, cause, TRAPINFO). -/
structure Timeline where
  issued : Nat
  done : Nat
  finished : List Nat
  failed : List (Nat × Nat × Word)
  deriving DecidableEq, Repr

/-- The linear memories as a launch found them when it was consumed: what the words of a clause that is stored to later were (R46). -/
structure CodeImage where
  mem : Memory
  hostMem : Memory
  deriving DecidableEq, Repr

/-- A consumed launch (R373 to R383): function, queue, sequence number, the copied 128-byte record, preloaded words, the next
block to place, blocks freed, its ending status, cancellation, timelines, GBAR arrivals (R165), balancing (R439), and the memories as it
found them. -/
structure Launch where
  uid : Nat
  fn : Nat
  queue : Nat
  seq : Nat
  record : List Byte
  args : List Word
  next : Nat
  freed : Nat
  status : Option Nat
  cancelled : Bool
  complete : Bool
  sill : Timeline
  bank : Timeline
  gbar : List Nat
  episodes : Nat
  ranks : List (Nat × Nat)
  code : CodeImage
  deriving DecidableEq, Repr

/-- An issued NVMe Read of a storage copy (R415): first logical block, count, whether its completion has been read, and its command
identifier. -/
structure DriveCmd where
  first : Nat
  count : Nat
  done : Bool
  cid : Nat := 0
  deriving DecidableEq, Repr

/-- A box of a copy entry (R285) as it was read: region handle, the region dimension of each scratchpad dimension, origins in
elements, extents in units in scratchpad order, bytes between rows, and bytes of a unit. -/
structure BoxShape where
  handle : Nat
  order : List Nat
  origin : List Nat
  extent : List Nat
  pitch : Nat
  unit : Nat
  deriving DecidableEq, Repr

/-- A source or destination of a copy command (R283, R284). -/
inductive Side where
  | lin (va : Nat)
  | scr (addr : Nat)
  | box (b : BoxShape)
  | pattern (x : Nat)
  | drive (grant block : Nat)
  deriving DecidableEq, Repr

/-- A consumed copy command (R278 to R296): its entry, sides and lengths; the follow-on's template, with its context and
batch while it is not issued; units done; the staged source with its poison marks (R288); whether it waits at its gate
(R290); drive reads (R415); its status once it has ended; the warp that published it (R440), and its place in a queue (R329, R403). -/
structure CopyCmd where
  uid : Nat
  block : Nat
  fn : Nat
  number : Nat
  entry : List Byte
  src : Side
  dst : Side
  srcLen : Nat
  dstLen : Nat
  template : List Byte
  target : Option (Nat × Nat)
  units : Nat
  staged : Option (List (Byte × Bool))
  gateT : Nat
  gated : Bool
  drive : List DriveCmd
  ended : Option Nat
  publisher : Option Nat := none
  queued : Option Queued := none
  deriving DecidableEq, Repr

/-- An accepted bank operation (R211, R333): its result rows as far as it has run, the row groups that have run, rows that are poisoned
(R419), and how many rows have landed. -/
structure BankOp where
  uid : Nat
  launch : Nat
  block : Nat
  fn : Nat
  stack : Nat
  pch : Nat
  number : Nat
  desc : List Byte
  rows : List (Nat × List Word)
  groups : Nat
  poisoned : List Nat
  ran : Bool
  landed : Nat
  status : Nat
  done : Bool
  deriving DecidableEq, Repr

/-- A sill dispatch (R209, R317 to R323): stack, function, launch and block of a STKDISP (0 for a host's), number, 64-byte
record, level, started and ended wavefronts, failure as (cause, wave), completion, the ring entry that holds it while the front end has not
consumed it, the place of its wavefronts' slots in the ring's save area once one has been pre-empted (R322), the memories as it found
them, and the base of the scratchpad window of its block (R340). -/
structure Dispatch where
  uid : Nat
  stack : Nat
  fn : Nat
  launch : Nat
  block : Nat
  number : Nat
  record : List Byte
  level : Nat
  started : Nat
  ended : Nat
  failed : Option (Nat × Nat)
  done : Bool
  entry : Option Nat
  saveAt : Option Nat
  code : CodeImage
  window : Nat := 0
  deriving DecidableEq, Repr

/-- A shuttle in transit (R300): the fields of its 128 bytes (fault holds TINFO and TCAUSE), its destination, the uid of its home warp, and
the guest wavefront or warp that it left (0 for none) with the instruction at which it did. -/
structure Shuttle where
  homeward : Bool
  home : Nat
  hcore : Nat
  hslot : Nat
  lane : Nat
  vf : Nat
  blockId : Nat
  queue : Nat
  part : Nat
  toStack : Bool
  site : Nat
  hops : Nat
  epoch : Nat
  pc : Dword
  slot : Nat
  modes : List (BitVec 22)
  modew : Bool
  pred : BitVec 8
  sticky : BitVec 8
  vmask : Word
  smask : Word
  vslots : List Word
  sslots : List Word
  vpois : Word
  spois : Word
  fault : Option (Nat × Word)
  exits : Bool
  group : Nat
  left : Nat
  deriving DecidableEq, Repr

/-- A blocked GROW (R18): warp, split, the quota it asks for and the scalar its status goes to. -/
structure GrowReq where
  warp : Nat
  split : Nat
  want : Nat
  dst : Nat
  deriving DecidableEq, Repr

/-- A message between SEND or SVC and its delivery (R204, R413); warp is the warp whose home or away lanes sent it, 0 for one of another
device. -/
structure Message where
  fn : Nat
  host : Bool
  device : Nat
  endpoint : Dword
  words : List Word
  count : Nat
  sender : Dword
  source : Nat
  warp : Nat := 0
  deriving DecidableEq, Repr

/-- A descriptor of a tensor region (R347). -/
structure RegionDesc where
  gen : Nat
  wlog : Nat
  view : Bool
  target : Bool
  etype : Nat
  rank : Nat
  blen : Nat
  shape : List Nat
  stride : List Nat
  slabRows : Nat
  place : List Nat
  viewBase : Nat
  initOrd : BitVec 16
  deriving DecidableEq, Repr

/-- A slab and its order-table and monitor state (R350, R354 to R362).  state is 0 stable, 1 moving, 2 pinned, 3 contested;
firstUnits is the storage that the region itself brought, in 64 KiB units (R364); oldMarks and newMarks are the poisoned 32-byte granules of
its storages (R419). -/
structure Slab where
  home : Nat
  cur : BitVec 16
  target : BitVec 16
  frontier : Nat
  ver : Nat
  state : Nat
  pin : Option (BitVec 16)
  pinnedMove : Bool
  adv : Option (BitVec 16 × Nat)
  cool : Nat
  win : Nat
  closed : Nat
  history : List Nat
  run : Option (BitVec 16)
  decided : Option (BitVec 16)
  seen : Nat
  strides : List (List Int × Nat)
  prev : List (Nat × List Int)
  old : Memory
  new : Memory
  firstUnits : Nat
  oldMarks : List Nat := []
  newMarks : List Nat := []
  deriving DecidableEq, Repr

/-- A live tensor region of a context (R347, R350). -/
structure Region where
  fn : Nat
  index : Nat
  desc : RegionDesc
  slabs : List Slab
  deriving DecidableEq, Repr

/-- A bank-striped allocation (R332): its linear view, N rows of B bytes; data by physical place, byte (g x 16 + bank) x 32 + e. -/
structure Stripe where
  fn : Nat
  va : Nat
  frame : Nat
  stack : Nat
  pch : Nat
  row0 : Nat
  rows : Nat
  bytes : Nat
  data : Memory
  deriving DecidableEq, Repr

/-- A logical pseudo-channel (R218, R219, R226, R325, R329, R425): owner (a wavefront's or a bank operation's uid), blocked
entries in arrival order, accumulators (16 banks of 8 registers of 16 words), broadcast store (64 segments of 16), open rows,
the turn in which its owner entered, last owner's function, split code, pending code, quiesce, error counts, missing mark,
physical channel, its working lanes with the 2 spare ones (R424), the column words that Aderic has written in DRAM rows
of no allocation (R225, R331), by bank, row and column, the poisoned elements of the broadcast store (R418), and a retirement that waits
for its all-bank mode to end (R425). -/
structure Pch where
  stack : Nat
  idx : Nat
  owner : Option Nat
  waiters : List Nat
  accs : List (List Word)
  accPoison : List Nat
  bcast : List (BitVec 16)
  rows : List (Option Nat)
  since : Nat
  lastFn : Option Nat
  split : Nat
  pendingSplit : Option Nat
  quiesce : Bool
  corrected : List Nat
  uncorrectable : List Nat
  repaired : List Nat
  missing : Bool
  phys : Nat
  lanes : Nat
  raw : List ((Nat × Nat × Nat) × List Byte)
  bcastPoison : List Nat := []
  retiring : Bool := false
  deriving DecidableEq, Repr

/-- A wavefront that ended in the saved state (R228, R321, R322): the address of its record, and the wavefront, whose
registers, local store and bank state the record holds; own: Aderic's own area holds it, with the pseudo-channel as it owned
it. -/
structure SavedWave where
  addr : Dword
  own : Bool
  warp : Warp
  bank : Option Pch
  deriving DecidableEq, Repr

/-- A pseudo-channel as reset leaves it (R325: code 6; R436: wiped). -/
def Pch.fresh (stack idx : Nat) : Pch :=
  { stack := stack, idx := idx, owner := none, waiters := [],
    accs := List.replicate 16 (List.replicate 128 0), accPoison := [], bcast := List.replicate 1024 0,
    rows := List.replicate 16 none, since := 0, lastFn := none, split := 6, pendingSplit := none, quiesce := false,
    corrected := List.replicate 16 0, uncorrectable := List.replicate 16 0, repaired := List.replicate 16 0,
    missing := false, phys := idx, lanes := 34, raw := [] }

/-- A memory stack's front end (R315, R364): ring table as (function, control-block address), the function whose ring has its turn next, the
malformed blocks that are logged, re-tile reserve in 64 KiB units, sill cores out of service (R423), spare pseudo-channels used
(R425), the unallocated memory that dropped pseudo-channels took, in 64 KiB units (R426), and the slots that a level-3 wavefront has given
up, as sill core and the dispatch that waits for one (R321). -/
structure Stack where
  rings : List (Nat × Nat)
  turn : Nat
  reported : List (Nat × List Byte)
  reserve : Nat
  deadCores : List Nat
  sparesUsed : Nat
  taken : Nat := 0
  kept : List (Nat × Nat) := []
  deriving DecidableEq, Repr

/-- A cached translation (R398, R401): function, page base, page size and the entry's value. -/
structure TlbEntry where
  fn : Nat
  page : Nat
  size : Nat
  pte : Dword
  deriving DecidableEq, Repr

/-- A watch register (R411); place: the eight bytes of its word, as it was armed (R412). -/
structure Watch where
  addr : Dword
  thresh : Dword
  ctl : Word
  place : List Loc := []
  deriving DecidableEq, Repr

/-- A token bucket at an L2 port (R407, R408): RATE, DEPTH, level in bytes, waiting charges in arrival order. -/
structure Bucket where
  fn : Nat
  stack : Nat
  rate : BitVec 16
  depth : BitVec 16
  level : Nat
  waiting : List Nat
  deriving DecidableEq, Repr

/-- A function with its one context (R397, R406, R432); logWrite is the number of its error log's next record (R429). -/
structure Fn where
  id : Nat
  partition : Nat
  root : Nat
  pasid : Nat
  frames : List (Nat × Nat)
  grants : List (Nat × List Byte)
  log : Option Dword
  logWrite : Nat
  logLost : Nat
  watch : List Watch
  slice : Nat
  running : Bool
  deriving DecidableEq, Repr

/-- A hardware queue assigned to a function (R372); the malformed contents of its block that are logged, and cancelled
sequence numbers that are not consumed (R383). -/
structure Queue where
  num : Nat
  fn : Nat
  cb : Nat
  reported : List Byte
  cancelled : List Nat
  deriving DecidableEq, Repr

/-- A heddle port (R416, R424): next sequence expected, next sent, unacknowledged flits, a replay asked of the peer, working lanes
with the spare one, flits accepted, as class and payload, and flits on the line to the peer, oldest first. -/
structure Port where
  expect : BitVec 16
  sent : BitVec 16
  unacked : List Flit
  replay : Bool
  lanes : Nat
  accepted : List (BitVec 4 × List Byte)
  line : List Flit := []
  deriving DecidableEq, Repr

/-- An answered Aderic command (R431): requester, transport, TAG, STATUS and payload. -/
structure Response where
  req : Requester
  via : Via := .mctpPcie
  tag : BitVec 16
  status : Nat
  payload : List Byte
  deriving DecidableEq, Repr

/-- An event of the device log (R430). -/
inductive DevEvent where
  | corrected (stack pch bank : Nat)
  | rowRepair (stack pch bank row : Nat)
  | retirement (stack pch : Nat)
  | coreTransfer (core : Nat)
  | laneRepair (link : LinkId)
  deriving DecidableEq, Repr

/-- A page that Aderic moves between the tiers (R403): function, page base and size, the entries that map it, the old frame,
the tier it goes to and its frame there. -/
structure Migration where
  fn : Nat
  page : Nat
  size : Nat
  entries : List Nat
  old : Nat
  toHost : Bool
  frame : Nat
  deriving DecidableEq, Repr

/-- The queue pair of a storage grant as the device uses it (R414, R415): function and grant index, the next SQ entry, the next CQ entry and
its phase tag, and the next command identifier. -/
structure Nvme where
  fn : Nat
  grant : Nat
  tail : Nat
  head : Nat
  phase : Bool
  cid : Nat
  deriving DecidableEq, Repr

/-- Credits that this device holds of a mailbox of another (R413): device, endpoint and count. -/
structure Credit where
  device : Nat
  endpoint : Dword
  count : Nat
  deriving DecidableEq, Repr

/-- A SILL, BSTRIPE or VIEW entry of a function's tables as Aderic wrote it, without ACC and DIRTY (R398). -/
structure Attr where
  fn : Nat
  entry : Nat
  value : Nat
  deriving DecidableEq, Repr

/-- What scrub and ordinary reads have found in a DRAM row (R421): the corrected errors of the scrub period, and whether a granule of it has
proved uncorrectable. -/
structure RowErrors where
  stack : Nat
  pch : Nat
  bank : Nat
  row : Nat
  corrected : Nat
  uncorrectable : Bool
  deriving DecidableEq, Repr

/-- Whether a row is to be repaired (R421). -/
def RowErrors.due (r : RowErrors) : Bool := r.uncorrectable || 4 ≤ r.corrected

/-- Aderic's own state (device is its number in a heddle fabric, R417), queueTurns the queue that has its turn next at each
priority (R373), attrs the SILL, BSTRIPE and VIEW entries as Aderic wrote them (R398), routes the heddle port to each device
(R417), owed the credits to return to other devices (R413), the package settings and what left the package (R404 to R408,
R421, R430 to R440); limiting: a power limit acts (R437), and before: the cluster clocks as it found them; wiping: a wipe is
not complete (R436). -/
structure Admin where
  owner : Option Requester
  device : Nat
  lifecycle : Nat
  mode : Nat
  fns : List Fn
  queues : List Queue
  queueTurns : List Nat
  attrs : List Attr
  firewall : List Word
  buckets : List Bucket
  pools : List (Nat × Nat × Nat)
  scrubHours : Nat
  powerLimit : Nat
  clusters : List Nat
  uncore : List Nat
  sill : List Nat
  hold : Nat
  budget : Nat
  spent : List (Nat × Nat)
  devlog : List DevEvent
  vectors : List (Nat × Nat)
  responses : List Response
  ports : List Port
  windows : List (Nat × Nat)
  deadCores : List Nat
  sparesUsed : List Nat
  rowErrors : List RowErrors
  bridgeLanes : List (Nat × Nat × Nat)
  hostLanes : Nat
  hostReads : List (List Byte)
  routes : List (Nat × Nat) := []
  credits : List Credit := []
  owed : List Credit := []
  nvme : List Nvme := []
  limiting : Bool := false
  before : List Nat := []
  wiping : Bool := false
  deriving DecidableEq, Repr

/-- An event of the machine with what it is given. -/
structure Event where
  row : Instr
  args : Args
  deriving DecidableEq, Repr

/-- The package. pri holds the page requests that the host has not answered (R402), by function and page of host memory; held
the requests of the host and of drivers that wait for their condition, with the time of their arrival (R329, R400, R403); origins the arrays
in which poison marks have been made, by the codes of SRC (R420). cur
names the executing agent, agenda the events that move next, args what the moving event was given, free counts the free
values used, and turns the clauses given out to agents (the model's own fields); every other field is the spec's. -/
structure State where
  mem : Memory
  hostMem : Memory
  poison : List Loc
  origins : List Nat
  stripes : List Stripe
  tlb : List TlbEntry
  ats : List (Nat × Nat)
  records : List SfrRecord
  strongs : List StrongAcc
  warps : List Warp
  blocks : List Block
  copies : List CopyCmd
  bankops : List BankOp
  launches : List Launch
  dispatches : List Dispatch
  saved : List SavedWave
  growQ : List GrowReq
  shuttles : List Shuttle
  msgs : List Message
  regions : List Region
  frontEnds : List Stack
  pchs : List Pch
  pointers : List Nat
  admin : Admin
  migrations : List Migration
  pri : List (Nat × Nat)
  held : List Event
  timebase : Dword
  cur : Option Nat
  agenda : List Event
  args : Args
  free : Nat
  turns : Nat
  nextUid : Nat
  deriving DecidableEq, Repr

/-- Why the machine stops with a fault.  noAgent: raised by the meaning of every instruction that a warp, wavefront or away lane
executes when State.cur names no such agent; safe, since the hardware executes no instruction without one. -/
inductive Fault where
  | noAgent
  deriving DecidableEq, Repr

/-- Why an instruction has no meaning here.  notModelled: raised only by an arm of exec that has no meaning yet; safe. -/
inductive Refusal where
  | notModelled (mnemonic : String)
  deriving DecidableEq, Repr

/-- A watch register at reset (R411: every field 0). -/
def Watch.reset : Watch := { addr := 0, thresh := 0, ctl := 0 }

/-- A function as FUNCTION creates it (R406: slices of 2 ms by default). -/
def Fn.fresh (id partition root pasid : Nat) : Fn :=
  { id := id, partition := partition, root := root, pasid := pasid, frames := [], grants := [], log := none,
    logWrite := 0, logLost := 0, watch := List.replicate 16 Watch.reset, slice := 2000, running := true }

/-- A heddle port at reset. -/
def Port.fresh : Port :=
  { expect := 0, sent := 0, unacked := [], replay := false, lanes := 9, accepted := [] }

/-- A stack's front end at reset (R364: a reserve of 1 GiB, in 64 KiB units). -/
def Stack.fresh : Stack := { rings := [], turn := 0, reported := [], reserve := 16384, deadCores := [], sparesUsed := 0 }

/-- The management state after package reset (R405, R406, R421, R433, R437, R438, R440). -/
def Admin.reset : Admin :=
  { owner := none, device := 0, lifecycle := 2, mode := 1, fns := [], queues := [], queueTurns := List.replicate 16 0,
    attrs := [], firewall := List.replicate 6 0x6, buckets := [], pools := [], scrubHours := 24, powerLimit := 2400,
    clusters := List.replicate 44 2400, uncore := List.replicate 4 2400, sill := List.replicate 12 1600, hold := 0,
    budget := 19200, spent := [], devlog := [], vectors := [], responses := [], ports := List.replicate 16 Port.fresh,
    windows := [], deadCores := [], sparesUsed := [0, 0, 0, 0], rowErrors := [], bridgeLanes := [],
    hostLanes := 16, hostReads := [] }

/-- The machine right after package reset (R433, R436): every memory wiped, no owner, TIMEBASE 0, nothing launched. -/
def State.reset : State :=
  { mem := [], hostMem := [], poison := [], origins := [], stripes := [], tlb := [], ats := [], records := [], strongs := [], warps := [], blocks := [],
    copies := [], bankops := [], launches := [], dispatches := [], saved := [], growQ := [], shuttles := [], msgs := [],
    regions := [], frontEnds := List.replicate 12 Stack.fresh, pchs := [], pointers := [0, 11, 22, 33],
    admin := Admin.reset, migrations := [], pri := [], held := [], timebase := 0, cur := none, agenda := [], args := {}, free := 0,
      turns := 0, nextUid := 1 }

end Sys2Proof.Machine
end

