-- ==== Sys2Proof/Machine/Mem.lean ====
section
/-! DEFINITION. Byte memories, where a location lies, and the storage of tensor regions (R3, R251, R332, R347 to R353, R365, R368). -/

namespace Sys2Proof.Machine

/-- One byte of a memory: 0 where nothing is listed. -/
def Memory.get : Memory → Nat → Byte
  | [], _ => 0
  | (k, b) :: rest, a => if k = a then b else if a < k then 0 else Memory.get rest a

/-- A memory with one byte written, in canonical form: writing 0 removes the entry. -/
def Memory.put : Memory → Nat → Byte → Memory
  | [], a, b => if b = 0 then [] else [(a, b)]
  | (k, c) :: rest, a, b =>
    if a < k then (if b = 0 then (k, c) :: rest else (a, b) :: (k, c) :: rest)
    else if a = k then (if b = 0 then rest else (a, b) :: rest)
    else (k, c) :: Memory.put rest a b

/-- n bytes from address a on. -/
def Memory.getBytes (m : Memory) (a : Nat) : Nat → List Byte
  | 0 => []
  | n + 1 => Memory.get m a :: Memory.getBytes m (a + 1) n

/-- Bytes written from address a on. -/
def Memory.putBytes (m : Memory) (a : Nat) : List Byte → Memory
  | [] => m
  | b :: bs => Memory.putBytes (Memory.put m a b) (a + 1) bs

/-- The memory without the bytes from lo up to hi (a wipe, R436: they read zero). -/
def Memory.wipe (m : Memory) (lo hi : Nat) : Memory := m.filter fun c => c.1 < lo || hi ≤ c.1

/-- Usable bytes of a stack: 62 GiB (R1). -/
def stackBytes : Nat := 62 * 2 ^ 30

/-- The stack that a device-physical address lies on; none where no memory exists (log 6: stack n starts at n x 2^36). -/
def stackOf (pa : Nat) : Option Nat :=
  if pa / 2 ^ 36 < 12 ∧ pa % 2 ^ 36 < stackBytes then some (pa / 2 ^ 36) else none

/-- The die to which a stack is attached (R1: three stacks per die). -/
def dieOfStack (stack : Nat) : Nat := stack / 3

/-- The die of a logical core (R1: 44 exposed cores per die). -/
def dieOfCore (core : Nat) : Nat := core / 44

/-- The cluster of a logical core (R1: clusters of 4). -/
def clusterOf (core : Nat) : Nat := core / 4

/-- The peer aperture (R417). -/
def isPeer (pa : Nat) : Bool := pa / 2 ^ 48 == 0xF

/-- Dies of a partition under a partition mode (R404). -/
def diesOf (mode part : Nat) : List Nat :=
  if mode = 1 then (if part = 0 then [0, 1, 2, 3] else [])
  else if mode = 2 then (if part = 0 then [0, 1] else if part = 1 then [2, 3] else [])
  else if part < 4 then [part] else []

/-- The function of a number. -/
def State.fn? (s : State) (fn : Nat) : Option Fn := s.admin.fns.find? (·.id == fn)

/-- Dies of a function's partition. -/
def State.fnDies (s : State) (fn : Nat) : List Nat :=
  match s.fn? fn with
  | some f => diesOf s.admin.mode f.partition
  | none => []

/-- Whether a stack lies in a function's partition. -/
def State.stackIn (s : State) (fn stack : Nat) : Bool := stack < 12 && (s.fnDies fn).contains (dieOfStack stack)

/-- An object by its uid. -/
def State.warp? (s : State) (u : Nat) : Option Warp := s.warps.find? (·.uid == u)
/-- A block by its uid. -/
def State.block? (s : State) (u : Nat) : Option Block := s.blocks.find? (·.uid == u)
/-- A launch by its uid. -/
def State.launch? (s : State) (u : Nat) : Option Launch := s.launches.find? (·.uid == u)
/-- A copy command by its uid. -/
def State.copy? (s : State) (u : Nat) : Option CopyCmd := s.copies.find? (·.uid == u)
/-- A bank operation by its uid. -/
def State.bankop? (s : State) (u : Nat) : Option BankOp := s.bankops.find? (·.uid == u)
/-- A dispatch by its uid. -/
def State.dispatch? (s : State) (u : Nat) : Option Dispatch := s.dispatches.find? (·.uid == u)

/-- A warp with its new contents, in place of the one with its uid. -/
def State.setWarp (s : State) (w : Warp) : State := { s with warps := updateFirst (·.uid == w.uid) (fun _ => w) s.warps }
/-- A block in place of the one with its uid. -/
def State.setBlock (s : State) (b : Block) : State := { s with blocks := updateFirst (·.uid == b.uid) (fun _ => b) s.blocks }
/-- A launch in place of the one with its uid. -/
def State.setLaunch (s : State) (l : Launch) : State := { s with launches := updateFirst (·.uid == l.uid) (fun _ => l) s.launches }
/-- A copy command in place of the one with its uid. -/
def State.setCopy (s : State) (c : CopyCmd) : State := { s with copies := updateFirst (·.uid == c.uid) (fun _ => c) s.copies }
/-- A bank operation in place of the one with its uid. -/
def State.setBankop (s : State) (b : BankOp) : State := { s with bankops := updateFirst (·.uid == b.uid) (fun _ => b) s.bankops }
/-- A dispatch in place of the one with its uid. -/
def State.setDispatch (s : State) (d : Dispatch) : State :=
  { s with dispatches := updateFirst (·.uid == d.uid) (fun _ => d) s.dispatches }
/-- A warp changed by its uid. -/
def State.modWarp (s : State) (u : Nat) (f : Warp → Warp) : State := { s with warps := updateFirst (·.uid == u) f s.warps }
/-- A block changed by its uid. -/
def State.modBlock (s : State) (u : Nat) (f : Block → Block) : State := { s with blocks := updateFirst (·.uid == u) f s.blocks }
/-- A launch changed by its uid. -/
def State.modLaunch (s : State) (u : Nat) (f : Launch → Launch) : State :=
  { s with launches := updateFirst (·.uid == u) f s.launches }
/-- A function changed by its number. -/
def State.modFn (s : State) (fn : Nat) (f : Fn → Fn) : State :=
  { s with admin := { s.admin with fns := updateFirst (·.id == fn) f s.admin.fns } }

/-- A pseudo-channel as it stands (one that nothing has touched is as reset leaves it). -/
def State.pch (s : State) (stack idx : Nat) : Pch :=
  (s.pchs.find? fun p => p.stack == stack && p.idx == idx).getD (Pch.fresh stack idx)

/-- A pseudo-channel with its new contents; one as reset leaves it is not listed. -/
def State.setPch (s : State) (p : Pch) : State :=
  let rest := s.pchs.filter fun q => !(q.stack == p.stack && q.idx == p.idx)
  if p = Pch.fresh p.stack p.idx then { s with pchs := rest }
  else { s with pchs := insertBy (fun q => q.stack * 64 + q.idx) p rest }

/-- A request of the host or of a driver waits until its condition holds (R329, R400, R403), and keeps the time of its arrival. -/
def State.hold (s : State) (row : Instr) : State :=
  if s.args.since ≠ 0 then s
  else { s with held := s.held ++ [{ row := row, args := { s.args with since := s.nextUid } }], nextUid := s.nextUid + 1 }

/-- The request that is performed waits no longer. -/
def State.unhold (s : State) : State := { s with held := s.held.filter (·.args.since != s.args.since) }

/-- A new uid. -/
def State.fresh (s : State) : Nat × State := (s.nextUid, { s with nextUid := s.nextUid + 1 })

/-- A free value's number (log 8). -/
def State.takeFree (s : State) : Nat × State := (s.free, { s with free := s.free + 1 })

/-! ### Tensor regions -/

/-- A region's name in LineKey and Loc. -/
def regionKey (fn index : Nat) : Nat := fn * 65536 + index

/-- The live region that a handle names in a context (R348). -/
def State.region? (s : State) (fn : Nat) (handle : Nat) : Option Region :=
  s.regions.find? fun r => r.fn == fn && r.index == handle % 65536 && r.desc.gen == handle / 65536 % 65536

/-- The region of a key. -/
def State.regionOf (s : State) (key : Nat) : Option Region := s.regions.find? fun r => regionKey r.fn r.index == key

/-- A region in place of the one of its function and index. -/
def State.setRegion (s : State) (r : Region) : State :=
  { s with regions := updateFirst (fun q => q.fn == r.fn && q.index == r.index) (fun _ => r) s.regions }

/-- dsb element width of a type code, 0 for other types (R69). -/
def dsbWidth (etype : Nat) : Nat := if etype = 12 ∨ etype = 13 then 8 else if etype = 14 ∨ etype = 15 then 4 else 0

/-- Element bytes of a type code that is not dsb (R128). -/
def elemBytes (etype : Nat) : Nat :=
  match etype with
  | 4 | 5 => 1
  | 2 | 3 | 9 | 10 => 2
  | 6 | 7 | 11 => 8
  | _ => 4

/-- Elements per scale block of a region: L, or 1 where the type is not dsb (R69). -/
def RegionDesc.blockLen (d : RegionDesc) : Nat := if dsbWidth d.etype = 0 then 1 else 16 * 2 ^ d.blen

/-- Bytes of a unit: an element or a scale block (R352, R69). -/
def RegionDesc.unitBytes (d : RegionDesc) : Nat :=
  if dsbWidth d.etype = 0 then elemBytes d.etype else 4 + d.blockLen * dsbWidth d.etype / 8

/-- The logical index of an element (R349). -/
def RegionDesc.logical (d : RegionDesc) (c : List Nat) : Nat := (List.zipWith (· * ·) c d.stride).foldl (· + ·) 0

/-- The slab that holds an element (R350). -/
def RegionDesc.slabOf (d : RegionDesc) (c : List Nat) : Nat := c.headD 0 / d.slabRows

/-- Extents of slab k in units (R352: dimension Q divided by L in a dsb region). -/
def RegionDesc.extents (d : RegionDesc) (k : Nat) : List Nat :=
  let rows := min d.slabRows (d.shape.headD 1 - k * d.slabRows)
  let e := rows :: (d.shape.take d.rank).drop 1
  e.set (d.rank - 1) ((e.getD (d.rank - 1) 1) / d.blockLen)

/-- Coordinates of an element's unit within its slab (R352). -/
def RegionDesc.unitCoords (d : RegionDesc) (c : List Nat) : List Nat :=
  let c0 := c.set 0 (c.headD 0 % d.slabRows)
  c0.set (d.rank - 1) (c0.getD (d.rank - 1) 0 / d.blockLen)

/-- R352 rm: row-major over a list of extents and coordinates, last fastest. -/
def rowMajor (e c : List Nat) : Nat := (List.zip e c).foldl (fun r p => r * p.1 + p.2) 0

/-- The unit index of unit coordinates under an order code (R352). -/
def unitIndex (rank bl code : Nat) (e c : List Nat) : Nat :=
  let kind := code % 16
  let tr := 2 ^ (code / 16 % 16)
  let tc := 2 ^ (code / 256 % 16) / bl
  let eP := e.getD (rank - 2) 1
  let eQ := e.getD (rank - 1) 1
  let cP := c.getD (rank - 2) 0
  let cQ := c.getD (rank - 1) 0
  let o := rowMajor (e.take (rank - 2)) (c.take (rank - 2))
  let pc := roundUp eQ tc
  if kind = 0 then rowMajor (e.take rank) (c.take rank)
  else if kind = 1 then rowMajor (e.take rank).reverse (c.take rank).reverse
  else if kind = 4 then o * eP * pc + cQ / tc * eP * tc + cP * tc + cQ % tc
  else
    let pr := roundUp eP tr
    let t := cP / tr * (pc / tc) + cQ / tc
    let w := if kind = 2 then cP % tr * tc + cQ % tc else cQ % tc * tr + cP % tr
    o * pr * pc + t * tr * tc + w

/-- Units per line (R352). -/
def RegionDesc.perLine (d : RegionDesc) : Nat := 256 / d.unitBytes

/-- The line of a unit index (R352). -/
def RegionDesc.lineOf (d : RegionDesc) (u : Nat) : Nat := u / d.perLine

/-- The storage offset of byte b of unit u under a code, swizzle included (R352). -/
def RegionDesc.byteAt (d : RegionDesc) (code u b : Nat) : Nat :=
  let n := d.lineOf u
  let x := u % d.perLine * d.unitBytes + b
  n * 256 + 16 * (Nat.xor (x / 16) (Nat.land (code / 4096 % 16) (n % 16))) + x % 16

/-- The largest unit index of a slab under a code: that of its last element, under every kind (R352). -/
def RegionDesc.maxUnit (d : RegionDesc) (k code : Nat) : Nat :=
  unitIndex d.rank d.blockLen code (d.extents k) ((d.extents k).map (· - 1))

/-- Lines of a slab under a code (R352). -/
def RegionDesc.lines (d : RegionDesc) (k code : Nat) : Nat := roundUp (d.maxUnit k code + 1) d.perLine / d.perLine

/-- A slab's storage in 64 KiB units under a code (R364). -/
def RegionDesc.slabUnits (d : RegionDesc) (k code : Nat) : Nat := roundUp (d.lines k code * 256) 65536 / 65536

/-- Whether a code is valid for a region of this rank and block length (R353; dsb where bl > 1). -/
def codeValid (rank bl code : Nat) : Bool :=
  let kind := code % 16
  let trow := code / 16 % 16
  let tcol := code / 256 % 16
  kind ≤ 4 && trow ≤ 10 && tcol ≤ 10 && (kind ≥ 2 || (trow == 0 && tcol == 0)) && (kind != 4 || trow == 0) &&
  (rank != 1 || kind ≤ 1) && (bl == 1 || kind < 2 || 2 ^ tcol % bl == 0)

/-- Extent checks of coordinates: the first dimension outside the shape (R142 reason 2). -/
def RegionDesc.badDim (d : RegionDesc) (c : List Int) : Option Nat :=
  ((List.range d.rank).find? fun q => c.getD q 0 < 0 || (d.shape.getD q 1 : Int) ≤ c.getD q 0)

/-- The bytes of the unit that holds an element (R365 load). -/
def Region.readUnit (r : Region) (c : List Nat) : List Byte :=
  let d := r.desc
  let k := d.slabOf c
  match r.slabs[k]? with
  | none => List.replicate d.unitBytes 0
  | some sl =>
    let e := d.extents k
    let uc := d.unitCoords c
    let ut := unitIndex d.rank d.blockLen sl.target.toNat e uc
    if sl.state = 1 ∧ d.lineOf ut < sl.frontier then
      (List.range d.unitBytes).map fun b => Memory.get sl.new (d.byteAt sl.target.toNat ut b)
    else
      let u := unitIndex d.rank d.blockLen sl.cur.toNat e uc
      (List.range d.unitBytes).map fun b => Memory.get sl.old (d.byteAt sl.cur.toNat u b)

/-- Bytes written into the unit that holds an element, from byte o of the unit on (R365 store). -/
def Region.writeUnit (r : Region) (c : List Nat) (o : Nat) (bs : List Byte) : Region :=
  let d := r.desc
  let k := d.slabOf c
  match r.slabs[k]? with
  | none => r
  | some sl =>
    let e := d.extents k
    let uc := d.unitCoords c
    let u := unitIndex d.rank d.blockLen sl.cur.toNat e uc
    let ut := unitIndex d.rank d.blockLen sl.target.toNat e uc
    let put (m : Memory) (code u : Nat) : Memory :=
      (List.zip (List.range bs.length) bs).foldl (fun m p => Memory.put m (d.byteAt code u (o + p.1)) p.2) m
    let sl1 := { sl with old := put sl.old sl.cur.toNat u }
    let sl2 := if sl.state = 1 ∧ d.lineOf ut < sl.frontier then { sl1 with new := put sl.new sl.target.toNat ut } else sl1
    { r with slabs := r.slabs.set k sl2 }

/-- Whether a byte of a slab's storage under a code lies in a unit; the rest of a line is padding (R352). -/
def RegionDesc.inUnit (d : RegionDesc) (code x : Nat) : Bool :=
  16 * Nat.xor (x % 256 / 16) (Nat.land (code / 4096 % 16) (x / 256 % 16)) + x % 16 < d.perLine * d.unitBytes

/-- Coordinates of the element whose logical index is i, where there is one (R368: strides nest, R348). -/
def RegionDesc.coordsOf (d : RegionDesc) (i : Nat) : Option (List Nat) :=
  let step := (List.range d.rank).foldl (fun (acc : Nat × List Nat) q =>
    let st := d.stride.getD q 1
    (acc.1 - (acc.1 / st) * st, acc.2 ++ [acc.1 / st])) (i, [])
  let ok := step.1 == 0 && (List.range d.rank).all fun q => step.2.getD q 0 < d.shape.getD q 1
  if ok then some step.2 else none

/-- Byte b of a region's linear view (R368). -/
def Region.viewByte (r : Region) (b : Nat) : Byte :=
  let d := r.desc
  let unit := d.unitBytes
  match d.coordsOf (b / unit * d.blockLen) with
  | none => 0
  | some c => (r.readUnit c).getD (b % unit) 0

/-- Where byte b of a region's linear view is kept (R365): its slab, its offset in the slab's storage, and once the unit's
line has moved its offset in the storage that the move fills. -/
def Region.place (r : Region) (b : Nat) : Option (Nat × Nat × Option Nat) :=
  let d := r.desc
  (d.coordsOf (b / d.unitBytes * d.blockLen)).bind fun c =>
    let k := d.slabOf c
    (r.slabs[k]?).map fun sl =>
      let e := d.extents k
      let uc := d.unitCoords c
      let ut := unitIndex d.rank d.blockLen sl.target.toNat e uc
      (k, d.byteAt sl.cur.toNat (unitIndex d.rank d.blockLen sl.cur.toNat e uc) (b % d.unitBytes),
        if sl.state = 1 ∧ d.lineOf ut < sl.frontier then some (d.byteAt sl.target.toNat ut (b % d.unitBytes)) else none)

/-- Whether byte b of a region's linear view is read from a poisoned 32-byte granule of tensor memory (R419). -/
def Region.poisonedByte (r : Region) (b : Nat) : Bool :=
  (r.place b).any fun x => (r.slabs[x.1]?).any fun sl => match x.2.2 with
    | some t => sl.newMarks.contains (t / 32)
    | none => sl.oldMarks.contains (x.2.1 / 32)

/-- A list with an entry that it need not have. -/
def withEntry (l : List Nat) (x : Nat) : List Nat := if l.contains x then l else l ++ [x]

/-- The granules that keep byte b of a region's linear view poisoned (R419). -/
def Region.markByte (r : Region) (b : Nat) : Region :=
  match r.place b with
  | none => r
  | some x => { r with slabs := r.slabs.modify x.1 fun sl =>
      { sl with oldMarks := withEntry sl.oldMarks (x.2.1 / 32), newMarks := (x.2.2.map fun t => withEntry sl.newMarks (t / 32)).getD sl.newMarks } }

/-- The marks that stay once some bytes of a storage under a code have been written: those of granules not written whole (R419). -/
def RegionDesc.keptMarks (d : RegionDesc) (code : Nat) (written marks : List Nat) : List Nat :=
  marks.filter fun g => !((List.range 32).all fun i => written.contains (32 * g + i) || !d.inUnit code (32 * g + i))

/-- The marks of a region after bytes of its linear view have been written (R365, R419). -/
def Region.unmark (r : Region) (bs : List Nat) : Region :=
  let at' := bs.filterMap r.place
  { r with slabs := r.slabs.zipIdx.map fun x =>
      let mine := at'.filter (·.1 == x.2)
      { x.1 with oldMarks := r.desc.keptMarks x.1.cur.toNat (mine.map (·.2.1)) x.1.oldMarks,
                 newMarks := r.desc.keptMarks x.1.target.toNat (mine.filterMap (·.2.2)) x.1.newMarks } }

/-! ### Locations -/

/-- The byte of a bank-striped allocation that linear offset o addresses, by physical place (R332); bytes beyond the matrix lie at or
above the allocation's end, where nothing is kept. -/
def Stripe.index (t : Stripe) (o : Nat) : Nat :=
  let c := t.bytes / 32
  let q := o / t.bytes
  let e := o % t.bytes
  if q < t.rows then ((q / 16 * c + e / 32) * 16 + q % 16) * 32 + e % 32 else 2 ^ 60

/-- Column words per bank that the allocation's whole 16 KiB units hold (R332: one DRAM row of 32 column words in every bank). -/
def Stripe.words (t : Stripe) : Nat := roundUp (roundUp t.rows 16 / 16 * (t.bytes / 32)) 32

/-- A location n bytes further on. -/
def Loc.add (l : Loc) (n : Nat) : Loc :=
  match l with
  | .dev pa => .dev (pa + n)
  | .host a => .host (a + n)
  | .stripe k i => .stripe k (i + n)
  | .scr b o => .scr b (o + n)
  | .lds w o => .lds w (o + n)
  | .view r b => .view r (b + n)

/-- The location rounded down to a multiple of n bytes. -/
def Loc.align (l : Loc) (n : Nat) : Loc :=
  match l with
  | .dev pa => .dev (pa / n * n)
  | .host a => .host (a / n * n)
  | .stripe k i => .stripe k (i / n * n)
  | .scr b o => .scr b (o / n * n)
  | .lds w o => .lds w (o / n * n)
  | .view r b => .view r (b / n * n)

/-- The unit of a poison mark: 32 bytes of memory, 4 bytes of scratchpad or local store (R419); marks of tensor memory lie
with its storage. -/
def Loc.markUnit (l : Loc) : Loc :=
  match l with
  | .dev _ | .host _ | .stripe _ _ => l.align 32
  | _ => l.align 4

/-- Bytes of the unit of a poison mark. -/
def Loc.markBytes (l : Loc) : Nat :=
  match l with
  | .dev _ | .host _ | .stripe _ _ => 32
  | _ => 4

/-- The line and the granule of a location for race detection (R268, R269); in a dsb region the granule is the scale block
(R349).  None for a wavefront's own local store. -/
def State.granule (s : State) (l : Loc) : Option (LineKey × Nat) :=
  let at4 (space obj b : Nat) : Option (LineKey × Nat) := some ({ space := space, obj := obj, line := b / 256 }, b / 4 % 64)
  match l with
  | .dev pa => at4 0 0 pa
  | .host a => at4 3 0 a
  | .stripe k i => at4 4 k i
  | .scr b o => at4 2 b o
  | .view r b =>
    match s.regionOf r with
    | some x => if dsbWidth x.desc.etype = 0 then at4 1 r b else at4 1 r (b / x.desc.unitBytes * 4)
    | none => at4 1 r b
  | .lds _ _ => none

/-- One byte of the machine. -/
def State.readByte (s : State) (l : Loc) : Byte :=
  match l with
  | .dev pa => Memory.get s.mem pa
  | .host a => Memory.get s.hostMem a
  | .stripe k i => ((s.stripes.find? (·.frame == k)).map fun t => Memory.get t.data i).getD 0
  | .scr b o => ((s.block? b).map fun x => Memory.get x.scratch o).getD 0
  | .lds w o => ((s.warp? w).map fun x => Memory.get x.lds o).getD 0
  | .view r b => ((s.regionOf r).map fun x => x.viewByte b).getD 0

/-- A byte of a region's storage written, named by its place in the linear view (R365); a place that no unit occupies keeps nothing. -/
def Region.writeViewByte (r : Region) (b : Nat) (v : Byte) : Region :=
  match r.desc.coordsOf (b / r.desc.unitBytes * r.desc.blockLen) with
  | some c => r.writeUnit c (b % r.desc.unitBytes) [v]
  | none => r

/-- One byte of the machine written; bytes beyond a striped matrix keep nothing (R332). -/
def State.putByte (s : State) (l : Loc) (v : Byte) : State :=
  match l with
  | .dev pa => { s with mem := Memory.put s.mem pa v }
  | .host a => { s with hostMem := Memory.put s.hostMem a v }
  | .stripe k i =>
    let put (t : Stripe) : Stripe := if i < t.words * 512 then { t with data := Memory.put t.data i v } else t
    { s with stripes := updateFirst (·.frame == k) put s.stripes }
  | .scr b o => s.modBlock b fun x => { x with scratch := Memory.put x.scratch o v }
  | .lds w o => s.modWarp w fun x => { x with lds := Memory.put x.lds o v }
  | .view r b => { s with regions := updateFirst (fun x => regionKey x.fn x.index == r) (fun x => x.writeViewByte b v) s.regions }

/-- The bytes at a list of locations. -/
def State.readLocs (s : State) (ls : List Loc) : List Byte := ls.map s.readByte

/-- Reservations on the granules of written locations are killed (R151). -/
def State.killResv (s : State) (ls : List Loc) : State :=
  let gs := ls.map (·.align 32)
  { s with warps := s.warps.map fun w =>
      if w.resv.isEmpty then w else { w with resv := w.resv.filter fun r => !gs.contains r.granule } }

/-- The bytes of a region's linear view among locations. -/
def viewBytes (key : Nat) (ls : List Loc) : List Nat := ls.filterMap fun l => match l with
  | .view r b => if r = key then some b else none
  | _ => none

/-- The regions whose linear views some locations lie in. -/
def viewKeys (ls : List Loc) : List Nat := (ls.filterMap fun l => match l with
  | .view r _ => some r
  | _ => none).eraseDups

/-- A region changed by its key. -/
def State.modRegion (s : State) (key : Nat) (f : Region → Region) : State :=
  { s with regions := updateFirst (fun x => regionKey x.fn x.index == key) f s.regions }

/-- Poison marks after the listed bytes are written: a unit written whole loses its mark (R419). -/
def State.clearMarks (s : State) (ls : List Loc) : State :=
  let s1 : State :=
    if s.poison.isEmpty then s
    else { s with poison := s.poison.filter fun m => !((List.range m.markBytes).all fun i => ls.contains (m.add i)) }
  (viewKeys ls).foldl (fun s k => s.modRegion k (·.unmark (viewBytes k ls))) s1

/-- An MSI-X message to a vector of a function (R409): 2,048 of the physical function, 64 of each virtual function; one to a vector that the
function does not have is not sent (DEDUCED, log 60). -/
def State.interrupt (s : State) (fn n : Nat) : State :=
  if n < (if fn = 0 then 2048 else 64) then { s with admin := { s.admin with vectors := s.admin.vectors ++ [(fn, n)] } } else s

/-- The condition of a watch register on a word (R411). -/
def Watch.holds (w : Watch) (x : Nat) : Bool :=
  match bitsAt w.ctl.toNat 2 1 with
  | 0 => w.thresh.toNat ≤ x
  | 1 => x != w.thresh.toNat
  | 2 => x == w.thresh.toNat
  | _ => false

/-- A watch register of a function. -/
def State.watch? (s : State) (fn n : Nat) : Option Watch := (s.fn? fn).map fun f => f.watch.getD n { addr := 0, thresh := 0, ctl := 0 }

/-- An armed watch whose word meets its condition fires (R412): ARM clears, FIRED is set, the vector is sent. -/
def State.checkWatch (s : State) (fn n : Nat) : State :=
  match s.watch? fn n with
  | none => s
  | some w =>
    if w.ctl.getLsbD 0 && w.holds (leNat (s.readLocs w.place)) then
      (s.modFn fn fun f => { f with watch := f.watch.set n { w with ctl := (w.ctl &&& ~~~1) ||| 8 } }).interrupt fn (bitsAt w.ctl.toNat 26 16)
    else s

/-- Writes to the lines of watched words read the words again (R412). -/
def State.noticeWatches (s : State) (ls : List Loc) : State :=
  let lines := ls.map (·.align 256)
  s.admin.fns.foldl (fun s f =>
    f.watch.zipIdx.foldl (fun s x =>
      if x.1.ctl.getLsbD 0 && x.1.place.any fun l => lines.contains (l.align 256) then s.checkWatch f.id x.2 else s) s) s

/-- A set of byte writes performed at their homes (R252): the bytes in order, later ones over earlier ones (R129). -/
def State.perform (s : State) (ws : List (Loc × Byte)) : State :=
  let ls := ws.map (·.1)
  (((ws.foldl (fun s p => s.putByte p.1 p.2) s).killResv ls).clearMarks ls).noticeWatches ls

/-- Whether any of the locations lies in a poisoned unit (R419). -/
def State.poisoned (s : State) (ls : List Loc) : Bool :=
  ls.any fun l => match l with
    | .view r b => (s.regionOf r).any (·.poisonedByte b)
    | _ => !s.poison.isEmpty && s.poison.contains l.markUnit

/-- Marks set on the units of the locations. -/
def State.mark (s : State) (ls : List Loc) : State :=
  ls.foldl (fun s l => match l with
    | .view r b => s.modRegion r (·.markByte b)
    | _ => if s.poison.contains l.markUnit then s else { s with poison := s.poison ++ [l.markUnit] }) s

/-- A mark that is made, not carried: the array is noted by its code of SRC (R420). -/
def State.markMade (s : State) (src : Nat) : State := { s with origins := withEntry s.origins src }

/-- Where a wipe of the package does not reach (R436): host memory, and the memory of peers. -/
def Loc.outside (l : Loc) : Bool :=
  match l with
  | .host _ => true
  | .dev pa => isPeer pa
  | _ => false

/-- The bytes of an address space that peers hold. -/
def Memory.peers (m : Memory) : Memory := m.filter fun c => isPeer c.1

/-- SRC of a mark (R420), the array in which it was first made. A mark does not carry its origin in the model: of the arrays
in which marks have been made the value is one, a free choice where there are several (log 64). -/
def State.markSource (s : State) : Nat :=
  s.origins.getD ((Config.freeWord s.free).toNat % max 1 s.origins.length) 3

/-- The machine with the linear memories of an image (R46). -/
def State.asOf (s : State) (c : CodeImage) : State := { s with mem := c.mem, hostMem := c.hostMem }

/-- The linear memories as they are. -/
def State.image (s : State) : CodeImage := { mem := s.mem, hostMem := s.hostMem }

/-- n consecutive locations. -/
def Loc.span (l : Loc) (n : Nat) : List Loc := (List.range n).map l.add

/-- A little-endian number of n bytes at a location. -/
def State.readNum (s : State) (l : Loc) (n : Nat) : Nat := leNat (s.readLocs (l.span n))

/-- A little-endian number written at a location. -/
def State.writeNum (s : State) (l : Loc) (n x : Nat) : State := s.perform (List.zip (l.span n) (leBytes n x))

end Sys2Proof.Machine
end

