-- ==== Sys2Proof/Machine/Translate.lean ====
section
/-! DEFINITION. Address translation (R251, R397 to R402), the agents of race detection and their words (R260, R271), and the error log
(R429, R430). -/

namespace Sys2Proof.Machine

/-- Why a walk gives no translation (R399): a page fault, or an access violation with its reason and, for reason 1 from an entry, the
entry's address for the error log. -/
inductive XFault where
  | page
  | viol (reason : Nat) (entry : Option Nat)
  deriving DecidableEq, Repr

/-- What a successful walk found: page base and size (log2) in virtual space, the entry's value, and the entries that ACC and DIRTY are
set in (R398). -/
structure Leaf where
  page : Nat
  size : Nat
  pte : Nat
  entries : List Nat
  deriving DecidableEq, Repr

/-- Bits [63:57] equal to bit 56 (R133). -/
def canonical (va : Nat) : Bool := va / 2 ^ 56 == 0 || va / 2 ^ 56 == 255

/-- PA field of an entry. -/
def ptePa (pte : Nat) : Nat := bitsAt pte 51 12 * 4096

/-- The attribute bits [55:53] VIEW, BSTRIPE, SILL of an entry. -/
def pteAttr (pte : Nat) : Nat := bitsAt pte 55 53

/-- An entry without ACC and DIRTY, which the walker sets. -/
def pteFixed (pte : Nat) : Nat := pte - bitsAt pte 5 4 * 16

/-- A reserved bit of an entry is set, or it is not as Aderic wrote it where Aderic alone writes: a SILL, BSTRIPE or VIEW entry (R398). -/
def State.pteReserved (s : State) (entry pte : Nat) : Bool :=
  bitsAt pte 63 56 != 0 || bitsAt pte 11 9 != 0 || bitAt pte 3 ||
  match s.admin.attrs.find? (·.entry == entry) with
  | some a => pteFixed pte != a.value
  | none => pteAttr pte != 0

/-- Whether the 16 entries of an entry's group make a 64 KiB page (R399). -/
def State.isGroup (s : State) (entry : Nat) : Bool :=
  let base := entry / 128 * 128
  let p0 := s.readNum (.dev base) 8
  let fixed (p : Nat) : Nat := bitsAt p 63 52 * 256 + (bitsAt p 7 6 * 64 + bitsAt p 3 0)
  bitsAt p0 15 12 == 0 &&
  (List.range 16).all fun i =>
    let p := s.readNum (.dev (base + 8 * i)) 8
    bitAt p 8 && fixed p == fixed p0 && ptePa p == ptePa p0 + 4096 * i

/-- The walk from a table down, `level` counting 4 for the level-5 table to 0 for the level-1 table (R397, R399); with `part` off, a leaf
outside the partition is answered all the same (R308 asks for the reason of a refusal). -/
def State.walk (s : State) (fn va : Nat) (write part : Bool) : Nat → Nat → Except XFault Leaf
  | level, tbl =>
    let shift := 12 + 9 * level
    let entry := tbl + va / 2 ^ shift % 512 * 8
    let pte := s.readNum (.dev entry) 8
    let leaf := level == 0 || bitAt pte 1
    let attr := pteAttr pte
    let free := bitAt pte 7 || 4 ≤ attr || isPeer (ptePa pte)
    if !bitAt pte 0 then .error .page
    else if s.pteReserved entry pte || (3 ≤ level && bitAt pte 1) || (1 ≤ level && bitAt pte 8) ||
        (leaf && attr < 4 && ptePa pte % 2 ^ shift != 0) then .error (.viol 1 (some entry))
    else if !(leaf && (free || !part)) && !((stackOf (ptePa pte)).any (s.stackIn fn)) then .error (.viol 3 none)
    else if leaf then
      if write && (!bitAt pte 2 || 4 ≤ attr) then .error (.viol 2 none)
      else if write && bitAt pte 6 then .error .page
      else if level == 0 && bitAt pte 8 && s.isGroup entry then
        .ok { page := va / 65536 * 65536, size := 16, pte := pte - ptePa pte + ptePa pte / 65536 * 65536,
              entries := (List.range 16).map fun i => entry / 128 * 128 + 8 * i }
      else .ok { page := va / 2 ^ shift * 2 ^ shift, size := shift, pte := pte, entries := [entry] }
    else match level with
      | 0 => .error .page
      | l + 1 => s.walk fn va write part l (ptePa pte)

/-- ACC, and DIRTY before a write, set by a strong OR at the entries' homes (R398). -/
def State.setUsed (s : State) (write : Bool) (entries : List Nat) : State :=
  entries.foldl (fun s e =>
    let p := s.readNum (.dev e) 8
    let q := Nat.lor p (if write then 0x30 else 0x20)
    if p = q then s else s.writeNum (.dev e) 8 q) s

/-- The translation of a canonical address: from the cached entry, or by a walk that fills the caches (R398, R399, R401). -/
def State.leafOf (s : State) (fn va : Nat) (write : Bool) : Except XFault (State × Leaf) :=
  let hit := s.tlb.find? fun t => t.fn == fn && t.page == va / 2 ^ t.size * 2 ^ t.size
  let byWalk (s : State) : Except XFault (State × Leaf) :=
    match s.fn? fn with
    | none => .error .page
    | some f =>
      match s.walk fn va write true 4 f.root with
      | .error e => .error e
      | .ok l =>
        let s1 := s.setUsed write l.entries
        let t : TlbEntry := { fn := fn, page := l.page, size := l.size, pte := dword (Nat.lor l.pte (if write then 0x30 else 0x20)) }
        .ok ({ s1 with tlb := s1.tlb.filter (fun x => !(x.fn == fn && x.page == l.page)) ++ [t] }, l)
  match hit with
  | none => byWalk s
  | some t =>
    let p := t.pte.toNat
    if write && (!bitAt p 2 || 4 ≤ pteAttr p) then .error (.viol 2 none)
    else if write && (!bitAt p 4 || bitAt p 6) then byWalk s
    else .ok (s, { page := t.page, size := t.size, pte := p, entries := [] })

/-- Bytes of a region's linear view (R368): up to its last element or scale block, rounded up to 4 KiB. -/
def RegionDesc.viewLen (d : RegionDesc) : Nat :=
  roundUp ((d.logical ((d.shape.take d.rank).map (· - 1)) / d.blockLen + 1) * d.unitBytes) 4096

/-- The stack that a byte of a region's linear view lies on: its slab's home (R252, R350). -/
def Region.stackOf (r : Region) (b : Nat) : Nat :=
  ((r.slabs[((r.desc.coordsOf (b / r.desc.unitBytes * r.desc.blockLen)).map r.desc.slabOf).getD 0]?).map (·.home)).getD 0

/-- Where an address of a page lies (R332, R368, R402, R417); an address of a page with the view attribute that lies outside the region's
view has no translation (DEDUCED, log 60), and one whose slab lies on a stack of another partition is outside it (R399, R404). -/
def State.locIn (s : State) (fn : Nat) (l : Leaf) (va : Nat) : Except XFault Loc :=
  let pa := ptePa l.pte + va % 2 ^ l.size
  let attr := pteAttr l.pte
  if 4 ≤ attr then
    match s.region? fn (bitsAt l.pte 43 12) with
    | some r =>
      if va < r.desc.viewBase ∨ r.desc.viewBase + r.desc.viewLen ≤ va then .error (.viol 1 none)
      else if s.stackIn fn (r.stackOf (va - r.desc.viewBase)) then .ok (.view (regionKey fn r.index) (va - r.desc.viewBase))
      else .error (.viol 3 none)
    | none => .error (.viol 1 none)
  else if bitAt l.pte 7 then
    if s.ats.contains (fn, pa / 4096) then .ok (.host pa) else .error .page
  else if bitAt attr 1 then
    match s.stripes.find? fun t => t.fn == fn && t.frame ≤ pa && pa < t.frame + roundUp (t.rows * t.bytes) 4096 with
    | some t => .ok (.stripe t.frame (t.index (pa - t.frame)))
    | none => .error (.viol 1 none)
  else if isPeer pa then
    match s.admin.windows.find? (·.1 == bitsAt pa 47 40) with
    | some w => if pa % 2 ^ 40 < w.2 then .ok (.dev pa) else .error (.viol 1 none)
    | none => .error (.viol 1 none)
  else .ok (.dev pa)

/-- One address translated for an access of a function (R133, R399). -/
def State.translate (s : State) (fn va : Nat) (write : Bool) : Except XFault (State × Loc) :=
  if !canonical va then .error (.viol 1 none)
  else match s.leafOf fn va write with
    | .error e => .error e
    | .ok (s1, l) =>
      match s1.locIn fn l va with
      | .error e => .error e
      | .ok loc => .ok (s1, loc)

/-- The places of k bytes within one page, from the place of the first; bytes of a striped matrix are placed one by one (R332). -/
def State.spread (s : State) (fn : Nat) (l : Loc) (va k : Nat) (write : Bool) : List Loc :=
  match l with
  | .stripe _ _ => (List.range k).filterMap fun i => (s.translate fn (va + i) write).toOption.map (·.2)
  | _ => l.span k

/-- Whether an address lies in the peer aperture, whose exported windows can end within a page (R417). -/
def State.isRemote (s : State) (fn va : Nat) : Bool :=
  match s.translate fn va false with
  | .ok (_, .dev pa) => isPeer pa
  | _ => false

/-- The locations of n bytes from an address on, page by page; fuel bounds the pages. -/
def State.translateFrom (s : State) (fn va n : Nat) (write : Bool) : Nat → Except XFault (State × List Loc)
  | 0 => .ok (s, [])
  | fuel + 1 =>
    if n = 0 then .ok (s, [])
    else
      let k := min n (4096 - va % 4096)
      match s.translate fn va write, if s.isRemote fn va then s.translate fn (va + k - 1) write else s.translate fn va write with
      | .error e, _ | _, .error e => .error e
      | .ok (s1, l), .ok _ =>
        match s1.translateFrom fn ((va + k) % 2 ^ 64) (n - k) write fuel with
        | .error e => .error e
        | .ok (s2, ls) => .ok (s2, s1.spread fn l va k write ++ ls)

/-- The locations of n bytes from an address on, each page translated on its own. -/
def State.translateN (s : State) (fn va n : Nat) (write : Bool) : Except XFault (State × List Loc) :=
  s.translateFrom fn va n write (n / 4096 + 2)

/-- The first address of an access of n bytes at which it meets a page fault (R131). -/
def State.faultAt (s : State) (fn va n : Nat) (write : Bool) : Nat :=
  let starts := va :: (List.range (n / 4096 + 1)).map fun k => (va / 4096 + k + 1) * 4096 % 2 ^ 64
  (starts.find? fun a => match s.translate fn a write with
    | .error .page => true
    | _ => false).getD va

/-- What a page fault asks of the host (R402): for a page of host memory that the host has granted no translation, a PRI page request is
sent, once while it is not answered. -/
def State.askHost (s : State) (fn va : Nat) : State :=
  match s.leafOf fn va false with
  | .ok (_, l) =>
    let page := (ptePa l.pte + va % 2 ^ l.size) / 4096
    if bitAt l.pte 7 && pteAttr l.pte < 4 && !s.ats.contains (fn, page) && !s.pri.contains (fn, page) then { s with pri := s.pri ++ [(fn, page)] }
    else s
  | .error _ => s

/-! ### Launch records -/

/-- Fields of a launch record (R376). -/
def Launch.entry (l : Launch) : Nat := fieldAt l.record 0 8
def Launch.threads (l : Launch) : Nat := fieldAt l.record 8 2
def Launch.quota (l : Launch) : Nat := bitsAt (fieldAt l.record 10 1) 5 0
def Launch.mctx (l : Launch) : Nat := bitsAt (fieldAt l.record 11 1) 2 0
def Launch.grid (l : Launch) : Nat := fieldAt l.record 12 4
def Launch.scratch (l : Launch) : Nat := fieldAt l.record 16 1
def Launch.flag (l : Launch) (i : Nat) : Bool := bitAt (fieldAt l.record 17 1) i
def Launch.fuse (l : Launch) : Bool := l.flag 0
def Launch.group (l : Launch) : Bool := l.flag 1
def Launch.shuttle (l : Launch) : Bool := l.flag 2
def Launch.compact (l : Launch) : Bool := l.flag 3
def Launch.cores (l : Launch) : Bool := l.flag 4
def Launch.debug (l : Launch) : Bool := l.flag 5
def Launch.balance (l : Launch) : Bool := l.flag 6
def Launch.gsize (l : Launch) : Nat := bitsAt (fieldAt l.record 18 1) 1 0
def Launch.prio (l : Launch) : Nat := bitsAt (fieldAt l.record 20 1) 3 0
def Launch.narg (l : Launch) : Nat := bitsAt (fieldAt l.record 21 1) 4 0
def Launch.capCount (l : Launch) : Nat := fieldAt l.record 22 2
def Launch.capTab (l : Launch) : Nat := fieldAt l.record 24 8
def Launch.mainReg (l : Launch) : Nat := fieldAt l.record 32 4
def Launch.saveStride (l : Launch) : Nat := fieldAt l.record 36 4
def Launch.handler (l : Launch) : Nat := fieldAt l.record 40 8
def Launch.saveBase (l : Launch) : Nat := fieldAt l.record 48 8
def Launch.argsAt (l : Launch) : Nat := fieldAt l.record 56 8
def Launch.wcond (l : Launch) (i : Nat) : Nat × Nat := (fieldAt l.record (64 + 16 * i) 8, fieldAt l.record (72 + 16 * i) 8)
def Launch.ident (l : Launch) (level : Nat) : Nat := fieldAt l.record (92 + 4 * level) 4
def Launch.trapEntry (l : Launch) : Nat := fieldAt l.record 112 8
/-- Warps of each block (R233). -/
def Launch.warps (l : Launch) : Nat := roundUp l.threads 32 / 32
/-- Scratchpad bytes of each block (R379). -/
def Launch.scratchBytes (l : Launch) : Nat := if l.scratch = 0 then 256 else l.scratch * 8192

/-! ### Agents -/

/-- The function a warp, wavefront or away lane runs for. -/
def State.fnOf (s : State) (w : Warp) : Nat :=
  match w.wave with
  | some v => ((s.dispatch? v.dispatch).map (·.fn)).getD 0
  | none => ((s.launch? w.launch).map (·.fn)).getD 0

/-- Whether a warp runs in debug mode (R30).  A native wavefront that STKDISP dispatched from a launch in debug mode does not: the model's
choice (DEDUCED, log 57). -/
def State.debugOf (s : State) (w : Warp) : Bool :=
  w.wave.isNone && ((s.launch? w.launch).map (·.debug)).getD false

/-- The agent whose accesses a warp makes (R260): its block, or the warp itself in debug mode (an away lane's home warp), or its
dispatch. -/
def State.agentOf (s : State) (w : Warp) : AgentId :=
  match w.wave with
  | some v => .dispatch v.dispatch
  | none => if s.debugOf w then .warp ((w.guest.map (·.home)).getD w.uid) else .block w.block

/-- An agent word (R271). -/
def agentBits (kind queue index warp : Nat) (away : Bool) (lseq : Nat) : Nat :=
  kind * 2 ^ 60 + queue * 2 ^ 44 + index % 2 ^ 32 * 2 ^ 12 + warp * 32 + (if away then 16 else 0) + lseq % 16

/-- Queue and sequence number of a launch, zero for a dispatch of a host or Aderic. -/
def State.queueSeq (s : State) (launch : Nat) : Nat × Nat := ((s.launch? launch).map fun l => (l.queue, l.seq)).getD (0, 0)

/-- The agent word of an agent (R271). -/
def State.agentWord (s : State) (a : AgentId) (away : Bool) : Nat :=
  let word (kind launch index warp : Nat) : Nat :=
    let qs := s.queueSeq launch
    agentBits kind qs.1 index warp away qs.2
  match a with
  | .block b => ((s.block? b).map fun x => word 0 x.launch x.index 0).getD 0
  | .warp u => ((s.warp? u).map fun w => word 1 w.launch (((s.block? w.block).map (·.index)).getD 0) w.idx).getD 0
  | .copy u => ((s.copy? u).map fun c => word 2 (((s.block? c.block).map (·.launch)).getD 0) c.number 0).getD 0
  | .matrix u n => ((s.block? u).map fun x => word 2 x.launch n 0).getD (2 * 2 ^ 60)
  | .bankop u => ((s.bankop? u).map fun b => word 2 b.launch b.number 0).getD 0
  | .dispatch u => ((s.dispatch? u).map fun d => word 3 d.launch d.number 0).getD 0

/-- The agent word of the agent a warp belongs to. -/
def State.wordOf (s : State) (w : Warp) : Nat := s.agentWord (s.agentOf w) w.guest.isSome

/-! ### Bridges (R405) -/

/-- Dies that the six bridges join (R405). -/
def bridgeEnds : List (Nat × Nat) := [(0, 1), (0, 2), (0, 3), (1, 2), (1, 3), (2, 3)]

/-- Whether tenant traffic between two dies meets a closed bridge. -/
def State.bridgeShut (s : State) (a b : Nat) : Bool :=
  a != b && ((List.zip s.admin.firewall bridgeEnds).any fun x => bitAt x.1.toNat 1 && (x.2 == (a, b) || x.2 == (b, a)))

/-- The die that a location lies on; none for host memory, the peer aperture and a wavefront's own local store. -/
def State.dieOf (s : State) (l : Loc) : Option Nat :=
  match l with
  | .dev pa => if isPeer pa then none else some (dieOfStack (pa / 2 ^ 36))
  | .host _ | .lds _ _ => none
  | .stripe k _ => some (dieOfStack (k / 2 ^ 36))
  | .scr b _ => (s.block? b).map fun x => dieOfCore x.core
  | .view r b => (s.regionOf r).map fun x => dieOfStack (x.stackOf b)

/-- The die on which a warp, wavefront or away lane executes. -/
def Warp.die (w : Warp) : Nat :=
  match w.guest, w.wave with
  | some g, _ => if g.onStack then dieOfStack g.site else dieOfCore g.site
  | _, some v => dieOfStack v.stack
  | _, _ => dieOfCore w.core

/-- The first of some locations that a die cannot reach. -/
def State.shutOut (s : State) (die : Nat) (ls : List Loc) : Option Loc :=
  ls.find? fun l => (s.dieOf l).any fun d => s.bridgeShut die d

/-! ### The error log -/

/-- Whether an error-log control block is within its limits (R429). -/
def logBlockOk (blk : List Byte) : Bool :=
  let count := fieldAt blk 8 4
  let int := fieldAt blk 12 4
  fieldAt blk 0 8 % 4096 == 0 && (List.range 17).any (fun i => 6 ≤ i && 2 ^ i == count) && bitsAt int 30 11 == 0 &&
  leNat (blk.drop 40) == 0

/-- The 32 bytes of an error-log record (R430; byte 28 is zero except in conflict records, R271). -/
def logBytes (cls b0 b8 b16 b20 b24 b28 seq : Nat) : List Byte :=
  leBytes 8 b0 ++ leBytes 8 b8 ++ leBytes 4 b16 ++ leBytes 4 b20 ++ leBytes 4 b24 ++ leBytes 1 b28 ++ leBytes 1 cls ++ leBytes 2 seq

/-- Bytes written at a linear address of a function by the device itself; none where it does not translate. -/
def State.writeVa (s : State) (fn va : Nat) (bs : List Byte) : Option State :=
  match s.translateN fn va bs.length true with
  | .ok (s1, ls) => some (s1.perform (List.zip ls bs))
  | .error _ => none

/-- A record written to a context's error log (R429): the record, WRITE as a release, and the vector; it is dropped where WRITE is COUNT
ahead of READ. The second component is the record's sequence number. -/
def State.log (s : State) (fn cls b0 b8 b16 b20 b24 b28 : Nat) : State × Nat :=
  match s.fn? fn with
  | none => (s, 0)
  | some f =>
    let seq := f.logWrite
    let drop (s : State) : State :=
      let lost := f.logLost + 1
      let s1 := s.modFn fn fun f => { f with logWrite := seq + 1, logLost := lost }
      match f.log with
      | some cb => s1.writeNum (.dev (cb.toNat + 32)) 8 lost
      | none => s1
    match f.log with
    | none => (drop s, seq)
    | some cb =>
      let blk := s.readLocs ((Loc.dev cb.toNat).span 64)
      let count := fieldAt blk 8 4
      let int := fieldAt blk 12 4
      if !logBlockOk blk || count ≤ (fieldAt blk 16 8 + 2 ^ 64 - fieldAt blk 24 8) % 2 ^ 64 then (drop s, seq)
      else match s.writeVa fn (fieldAt blk 0 8 + 32 * (seq % count)) (logBytes cls b0 b8 b16 b20 b24 b28 seq) with
        | none => (drop s, seq)
        | some s1 =>
          let s2 := (s1.modFn fn fun f => { f with logWrite := seq + 1 }).writeNum (.dev (cb.toNat + 16)) 8 (seq + 1)
          (if bitAt int 31 then s2.interrupt fn (int % 2048) else s2, seq)

/-- An entry that a walk rejects is logged (R399, R430 class 0x16, reason 5). -/
def State.logEntry (s : State) (fn : Nat) (entry : Option Nat) : State :=
  match entry with
  | some e => (s.log fn 0x16 e 0 0 5 0 0).1
  | none => s

/-! ### The device's own accesses to a function's memory -/

/-- A range of a function's addresses as a part of the device on a die reaches it (R399, R405); die 4 stands for a part that no bridge
separates. -/
def State.reachN (s : State) (fn die va n : Nat) (write : Bool) : Except XFault (State × List Loc) :=
  match s.translateN fn va n write with
  | .ok (s1, ls) => if (s1.shutOut die ls).isSome then .error (.viol 3 none) else .ok (s1, ls)
  | .error e => .error e

/-- The walk that an access by the device itself makes: ACC, and DIRTY before a write, are set and the caches are filled
(R398, R401); a page that the host has not granted is asked for (R402), a rejected entry is logged (R399), and so is a closed
bridge (R405). -/
def State.touch (s : State) (fn die va n : Nat) (write : Bool := false) : State :=
  match s.translateN fn va n write with
  | .ok (s1, ls) => if (s1.shutOut die ls).isSome then (s1.log fn 0x15 va 0 0 2 0 0).1 else s1
  | .error .page => s.askHost fn (s.faultAt fn va n write)
  | .error (.viol _ entry) => s.logEntry fn entry

/-- Bytes at a linear address of a function, read by a part of the device on a die after `touch`; none where they are not reached. -/
def State.readVa (s : State) (fn die va n : Nat) : Option (List Byte) :=
  match s.reachN fn die va n false with
  | .ok (s1, ls) => some (s1.readLocs ls)
  | .error _ => none

/-- Bytes written at a linear address of a function by a part of the device on a die, with all that a write brings about; where they are not
reached, what `touch` does. -/
def State.putVa (s : State) (fn die va : Nat) (bs : List Byte) : State :=
  match s.reachN fn die va bs.length true with
  | .ok (s1, ls) => s1.perform (List.zip ls bs)
  | .error _ => s.touch fn die va bs.length true

/-- Whether a range of a function's addresses meets a page fault, so that an access to it waits (R131). -/
def State.pageFault (s : State) (fn va n : Nat) (write : Bool) : Bool :=
  match s.translateN fn va n write with
  | .error .page => true
  | _ => false

/-- The migration of the page that holds an address (R403). -/
def State.migrationAt (s : State) (fn va : Nat) : Option Migration :=
  s.migrations.find? fun m => m.fn == fn && m.page ≤ va && va < m.page + 2 ^ m.size

/-- Whether the page of an access is migrating (R403). -/
def State.migrating (s : State) (fn va : Nat) : Bool := match s.leafOf fn va false with
  | .ok (_, l) => bitAt l.pte 6
  | .error _ => false

/-- The queue of the stores and atomics that stall at a migrating page (R403). -/
def State.pageQueue (s : State) (fn va : Nat) : QueueAt := .page fn (((s.migrationAt fn va).map (·.page)).getD (va / 4096 * 4096))

end Sys2Proof.Machine
end

