-- ==== Sys2Proof/Machine/Shape.lean ====
section
/-! DEFINITION. The shapes of matrix commands (R27, R180 to R182, R194, R195): which scratchpad bytes each one names, and so
holds (R191). -/

namespace Sys2Proof.Machine

/-- Fields of ms (R27). -/
def msMt (ms : BitVec 24) : Nat := bitsAt ms.toNat 2 0 + 1
/-- Nt (R27). -/
def msNt (ms : BitVec 24) : Nat := bitsAt ms.toNat 5 3 + 1
/-- K (R27). -/
def msK (ms : BitVec 24) : Nat := 8 * (bitsAt ms.toNat 12 6 + 1)
/-- ATYPE (R27). -/
def msA (ms : BitVec 24) : Nat := bitsAt ms.toNat 15 13
/-- BTYPE (R27). -/
def msB (ms : BitVec 24) : Nat := bitsAt ms.toNat 18 16
/-- L of A (R27). -/
def msLa (ms : BitVec 24) : Nat := 16 * 2 ^ bitsAt ms.toNat 20 19
/-- L of B (R27). -/
def msLb (ms : BitVec 24) : Nat := 16 * 2 ^ bitsAt ms.toNat 22 21

/-- The operand types f16, bf16, dsb8i, dsb8f, dsb4i, dsb4f by their codes (R27): element width of a dsb type, or 0. -/
def opDsb (code : Nat) : Nat := if code < 2 then 0 else if code < 4 then 8 else 4

/-- The step depth D of an operand pair (R180); none for a float paired with a dsb type. -/
def stepDepth (a b : Nat) : Option Nat :=
  if opDsb a = 0 ∧ opDsb b = 0 then some 8
  else if opDsb a = 0 ∨ opDsb b = 0 then none
  else if opDsb a = 4 ∧ opDsb b = 4 then some 64 else some 32

/-- Bytes of a scale block (R69). -/
def blockBytes (width l : Nat) : Nat := 4 + l * width / 8

/-- The byte offset o of element k within its row (R181): the element's byte, or for dsb4 the byte that holds its half. -/
def rowOffset (code l k : Nat) : Nat :=
  if opDsb code = 0 then 2 * k else k / l * blockBytes (opDsb code) l + 4 + k % l * opDsb code / 8

/-- Row length in bytes of an operand of k elements (R181). -/
def rowBytes (code l k : Nat) : Nat := if opDsb code = 0 then 2 * k else k / l * blockBytes (opDsb code) l

/-- A scratchpad spec (R181). -/
structure Spec where
  base : Nat
  rot : Nat
  tp : Nat
  rp : Nat
  deriving DecidableEq, Repr

/-- The fields of a spec pair (R181). -/
def Spec.of (p : Word × Word) : Spec :=
  { base := bitsAt p.1.toNat 19 0, rot := bitsAt p.1.toNat 23 20, tp := bitsAt p.2.toNat 31 16, rp := bitsAt p.2.toNat 15 0 }

/-- Code 16 (R179, R181): a malformed spec, for rows of w bytes. -/
def specBad (p : Word × Word) (w : Nat) : Bool :=
  let s := Spec.of p
  s.base % 4 != 0 || s.tp % 4 != 0 || s.rp % 4 != 0 || bitsAt p.1.toNat 31 24 != 0 || (s.rot != 0 && s.rp < w)

/-- The scratchpad address of byte o of row r (R181). -/
def Spec.addr (s : Spec) (r o : Nat) : Nat :=
  let j := if s.rot = 0 then o / 4 else (o / 4 + s.rot * (r % 16)) % (s.rp / 4)
  s.base + r / 16 * s.tp + r % 16 * s.rp + 4 * j + o % 4

/-- The scratchpad ranges of row r, w bytes long: one, or two where the rotation wraps. -/
def Spec.rowRanges (s : Spec) (r w : Nat) : List (Nat × Nat) :=
  if s.rot = 0 ∨ s.rp < 4 then [(s.addr r 0, w)]
  else
    let start := s.base + r / 16 * s.tp + r % 16 * s.rp
    let k := 4 * (s.rot * (r % 16) % (s.rp / 4))
    let first := min w (s.rp / 4 * 4 - k)
    if first = w then [(start + k, w)] else [(start + k, first), (start, w - first)]

/-- The ranges of an operand of n rows. -/
def Spec.ranges (s : Spec) (n w : Nat) : List (Nat × Nat) := (List.range n).flatMap fun r => s.rowRanges r w

/-- DTYPE of an ACCST or ACCLD type word as bytes of a row of n elements (R194). -/
def tileRow (typeWord : Word) (n : Nat) : Nat :=
  let d := bitsAt typeWord.toNat 2 0
  let l := 16 * 2 ^ bitsAt typeWord.toNat 4 3
  if d = 0 then 4 * n
  else if d ≤ 2 then 2 * n
  else n / l * blockBytes (if d ≤ 4 then 8 else 4) l

/-- Opcode of a queued command. -/
def MatCmd.op (c : MatCmd) : Nat := c.word.toNat / 2 ^ 24

/-- Scratchpad ranges that a command names (R181, R191, R194, R195). -/
def MatCmd.ranges (c : MatCmd) : List (Nat × Nat) :=
  let mt := msMt c.ms
  let nt := msNt c.ms
  let a := (Spec.of c.specA).ranges (16 * mt) (rowBytes (msA c.ms) (msLa c.ms) (msK c.ms))
  let b := (Spec.of c.specB).ranges (16 * nt) (rowBytes (msB c.ms) (msLb c.ms) (msK c.ms))
  match c.op with
  | 0xC0 | 0xC1 => a ++ b
  | 0xC2 => b
  | 0xC3 => a
  | _ => (Spec.of c.specA).ranges (16 * mt) (tileRow c.specB.1 (16 * nt))

/-- First tile and tile count of a command (R183, R194). -/
def MatCmd.tiles (c : MatCmd) : List Nat :=
  let first := if c.op ≤ 0xC3 then bitsAt c.word.toNat 23 20 else bitsAt c.word.toNat 3 0
  (List.range (msMt c.ms * msNt c.ms)).map (first + ·)

/-- The block and the offset that a scratchpad address names in a block's group (R136): reasons 3, 2 and 1 where it names none. -/
def State.scrPlace (s : State) (b : Block) (addr : Nat) : Except Nat (Nat × Nat) :=
  if addr / 2 ^ 20 != 0 then .error 3
  else match b.members[bitsAt addr 19 18]? with
    | none => .error 2
    | some u =>
      match s.block? u with
      | none => .error 2
      | some x => if bitsAt addr 17 0 < x.scratchSize then .ok (u, bitsAt addr 17 0) else .error 1

/-- Why a scratchpad range of len bytes is not within the group's allocations (R136): the reason, or none where it is. -/
def State.rangeBad (s : State) (b : Block) (start len : Nat) : Option Nat :=
  match s.scrPlace b start with
  | .error r => some r
  | .ok _ =>
    match s.scrPlace b (start + len - 1) with
    | .error r => some r
    | .ok _ =>
      let first := start / 2 ^ 18
      let last := (start + len - 1) / 2 ^ 18
      let whole (p : Nat) : Bool := ((b.members[p]?).bind s.block?).any fun x => x.scratchSize == 2 ^ 18
      if (List.range (last - first)).all fun j => whole (first + j) then none else some 1

/-- A scratchpad byte that a queued matrix command holds: the byte's block and offset, the agent that holds it, and whether the command
writes it, as ACCST does. -/
structure HeldByte where
  block : Nat
  off : Nat
  holder : AgentId
  writes : Bool
  deriving DecidableEq, Repr

/-- The first of a list of locations that a queued matrix command holds (R191, R293); sel chooses commands by their block. -/
def State.heldLoc (s : State) (ls : List Loc) (sel : Nat → MatCmd → Bool) : Option HeldByte :=
  let held := s.blocks.flatMap fun x => x.mctx.flatMap fun m => (m.cmds.filter (sel x.uid)).flatMap fun c => c.ranges.map fun r => (x, c, r)
  if held.isEmpty then none
  else ls.findSome? fun l =>
    match l with
    | .scr b o =>
      (held.find? fun h =>
        let a := h.1.members.idxOf b * 2 ^ 18 + o
        h.1.members.contains b && h.2.2.1 ≤ a && a < h.2.2.1 + h.2.2.2).map fun h =>
          { block := b, off := o, holder := .matrix h.1.uid h.2.1.batch, writes := h.2.1.op == 0xC9 }
    | _ => none

end Sys2Proof.Machine
end

