-- ==== Sys2Proof/Machine/Land.lean ====
section
/-! DEFINITION. What a performed write brings about beside its bytes: arrival counts (R169), publication of copy entries (R281), overrun of
a queue (R374) and doorbells (R315). -/

namespace Sys2Proof.Machine

/-- Arrival counts (R169): each landed byte adds 1 to every armed counter that covers it, unless the counter's own block's
warps wrote it. -/
def State.arrive (s : State) (ls : List Loc) (writer : Option Nat) : State :=
  s.blocks.foldl (fun s x =>
    if writer = some x.uid then s
    else x.counters.foldl (fun s c =>
      match s.scrPlace x c.off with
      | .ok (cb, co) =>
        let n := ls.countP fun l => match l with
          | .scr b o =>
            let a := x.members.idxOf b * 2 ^ 18 + o
            x.members.contains b && c.start ≤ a && a < c.start + c.len
          | _ => false
        if n = 0 then s
        else s.writeNum (.scr cb co) 8 ((s.readNum (.scr cb co) 8 + n) % 2 ^ 64)
      | .error _ => s) s) s

/-- The completed number of a timeline advances over what has finished (R280). -/
def advanceDone (done : Nat) : List Nat → Nat → Nat
  | _, 0 => done
  | fin, fuel + 1 => if fin.contains (done + 1) then advanceDone (done + 1) fin fuel else done

/-- A copy command's number finishes (R280). -/
def Block.finishCopy (b : Block) (n : Nat) (status : Nat) : Block :=
  let fin := n :: b.copyFinished
  let d := advanceDone b.copyDone fin fin.length
  { b with copyFinished := fin.filter (d < ·), copyDone := d,
           copyFailed := if status = 0 then b.copyFailed else b.copyFailed ++ [(n, status)] }

/-- A value written to the bound notify word publishes entries, with the batch open in each context (R188) and the warp that
wrote it (R440), or overruns the ring, whose next number goes to a failed command (R281, R286). -/
def Block.publish (b : Block) (p : Nat) (publisher : Option Nat) : Block :=
  match b.ring with
  | none => b
  | some r =>
    if r.stopped then b
    else if r.consumed + r.count < p ∨ p < r.published then
      ({ b with ring := some { r with stopped := true }, copyIssued := b.copyIssued + 1 }).finishCopy (b.copyIssued + 1) 9
    else
      let batches := (List.range b.mctx.length).map fun i => (i, ((b.mctx[i]?).map (·.open')).getD 0)
      let new := (List.range (p - r.published)).map fun i => ({ index := r.published + i, batches := batches, publisher := publisher } : Published)
      { b with ring := some { r with published := p, pubs := r.pubs ++ new } }

/-- A block's engine sees a publish index (R281); a failed number is logged (R430 class 0x11, status 9). -/
def State.publishRing (s : State) (block p : Nat) (publisher : Option Nat) : State :=
  match s.block? block with
  | none => s
  | some b =>
    let b1 := b.publish p publisher
    let s1 := s.setBlock b1
    if b1.copyIssued = b.copyIssued then s1
    else
      let qs := s.queueSeq b.launch
      let fn := ((s.launch? b.launch).map (·.fn)).getD 0
      (s1.log fn 0x11 0 (agentBits 2 qs.1 b1.copyIssued 0 false qs.2) 9 0 (b1.copyIssued % 2 ^ 32) 0).1

/-- Whether any of the locations lies in n bytes from a location on. -/
def touches (ls : List Loc) (l : Loc) (n : Nat) : Bool := (l.span n).any ls.contains

/-- Writes to bound notify words publish (R281); what the block's own warps write, the executing one does. -/
def State.noticeRings (s : State) (ls : List Loc) (writer : Option Nat) : State :=
  s.blocks.foldl (fun s b =>
    match b.ring with
    | some r =>
      if touches ls (.scr b.uid r.notify) 8 then s.publishRing b.uid (s.readNum (.scr b.uid r.notify) 8)
        (if writer = some b.uid then s.cur else none) else s
    | none => s) s

/-- Whether a queue's control block is within its limits (R372). -/
def queueBlockOk (blk : List Byte) : Bool :=
  let count := fieldAt blk 8 4
  fieldAt blk 0 8 % 4096 == 0 && (List.range 17).any (fun i => 4 ≤ i && 2 ^ i == count) && bitsAt (fieldAt blk 12 4) 31 3 == 0 &&
  fieldAt blk 48 8 % 16 == 0 && fieldAt blk 56 4 ≤ 256 && fieldAt blk 60 4 == 0

/-- A queue's control block. -/
def State.queueBlock (s : State) (q : Queue) : List Byte := s.readLocs ((Loc.dev q.cb).span 64)

/-- Fields of a queue's control block (R372). -/
def blkEnable (blk : List Byte) : Bool := bitAt (fieldAt blk 12 4) 0
def blkOverrun (blk : List Byte) : Bool := bitAt (fieldAt blk 12 4) 1
def blkDevfed (blk : List Byte) : Bool := bitAt (fieldAt blk 12 4) 2
def blkWrite (blk : List Byte) : Nat := fieldAt blk 16 8
def blkRead (blk : List Byte) : Nat := fieldAt blk 24 8
def blkDone (blk : List Byte) : Nat := fieldAt blk 32 8
def blkCount (blk : List Byte) : Nat := fieldAt blk 8 4

/-- A queue whose WRITE is too far ahead of READ overruns (R374). -/
def State.queueCheck (s : State) (q : Queue) : State :=
  let blk := s.queueBlock q
  if queueBlockOk blk && !blkOverrun blk && (blkWrite blk + 2 ^ 64 - blkRead blk) % 2 ^ 64 > blkCount blk then
    (s.writeNum (.dev (q.cb + 12)) 4 (fieldAt blk 12 4 + 2)).writeNum (.dev (q.cb + 40)) 8 (blkWrite blk)
  else s

/-- Writes to queues' WRITE words (R373, R374). -/
def State.noticeQueues (s : State) (ls : List Loc) : State :=
  s.admin.queues.foldl (fun s q => if touches ls (.dev (q.cb + 16)) 8 then s.queueCheck q else s) s

/-- A write performed to the DOORBELL of a sill ring makes the front end read the ring (R315): the read is the next event. -/
def State.noticeDoorbells (s : State) (ls : List Loc) : State :=
  let rung := s.frontEnds.zipIdx.flatMap fun x => (x.1.rings.filter fun r => touches ls (.dev (r.2 + 56)) 8).map fun r => (x.2, r.1)
  if rung.isEmpty then s
  else { s with agenda := s.agenda ++ rung.map fun r => { row := .ringDoorbell, args := { a := r.1, b := r.2 } } }

/-- Byte writes performed, with all they bring about.  writer is the block whose own warps or lanes made them, if any. -/
def State.land (s : State) (ws : List (Loc × Byte)) (writer : Option Nat) : State :=
  let ls := ws.map (·.1)
  ((((s.perform ws).arrive ls writer).noticeRings ls writer).noticeQueues ls).noticeDoorbells ls

/-- A number written in this way. -/
def State.landNum (s : State) (l : Loc) (n x : Nat) (writer : Option Nat) : State := s.land (List.zip (l.span n) (leBytes n x)) writer

end Sys2Proof.Machine
end

