-- ==== Sys2Proof/Machine/Ops.lean ====
section
/-! DEFINITION. The named operations over registers, splits and warps: register access through the rename maps (R10 to R21, R36 to R38),
frees (R13), the checks that precede every instruction (R58), taking an exception and returning from one (R32, R33, R97, R311,
R323), and issue itself. -/

namespace Sys2Proof.Machine

/-- The outcome of an instruction or an event. -/
abbrev Out := Host.Outcome State Fault Refusal

/-- The executing agent, its running split and the state an instruction issues in. -/
structure Ctx where
  st : State
  w : Warp
  k : Nat
  sp : Split
  deriving DecidableEq, Repr

/-- A register operand as the checks see it: class (0 vector, 1 scalar, 2 predicate, 3 accumulator), first register, how many, the
alignment its field needs, read, written, last-read, its lane pattern, whether every lane of the split reads or writes it (not only
those whose guard is true), and whether an unallocated name may be read (R140). -/
structure Use where
  cls : Nat
  reg : Nat
  cnt : Nat := 1
  align : Nat := 1
  rd : Bool := false
  wr : Bool := false
  last : Bool := false
  pat : Nat := 0
  all : Bool := false
  quiet : Bool := false
  deriving DecidableEq, Repr

/-- What the body of an instruction answers: it retires with register writes and sticky bits; it has set the split's next place
itself; it traps with a cause and TRAPINFO, in the state before it or in another; it waits for a page (R131); its split waits (R45);
or an away lane returns home to execute it there (R57). -/
inductive Act where
  | done (s : State) (ws : List LaneWrite) (sticky : BitVec 8)
  | jump (s : State)
  | trap (cause : Nat) (info : Word)
  | trapIn (s : State) (cause : Nat) (info : Word)
  | replay (va : Nat) (info : Word)
  | replayIn (s : State) (va : Nat) (info : Word)
  | wait (s : State) (c : Status)
  | bounce
  deriving DecidableEq, Repr

/-! ### Splits and warps -/

/-- R236: a split is live while its lane mask is non-empty or its stack holds an entry. -/
def Split.live (sp : Split) : Bool := sp.lanes != 0 || !sp.stack.isEmpty

/-- Fields of the clause header (R40). -/
def hdrMsel (h : Word) : Nat := bitsAt h.toNat 27 26
def hdrCount (h : Word) : Nat := bitsAt h.toNat 25 23
def hdrSplit (h : Word) : Nat := bitsAt h.toNat 22 20
def hdrSetB (h : Word) : Nat := bitsAt h.toNat 19 16
def hdrSetA (h : Word) : Nat := bitsAt h.toNat 15 12

/-- The flag field of a slot's group (R40, R41): 15 is none. -/
def Split.flag (sp : Split) : Nat := if sp.slot ≤ hdrSplit sp.hdr then hdrSetA sp.hdr else hdrSetB sp.hdr

/-- The address of the next clause (R39). -/
def Split.nextClause (sp : Split) : Dword := sp.pc + 32

/-- An instruction of the split is over: the hold of the fairness timer counts it (R152), and what it asked of sheds is settled. -/
def Split.stepped (sp : Split) : Split := { sp with lrHold := sp.lrHold - 1, asks := [], queued := none, vote := none, steps := sp.steps + 1 }

/-- The split at the slot after the executing one (R39, R45). -/
def Split.advance (sp : Split) : Split :=
  if hdrCount sp.hdr ≤ sp.slot then { sp.stepped with pc := sp.nextClause, slot := 1, begun := false } else { sp.stepped with slot := sp.slot + 1 }

/-- The split at slot 1 of a clause, whose WAIT is evaluated (R43). -/
def Split.enter (sp : Split) (pc : Dword) : Split := { sp with pc := pc, slot := 1, begun := false }

/-- The split that an instruction sends to slot 1 of a clause. -/
def Split.goto (sp : Split) (pc : Dword) : Split := sp.stepped.enter pc

/-- TRAPPC for a clause and slot (R29). -/
def trapPc (pc : Dword) (slot : Nat) : Dword := dword (bitsAt pc.toNat 56 5 * 32 + slot * 4)

/-- Live splits of a warp (R236). -/
def Warp.liveCount (w : Warp) : Nat := (w.splits.filter Split.live).length

/-- The lowest free split index (R89). -/
def Warp.freeSplit (w : Warp) : Option Nat := (List.range 4).find? fun i => (w.splits[i]?).any fun sp => !sp.live

/-- A split replaced. -/
def Warp.setSplit (w : Warp) (k : Nat) (sp : Split) : Warp := { w with splits := w.splits.set k sp }

/-- A new split takes an index; operations of a split that had it before are no longer its own (R237). -/
def Warp.addSplit (w : Warp) (k : Nat) (sp : Split) : Warp :=
  { w.setSplit k sp with ops := w.ops.map fun (o : LongOp) => if o.split = k then { o with split := 4 } else o }

/-- A split of a warp of the machine replaced. -/
def State.setSplit (s : State) (u k : Nat) (sp : Split) : State := s.modWarp u fun w => w.setSplit k sp

/-- Lanes away, marked returned included (R310). -/
def Warp.someAway (w : Warp) : Bool := w.away != 0 || !w.returned.isEmpty

/-- The conditions under which last-read frees take effect (R13). -/
def Warp.settled (w : Warp) : Bool :=
  w.liveCount == 1 && w.splits.all (fun sp => sp.stack.isEmpty && sp.overflow == 0) && !w.someAway && !w.parked &&
  w.kind == .main

/-- Deferred frees take effect at the first point at which the conditions hold (R13). -/
def Warp.settle (w : Warp) : Warp :=
  if w.settled then { w with v := w.v.map fun r => if r.due then VReg.empty else r } else w

/-- Every lane a split holds: executing, on its stack, or in its overflow mask (R88). -/
def Split.allLanes (sp : Split) : Mask := (sp.stack.foldl (fun m e => m ||| e.mask) sp.lanes) ||| sp.overflow

/-- Every lane a warp holds: in splits, on stacks, in overflow masks or away (R91). -/
def Warp.allLanes (w : Warp) : Mask :=
  w.splits.foldl (fun m sp => m ||| sp.allLanes) w.away |||
    maskOf fun i => w.returned.any (·.lane == i)

/-- LIVEMASK (R29). -/
def Warp.liveMask (w : Warp) : Word := maskOf fun i => ((w.v[i]?).map (·.live)).getD false

/-- Names allocated (R16). -/
def Warp.held (w : Warp) : Nat := (w.v.filter (·.live)).length

/-- The vector register of a name. -/
def Warp.reg (w : Warp) (r : Nat) : VReg := w.v.getD r VReg.empty

/-- R11: an unallocated name gets a register of zeros; a deferred free is cancelled (R13). -/
def Warp.alloc (w : Warp) (r : Nat) : Warp :=
  let x := w.reg r
  { w with v := w.v.set r (if x.live then { x with due := false } else { VReg.empty with live := true }) }

/-- Lane words written to a name. -/
def Warp.putV (w : Warp) (r : Nat) (m : Mask) (vals : List Word) (pois : Mask) : Warp :=
  let x := w.reg r
  let val := (List.range 32).map fun i => if hasLane m i then vals.getD i 0 else x.val.getD i 0
  { w with v := w.v.set r { x with val := val, poison := (x.poison &&& ~~~m) ||| (pois &&& m) } }

/-- R13: a name freed. -/
def Warp.free (w : Warp) (r : Nat) : Warp := { w with v := w.v.set r VReg.empty }

/-- R13: a last-read of a name at retirement: freed, or deferred. -/
def Warp.lastRead (w : Warp) (r : Nat) : Warp :=
  if !(w.reg r).live then w
  else if w.settled then w.free r
  else { w with v := w.v.set r { w.reg r with due := true } }

/-- R20: a scalar register; s0 reads zero. -/
def Warp.sreg (w : Warp) (r : Nat) : Word := if r = 0 then 0 else w.s.getD r 0

/-- R20: a scalar written; s0 ignores writes. -/
def Warp.putS (w : Warp) (r : Nat) (v : Word) (pois : Bool) : Warp :=
  if r = 0 then w
  else { w with s := w.s.set r v, spoison := if pois then w.spoison ||| oneLane r else w.spoison &&& ~~~(oneLane r) }

/-- Predicate bits of the lanes of a mask written (R21). -/
def Warp.putP (w : Warp) (r : Nat) (m v : Mask) : Warp :=
  { w with p := w.p.set r ((w.p.getD r 0 &&& ~~~m) ||| (v &&& m)) }

/-- Lane count of the agent (R38). -/
def Warp.lanes (w : Warp) : Nat := if w.kind = .native then 16 else 32

/-! ### Register access through the home maps -/

/-- The warp whose rename map holds lane i of the executing warp: itself, or in a compacted warp the lane's home (R14). -/
def State.laneWarp (s : State) (w : Warp) (i : Nat) : Warp :=
  if w.kind = .dense then (s.warp? (w.homes.getD i 0)).getD w else w

/-- The home warps of a compacted warp's lanes, in ascending index; the warp itself otherwise (R94, R242). -/
def State.owners (s : State) (w : Warp) (m : Mask) : List Warp :=
  if w.kind = .dense then
    s.warps.filter fun h => h.kind == .main && h.block == w.block && (List.range 32).any fun i => hasLane m i && w.homes.getD i 0 == h.uid
  else [w]

/-- Lanes of a warp: every lane it holds. -/
def State.homeMask (w : Warp) : Mask := maskOf fun i => w.homes.getD i 0 != 0

/-- The warp whose scalars and modes an agent reads (R242: a compacted warp's lowest-numbered home). -/
def State.scalarWarp (s : State) (w : Warp) : Warp :=
  if w.kind = .dense then (s.owners w (State.homeMask w)).headD w else w

/-- The executing agent's context. -/
def State.ctx? (s : State) : Option Ctx :=
  match s.cur with
  | none => none
  | some u =>
    match s.warp? u with
    | none => none
    | some w =>
      match w.splits[w.running]? with
      | none => none
      | some sp => if w.gone then none else some { st := s, w := w, k := w.running, sp := sp }

/-- The mode value that governs the clause (R124). -/
def Ctx.m (c : Ctx) : BitVec 22 := c.sp.mode
/-- TYPE of the clause. -/
def Ctx.ty (c : Ctx) : Ty := modeTy c.m
/-- Lane count. -/
def Ctx.n (c : Ctx) : Nat := c.w.lanes
/-- Whether the agent is a native wavefront (R34). -/
def Ctx.native (c : Ctx) : Bool := c.w.kind == .native
/-- Whether the agent is an away lane (R35). -/
def Ctx.guest (c : Ctx) : Bool := c.w.kind == .guest
/-- Whether the agent is a compacted warp (R94). -/
def Ctx.dense (c : Ctx) : Bool := c.w.kind == .dense
/-- The function the agent runs for. -/
def Ctx.fn (c : Ctx) : Nat := c.st.fnOf c.w
/-- The block of the agent. -/
def Ctx.block? (c : Ctx) : Option Block := c.st.block? c.w.block
/-- The launch of the agent. -/
def Ctx.launch? (c : Ctx) : Option Launch := c.st.launch? c.w.launch

/-- Lane i of a vector register, through the lane's home map. -/
def Ctx.lane (c : Ctx) (r i : Nat) : Word := ((c.st.laneWarp c.w i).reg r).val.getD i 0

/-- A lane of a register as a number: the word, or the pair (R10). -/
def Ctx.val (c : Ctx) (pair : Bool) (r i : Nat) : Nat :=
  if pair then (c.lane r i).toNat + 2 ^ 32 * (c.lane (r + 1) i).toNat else (c.lane r i).toNat

/-- A scalar register. -/
def Ctx.s (c : Ctx) (r : Nat) : Word := (c.st.scalarWarp c.w).sreg r

/-- A scalar pair as a number (R20). -/
def Ctx.s2 (c : Ctx) (r : Nat) : Nat := (c.s r).toNat + 2 ^ 32 * (c.s (r + 1)).toNat

/-- A predicate bit of a lane. -/
def Ctx.pbit (c : Ctx) (p i : Nat) : Bool := hasLane ((c.st.laneWarp c.w i).p.getD p 0) i

/-- R38 guard(i). -/
def Ctx.guard (c : Ctx) (i : Nat) : Bool :=
  let g := modeGuard c.m
  ((if g = 8 then true else c.pbit g i) != modeNeg c.m)

/-- The lanes that take effect: in the executing split with the guard true (R38). -/
def Ctx.act (c : Ctx) : Mask := maskOf fun i => hasLane c.sp.lanes i && c.guard i

/-- R38 pat(i). -/
def Ctx.patLane (c : Ctx) (pat i : Nat) : Nat :=
  let k := if c.native then modePerm c.m % 16 else modePerm c.m
  let n := c.n
  match pat with
  | 1 => (i + k) % n
  | 2 => (i + n - k % n) % n
  | 3 => Nat.xor i k
  | 4 => k
  | 5 => n - 1 - i
  | 6 => if k ≤ i then i - k else i
  | 7 => if i + k ≤ n - 1 then i + k else i
  | _ => i

/-- The lane that lane i reads under a pattern, none where the operand is zero (R37). -/
def Ctx.srcLane (c : Ctx) (pat i : Nat) : Option Nat :=
  let j := c.patLane pat i
  if hasLane c.sp.lanes j && !(c.guest && pat != 0) then some j else none

/-- R38 src(v, i), as a number: a word or a pair. -/
def Ctx.src (c : Ctx) (pair : Bool) (r pat i : Nat) : Nat :=
  match c.srcLane pat i with
  | some j => c.val pair r j
  | none => 0

/-! ### Writes to registers -/

/-- One register write of an agent, through the home maps (R14, R94). -/
def State.applyWrite (s : State) (w : Warp) (x : LaneWrite) : State :=
  match x.cls with
  | 0 =>
    if w.kind = .dense then
      (s.owners w x.mask).foldl (fun s h =>
        s.modWarp h.uid fun h => h.putV x.reg (x.mask &&& maskOf fun i => w.homes.getD i 0 == h.uid) x.vals x.poison) s
    else s.modWarp w.uid fun w => w.putV x.reg x.mask x.vals x.poison
  | 1 =>
    (s.owners w (State.homeMask w)).foldl (fun s h => s.modWarp h.uid fun h => h.putS x.reg (x.vals.headD 0) (x.poison != 0)) s
  | _ =>
    let v : Mask := (x.vals.headD 0)
    if w.kind = .dense then
      (s.owners w x.mask).foldl (fun s h =>
        s.modWarp h.uid fun h => h.putP x.reg (x.mask &&& maskOf fun i => w.homes.getD i 0 == h.uid) v) s
    else s.modWarp w.uid fun w => w.putP x.reg x.mask v

/-- Register writes in order. -/
def State.applyWrites (s : State) (w : Warp) (ws : List LaneWrite) : State := ws.foldl (fun s x => s.applyWrite w x) s

/-- Sticky bits of WARPSTAT raised (R30). -/
def State.raise (s : State) (u : Nat) (b : BitVec 8) : State := s.modWarp u fun w => { w with sticky := w.sticky ||| b }

/-- Whether the agent renames its vector registers (R34, R35: wavefronts and away lanes do not). -/
def Warp.renames (w : Warp) : Bool := w.kind == .main || w.kind == .dense

/-- R11: the names an instruction writes are allocated at issue, in a compacted warp in each home that owns a written lane (R14).  An
instruction that no lane executes allocates them in a warp and, having no written lane, in no home of a compacted one: the model's
choice (DEDUCED, log 57). -/
def State.allocNames (s : State) (w : Warp) (m : Mask) (rs : List Nat) : State :=
  if w.renames then
    (s.owners w m).foldl (fun s h => s.modWarp h.uid fun h => rs.foldl (fun h r => h.alloc r) h) s
  else s

/-! ### Completion of long-latency operations -/

/-- A long-latency operation of a warp completes: its registers are written, its flag counts down, and at zero its hazards end (R22, R23,
R41). -/
def State.completeOp (s : State) (u : Nat) (o : LongOp) : State :=
  match s.warp? u with
  | none => s
  | some w =>
    let s1 := (s.applyWrites w o.writes).raise u o.sticky
    s1.modWarp u fun w =>
      let w1 := { w with ops := w.ops.erase o }
      match o.flag with
      | none => w1
      | some n =>
        let x := w.f.getD n 0 - 1
        { w1 with f := w1.f.set n x, hazards := if x = 0 then w1.hazards.filter fun h => h.flag != n else w1.hazards }

/-- Every outstanding operation of a warp that a property names completes. -/
def State.completeOps (s : State) (u : Nat) (p : LongOp → Bool) : State :=
  match s.warp? u with
  | none => s
  | some w => (w.ops.filter p).foldl (fun s o => s.completeOp u o) s

/-! ### Synchronisation-free regions and the region store buffer -/

/-- The records that an owner's current SFR holds are closed (R264). -/
def State.closeRecords (s : State) (owner : Nat) : State :=
  { s with records := s.records.filter (fun r => r.owner != owner), strongs := s.strongs.filter fun r => r.owner != owner }

/-- The open idempotent region ends: its pieces are performed in program order (R264, R384). -/
def State.endRegion (s : State) (u : Nat) : State :=
  match s.warp? u with
  | some w =>
    match w.region with
    | some r => (s.land r.buf none).modWarp u fun w => { w with region := none }
    | none => s
  | none => s

/-- The current SFR ends, with its region: pieces performed, records closed, a new SFR begun (R264). -/
def State.endSfr (s : State) (u : Nat) : State :=
  ((s.endRegion u).closeRecords u).modWarp u fun w => { w with sfr := w.sfr + 1, closeReq := false }

/-- An open region is abandoned: its pieces are dropped and never performed (R259). -/
def State.dropRegion (s : State) (u : Nat) : State := s.modWarp u fun w => { w with region := none }

/-! ### Barriers (R162 to R165) -/

/-- A barrier object of a block (R162): ARRIVED and PHASE. -/
def Block.barrier (b : Block) (obj : Nat) : Nat × Nat :=
  let x := leNat (Memory.getBytes b.scratch (8 * obj) 8)
  (x % 2 ^ 32, bitsAt x 35 32)

/-- A barrier object written. -/
def Block.setBarrier (b : Block) (obj arrived phase : Nat) : Block :=
  { b with scratch := Memory.putBytes b.scratch (8 * obj) (leBytes 8 (arrived + 2 ^ 32 * (phase % 16))) }

/-- A barrier object written as any write is (R129, R151): it ends reservations on its granule, and its words lose their marks. -/
def State.setBarrier (s : State) (block obj arrived phase : Nat) : State :=
  let ls := (Loc.scr block (8 * obj)).span 8
  ((s.modBlock block fun x => x.setBarrier obj arrived phase).killResv ls).clearMarks ls

/-- The warps of a block that have not exited. -/
def State.liveWarps (s : State) (b : Block) : List Warp := s.warps.filter fun w => b.warps.contains w.uid && !w.gone

/-- Whether ARRIVED covers every warp of the block that has not exited; one that awaits replay counts as not arrived (R163, R244). -/
def State.covered (s : State) (b : Block) (obj : Nat) : Bool :=
  (s.liveWarps b).all fun w => bitAt (b.barrier obj).1 w.idx && w.replay.isNone

/-- The splits that wait at an object, or with 16 at GBAR, go on past it. -/
def Warp.pastBarrier (w : Warp) (obj : Nat) : Warp :=
  { w with splits := w.splits.map fun (sp : Split) => if sp.status = .barrier obj then { sp.advance with status := .ready } else sp }

/-- What a warp does when an episode that it waits for has completed: the acquire of R163 (its loads complete and its SFR ends), then
its splits go on. -/
def State.releaseWarp (s : State) (obj : Nat) (w : Warp) : State :=
  if w.splits.any fun sp => sp.status == .barrier obj then
    ((s.completeOps w.uid (·.memory)).endSfr w.uid).modWarp w.uid fun w => w.pastBarrier obj
  else s

/-- The splits of a block that wait at an object go on past their BAR (R45, R163). -/
def State.releaseBarrier (s : State) (b : Block) (obj : Nat) : State :=
  (s.warps.filter fun w => b.warps.contains w.uid).foldl (fun s w => s.releaseWarp obj w) s

/-- An episode of an object completes where its condition holds (R163, R164). -/
def State.barrierStep (s : State) (block obj : Nat) : State :=
  match s.block? block with
  | none => s
  | some b =>
    let group := if obj < 12 then [b] else s.blocks.filter fun x => x.launch == b.launch && x.group == b.group
    let someone := group.any fun x => (x.barrier obj).1 != 0
    if someone && group.all fun x => s.covered x obj then
      group.foldl (fun s x => (s.setBarrier x.uid obj 0 ((x.barrier obj).2 + 1)).releaseBarrier x obj) s
    else s

/-- The clusters that take part in balancing (R439), by the arrival of their last warp at the episode that completes. -/
def State.arrivalOrder (s : State) (l : Launch) : List Nat :=
  let order := (l.gbar.reverse.filterMap fun u => (s.warp? u).map (·.core / 4)).eraseDups.reverse
  order.filter fun c => s.blocks.all fun b => b.core / 4 != c || b.launch == l.uid || b.preempt == .taken

/-- One cluster gains 50 MHz from another, where both stay between 2.1 and 2.7 GHz (R439). -/
def shiftClock (cs : List Nat) (p : Nat × Nat) : List Nat :=
  let up := cs.getD p.1 0 + 50
  let down := cs.getD p.2 0 - 50
  if 2700 < up ∨ down < 2100 then cs else (cs.set p.1 up).set p.2 down

/-- The ranks of a GBAR episode are added, and after every fourth episode the slowest quarter of the clusters gains from the
quickest (R439). -/
def State.balanceStep (s : State) (l : Launch) : State × Launch :=
  if !l.balance then (s, l)
  else
    let order := s.arrivalOrder l
    let old (c : Nat) : Nat := ((l.ranks.find? (·.1 == c)).map (·.2)).getD 0
    let sums := order.zipIdx.map fun x => (x.1, old x.1 + x.2)
    let rest := l.ranks.filter fun x => !order.contains x.1
    if (l.episodes + 1) % 4 ≠ 0 then (s, { l with ranks := sums ++ rest })
    else
      let sorted := (sortBy (·.2) sums).map (·.1)
      let q := sorted.length / 4
      let cs := if s.admin.limiting then s.admin.clusters
        else (List.zip (sorted.reverse.take q) (sorted.take q)).foldl shiftClock s.admin.clusters
      ({ s with admin := { s.admin with clusters := cs } }, { l with ranks := (sums ++ rest).map fun x => (x.1, 0) })

/-- The launch's GBAR episode completes when every warp of the launch that has not exited has arrived (R165). -/
def State.gbarStep (s : State) (launch : Nat) : State :=
  match s.launch? launch with
  | none => s
  | some l =>
    let ws := s.warps.filter fun w => w.launch == launch && w.kind == .main && !w.gone
    if !l.gbar.isEmpty && ws.all fun w => l.gbar.contains w.uid then
      let (s, l) := s.balanceStep l
      ws.foldl (fun s w => s.releaseWarp 16 w) (s.setLaunch { l with gbar := [], episodes := l.episodes + 1 })
    else s

/-! ### All-bank mode leaves (R218, R219) -/

/-- The owner of a pseudo-channel leaves all-bank mode: rows closed, a pending split code takes effect (R219, R326). -/
def State.leavePch (s : State) (stack idx fn : Nat) : State :=
  let p := s.pch stack idx
  s.setPch { p with owner := none, rows := List.replicate 16 none, lastFn := some fn, split := p.pendingSplit.getD p.split,
                    quiesce := p.quiesce || p.pendingSplit.isSome, pendingSplit := none }

/-- What a wavefront that ends owned is given up (R323 step 2). -/
def State.dropOwned (s : State) (w : Warp) : State :=
  match s.pchs.find? (·.owner == some w.uid) with
  | some p => s.leavePch p.stack p.idx (s.fnOf w)
  | none => s

/-! ### GROW (R18, R19) -/

/-- Registers of a core's pool that are not reserved (R16): 3,072 less the quotas of the warps that have not exited, since R19
offers those of an exited warp again, though R246 returns them with its block (DEDUCED, log 57). -/
def State.poolFree (s : State) (core : Nat) : Int :=
  3072 - ((s.warps.filter fun w => w.core == core && w.kind == .main && !w.gone).foldl (fun n w => n + w.quota) 0 : Nat)

/-- The oldest blocked GROW requests of a core are granted while the pool covers them (R18, R19); a grant writes status 0.  The fuel
bounds their number. -/
def State.growGrants (s : State) (core : Nat) : Nat → State
  | 0 => s
  | fuel + 1 =>
    match s.growQ.find? fun q => ((s.warp? q.warp).map (·.core)) == some core with
    | none => s
    | some q =>
      match s.warp? q.warp with
      | none => s
      | some w =>
        if (q.want : Int) - (w.quota : Int) ≤ s.poolFree core then
          let sp := (w.splits[q.split]?).getD Split.free
          let w1 := ({ w with quota := max w.quota q.want }).setSplit q.split { sp.advance with status := .ready }
          State.growGrants { (s.setWarp (w1.putS q.dst 0 false)) with growQ := s.growQ.filter (· != q) } core fuel
        else s

/-! ### Ends of warps -/

/-- A warp exits: its registers are freed, its last SFR closes, barrier counts drop it, and its registers are offered to blocked GROWs
(R19, R91, R163, R264).  Lanes of a warp that an error ends stay away until they have come home (R246, R314). -/
def State.exitWarp (s : State) (u : Nat) : State :=
  match s.warp? u with
  | none => s
  | some w =>
    let s1 := s.endSfr u
    let s2 := s1.modWarp u fun w =>
      { w with splits := List.replicate 4 Split.free, v := List.replicate 32 VReg.empty, handler := .none, resv := [], gone := true,
               returned := [], carried := [], replay := none, hazards := [], ops := [], f := List.replicate 12 0 }
    let s3 : State :=
      { s2 with growQ := s2.growQ.filter fun q => q.warp != u,
                cur := if s2.cur = some u then none else s2.cur }
    let s4 := (List.range 16).foldl (fun s b => s.barrierStep w.block b) s3
    (s4.gbarStep w.launch).growGrants w.core 96

/-- Lanes of a compacted warp that have exited are exited in their home warps (R95). -/
def State.exitHomes (s : State) (w : Warp) (m : Mask) : State :=
  (s.owners w m).foldl (fun s h =>
    s.modWarp h.uid fun h => { h with exited := h.exited ||| (m &&& maskOf fun i => w.homes.getD i 0 == h.uid) }) s

/-- A launch's ending status is set; the first error stands (R377). -/
def State.launchStatus (s : State) (launch status : Nat) : State :=
  s.modLaunch launch fun l => if l.status.isNone then { l with status := some status } else l

/-- A warp is ended by an error (R32, R33): a class 0x10 record, status 4, and the warp counts as exited. -/
def State.endByError (s : State) (w : Warp) (cause : Nat) (info : Word) (tpc : Dword) : State :=
  let s1 := (s.log (s.fnOf w) 0x10 tpc.toNat (s.wordOf w) info.toNat cause 0 0).1
  let s2 := s1.launchStatus w.launch 4
  let s3 := if w.kind = .dense then s2.exitHomes w (w.allLanes) else s2
  s3.exitWarp w.uid

/-- A wavefront ends (R319, R323): its pseudo-channel is given up, its SFR closes, its dispatch counts it. -/
def State.endWave (s : State) (w : Warp) : State :=
  let s1 := (s.dropOwned w).endSfr w.uid
  let s2 : State := { s1 with warps := s1.warps.filter (fun x => x.uid != w.uid),
                              cur := if s1.cur = some w.uid then none else s1.cur,
                              pchs := s1.pchs.map fun p => { p with waiters := p.waiters.filter (· != w.uid) } }
  match w.wave with
  | some v => { s2 with dispatches := updateFirst (·.uid == v.dispatch) (fun d => { d with ended := d.ended + 1 }) s2.dispatches }
  | none => s2

/-- Whether a split of a wavefront is blocked where it does not wait for its clause boundary to end (R323 step 3). -/
def Warp.blockedMid (w : Warp) : Bool := w.replay.isSome || w.splits.any fun sp => sp.live && sp.status != .ready

/-- A native wavefront is ended by a trap and its dispatch fails; the dispatch's blocked wavefronts end at once (R323). -/
def State.failWave (s : State) (w : Warp) (cause : Nat) (info : Word) (tpc : Dword) : State :=
  match w.wave with
  | none => s
  | some v =>
    let num := ((s.dispatch? v.dispatch).map (·.number)).getD 0
    let s1 := (s.log (s.fnOf w) 0x10 tpc.toNat (s.wordOf w) info.toNat (cause + 256 * v.index) (num % 2 ^ 32) 0).1
    let fail (d : Dispatch) : Dispatch := if d.failed.isNone then { d with failed := some (cause, v.index) } else d
    let s2 : State := { s1 with dispatches := updateFirst (·.uid == v.dispatch) fail s1.dispatches }
    let s3 := s2.endWave w
    let rest := s3.warps.filter fun x => ((x.wave.map (·.dispatch)) == some v.dispatch) && x.blockedMid
    rest.foldl (fun s x => s.endWave x) s3

/-! ### Coming home (R299, R300, R309, R311) -/

/-- Register numbers whose bits are set in a mask, ascending (R300). -/
def carryList (m : Word) : List Nat := lanesOf m

/-- The header fields of a shuttle that name the lane's home (R300): logical core, warp slot, function, block index, queue and partition. -/
structure HomeAddr where
  core : Nat
  slot : Nat
  vf : Nat
  blockId : Nat
  queue : Nat
  part : Nat
  deriving DecidableEq, Repr

/-- The home of the lanes of a warp. -/
def State.homeAddr (s : State) (home : Nat) : HomeAddr :=
  match s.warp? home with
  | none => { core := 0, slot := 0, vf := 0, blockId := 0, queue := 0, part := 0 }
  | some w =>
    let fn := s.fnOf w
    { core := w.core, slot := w.slot, vf := fn, blockId := ((s.block? w.block).map (·.index)).getD 0,
      queue := ((s.launch? w.launch).map (·.queue)).getD 0, part := ((s.fn? fn).map (·.partition)).getD 0 }

/-- A lane packed as a shuttle (R300): its place, modes, predicate bits and carried registers; a lane that is away brings the
sticky bits that it has raised there. -/
def State.pack (s : State) (w : Warp) (home lane : Nat) (pc : Dword) (slot : Nat) : Shuttle :=
  let h := s.homeAddr home
  let g := w.guest
  { homeward := false, home := home, hcore := h.core, hslot := h.slot, lane := lane, vf := h.vf, blockId := h.blockId, queue := h.queue,
    part := h.part, toStack := false, site := 0, hops := (g.map (·.hops)).getD 0, epoch := (g.map (·.epoch)).getD w.sfr, pc := pc, slot := slot,
    modes := w.m, modew := (g.map (·.modew)).getD false,
    pred := BitVec.ofNat 8 ((List.range 8).foldr (fun p a => (if hasLane (w.p.getD p 0) lane then 1 else 0) + 2 * a) 0),
    sticky := if g.isSome then w.sticky else 0, vmask := w.carryV, smask := w.carryS,
    vslots := (carryList w.carryV).map fun r => (w.reg r).val.getD lane 0, sslots := (carryList w.carryS).map fun r => w.sreg r,
    vpois := maskOf fun r => hasLane (w.reg r).poison lane, spois := w.spoison, fault := none, exits := false, group := 0, left := 0 }

/-- A guest lane leaves for home: its operations complete, its accesses are released, its state is packed (R300, R305, R309). -/
def State.sendHome (s0 : State) (w0 : Warp) (pc : Dword) (slot : Nat) (trap : Option (Nat × Word)) (exits : Bool) : State :=
  let s := s0.completeOps w0.uid fun _ => true
  let w := (s.warp? w0.uid).getD w0
  match w.guest with
  | none => s
  | some g =>
    let s1 := s.endSfr w.uid
    let sh : Shuttle :=
      { s.pack w g.home g.lane pc slot with
        homeward := true, fault := trap, exits := exits, group := g.group, left := ((w.splits.head?).map (·.steps)).getD 0 }
    { s1 with warps := s1.warps.filter (fun x => x.uid != w.uid), shuttles := s1.shuttles ++ [sh],
              cur := if s1.cur = some w.uid then none else s1.cur }

/-! ### Taking an exception -/

/-- m0 as a handler starts: guard always, TYPE i32, rne, MIG stay (R33). -/
def modeReset : BitVec 22 := 0x8

/-- A split takes a trap at a clause and slot (R32, R33): TRAPCAUSE, TRAPPC and TRAPINFO are written, m0 to m3 are copied to
the shadow set and m0 reset, reservations of the lanes that the split holds, on its stack and in its overflow mask too, end
(R151), and the split continues at slot 1 of TRAPENTRY without evaluating WAIT (slot 0 stands for that). A second trap inside
a handler, or a TRAPENTRY of 0, ends the warp. A native wavefront ends (R323); an away lane carries the trap home (R311). -/
def State.takeTrap (s : State) (u k : Nat) (cause : Nat) (info : Word) (pc : Dword) (slot : Nat) : State :=
  match s.warp? u with
  | none => s
  | some w =>
    let tpc := trapPc pc slot
    match w.kind with
    | .native => s.failWave w cause info tpc
    | .guest => s.sendHome w pc slot (some (cause, info)) false
    | _ =>
      if w.handler != .none then s.endByError w 0x18 info tpc
      else
        let entry := ((s.launch? w.launch).map (·.trapEntry)).getD 0
        let w1 := { w with trapcause := word cause, trappc := tpc, trapinfo := info }
        if entry = 0 then (s.setWarp w1).endByError w1 cause info tpc
        else
          let sp := ((w.splits[k]?).getD Split.free)
          let lanes := sp.allLanes
          let sp1 := { sp with pc := dword entry, slot := 0, begun := false, status := .ready, held := false, asks := [], queued := none }
          let w2 := { w1 with splits := w1.splits.map fun (x : Split) => { x with held := true } }
          s.setWarp { (w2.setSplit k sp1) with
            shadow := w.m, m := w.m.set 0 modeReset, handler := .trap k cause, running := k, idle := false,
            resv := w.resv.filter fun r => !hasLane lanes r.lane }

/-- The executing instruction's trap (R44: precise at its slot). -/
def Ctx.trap (c : Ctx) (cause : Nat) (info : Word) : State := c.st.takeTrap c.w.uid c.k cause info c.sp.pc c.sp.slot

/-! ### Returning from an exception -/

/-- Where TRAPPC resumes (R97): a slot field of 0 is slot 1. -/
def trapSlot (tpc : Dword) : Nat := if bitsAt tpc.toNat 4 2 = 0 then 1 else bitsAt tpc.toNat 4 2

/-- The cause of the trap that a handler handles; TRAPCAUSE itself can be written (R29), so the return does not read it. -/
def Handler.cause : Handler → Nat
  | .trap _ c => c
  | _ => 0

/-- TRET out of a trap handler (R92, R97): m0 to m3 from the shadow, the lanes as R92 states for the trap that it ends, the split at TRAPPC,
the other splits released.  Where the handler itself has divided, the split that executes TRET is the one that resumes: the model's choice
(DEDUCED, log 57). -/
def Warp.trapReturn (w : Warp) (k : Nat) : Warp :=
  let sp := (w.splits[k]?).getD Split.free
  let all := sp.lanes ||| sp.overflow
  let cause := w.handler.cause
  let lanes := if cause = 5 ∨ cause = 6 then w.trapinfo &&& all else sp.lanes
  let rest := if cause = 5 ∨ cause = 6 then all &&& ~~~lanes else sp.overflow
  let pc := dword (bitsAt w.trappc.toNat 56 5 * 32)
  let sp1 := { sp with lanes := lanes, overflow := rest, pc := pc, slot := trapSlot w.trappc, begun := false, asks := [], queued := none }
  let w1 := w.setSplit k sp1
  { w1 with m := w.shadow, handler := .none, splits := w1.splits.map fun (x : Split) => { x with held := false } }

/-! ### The checks (R58) -/

/-- TRAPINFO of an illegal-instruction trap whose code R59 gives. -/
def illegalInfo (opc code : Nat) : Word := word (opc * 256 + code)

/-- The registers of an operand. -/
def Use.regs (u : Use) : List Nat := (List.range u.cnt).map (u.reg + ·)

/-- Check 4 (R48, R51): a class range gives code 26, a misaligned pair or group or a run past the last register code 27. -/
def Use.bad (u : Use) : Option Nat :=
  if u.cls = 2 ∧ 8 ≤ u.reg then some 26
  else if u.cls = 3 ∧ 16 ≤ u.reg then some 26
  else if u.cls ≤ 1 ∧ (u.reg % u.align ≠ 0 ∨ 32 < u.reg + u.cnt) then some 27
  else none

/-- The hazard that an operand meets (R23): its register, class and flag; of several registers of one operand the lowest. -/
def Warp.hazardOf (w : Warp) (u : Use) : Option Hazard :=
  if u.rd || u.wr || u.last then
    (u.regs.filterMap fun r => w.hazards.find? fun h => h.cls == u.cls && h.reg == r).head?
  else none

/-- TRAPINFO of the flag-hazard trap (R23). -/
def Hazard.info (h : Hazard) : Word := word (h.reg + h.cls * 32 + h.flag * 128)

/-- Lowest lane that reads a poisoned word through an operand (R420); scalars give 0. -/
def Ctx.poisonLane (c : Ctx) (u : Use) : Option Nat :=
  if !u.rd then none
  else if u.cls = 0 then
    (lanesOf (if u.all then c.sp.lanes else c.act)).find? fun i =>
      match c.srcLane u.pat i with
      | some j => u.regs.any fun r => hasLane ((c.st.laneWarp c.w j).reg r).poison j
      | none => false
  else if u.cls = 1 then if u.regs.any fun r => r != 0 && hasLane (c.st.scalarWarp c.w).spoison r then some 0 else none
  else none

/-- Unallocated names that an operand reads (R12), in the warps whose maps it reads. -/
def Ctx.unallocated (c : Ctx) (u : Use) : List Nat :=
  if u.cls = 0 && u.rd && !u.quiet && c.w.renames then
    u.regs.filter fun r => (c.st.owners c.w (c.sp.lanes)).any fun h => !(h.reg r).live
  else []

/-- The distinct vector names an instruction writes, ascending (R17). -/
def writtenNames (us : List Use) : List Nat :=
  (List.range 32).filter fun r => us.any fun u => u.cls == 0 && u.wr && u.regs.contains r

/-- The first name that would pass a warp's quota (R17). -/
def Warp.quotaFail (w : Warp) (names : List Nat) : Option Nat :=
  let new := names.filter fun r => !(w.reg r).live
  new[w.quota - w.held]?

/-- The lanes in which an instruction writes its vector registers (R14): the active ones, or for SEL every lane of the split (R101). -/
def Ctx.written (c : Ctx) (us : List Use) : Mask := if us.any fun u => u.wr && u.all then c.sp.lanes else c.act

/-- A native wavefront of a tenant, not of Aderic (R217, R320). -/
def Warp.tenant (w : Warp) : Bool := w.wave.any fun v => v.level != 3

/-- What the checks that precede an instruction's effect decide. -/
inductive Verdict where
  | go
  | bounce
  | trap (cause : Nat) (info : Word)
  deriving DecidableEq, Repr

/-- The first failing check decides (R58): profile (R57), register classes and pairs (R48), hazards (R23), the instruction's own
description; then poison (R420), the debug-mode read of an unallocated name (R12) and the quota (R17).  Of several hazarded registers
TRAPINFO names the first in the order of the instruction's operands as its meaning lists them, and of several home warps whose quotas a
compacted warp's names would pass, the first of them in placement order: the model's choices (DEDUCED, log 57). -/
def Ctx.checks (c : Ctx) (opc : Nat) (uses : List Use) (own : Option (Nat × Word)) : Verdict :=
  let prof := opcodeProfile opc
  if c.guest && (prof == .main || prof == .native || prof == .notGuest || opcodeReserved opc) then .bounce
  else if opcodeReserved opc then .trap 1 (illegalInfo opc 24)
  else if (prof == .main && c.native) || (prof == .native && !c.native) then .trap 3 0
  else if opcodePrivileged opc && c.w.tenant then .trap 3 1
  else match uses.findSome? Use.bad with
    | some code => .trap 1 (illegalInfo opc code)
    | none =>
      match uses.findSome? c.w.hazardOf with
      | some h => .trap 7 h.info
      | none =>
        match own with
        | some t => .trap t.1 t.2
        | none =>
          match (sortBy id (uses.filterMap c.poisonLane)).head? with
          | some lane => .trap 0x17 (word (lane * 16 + c.st.markSource))
          | none =>
            let un := (List.range 32).filter fun r => (uses.flatMap c.unallocated).contains r
            if c.st.debugOf c.w && !un.isEmpty then .trap 9 (word (un.headD 0))
            else if c.w.renames then
              match (c.st.owners c.w (c.written uses)).findSome? fun h => h.quotaFail (writtenNames uses) with
              | some r => .trap 8 (word r)
              | none => .go
            else .go

/-! ### Selection among splits (R236, R238) -/

/-- The memories as the launch of an agent, or its host dispatch, found them. -/
def State.codeOf (s : State) (w : Warp) : CodeImage :=
  match w.wave.bind fun v => s.dispatch? v.dispatch with
  | some d => d.code
  | none => ((s.launch? w.launch).map (·.code)).getD s.image

/-- The word that an agent executes at the locations of an address (R46): of a word that was stored to since its launch was consumed the
instruction cache may hold the old value, which a free bit decides (log 58).  The second component says whether it did. -/
def State.codeWord (s : State) (w : Warp) (va : Nat) (ls : List Loc) : Word × Bool :=
  let new := word (leNat (s.readLocs ls))
  let old := word (leNat ((s.asOf (s.codeOf w)).readLocs ls))
  if old = new then (new, false) else (if (Config.freeWord s.free).getLsbD (va / 4 % 32) then new else old, true)

/-- n consecutive words of an agent's code from an address on; a use of the free bits takes them. -/
def State.fetchWords (s : State) (w : Warp) (va n : Nat) : Except XFault (State × List Word) :=
  match s.reachN (s.fnOf w) w.die va (4 * n) false with
  | .ok (s1, ls) =>
    let xs := (chunks 4 n ls).zipIdx.map fun x => s1.codeWord w (va + 4 * x.2) x.1
    .ok (if xs.any (·.2) then { s1 with free := s1.free + 1 } else s1, xs.map (·.1))
  | .error e => .error e

/-- One word of an agent's code. -/
def State.fetchWord (s : State) (w : Warp) (va : Nat) : Except XFault (State × Word) :=
  match s.fetchWords w va 1 with
  | .ok (s1, xs) => .ok (s1, xs.headD 0)
  | .error e => .error e

/-- A flag field that names a flag which stands at 63 (R22). -/
def Warp.flagFull (w : Warp) (f : Nat) : Bool := f < 12 && w.f.getD f 0 == 63

/-- Whether a clause header's flags let it begin: WAIT clear, and no group's flag at 63 (R22, R43). -/
def Warp.flagsAllow (w : Warp) (h : Word) (evalWait : Bool) : Bool :=
  (!evalWait || (List.range 12).all fun n => !(bitAt h.toNat n) || w.f.getD n 0 == 0) && !w.flagFull (hdrSetA h) && !w.flagFull (hdrSetB h)

/-- An access, a full queue or a departure that holds its split where it is and is no point of R45: the warp does not issue beyond it (R186,
R203, R268, R298, R403). -/
def Status.stalls : Status → Bool
  | .shed | .wait (.record _) | .wait (.stripe _ _) | .wait (.window _) | .wait (.migrating _) | .wait .contextFull | .wait .copyRing => true
  | _ => false

/-- The lanes of a guest wavefront or warp execute in step, by position (R303): a lane issues its next instruction only when
no lane has executed fewer, and none of a lower position as many; all of them have answered for an instruction's departures
before any goes on (R298). -/
def State.inStep (s : State) (w : Warp) : Bool :=
  match w.guest with
  | none => true
  | some g =>
    let count (sp : Split) : Nat := 2 * sp.steps + if sp.vote.isSome then 1 else 0
    let key (x : Warp) (h : GuestInfo) : Nat × Nat := (((x.splits.head?).map count).getD 0, h.lane * 32 + x.idx)
    let me := key w g
    g.group == 0 || s.warps.all fun x => x.uid == w.uid || match x.guest with
      | some h => h.group != g.group || (let k := key x h; me.1 < k.1 || (me.1 == k.1 && me.2 < k.2))
      | none => true

/-- Whether a split that is in a clause can issue its next slot (R22, R236): a long-latency instruction waits while its
group's flag stands at 63. -/
def State.slotReady (s : State) (w : Warp) (sp : Split) : Bool :=
  !w.flagFull sp.flag || match s.fetchWord w (sp.pc.toNat + 4 * sp.slot) with
    | .ok (_, x) => !(opcodeLongReg (x.toNat / 2 ^ 24) || opcodeLongMem (x.toNat / 2 ^ 24))
    | .error _ => true

/-- Whether the warp's running split holds it: an access of it stalls, or its next slot cannot issue in a clause that it has begun, which is
no point of R45 either. -/
def State.stalled (s : State) (w : Warp) : Bool :=
  (w.splits[w.running]?).any fun sp => sp.live && (sp.status.stalls ||
    (sp.status == .ready && sp.begun && !sp.held && w.slab.isNone && !s.slotReady w sp))

/-- R236: a split of a warp is ready; a level-3 wavefront of Aderic executes firmware, which is not fetched. A clause is fetched only
once its WAIT is over, so that an illegal one whose header names a raised flag is reported when that flag is clear: the
model's reading of R42 and R43 (DEDUCED, log 57). -/
def State.splitCan (s : State) (w : Warp) (k : Nat) : Bool :=
  match w.splits[k]? with
  | none => false
  | some sp =>
    sp.live && sp.status == .ready && !sp.held && w.replay.isNone && !w.parked && !w.gone &&
    if w.slab.isSome then true
    else if sp.begun then s.slotReady w sp
    else match s.fetchWord w sp.pc.toNat with
      | .ok (_, h) => w.flagsAllow h (sp.slot == 1)
      | .error _ => true

/-- Whether a split may issue: it is ready, nothing holds its warp where it is (R45), and an away lane is in step (R303). -/
def State.splitReady (s : State) (w : Warp) (k : Nat) : Bool := s.splitCan w k && !s.stalled w && s.inStep w

/-- Outstanding memory operations of a split (R237). -/
def Warp.outstanding (w : Warp) (k : Nat) : Nat := (w.ops.filter fun o => o.split == k && o.memory).length

/-- R239: the fairness period. -/
def State.fairness (s : State) (w : Warp) : Nat :=
  let n := ((s.launch? w.launch).map fun l => bitsAt (fieldAt l.record 19 1) 4 0).getD 0
  2 ^ (if n = 0 then 12 else n)

/-- R238: the split that selection takes among candidates: the longest waiting of those that waited F, otherwise the one with the
fewest outstanding memory operations; ties go to the lower index. -/
def State.chooseSplit (s : State) (w : Warp) (cands : List Nat) : Option Nat :=
  let f := s.fairness w
  let waited (k : Nat) : Nat := if k = w.running then 0 else ((w.splits[k]?).map (·.waited)).getD 0
  let best (better : Nat → Nat → Bool) (l : List Nat) : Option Nat :=
    l.foldl (fun b k => match b with | none => some k | some x => if better k x then some k else some x) none
  let old := cands.filter fun k => f ≤ waited k
  if old.isEmpty then best (fun a b => w.outstanding a < w.outstanding b) cands
  else best (fun a b => waited b < waited a) old

/-- The warp selects afresh at a point of R45 (R238): the choice starts the fairness timer anew (R239).  With others, the running split
stands back, and goes on with a timer of 0 where no other is ready; otherwise a warp without a ready split is idle until it selects. -/
def State.reselect (s : State) (u : Nat) (others : Bool) : State :=
  match s.warp? u with
  | none => s
  | some w =>
    let zero (w : Warp) (k : Nat) : Warp := w.setSplit k { ((w.splits[k]?).getD Split.free) with waited := 0 }
    let cands := (List.range 4).filter fun k => s.splitReady w k && !(others && k == w.running)
    match s.chooseSplit w cands with
    | some k => s.modWarp u fun w => { zero (zero w w.running) k with running := k, expired := false, idle := false }
    | none => s.modWarp u fun w => if others then { zero w w.running with expired := false } else { w with idle := true }

/-! ### JOIN (R90) -/

/-- Blocked at a barrier, as JOIN counts it (R90 step 3). -/
def Split.atBarrier (sp : Split) : Bool :=
  match sp.status with
  | .barrier _ | .wait (.arrive _ _) | .wait (.barw _ _) => true
  | _ => false

/-- R88: a stack is empty when it holds no entry and the overflow mask is zero. -/
def Split.stackEmpty (sp : Split) : Bool := sp.stack.isEmpty && sp.overflow == 0

/-- Splits of a warp that wait at the JOIN of clause j. -/
def Warp.joiners (w : Warp) (j : Dword) : List Nat :=
  (List.range 4).filter fun k => (w.splits[k]?).any fun sp => sp.live && sp.status == .join && sp.pc == j

/-- The wait at a JOIN has ended: every other live split waits there or is blocked at a barrier (R90 step 3). -/
def Warp.joinOver (w : Warp) (j : Dword) : Bool :=
  w.splits.all fun sp => !sp.live || (sp.status == .join && sp.pc == j) || sp.atBarrier

/-- The splits waiting at the JOIN of clause j merge (R90 step 3): one with a non-empty stack may join the empty ones; the others go on
separately.  The second component is the resulting splits. -/
def Warp.merge (w : Warp) (j : Dword) : Warp × List Nat :=
  let ks := w.joiners j
  let get (k : Nat) : Split := (w.splits[k]?).getD Split.free
  let full := ks.filter fun k => !(get k).stackEmpty
  let group := if full.length ≤ 1 then ks else ks.filter fun k => (get k).stackEmpty || some k == full.head?
  match group with
  | [] => (w, [])
  | k0 :: _ =>
    let lanes := group.foldl (fun m k => m ||| (get k).lanes) 0
    let from0 := (full.head?).map get
    let sp : Split := { get k0 with lanes := lanes, waited := 0, stack := (from0.map (·.stack)).getD [], overflow := (from0.map (·.overflow)).getD 0 }
    let w1 := group.foldl (fun w k => w.setSplit k Split.free) w
    (w1.setSplit k0 sp, k0 :: ks.filter fun k => !group.contains k)

/-- Lanes that go away take with them the JOINs that they have missed (R240). -/
def Warp.missAway (w : Warp) (js : List Dword) (m : Mask) : Warp :=
  if m = 0 then w else { w with missed := w.missed ++ js.map fun j => (j, m) }

/-- The JOINs that any of some lanes missed while they were away. -/
def Warp.missedBy (w : Warp) (m : Mask) : List Dword := ((w.missed.filter fun x => x.2 &&& m != 0).map (·.1)).eraseDups

/-- Lanes that are back: their new split knows the JOINs that they have missed. -/
def Warp.missBack (w : Warp) (m : Mask) : Warp :=
  { w with missed := (w.missed.map fun x => (x.1, x.2 &&& ~~~m)).filter fun x => x.2 != 0 }

/-- The fairness limit of the JOIN at clause j has expired (R240): the live splits that are not there, and the lanes that are away, merge
with nothing when they arrive. -/
def Warp.missJoin (w : Warp) (j : Dword) : Warp :=
  let w1 := w.missAway [j] (w.away ||| maskOf fun i => w.returned.any (·.lane == i))
  { w1 with splits := w1.splits.map fun (sp : Split) =>
      if !sp.live || (sp.status == .join && sp.pc == j) || sp.missed.contains j then sp else { sp with missed := sp.missed ++ [j] } }

/-- After a merge each resulting split goes on to step 4 of R90: the suspended-lanes trap where its stack holds no entry and its
overflow mask is not zero, otherwise the next clause.  A held split (R32) that would trap executes its JOIN again. -/
def State.joinDone (s : State) (u : Nat) (j : Dword) : State :=
  match s.warp? u with
  | none => s
  | some w =>
    let m := w.merge j
    m.2.foldl (fun s k =>
      match s.warp? u with
      | none => s
      | some w =>
        let sp := (w.splits[k]?).getD Split.free
        if sp.stack.isEmpty && sp.overflow != 0 then
          if sp.held then s.setSplit u k { sp with status := .ready, waited := 0 }
          else s.takeTrap u k 6 sp.overflow (j + 32) 1
        else s.setSplit u k { sp.goto (j + 32) with status := .ready, waited := 0 }) (s.setWarp m.1)

/-- The waits at JOINs that have ended complete (R90). -/
def State.joinStep (s : State) (u : Nat) : State :=
  match s.warp? u with
  | none => s
  | some w =>
    match w.splits.find? fun sp => sp.live && sp.status == .join && w.joinOver sp.pc with
    | some sp => s.joinDone u sp.pc
    | none => s

/-- After an instruction: JOIN waits that have ended complete (R90), a forced switch at a clause boundary (R239), or a fresh
selection when the running split is no longer ready (R238), unless it stalls where it is (R45); deferred frees take effect
where their conditions now hold (R13). -/
def State.after (s : State) (u : Nat) : State :=
  match (s.joinStep u).warp? u with
  | none => s
  | some w0 =>
    let s := (s.joinStep u).setWarp w0.settle
    match s.warp? u with
    | none => s
    | some w =>
      match w.splits[w.running]? with
      | none => s
      | some sp =>
        if s.stalled w then s
        else if w.expired && !sp.begun && sp.lrHold == 0 && s.splitReady w w.running then s.reselect u true
        else if s.splitReady w w.running then s
        else s.reselect u false

/-! ### Issue -/

/-- A long-latency operation enters the warp's outstanding operations: its flag rises, and the registers it writes are hazarded
(R22, R23, R41). -/
def Warp.begin (w : Warp) (k flag : Nat) (memory : Bool) (uses : List Use) (ws : List LaneWrite) (sticky : BitVec 8) : Warp :=
  let fl := if flag < 12 then some flag else none
  let op : LongOp := { flag := fl, split := k, memory := memory, writes := ws, sticky := sticky }
  let hz := if flag < 12 then (uses.filter (·.wr)).flatMap fun u => u.regs.map fun r => { cls := u.cls, reg := r, flag := flag } else []
  { w with ops := w.ops ++ [op], hazards := w.hazards ++ hz.filter fun (h : Hazard) => !(h.cls == 1 && h.reg == 0),
           f := if flag < 12 then w.f.set flag (w.f.getD flag 0 + 1) else w.f }

/-- The memory operations that R237 counts: long-latency ones from 0x80 to 0xBF but PREF and PROBE, and DIST. -/
def opcodeCounts (opc : Nat) : Bool := (0x80 ≤ opc && opc ≤ 0xBF && opc != 0xA4 && opc != 0xA5) || opc == 0xD7 || opc == 0xD8

/-- An instruction retires (R11, R12, R13, R41): its names are allocated, READFREE is set for an unallocated read, a short-latency
result is written and a long-latency one is begun, last-read names are freed after the write, and the split moves on; one whose lanes
have all departed waits for them with its stacked lanes (log 24).  LDACQ (0xBC) has written its registers when it retires, and every
earlier load has (R161, R174). -/
def Ctx.retire (c : Ctx) (opc : Nat) (uses : List Use) (s : State) (ws : List LaneWrite) (sticky : BitVec 8) : State :=
  let u := c.w.uid
  let s1 := s.allocNames c.w (c.written uses) (writtenNames uses)
  let s2 := if (uses.flatMap c.unallocated).isEmpty then s1 else s1.raise u stREADFREE
  let s3 :=
    if opcodeLongReg opc || opcodeLongMem opc then
      let s3 := s2.modWarp u fun w => w.begin c.k c.sp.flag (opcodeCounts opc) uses ws sticky
      if opc = 0xBC then s3.completeOps u (·.memory) else s3
    else (s2.applyWrites c.w ws).raise u sticky
  let lasts := (List.range 32).filter fun r => uses.any fun x => x.cls == 0 && x.last && x.regs.contains r
  let s4 :=
    if c.w.renames then
      (s3.owners c.w c.sp.lanes).foldl (fun s h => s.modWarp h.uid fun h => lasts.foldl (fun h r => h.lastRead r) h) s3
    else s3
  let status (sp : Split) : Status := if sp.lanes = 0 ∧ !sp.stack.isEmpty then .wait .away else .ready
  let step (sp : Split) : Split := { sp.advance with status := status sp }
  (s4.modWarp u fun w => w.setSplit c.k (step ((w.splits[c.k]?).getD Split.free))).after u

/-- A page fault makes the warp replayable at the faulting slot (R131, R244); its replay kills reservations (R151), and a page of
host memory is asked of the host (R402). -/
def Ctx.replay (c : Ctx) (va : Nat) (info : Word) : State :=
  let clear (sp : Split) : Split := { sp with asks := [], queued := none }
  (c.st.askHost c.fn va).modWarp c.w.uid fun w =>
    { (w.setSplit c.k (clear ((w.splits[c.k]?).getD Split.free))) with replay := some (dword va, info), resv := [] }

/-- What an instruction's answer makes of the state. -/
def Ctx.finish (c : Ctx) (opc : Nat) (uses : List Use) (a : Act) : State :=
  match a with
  | .done s ws sticky => c.retire opc uses s ws sticky
  | .jump s => s.after c.w.uid
  | .trap cause info => c.trap cause info
  | .trapIn s cause info => s.takeTrap c.w.uid c.k cause info c.sp.pc c.sp.slot
  | .replay va info => c.replay va info
  | .replayIn s va info => ({ c with st := s } : Ctx).replay va info
  | .bounce => c.st.sendHome c.w c.sp.pc c.sp.slot none false
  | .wait s st =>
    (s.modWarp c.w.uid fun w => w.setSplit c.k { ((w.splits[c.k]?).getD Split.free) with status := st }).after c.w.uid

/-- The uncorrectable-error trap (R420): a poisoned word consumed writes a class 0x12 record, whose number TRAPINFO carries. -/
def Ctx.poisonTrap (c : Ctx) (info : Word) : State :=
  let seq := (c.st.fn? c.fn).map (·.logWrite) |>.getD 0
  let full := word (info.toNat + 65536 * (seq % 65536))
  let s := (c.st.log c.fn 0x12 0 (c.st.wordOf c.w) full.toNat (info.toNat % 16) 0 0).1
  ({ s with free := s.free + 1 } : State).takeTrap c.w.uid c.k 0x17 full c.sp.pc c.sp.slot

/-- An instruction that a warp, wavefront or away lane executes: its checks, then its body (R57, R58). -/
def issue (opc : Nat) (s : State) (uses : Ctx → List Use) (own : Ctx → Option (Nat × Word)) (body : Ctx → Act) : Out :=
  match s.ctx? with
  | none => .fault .noAgent
  | some c =>
    match c.checks opc (uses c) (own c) with
    | .bounce => .next (c.st.sendHome c.w c.sp.pc c.sp.slot none false)
    | .trap cause info => .next (if cause = 0x17 then c.poisonTrap info else c.trap cause info)
    | .go => .next (c.finish opc (uses c) (body c))

/-- No check of the instruction's own description. -/
def noCheck (_ : Ctx) : Option (Nat × Word) := none

/-- The TYPE check of R85, at check 5: code 28. -/
def tyCheck (opc : Nat) (ok : Ty → Bool) (c : Ctx) : Option (Nat × Word) :=
  if ok c.ty then none else some (1, illegalInfo opc 28)

end Sys2Proof.Machine
end

