-- ==== Sys2Proof/Machine/Operands.lean ====
section
/-! DEFINITION. Every operand form of the vector and scalar formats (R49 to R51, R86): which registers an instruction reads, writes and
frees, the values of its sources, packed elements, and the writes of its results. -/

namespace Sys2Proof.Machine

/-- A vector source field. -/
def vsrc (r : BitVec 5) (p : BitVec 3) (l : Bool) (n : Nat) : Use :=
  { cls := 0, reg := r.toNat, cnt := n, align := n, rd := true, last := l, pat := p.toNat }

/-- A vector destination field of n registers that must be aligned to n. -/
def vdst (r : BitVec 5) (n : Nat) : Use := { cls := 0, reg := r.toNat, cnt := n, align := n, wr := true }

/-- A vector field that is read and written. -/
def vacc (r : BitVec 5) (n : Nat) : Use := { cls := 0, reg := r.toNat, cnt := n, align := n, rd := true, wr := true }

/-- A scalar source of n registers. -/
def ssrc (r : BitVec 5) (n : Nat) : Use := { cls := 1, reg := r.toNat, cnt := n, align := n, rd := true }

/-- A scalar destination of n registers. -/
def sdst (r : BitVec 5) (n : Nat) : Use := { cls := 1, reg := r.toNat, cnt := n, align := n, wr := true }

/-- A predicate read or written. -/
def pread (r : BitVec 5) : Use := { cls := 2, reg := r.toNat, rd := true }
def pwrite (r : BitVec 5) : Use := { cls := 2, reg := r.toNat, wr := true }

/-- The b operand of V3 (R50): a scalar when BS is set. -/
def bsrc (o : V3) (n : Nat) : Use := if o.bs then ssrc o.b n else vsrc o.b o.pb o.lb n

/-- Operands of a binary V3 instruction with d, a and b of the given counts. -/
def v3Uses (o : V3) (nd na nb : Nat) : List Use := [vdst o.d nd, vsrc o.a o.pa o.la na, bsrc o nb]

/-- Operands of an accumulating V3 instruction: d is read too (R50). -/
def v3AccUses (o : V3) (nd na nb : Nat) : List Use := [vacc o.d nd, vsrc o.a o.pa o.la na, bsrc o nb]

/-- Operands of a unary V3 instruction. -/
def unUses (o : V3) (nd na : Nat) : List Use := [vdst o.d nd, vsrc o.a o.pa o.la na]

/-- Operands of a V3 comparison: a predicate, two sources. -/
def cmpUses (o : V3) (n : Nat) : List Use := [pwrite (o.d &&& 7), vsrc o.a o.pa o.la n, bsrc o n]

/-- Operands of a VI instruction. -/
def viUses (o : VI) (nd na : Nat) : List Use := [vdst o.d nd, vsrc o.a o.pa o.la na]

/-- 2 registers for a pair, 1 otherwise. -/
def pairs (b : Bool) : Nat := if b then 2 else 1

/-- The value of the a operand in lane i. -/
def Ctx.aval (c : Ctx) (o : V3) (pair : Bool) (i : Nat) : Nat := c.src pair o.a.toNat o.pa.toNat i

/-- The value of the b operand in lane i: a vector under its pattern, or a scalar unchanged in every lane (R37, R50). -/
def Ctx.bval (c : Ctx) (o : V3) (pair : Bool) (i : Nat) : Nat :=
  if o.bs then (if pair then c.s2 o.b.toNat else (c.s o.b.toNat).toNat) else c.src pair o.b.toNat o.pb.toNat i

/-- The value of d read under the identity pattern (R50). -/
def Ctx.dval (c : Ctx) (d : BitVec 5) (pair : Bool) (i : Nat) : Nat := c.val pair d.toNat i

/-! ### Packed elements (R10, R86) -/

/-- Element e of width w. -/
def elemAt (w e x : Nat) : Nat := x / 2 ^ (w * e) % 2 ^ w

/-- Elements packed from element 0 up. -/
def packElems (w : Nat) : List Nat → Nat
  | [] => 0
  | x :: xs => x % 2 ^ w + 2 ^ w * packElems w xs

/-- A result for each element, packed, with the sticky bits of all. -/
def perElem (w n : Nat) (f : Nat → Res) : Res :=
  let rs := (List.range n).map f
  (packElems w (rs.map (·.1)), rs.foldl (fun a r => a ||| r.2) 0)

/-! ### Results -/

/-- A lane value written to a register, or to a pair. -/
def vwrite (r : Nat) (pair : Bool) (m : Mask) (f : Nat → Nat) : List LaneWrite :=
  let lo : LaneWrite := { cls := 0, reg := r, mask := m, vals := perLane fun i => if hasLane m i then word (f i) else 0, poison := 0 }
  if pair then
    [lo, { cls := 0, reg := r + 1, mask := m, vals := perLane fun i => if hasLane m i then word (f i / 2 ^ 32) else 0, poison := 0 }]
  else [lo]

/-- A scalar written. -/
def swrite (r : Nat) (x : Nat) : List LaneWrite := [{ cls := 1, reg := r, mask := 0, vals := [word x], poison := 0 }]

/-- A scalar pair written. -/
def swrite2 (r : Nat) (x : Nat) : List LaneWrite := swrite r x ++ swrite (r + 1) (x / 2 ^ 32)

/-- Predicate bits written in the lanes of a mask. -/
def pwriteAct (r : Nat) (m v : Mask) : List LaneWrite := [{ cls := 2, reg := r, mask := m, vals := [v], poison := 0 }]

/-- A vector result computed lane by lane in the active lanes. -/
def Ctx.vresult (c : Ctx) (d : Nat) (pair : Bool) (f : Nat → Res) : Act :=
  let rs := (List.range 32).map fun i => if hasLane c.act i then f i else (0, 0)
  .done c.st (vwrite d pair c.act fun i => ((rs[i]?).getD (0, 0)).1) (rs.foldl (fun a r => a ||| r.2) 0)

/-- A predicate result computed lane by lane in the active lanes. -/
def Ctx.presult (c : Ctx) (p : Nat) (f : Nat → Bool × BitVec 8) : Act :=
  let rs := (List.range 32).map fun i => if hasLane c.act i then f i else (false, 0)
  .done c.st (pwriteAct p c.act (maskOf fun i => ((rs[i]?).getD (false, 0)).1)) (rs.foldl (fun a r => a ||| r.2) 0)

end Sys2Proof.Machine
end

