-- ==== Sys2Proof/Machine/Access.lean ====
section
/-! DEFINITION. Accesses: how a lane's address becomes locations or a fault (R127 to R137, R251, R340), which lanes depart as shuttles
(R297 to R308), what race detection answers (R260, R268 to R271), the holds of the matrix engine (R191, R293), and how a store reaches
its home or the region store buffer (R384, R385). -/

namespace Sys2Proof.Machine

/-- Why a lane's access cannot be made. -/
inductive AFault where
  | trap (cause : Nat) (info : Word)
  | viol (lane reason : Nat) (entry : Option Nat)
  | page (lane va : Nat)
  | stall (lane va : Nat)
  | shut (lane va : Nat)
  deriving DecidableEq, Repr

/-- A lane's access: its address as the logs name it (R271) and the places of its bytes. -/
structure Acc where
  lane : Nat
  va : Nat
  locs : List Loc
  deriving DecidableEq, Repr

/-- TRAPINFO of the alignment fault (R130); the field holds three bits (log 26). -/
def alignInfo (lane size : Nat) : Word := word (lane + 32 * (Nat.log2 size % 8))

/-- TRAPINFO of a fault that has a reason and no dimension (R130). -/
def reasonInfo (lane reason : Nat) : Word := word (lane + 32 * reason)

/-! ### Addresses -/

/-- A resolved access whose bytes lie behind a closed bridge is not made (R405). -/
def Ctx.reach (c : Ctx) (x : State × Acc) : Except AFault (State × Acc) :=
  if (x.1.shutOut c.w.die x.2.locs).isSome then .error (.shut x.2.lane x.2.va) else .ok x

/-- A window-form address (R251, R340): accepted in a wavefront of a STKDISP, within the dispatching block's window; the offset is checked
first, then the alignment, then the end of the access. -/
def Ctx.windowLoc (c : Ctx) (lane va size : Nat) (aligned : Bool) : Except AFault (List Loc) :=
  match c.w.wave.bind fun v => c.st.dispatch? v.dispatch with
  | none => .error (.viol lane 1 none)
  | some d =>
    if d.block = 0 ∨ bitsAt va 55 52 != 0 then .error (.viol lane 1 none)
    else match c.st.block? d.block with
      | none => .error (.trap 0xB (reasonInfo lane 2))
      | some b =>
        let pa := bitsAt va 51 0
        if pa < b.window ∨ b.window + 2 ^ 18 ≤ pa then .error (.trap 0xB (reasonInfo lane 2))
        else if b.scratchSize ≤ pa - b.window then .error (.trap 0xB (reasonInfo lane 1))
        else if !aligned then .error (.trap 0xA (alignInfo lane size))
        else if b.scratchSize < pa - b.window + size then .error (.trap 0xB (reasonInfo lane 1))
        else .ok ((Loc.scr b.uid (pa - b.window)).span size)

/-- A linear access of n bytes by a lane; must: the address has to be aligned; win: window-form addresses are accepted.
Alignment is checked before the address is translated (R127 gives no order: DEDUCED, log 63). -/
def Ctx.linear (c : Ctx) (write must win : Bool) (size : Nat) (s : State) (lane va : Nat) : Except AFault (State × Acc) :=
  if va / 2 ^ 56 = 0xFD ∧ win then
    match c.windowLoc lane va size (va % size == 0) with
    | .ok ls => c.reach (s, { lane := lane, va := va, locs := ls })
    | .error e => .error e
  else if must ∧ va % size ≠ 0 then .error (.trap 0xA (alignInfo lane size))
  else match s.translateN c.fn va size write with
    | .ok (s1, ls) => c.reach (s1, { lane := lane, va := va, locs := ls })
    | .error .page =>
      let at' := s.faultAt c.fn va size write
      .error (if write && s.migrating c.fn at' then .stall lane at' else .page lane at')
    | .error (.viol r entry) => .error (.viol lane r entry)

/-- A scratchpad access (R136, R137): the home block's group, or in a native wavefront its local store. -/
def Ctx.scratch (c : Ctx) (size : Nat) (s : State) (lane addr : Nat) : Except AFault (State × Acc) :=
  let place : Except Nat Loc :=
    if c.native then
      if addr / 2 ^ 16 != 0 then .error 3 else if c.w.ldsSize ≤ addr then .error 1 else .ok (.lds c.w.uid addr)
    else match c.block? with
      | none => .error 2
      | some b =>
        match s.scrPlace b addr with
        | .error r => .error r
        | .ok (u, o) => .ok (.scr u o)
  match place with
  | .error r => .error (.trap 0xB (reasonInfo lane r))
  | .ok l =>
    if addr % size ≠ 0 then .error (.trap 0xA (alignInfo lane size))
    else c.reach (s, { lane := lane, va := addr, locs := l.span size })

/-- The window-form address of a scratchpad byte, as conflict records name it (R271). -/
def State.windowAddr (s : State) (block off : Nat) : Nat := 0xFD * 2 ^ 56 + ((s.block? block).map (·.window)).getD 0 + off

/-- A tensor access (R141, R142): the element of a region whose coordinates are given, by its place in the linear view; the home
stack of its slab has to lie in the context's partition (R399). -/
def Ctx.element (c : Ctx) (r : Region) (s : State) (lane : Nat) (coords : List Int) : Except AFault (State × Acc) :=
  match r.desc.badDim coords with
  | some q => .error (.trap 0xC (word (lane + 32 * 2 + 256 * q)))
  | none =>
    let cs := coords.map Int.toNat
    let d := r.desc
    let at0 := d.logical cs / d.blockLen * d.unitBytes
    if !((r.slabs[d.slabOf cs]?).any fun sl => c.st.stackIn c.fn sl.home) then .error (.viol lane 3 none)
    else c.reach (s, { lane := lane, va := d.logical cs, locs := (Loc.view (regionKey r.fn r.index) at0).span d.unitBytes })

/-- Lanes resolved in ascending order: the first failing lane decides (R127), in the state that the walks of those before it leave. -/
def resolve (f : State → Nat → Except AFault (State × Acc)) : List Nat → State → Except (State × AFault) (State × List Acc)
  | [], s => .ok (s, [])
  | i :: rest, s =>
    match f s i with
    | .error e => .error (s, e)
    | .ok (s1, a) =>
      match resolve f rest s1 with
      | .error e => .error e
      | .ok (s2, as) => .ok (s2, a :: as)

/-! ### Race detection -/

/-- The granules of an access (R269). -/
def State.granules (s : State) (a : Acc) : List (LineKey × Nat) := (a.locs.filterMap s.granule).eraseDups

/-- The block that an agent belongs to, itself, as a warp, a copy or a matrix command. -/
def State.agentBlock (s : State) (a : AgentId) : Option Nat :=
  match a with
  | .block u | .matrix u _ => some u
  | .warp u => (s.warp? u).map (·.block)
  | .copy u => (s.copy? u).map (·.block)
  | _ => none

/-- The record of a queued ACCST of another block whose bytes have not landed, which a read meets (R278). The queue itself
keeps what matrix commands have open, so that it takes no place of R269's four; what they hold refuses writes before that
(R191, R293; log 41). -/
def State.unlanded (s : State) (agent : AgentId) (a : Acc) : Option (Acc × LineKey × Nat × SfrRecord) :=
  (s.heldLoc a.locs fun u m => m.op == 0xC9 && s.agentBlock agent != some u).bind fun h => (s.granule (.scr h.block h.off)).map fun g =>
    (a, g.1, g.2, { agent := h.holder, owner := 0, key := g.1, rd := 0, wr := dword (2 ^ g.2), closable := false, away := false })

/-- The first conflicting record an access of an agent meets (R268), with the lane and the granule. -/
def State.conflictOf (s : State) (agent : AgentId) (write : Bool) (as : List Acc) : Option (Acc × LineKey × Nat × SfrRecord) :=
  as.findSome? fun a =>
    match if s.records.isEmpty then none else (s.granules a).findSome? fun g =>
        (s.records.find? fun r => r.agent != agent && r.key == g.1 && (r.wr.getLsbD g.2 || (write && r.rd.getLsbD g.2))).map fun r =>
          (a, g.1, g.2, r) with
    | some x => some x
    | none => if write then none else s.unlanded agent a

/-- SPACE of a conflict record (R271). -/
def LineKey.space3 (k : LineKey) : Nat := if k.space = 1 then 1 else if k.space = 2 then 2 else 0

/-- ADDR of a conflict record for an access's granule (R271): the address of its aligned 4 bytes; in tensor space the index of the element
there, or of the first element of the scale block (DEDUCED, log 60). -/
def State.conflictAddr (s : State) (a : Acc) (k : LineKey) (bit : Nat) : Nat :=
  let hit := a.locs.findIdx? fun l => s.granule l == some (k, bit)
  match k.space with
  | 1 =>
    match hit.bind (a.locs[·]?) with
    | some (.view r b) => ((s.regionOf r).map fun x => b / x.desc.unitBytes * x.desc.blockLen).getD a.va
    | _ => a.va
  | 2 => s.windowAddr k.obj (k.line * 256 + bit * 4)
  | _ => (a.va + hit.getD 0) / 4 * 4

/-- HANDLE of a conflict record (R271). -/
def State.conflictHandle (s : State) (k : LineKey) : Nat :=
  if k.space = 1 then ((s.regionOf k.obj).map fun r => r.desc.gen * 65536 + r.index).getD 0 else 0

/-- A conflict record written to a context's error log (R271); the second component is its sequence number. -/
def State.logConflict (s : State) (fn sub addr this other handle : Nat) (strong otherW thisW : Bool) (space : Nat) : State × Nat :=
  let b28 := (if strong then 16 else 0) + (if otherW then 8 else 0) + (if thisW then 4 else 0) + space
  s.log fn sub addr this (other % 2 ^ 32) (other / 2 ^ 32) handle b28

/-- SUB for overlapping SFRs (R271): 4 for two warps of one block in debug mode. -/
def State.subOf (s : State) (a b : AgentId) : Nat :=
  match a, b with
  | .warp x, .warp y => if ((s.warp? x).map (·.block)) == ((s.warp? y).map (·.block)) then 4 else 1
  | _, _ => 1

/-- The memory-model-conflict exception (R268, R271): the record is logged and TRAPINFO names it. -/
def Ctx.conflictTrap (c : Ctx) (x : Acc × LineKey × Nat × SfrRecord) (write strong : Bool) : Act :=
  let (a, k, bit, r) := x
  let s := c.st
  let me := s.agentOf c.w
  let sub := s.subOf me r.agent
  let l := s.logConflict c.fn sub (s.conflictAddr a k bit) (s.wordOf c.w) (s.agentWord r.agent r.away) (s.conflictHandle k) strong
    (r.wr.getLsbD bit) write k.space3
  .trapIn l.1 0x10 (word (l.2 % 65536 * 65536 + a.lane * 16 + sub))

/-- The operand-held exception (R191, R293): SUB 2. -/
def Ctx.heldTrap (c : Ctx) (lane : Nat) (h : HeldByte) (strong : Bool) : Act :=
  let s := c.st
  let l := s.logConflict c.fn 2 (s.windowAddr h.block (h.off / 4 * 4)) (s.wordOf c.w) (s.agentWord h.holder false) 0 strong h.writes true 2
  .trapIn l.1 0x10 (word (l.2 % 65536 * 65536 + lane * 16 + 2))

/-- The first lane whose write meets a held byte. -/
def State.heldAcc (s : State) (as : List Acc) : Option (Nat × HeldByte) :=
  as.findSome? fun a => (s.heldLoc a.locs fun _ _ => true).map fun h => (a.lane, h)

/-- Whether an access of a strong instruction is plain after all: a read through a region's linear view (R258, R368). -/
def Acc.viewed (a : Acc) : Bool := a.locs.any fun l => match l with
  | .view _ _ => true
  | _ => false

/-- A strong access of debug mode that an earlier one of another agent, of another size, overlaps (R258), with that one and the granule
where they meet.  The earlier one counts while its agent's SFR is open, and one of the two writes (DEDUCED, log 59). -/
def State.mixedOf (s : State) (agent : AgentId) (write : Bool) (as : List Acc) : Option (Acc × LineKey × Nat × StrongAcc) :=
  if s.strongs.isEmpty then none
  else as.findSome? fun a => s.strongs.findSome? fun r =>
    if r.agent == agent || r.size == a.locs.length || !(r.write || write) then none
    else (a.locs.find? fun l => (r.loc.span r.size).contains l).bind fun l => (s.granule l).map fun g => (a, g.1, g.2, r)

/-- A remembered strong access as the record of a conflict. -/
def StrongAcc.record (r : StrongAcc) (k : LineKey) (bit : Nat) : SfrRecord :=
  { agent := r.agent, owner := r.owner, key := k, rd := dword (2 ^ bit), wr := if r.write then dword (2 ^ bit) else 0, closable := false, away := r.away }

/-- The exception of two strong accesses that overlap without covering the same bytes (R258, R271): SUB 3. -/
def Ctx.mixedTrap (c : Ctx) (x : Acc × LineKey × Nat × StrongAcc) (write : Bool) : Act :=
  let (a, k, bit, r) := x
  let s := c.st
  let l := s.logConflict c.fn 3 (s.conflictAddr a k bit) (s.wordOf c.w) (s.agentWord r.agent r.away) (s.conflictHandle k) true r.write write
    k.space3
  .trapIn l.1 0x10 (word (l.2 % 65536 * 65536 + a.lane * 16 + 3))

/-- One granule entered in an owner's record of its line (R269). -/
def State.addGranule (s : State) (agent : AgentId) (owner : Nat) (closable away write : Bool) (g : LineKey × Nat) : State :=
  let bit : Dword := dword (2 ^ g.2)
  let add (r : SfrRecord) : SfrRecord := if write then { r with wr := r.wr ||| bit } else { r with rd := r.rd ||| bit }
  let mine (r : SfrRecord) : Bool := r.owner == owner && r.agent == agent && r.key == g.1
  if s.records.any mine then { s with records := updateFirst mine add s.records }
  else
    let r : SfrRecord := { agent := agent, owner := owner, key := g.1, rd := 0, wr := 0, closable := closable, away := away }
    { s with records := s.records ++ [add r] }

/-- The records of a warp's plain accesses (R264, R269, R306). -/
def State.addRecords (s : State) (w : Warp) (write : Bool) (as : List Acc) : State :=
  (as.flatMap s.granules).foldl (fun s g => s.addGranule (s.agentOf w) w.uid true w.guest.isSome write g) s

/-- Strong accesses of debug mode as their homes remember them (R258). -/
def State.addStrongs (s : State) (w : Warp) (write : Bool) (as : List Acc) : State :=
  if s.debugOf w then
    { s with strongs := s.strongs ++ as.filterMap fun a => a.locs.head?.map fun l =>
        { agent := s.agentOf w, owner := w.uid, loc := l, size := a.locs.length, write := write, away := w.guest.isSome } }
  else s

/-- The line whose home keeps the records of a location (R269): 256 bytes of storage, in a slab those of its current order (R352). -/
def State.homeLine (s : State) (l : Loc) : Option LineKey :=
  match l with
  | .view r b =>
    (s.regionOf r).bind fun x =>
      let d := x.desc
      match d.coordsOf (b / d.unitBytes * d.blockLen) with
      | some c =>
        let k := d.slabOf c
        (x.slabs[k]?).map fun sl =>
          { space := 1, obj := r, line := k * 2 ^ 40 + d.lineOf (unitIndex d.rank d.blockLen sl.cur.toNat (d.extents k) (d.unitCoords c)) }
      | none => (s.granule l).map fun g => { g.1 with line := 2 ^ 60 + g.1.line }
  | _ => (s.granule l).map (·.1)

/-- The places in a region's linear view of the granules that a record holds. -/
def SfrRecord.places (r : SfrRecord) (unit : Nat) (dsb : Bool) : List Nat :=
  ((List.range 64).filter fun i => (r.rd ||| r.wr).getLsbD i).flatMap fun i =>
    let g := r.key.line * 64 + i
    if dsb then [g * unit] else (List.range 4).map (4 * g + ·)

/-- The open records at the home of a location's line (R269). -/
def State.lineRecords (s : State) (l : Loc) : List SfrRecord :=
  match l with
  | .view r _ =>
    let unit := ((s.regionOf r).map fun x => (x.desc.unitBytes, dsbWidth x.desc.etype != 0)).getD (1, false)
    s.records.filter fun x =>
      x.key.space == 1 && x.key.obj == r && (x.places unit.1 unit.2).any fun b => s.homeLine (.view r b) == s.homeLine l
  | _ => s.records.filter fun x => s.homeLine l == some x.key

/-- The SFRs that hold a record of a location's line, oldest first. -/
def State.lineOwners (s : State) (l : Loc) : List Nat := ((s.lineRecords l).map (·.owner)).eraseDups

/-- Whether a location's line holds four records of other SFRs and none of an owner (R269). -/
def State.lineFull (s : State) (owner : Nat) (l : Loc) : Bool := 4 ≤ (s.lineOwners l).length && !(s.lineOwners l).contains owner

/-- The first location of an access in each line that it reaches. -/
def State.lineHeads (s : State) (a : Acc) : List Loc := a.locs.eraseDupsBy fun x y => s.homeLine x == s.homeLine y

/-- A location of an access in a line that has no room for its record (R269). -/
def State.fullLine (s : State) (owner : Nat) (as : List Acc) : Option Loc :=
  if s.records.isEmpty then none else as.findSome? fun a => (s.lineHeads a).find? (s.lineFull owner)

/-- The pseudo-channel of a location in a bank-striped allocation. -/
def State.pchOf (s : State) (l : Loc) : Option (Nat × Nat) :=
  match l with
  | .stripe k _ => (s.stripes.find? (·.frame == k)).map fun t => (t.stack, t.pch)
  | _ => none

/-- Whether a function has been granted a run of device-physical bytes (R409, R432). -/
def State.granted (s : State) (fn pa n : Nat) : Bool :=
  (s.fn? fn).any fun f => f.frames.any fun g => g.1 ≤ pa && pa + n ≤ g.1 + g.2

/-- Where the bytes of a host access lie: a frame of the function's range in its partition (c 0), an address of the function's tables (c 1),
through which it names a view (R368), or host memory itself (c 2); none where it is not granted or does not translate. -/
def State.hostLocs (s : State) (fn c addr n : Nat) : Option (List Loc) :=
  if c = 2 then some ((Loc.host addr).span n)
  else if c = 1 then (s.translateN fn addr n false).toOption.map (·.2)
  else if !s.granted fn addr n || !((stackOf addr).any (s.stackIn fn)) then none
  else some ((List.range n).map fun i =>
    match s.stripes.find? fun t => t.frame ≤ addr + i && addr + i < t.frame + roundUp (t.rows * t.bytes) 4096 with
    | some t => .stripe t.frame (t.index (addr + i - t.frame))
    | none => .dev (addr + i))

/-- Bytes of a host access. -/
def hostBytes (a : Args) : Nat := if a.flag then a.bytes.length else a.b

/-- Where the bytes of a request of the host lie. -/
def State.requestLocs (s : State) (e : Event) : List Loc :=
  if e.row = .hostCxlAccess then (s.hostLocs e.args.a e.args.c e.args.value.toNat (hostBytes e.args)).getD [] else []

/-- Whether the place of a request of the host is in a queue. -/
def State.requestAt (s : State) (q : QueueAt) (e : Event) : Bool :=
  match q with
  | .pch stack idx => (s.requestLocs e).any fun l => s.pchOf l == some (stack, idx)
  | .page fn page => e.row == .hostCxlAccess && e.args.flag && e.args.c == 1 && e.args.a == fn && s.pageQueue fn e.args.value.toNat == .page fn page
  | .drive _ _ => false

/-- The arrivals of the accesses of agents, copies and the host that wait in a queue (R329, R403). -/
def State.queuedAt (s : State) (q : QueueAt) : List Nat :=
  let at' (x : Option Queued) : Option Nat := x.bind fun y => if y.at' = q then some y.since else none
  (s.warps.flatMap fun w => if w.parked then [] else w.splits.filterMap fun sp => at' sp.queued) ++
    (s.copies.filter fun c => (s.block? c.block).all (·.preempt == .none)).filterMap (fun c => at' c.queued) ++
    (s.held.filter (s.requestAt q)).map (·.args.since)

/-- The time at which an access with a place in a queue arrived there. -/
def sinceAt (queued : Option Queued) (q : QueueAt) : Option Nat := queued.bind fun x => if x.at' = q then some x.since else none

/-- The page at which an access that has stalled while it migrated waits behind one that stalled there before it (R403). -/
def State.pageBehind (s : State) (queued : Option Queued) : Option Nat :=
  match queued with
  | some { at' := .page fn page, since := n } => if (s.queuedAt (.page fn page)).any (· < n) then some page else none
  | _ => none

/-- Whether an access that arrived at a time, or arrives now, waits for a pseudo-channel (R218, R326, R329): another agent
owns it, it quiesces, or an earlier access queues for it. -/
def State.pchBusy (s : State) (me : Nat) (since : Option Nat) (stack pch : Nat) : Bool :=
  let p := s.pch stack pch
  p.owner != some me && (p.owner.isSome || p.quiesce || (s.queuedAt (.pch stack pch)).any fun n => since.all (n < ·))

/-- A pseudo-channel for which an access waits; queued is its place in a queue, where it has one. -/
def State.bankWait (s : State) (me : Nat) (queued : Option Queued) (as : List Acc) : Option (Nat × Nat) :=
  ((as.flatMap (·.locs)).filterMap s.pchOf).find? fun p => s.pchBusy me (sinceAt queued (.pch p.1 p.2)) p.1 p.2

/-! ### Reading and writing -/

/-- What the agent's own loads see: its buffered stores over memory (R256, R384). -/
def State.overlay (s : State) (u : Nat) : State :=
  match (s.warp? u).bind (·.region) with
  | some r => s.perform r.buf
  | none => s

/-- The block whose own warp or lane an agent is (R169); none for a wavefront. -/
def Warp.writer (w : Warp) : Option Nat := if w.kind = .native then none else some w.block

/-- Aligned 4-byte pieces that a buffer holds (R384). -/
def pieces (buf : List (Loc × Byte)) : Nat := ((buf.map fun x => x.1.align 4).eraseDups).length

/-- A byte put into a buffer, in place where it is held already (R384). -/
def bufPut (buf : List (Loc × Byte)) (x : Loc × Byte) : List (Loc × Byte) :=
  if buf.any (·.1 == x.1) then buf.map fun y => if y.1 == x.1 then x else y else buf ++ [x]

/-- A store that is performed at once; bytes that the warp still holds are overwritten by it (R256). -/
def State.storeNow (s : State) (w : Warp) (ws : List (Loc × Byte)) : State :=
  let s1 := s.land ws w.writer
  s1.modWarp w.uid fun w =>
    { w with region := w.region.map fun r => { r with buf := r.buf.filter fun y => !ws.any (·.1 == y.1) } }

/-- A store of an instruction that the region store buffer covers (R384): held in an open region; where the buffer has no room, the warp's
pieces and the store are performed in order and the region ends (R385). -/
def State.store (s : State) (w : Warp) (ws : List (Loc × Byte)) : State :=
  match ((s.warp? w.uid).bind (·.region)) with
  | none => s.land ws w.writer
  | some r =>
    let buf := ws.foldl bufPut r.buf
    let others := (s.warps.filter fun x => x.uid != w.uid && x.core == w.core && x.renames).foldl
      (fun n x => n + ((x.region.map fun r => pieces r.buf).getD 0)) 0
    if pieces buf + others ≤ 4096 then s.modWarp w.uid fun w => { w with region := some { r with buf := buf } }
    else ((s.land r.buf w.writer).land ws w.writer).modWarp w.uid fun w => { w with region := none }

/-- The bytes a lane loads, and whether any lies in a poisoned granule (R419). -/
def State.loadAcc (s : State) (a : Acc) : List Byte × Bool := (s.readLocs a.locs, s.poisoned a.locs)

/-- Lane values and poison written to the registers from r on, each value n registers of 32 bits. -/
def laneWrites (r n : Nat) (vals : List (Nat × Nat × Bool)) : List LaneWrite :=
  let m := maskOf fun i => vals.any (·.1 == i)
  let pois := maskOf fun i => vals.any fun v => v.1 == i && v.2.2
  (List.range n).map fun k =>
    { cls := 0, reg := r + k, mask := m, poison := pois,
      vals := perLane fun i => word ((((vals.find? (·.1 == i)).map (·.2.1)).getD 0) / 2 ^ (32 * k)) }

/-! ### Departures -/

/-- The leaf that a canonical address has, whether or not it lies in the partition, and the state's caches untouched. -/
def State.peekLeaf (s : State) (fn va : Nat) : Option Leaf :=
  if !canonical va then none
  else match s.leafOf fn va false with
    | .ok (_, l) => some l
    | .error _ =>
      match s.fn? fn with
      | none => none
      | some f => (s.walk fn va false false 4 f.root).toOption

/-- The target of a linear address (R297). -/
def State.linearTarget (s : State) (fn va : Nat) : Option Dest :=
  match s.peekLeaf fn va with
  | none => none
  | some l =>
    let pa := ptePa l.pte + va % 2 ^ l.size
    if !bitAt l.pte 52 then none
    else if 4 ≤ pteAttr l.pte then
      match s.locIn fn l va with
      | .ok (.view key b) => (s.regionOf key).map fun r => .stack (r.stackOf b)
      | _ => none
    else if bitAt l.pte 7 || isPeer pa then none
    else if bitAt l.pte 54 then (s.stripes.find? fun t => t.fn == fn && t.frame ≤ pa && pa < t.frame + t.rows * t.bytes).map fun t => .stack t.stack
    else (stackOf pa).map Dest.stack

/-- The target of an element (R297): its slab's home stack. -/
def Region.target (r : Region) (coords : List Int) : Option Dest :=
  if r.desc.target && (r.desc.badDim coords).isNone then
    (r.slabs[r.desc.slabOf (coords.map Int.toNat)]?).map fun sl => .stack sl.home
  else none

/-- The target of a scratchpad address (R297): the core of another block of the group, where the launch record says so. -/
def Ctx.scratchTarget (c : Ctx) (addr : Nat) : Option Dest :=
  match c.block?, c.launch? with
  | some b, some l =>
    if l.shuttle then
      match c.st.scrPlace b addr with
      | .ok (u, _) => if u = b.uid then none else (c.st.block? u).map fun x => .core x.core
      | .error _ => none
    else none
  | _, _ => none

/-- Where an away lane is. -/
def GuestInfo.place (g : GuestInfo) : Dest := if g.onStack then .stack g.site else .core g.site

/-- Whether a destination is where the lane executes (R298). -/
def Ctx.isHere (c : Ctx) (d : Dest) : Bool :=
  match c.w.guest with
  | some g => d == g.place
  | none => d == .core c.w.core

/-- Shed entries in use at a destination (R302): lanes that landed there, shuttles on their way, and lanes that hold a granted entry. -/
def State.shedUsed (s : State) (d : Dest) : Nat :=
  (s.warps.countP fun w => w.guest.any fun g => d == g.place) +
  (s.shuttles.countP fun h => !h.homeward && d == (if h.toStack then .stack h.site else .core h.site)) +
  (s.warps.foldl (fun n w => w.splits.foldl (fun n sp => sp.asks.foldl (fun n a => if a.dest = d then n + a.granted.length else n) n) n) 0)

/-- Free shed entries (R302): 256 at a stack, 64 at a core. -/
def State.shedFree (s : State) (d : Dest) : Nat :=
  (match d with | .stack _ => 256 | .core _ => 64) - s.shedUsed d

/-- The warp whose block and matrix context an agent uses: itself, or an away lane's home warp. -/
def State.homeWarp (s : State) (w : Warp) : Warp := ((w.guest.bind fun g => s.warp? g.home)).getD w

/-- The names that a home warp would hold more: the carried ones that a departure allocates, and those that the departing instruction
itself writes at home (R11, R301). -/
def Ctx.departNames (c : Ctx) (names : List Nat) : List Nat :=
  let home := c.st.homeWarp c.w
  (carryList c.w.carryV ++ if c.w.renames then names else []).eraseDups.filter fun r => !(home.reg r).live

/-- Whether a destination drains guests for pre-emption (R308): at a core a block gives it up, at a stack a wavefront of the
function is asked to end. -/
def State.drains (s : State) (fn : Nat) (d : Dest) : Bool :=
  match d with
  | .core n => s.blocks.any fun b => b.core == n && b.preempt == .requested
  | .stack n => s.warps.any fun w => s.fnOf w == fn && w.wave.any fun v => v.stack == n && v.request.isSome

/-- The reason, before the shed's answer, for which a departure is refused (R308); 0 where it is not.  A destination behind a closed bridge
(R405) is refused as one outside the partition is. -/
def Ctx.refusal (c : Ctx) (names : List Nat) (d : Dest) : Nat :=
  let s := c.st
  let home := s.homeWarp c.w
  let compacted := (c.block?.map (·.compacted)).getD false
  let inside := match d with
    | .stack n => s.stackIn c.fn n && !s.bridgeShut c.w.die (dieOfStack n)
    | .core n => (s.fnDies c.fn).contains (dieOfCore n) && !s.bridgeShut c.w.die (dieOfCore n)
  let hops : Nat := (c.w.guest.map (·.hops)).getD 0
  let tooMany := 12 < (carryList c.w.carryV).length || 4 < (carryList c.w.carryS).length ||
    home.quota < home.held + (c.departNames names).length
  let draining := s.drains c.fn d || (c.block?.map fun b => b.preempt != .none).getD false || !(((s.fn? c.fn).map (·.running)).getD true)
  if compacted then 6 else if !inside then 5 else if 4 ≤ hops then 2 else if tooMany then 3 else if draining then 4 else 0

/-- A lane that would depart: its destination, and the reason of R308 before the shed's answer (0: none). -/
structure Want where
  lane : Nat
  dest : Dest
  early : Nat
  deriving DecidableEq, Repr

/-- The lanes of an instruction that would depart (R298). -/
def Ctx.wants (c : Ctx) (names : List Nat) (target : Nat → Option Dest) : List Want :=
  (lanesOf c.act).filterMap fun i =>
    (target i).bind fun d => if c.isHere d then none else some { lane := i, dest := d, early := c.refusal names d }

/-- One destination asked for the lanes that want it (R302): those that hold a grant keep it, and free entries go to the others in
ascending order. -/
def Ctx.askOne (c : Ctx) (wants : List Want) (d : Dest) : ShedAsk :=
  let old := (c.sp.asks.find? (·.dest == d)).getD { dest := d, tries := 0, granted := [] }
  let mine := (wants.filter fun x => x.dest == d && x.early == 0).map (·.lane)
  let kept := old.granted.filter mine.contains
  { old with granted := kept ++ (mine.filter fun i => !kept.contains i).take (c.st.shedFree d) }

/-- The lanes of a destination that its shed has not granted an entry. -/
def ShedAsk.lacking (a : ShedAsk) (wants : List Want) : List Nat :=
  (wants.filter fun x => x.dest == a.dest && x.early == 0 && !a.granted.contains x.lane).map (·.lane)

/-- What is decided about an instruction's departures (R298): a lane is refused under must; a shed is asked again; the lanes of a guest
wavefront decide together; or the lanes that go, with the entries that they hold until they do. -/
inductive Plan where
  | refuse (lane reason : Nat)
  | ask (asks : List ShedAsk)
  | team (s : State)
  | go (lanes : List (Nat × Dest)) (asks : List ShedAsk)
  deriving DecidableEq, Repr

/-- The position of a lane in its guest wavefront or warp (R303): ascending LANEID, then home warp index. -/
def Warp.position (w : Warp) : Nat := (w.guest.map (·.lane)).getD 0 * 32 + w.idx

/-- The instructions that an away lane has executed. -/
def Warp.stepCount (w : Warp) : Nat := ((w.splits.head?).map (·.steps)).getD 0

/-- The lanes of an away lane's guest wavefront or warp that have not executed its instruction yet, by position; none where it is alone. -/
def Ctx.team (c : Ctx) : List Warp :=
  let mates := c.st.warps.filter fun x => c.w.guest.any fun g => g.group != 0 && x.stepCount == c.sp.steps && x.guest.any (·.group == g.group)
  if mates.length ≤ 1 then [] else sortBy Warp.position mates

/-- An away lane's split changed. -/
def State.modGuest (s : State) (u : Nat) (f : Split → Split) : State := s.modWarp u fun w => { w with splits := w.splits.modify 0 f }

/-- Whether an away lane holds a granted entry. -/
def State.holdsEntry (s : State) (u : Nat) : Bool :=
  (s.warp? u).any fun w => (w.splits.head?).any fun sp => sp.asks.any fun a => !a.granted.isEmpty

/-- A lane of a team asks a shed (R302): it takes an entry where one is free. -/
def State.askEntry (s : State) (u : Nat) (x : Want) : State :=
  if s.holdsEntry u || s.shedFree x.dest == 0 then s
  else s.modGuest u fun sp =>
    let old := (sp.asks.find? (·.dest == x.dest)).getD { dest := x.dest, tries := 0, granted := [] }
    { sp with asks := sp.asks.filter (·.dest != x.dest) ++ [{ old with granted := [x.lane] }] }

/-- The departures of one instruction of a guest wavefront or warp (R298, R302, R303). Every lane first answers where it
would go; then their sheds are asked together, the first lane counting the attempts of each agent, and no lane departs or
makes its access before all is decided. Under must the lowest refused lane takes the fault home (R311), every granted entry
is released, and the others execute the instruction again (DEDUCED, log 65). -/
def Ctx.teamPlan (c : Ctx) (team : List Warp) (mine : List Want) (must : Bool) : Plan :=
  match c.sp.vote with
  | none => .team (c.st.modGuest c.w.uid fun sp =>
      { sp with vote := some { dest := (mine.head?).map (·.dest), early := ((mine.head?).map (·.early)).getD 0, decided := false } })
  | some v =>
    if v.decided then .go ((mine.filter fun _ => c.st.holdsEntry c.w.uid).map fun x => (x.lane, x.dest)) c.sp.asks
    else
      let want (x : Warp) : Option (Nat × Want) := ((x.splits.head?).bind (·.vote)).bind fun v => v.dest.map fun d =>
        (x.uid, { lane := (x.guest.map (·.lane)).getD 0, dest := d, early := v.early })
      let wants := team.filterMap want
      let asking := wants.filter (·.2.early == 0)
      let s1 := asking.foldl (fun s x => s.askEntry x.1 x.2) c.st
      let lacking := (((asking.filter fun x => !s1.holdsEntry x.1).map (·.2.dest)).eraseDups)
      let tries (d : Dest) : Nat := ((c.sp.asks.find? (·.dest == d)).map (·.tries)).getD 0
      if lacking.any fun d => tries d < 3 then
        .team (s1.modGuest c.w.uid fun sp =>
          { sp with status := .shed, asks := sp.asks ++ (lacking.filter fun d => !sp.asks.any (·.dest == d)).map fun d =>
              { dest := d, tries := 0, granted := [] } })
      else
        match if must then wants.find? fun x => !s1.holdsEntry x.1 else none with
        | some x =>
          let s2 := team.foldl (fun s y => s.modGuest y.uid fun sp => { sp with asks := [], vote := none }) s1
          .team (s2.takeTrap x.1 0 0xF (word ((if x.2.early = 0 then 1 else x.2.early) + x.2.lane * 16)) c.sp.pc c.sp.slot)
        | none => .team (team.foldl (fun s y => s.modGuest y.uid fun sp => { sp with vote := sp.vote.map fun v => { v with decided := true } }) s1)

/-- The departures of an instruction's lanes (R298, R302, R308): all their destinations are asked together, each up to three times more, and
only then is anything decided.  always: MIGR departs under stay as well. -/
def Ctx.plan (c : Ctx) (names : List Nat) (target : Nat → Option Dest) (always : Bool) : Plan :=
  let mig := modeMig c.m
  if c.native || (mig = 0 && !always) then .go [] []
  else
    let wants := c.wants names target
    let team := if c.team.isEmpty && c.sp.vote.isSome then [c.w] else c.team
    if !team.isEmpty then c.teamPlan team wants (mig = 2)
    else
    let asks := (((wants.filter (·.early == 0)).map (·.dest)).eraseDups).map (c.askOne wants)
    if asks.any fun a => a.tries < 3 && !(a.lacking wants).isEmpty then .ask asks
    else
      let granted (x : Want) : Bool := asks.any fun a => a.dest == x.dest && a.granted.contains x.lane
      match if mig = 2 then wants.find? fun x => !granted x else none with
      | some x => .refuse x.lane (if x.early = 0 then 1 else x.early)
      | none => .go ((wants.filter granted).map fun x => (x.lane, x.dest)) asks

/-- The state in which the executing split keeps what sheds have granted it while it waits. -/
def Ctx.keep (c : Ctx) (asks : List ShedAsk) : State :=
  if asks == c.sp.asks then c.st
  else c.st.modWarp c.w.uid fun w => w.setSplit c.k { ((w.splits[c.k]?).getD Split.free) with asks := asks }

/-- Lanes depart (R299, R301, R305): operations that write carried registers complete first (an away lane's all, since it leaves with their
sticky bits), the SFR ends with a release, carried names are allocated at home, the lanes leave their split and lose their
reservations. -/
def State.depart (s : State) (u k : Nat) (go : List (Nat × Dest)) (pc : Dword) (slot : Nat) : State :=
  match s.warp? u with
  | none => s
  | some w0 =>
    let carried (o : LongOp) : Bool := w0.guest.isSome || o.writes.any fun x =>
      (x.cls == 0 && hasLane w0.carryV x.reg) || (x.cls == 1 && hasLane w0.carryS x.reg)
    let home := (w0.guest.map (·.home)).getD u
    let allocNew (w : Warp) : Warp := ((carryList w0.carryV).filter fun r => !(w.reg r).live).foldl (fun w r => w.alloc r) w
    let s2 := ((s.completeOps u carried).endSfr u).modWarp home allocNew
    match s2.warp? u with
    | none => s2
    | some w =>
      let m := maskOf fun i => go.any (·.1 == i)
      let shuttle (x : Nat × Dest) : Shuttle :=
        let h := s2.pack w home x.1 pc slot
        { h with hops := h.hops + 1, epoch := (w0.guest.map (·.epoch)).getD w0.sfr,
                 toStack := match x.2 with | .stack _ => true | .core _ => false,
                 site := match x.2 with | .stack n => n | .core n => n }
      let s3 : State := { s2 with shuttles := s2.shuttles ++ go.map shuttle }
      if w.guest.isSome then
        { s3 with warps := s3.warps.filter (fun x => x.uid != u), cur := if s3.cur = some u then none else s3.cur }
      else s3.modWarp u fun w =>
        let sp := (w.splits[k]?).getD Split.free
        { (w.missAway sp.missed m).setSplit k { sp with lanes := sp.lanes &&& ~~~m, asks := [], queued := none } with
          away := w.away ||| m, resv := w.resv.filter fun r => !hasLane m r.lane }

/-! ### The access itself -/

/-- What kind of access an instruction makes: it writes, it is strong (R258), its lanes can depart (R132), it ends the SFR first (R176), and
the vector names that it writes. -/
structure MemKind where
  write : Bool
  strong : Bool := false
  migrates : Bool := false
  ends : Bool := false
  names : List Nat := []
  deriving DecidableEq, Repr

/-- What an access answers beside its state: register writes and sticky bits. -/
abbrev MemResult := State × List LaneWrite × BitVec 8

/-- A block in pre-emption whose scratchpad an access of another block's agent names: the access waits until it is resident again (R392). -/
def State.windowWait (s : State) (block : Nat) (as : List Acc) : Option Nat :=
  (as.flatMap (·.locs)).findSome? fun l => match l with
    | .scr b _ => if b ≠ block ∧ (s.block? b).any (·.preempt != .none) then some b else none
    | _ => none

/-- The accesses of an instruction that are strong: not a read through a region's linear view (R258, R368). -/
def MemKind.strongs (kind : MemKind) (as : List Acc) : List Acc := if kind.strong then as.filter fun a => kind.write || !a.viewed else []

/-- The state in which an access is made (R264): the SFR has ended where the instruction ends it, whose own access belongs to
no SFR; a plain access of another instruction is recorded; a strong one is remembered in debug mode (R258). -/
def Ctx.entered (c : Ctx) (kind : MemKind) (s : State) (as : List Acc) : State :=
  (if kind.ends then s.endSfr c.w.uid else if kind.strong then s else s.addRecords c.w kind.write as).addStrongs c.w kind.write (kind.strongs as)

/-- The split waits in a queue, at the place of its first arrival (R329, R403). -/
def Ctx.queueFor (c : Ctx) (asks : List ShedAsk) (q : QueueAt) : State :=
  let s := c.keep asks
  if (sinceAt c.sp.queued q).isSome then s
  else
    let u := s.fresh
    u.2.modWarp c.w.uid fun w => w.setSplit c.k { ((w.splits[c.k]?).getD Split.free) with queued := some { at' := q, since := u.1 } }

/-- What an access fault makes of the instruction, in the state that the walks before it leave: a trap, a replay (R131), or for a store or
atomic to a page that migrates a stall at its old home (R403). -/
def AFault.act (f : AFault) (c : Ctx) : Act :=
  match f with
  | .trap cause info => .trapIn c.st cause info
  | .viol lane reason entry => .trapIn (c.st.logEntry c.fn entry) 0xD (reasonInfo lane reason)
  | .page lane va => .replayIn c.st va (reasonInfo lane 1)
  | .stall _ va => .wait (c.queueFor c.sp.asks (c.st.pageQueue c.fn va)) (.wait (.migrating (dword va)))
  | .shut lane va => .trapIn (c.st.log c.fn 0x15 va (c.st.wordOf c.w) 0 2 0 0).1 0xD (reasonInfo lane 3)

/-- The lanes that make their access where they are, checked for holds, conflicts and full lines, then performed (R127, R176, R191, R264,
R268, R269). -/
def Ctx.perform (c : Ctx) (kind : MemKind) (go : List (Nat × Dest)) (asks : List ShedAsk) (s1 : State) (as : List Acc)
    (effect : State → List Acc → MemResult) : Act :=
  let c1 : Ctx := { c with st := s1 }
  match s1.bankWait c.w.uid c.sp.queued as, s1.pageBehind c.sp.queued with
  | some p, _ => .wait (c1.queueFor asks (.pch p.1 p.2)) (.wait (.stripe p.1 p.2))
  | none, some page => .wait (c1.keep asks) (.wait (.migrating (dword page)))
  | none, none =>
    match s1.windowWait c.w.block as with
    | some b => .wait (c1.keep asks) (.wait (.window b))
    | none =>
      match if kind.write then s1.heldAcc as else none with
      | some h => c1.heldTrap h.1 h.2 kind.strong
      | none =>
        match s1.conflictOf (s1.agentOf c.w) kind.write as with
        | some x => c1.conflictTrap x kind.write (kind.strong && (kind.write || !x.1.viewed))
        | none =>
          match s1.mixedOf (s1.agentOf c.w) kind.write (kind.strongs as) with
          | some x => c1.mixedTrap x kind.write
          | none =>
            match if kind.strong || kind.ends then none else s1.fullLine c.w.uid as with
            | some l => .wait (c1.keep asks) (.wait (.record l))
            | none =>
              let s2 := if go.isEmpty then s1 else s1.depart c.w.uid c.k go c.sp.pc c.sp.slot
              if c.guest && !go.isEmpty then .jump s2
              else
                let r := effect (c.entered kind s2 as) as
                .done r.1 r.2.1 r.2.2

/-- A memory instruction over its active lanes: departures are decided (R298), every lane's address is resolved, a departing
one's too (R127), and the access of the others is made. -/
def Ctx.access (c : Ctx) (kind : MemKind) (lanes : List Nat) (target : Nat → Option Dest)
    (address : State → Nat → Except AFault (State × Acc)) (effect : State → List Acc → MemResult) : Act :=
  match if kind.migrates then c.plan kind.names target false else .go [] [] with
  | .refuse lane reason => .trap 0xF (word (reason + lane * 16))
  | .ask asks => .wait (c.keep asks) .shed
  | .team s => .jump s
  | .go go asks =>
    match resolve address lanes c.st with
    | .error (s1, e) => e.act { c with st := s1 }
    | .ok (s1, as) => c.perform kind go asks s1 (as.filter fun a => !go.any (·.1 == a.lane)) effect

end Sys2Proof.Machine
end

