-- ==== Sys2Proof/Machine/Float.lean ====
section
/-! DEFINITION. IEEE 754 arithmetic exactly, and one rounding (R62 to R67), the float results of R107 to R111, and the function
instructions of R83 and R84 from high-precision references. -/

namespace Sys2Proof.Machine

/-- A floating-point format: exponent and fraction bits (R62). -/
structure Fmt where
  eb : Nat
  mb : Nat
  deriving DecidableEq, Repr

/-- The format of a float TYPE (R62). -/
def Ty.fmt : Ty → Fmt
  | .f16 => { eb := 5, mb := 10 }
  | .bf16 => { eb := 8, mb := 7 }
  | .f64 => { eb := 11, mb := 52 }
  | _ => { eb := 8, mb := 23 }

/-- Exponent bias (R62). -/
def Fmt.bias (f : Fmt) : Nat := 2 ^ (f.eb - 1) - 1
/-- Width in bits. -/
def Fmt.width (f : Fmt) : Nat := f.eb + f.mb + 1
/-- The sign bit of a pattern. -/
def Fmt.signBit (f : Fmt) (neg : Bool) : Nat := if neg then 2 ^ (f.width - 1) else 0
/-- Infinity (R62). -/
def Fmt.inf (f : Fmt) (neg : Bool) : Nat := f.signBit neg + (2 ^ f.eb - 1) * 2 ^ f.mb
/-- The default quiet NaN (R62, R64). -/
def Fmt.nan (f : Fmt) : Nat := (2 ^ f.eb - 1) * 2 ^ f.mb + 2 ^ (f.mb - 1)
/-- The largest finite value. -/
def Fmt.maxFin (f : Fmt) (neg : Bool) : Nat := f.inf neg - 1
/-- A zero. -/
def Fmt.zero (f : Fmt) (neg : Bool) : Nat := f.signBit neg

/-- A value: a NaN, an infinity, or (-1)^neg x m x 2^e exactly. -/
inductive Fp where
  | nan (signalling : Bool)
  | inf (neg : Bool)
  | fin (neg : Bool) (m : Nat) (e : Int)
  deriving DecidableEq, Repr

/-- The value of a pattern (R62), subnormals flushed when ftz holds (R67). -/
def Fmt.unpack (f : Fmt) (ftz : Bool) (x : Nat) : Fp :=
  let neg := bitAt x (f.width - 1)
  let ex := x / 2 ^ f.mb % 2 ^ f.eb
  let fr := x % 2 ^ f.mb
  if ex = 2 ^ f.eb - 1 then (if fr = 0 then .inf neg else .nan (fr < 2 ^ (f.mb - 1)))
  else if ex = 0 then .fin neg (if ftz then 0 else fr) (1 - (f.bias : Int) - f.mb)
  else .fin neg (fr + 2 ^ f.mb) ((ex : Int) - f.bias - f.mb)

/-- Whether a rounding of n + rem / 2^k moves away from zero. -/
def roundsUp (r : Rnd) (neg : Bool) (n rem k : Nat) : Bool :=
  match r with
  | .rne => 2 ^ k < 2 * rem || (2 * rem == 2 ^ k && n % 2 == 1)
  | .rtz => false
  | .rup => !neg && rem != 0
  | .rdn => neg && rem != 0
  | .rna => rem != 0 && 2 ^ k ≤ 2 * rem

/-- m x 2^e as a multiple of 2^q: the rounded multiple and whether it is exact. -/
def roundAt (r : Rnd) (neg : Bool) (m : Nat) (e q : Int) : Nat × Bool :=
  if q ≤ e then (m * 2 ^ (e - q).toNat, true)
  else
    let k := (q - e).toNat
    let n := m / 2 ^ k
    let rem := m % 2 ^ k
    (if roundsUp r neg n rem k then n + 1 else n, rem == 0)

/-- roundT for a float TYPE (R38, R63, R66, R67): the exact value rounded once.  An inexact value is given with an odd lowest bit far
below the precision. -/
def Fmt.round (f : Fmt) (r : Rnd) (ftz : Bool) (neg : Bool) (m : Nat) (e : Int) : Res :=
  if m = 0 then (f.zero neg, 0)
  else
    let emin : Int := 1 - (f.bias : Int)
    let top := e + (bitLen m : Int) - 1
    let q := max (top - f.mb) (emin - f.mb)
    let nx := roundAt r neg m e q
    let bits := ((q + f.mb + f.bias).toNat - 1) * 2 ^ f.mb + nx.1
    let free := roundAt r neg m e (top - f.mb)
    let tiny := decide (top - f.mb + (bitLen free.1 : Int) - 1 < emin)
    if (2 ^ f.eb - 1) * 2 ^ f.mb ≤ bits then
      let away := match r with
        | .rne | .rna => true
        | .rtz => false
        | .rup => !neg
        | .rdn => neg
      (if away then f.inf neg else f.maxFin neg, stOF ||| stNX)
    else if ftz && nx.1 != 0 && bits < 2 ^ f.mb then (f.zero neg, stUF ||| stNX)
    else (f.signBit neg + bits, (if nx.2 then 0 else stNX) ||| (if tiny && !nx.2 then stUF else 0))

/-- A value rounded; a NaN is the default NaN (R64). -/
def Fmt.ofFp (f : Fmt) (r : Rnd) (ftz : Bool) (x : Fp) : Res :=
  match x with
  | .nan _ => (f.nan, 0)
  | .inf neg => (f.inf neg, 0)
  | .fin neg m e => f.round r ftz neg m e

/-- NV where an operand is a signalling NaN (R64). -/
def Fp.snan : Fp → BitVec 8
  | .nan true => stNV
  | _ => 0

/-- Whether a value is a NaN. -/
def Fp.isNan : Fp → Bool
  | .nan _ => true
  | _ => false

/-- The signed integer n of a finite value n x 2^e at a lower exponent. -/
def signedAt (neg : Bool) (m : Nat) (e q : Int) : Int :=
  let x : Int := ((m * 2 ^ (e - q).toNat : Nat) : Int)
  if neg then -x else x

/-- The exact sum of two finite values; a zero sum of opposite signs is +0, or -0 under rdn (R63). -/
def addExact (r : Rnd) (n1 : Bool) (m1 : Nat) (e1 : Int) (n2 : Bool) (m2 : Nat) (e2 : Int) : Fp :=
  let q := min e1 e2
  let x := signedAt n1 m1 e1 q + signedAt n2 m2 e2 q
  if x = 0 then .fin (if n1 = n2 then n1 else r == .rdn) 0 q
  else .fin (decide (x < 0)) x.natAbs q

/-- A sum with the invalid cases of R64. -/
def fpAdd (r : Rnd) (a b : Fp) : Fp × BitVec 8 :=
  match a, b with
  | .nan _, _ | _, .nan _ => (.nan false, a.snan ||| b.snan)
  | .inf x, .inf y => if x = y then (.inf x, 0) else (.nan false, stNV)
  | .inf x, _ => (.inf x, 0)
  | _, .inf y => (.inf y, 0)
  | .fin n1 m1 e1, .fin n2 m2 e2 => (addExact r n1 m1 e1 n2 m2 e2, 0)

/-- The negated value. -/
def Fp.neg : Fp → Fp
  | .nan s => .nan s
  | .inf n => .inf !n
  | .fin n m e => .fin (!n) m e

/-- A product with the invalid cases of R64. -/
def fpMul (a b : Fp) : Fp × BitVec 8 :=
  match a, b with
  | .nan _, _ | _, .nan _ => (.nan false, a.snan ||| b.snan)
  | .inf x, .inf y => (.inf (x != y), 0)
  | .inf x, .fin y m _ => if m = 0 then (.nan false, stNV) else (.inf (x != y), 0)
  | .fin x m _, .inf y => if m = 0 then (.nan false, stNV) else (.inf (x != y), 0)
  | .fin n1 m1 e1, .fin n2 m2 e2 => (.fin (n1 != n2) (m1 * m2) (e1 + e2), 0)

/-- a x b + d, fused (R63, R107). -/
def fpFma (r : Rnd) (a b d : Fp) : Fp × BitVec 8 :=
  let p := fpMul a b
  let x := fpAdd r p.1 d
  (x.1, p.2 ||| x.2)

/-- A quotient of finite values to `prec` bits, an inexact one with an odd lowest bit. -/
def divExact (prec m1 : Nat) (e1 : Int) (m2 : Nat) (e2 : Int) : Nat × Int :=
  let k := prec + bitLen m2 - bitLen m1
  let q := m1 * 2 ^ k / m2
  let rem := m1 * 2 ^ k % m2
  (2 * q + (if rem = 0 then 0 else 1), e1 - (k : Int) - e2 - 1)

/-- A quotient (R64, R66): x / 0 sets DZ. -/
def fpDiv (prec : Nat) (a b : Fp) : Fp × BitVec 8 :=
  match a, b with
  | .nan _, _ | _, .nan _ => (.nan false, a.snan ||| b.snan)
  | .inf _, .inf _ => (.nan false, stNV)
  | .inf x, .fin y _ _ => (.inf (x != y), 0)
  | .fin x _ _, .inf y => (.fin (x != y) 0 0, 0)
  | .fin n1 m1 e1, .fin n2 m2 e2 =>
    if m2 = 0 then (if m1 = 0 then (.nan false, stNV) else (.inf (n1 != n2), stDZ))
    else if m1 = 0 then (.fin (n1 != n2) 0 0, 0)
    else
      let q := divExact prec m1 e1 m2 e2
      (.fin (n1 != n2) q.1 q.2, 0)

/-- The integer square root, bit by bit from 2^(n-1) down. -/
def isqrt : Nat → Nat → Nat → Nat
  | 0, _, acc => acc
  | n + 1, x, acc => if (acc + 2 ^ n) * (acc + 2 ^ n) ≤ x then isqrt n x (acc + 2 ^ n) else isqrt n x acc

/-- The square root of a finite value to `prec` bits, an inexact one with an odd lowest bit. -/
def sqrtExact (prec m : Nat) (e : Int) : Nat × Int :=
  let k0 := 2 * prec - bitLen m
  let k := if (e - (k0 : Int)) % 2 = 0 then k0 else k0 + 1
  let x := m * 2 ^ k
  let y := isqrt (bitLen x / 2 + 1) x 0
  (2 * y + (if y * y = x then 0 else 1), (e - (k : Int)) / 2 - 1)

/-- A square root (R64). -/
def fpSqrt (prec : Nat) (a : Fp) : Fp × BitVec 8 :=
  match a with
  | .nan _ => (.nan false, a.snan)
  | .inf neg => if neg then (.nan false, stNV) else (.inf false, 0)
  | .fin neg m e =>
    if m = 0 then (.fin neg 0 0, 0)
    else if neg then (.nan false, stNV)
    else
      let y := sqrtExact prec m e
      (.fin false y.1 y.2, 0)

/-- a < b for values that are no NaN; zeros compare equal. -/
def fpLess (a b : Fp) : Bool :=
  match a, b with
  | .inf x, .inf y => x && !y
  | .inf x, _ => x
  | _, .inf y => !y
  | .fin n1 m1 e1, .fin n2 m2 e2 => decide (signedAt n1 m1 e1 (min e1 e2) < signedAt n2 m2 e2 (min e1 e2))
  | _, _ => false

/-- Equality of values that are no NaN; zeros compare equal (R111). -/
def fpEqual (a b : Fp) : Bool := !a.isNan && !b.isNan && !fpLess a b && !fpLess b a

/-- The sign of a value. -/
def Fp.isNeg : Fp → Bool
  | .nan _ => false
  | .inf n => n
  | .fin n _ _ => n

/-- R65 minimumNumber (max false) and maximumNumber (max true): one NaN gives the other operand; -0 counts below +0. -/
def fpMinMax (max : Bool) (a b : Fp) : Fp × BitVec 8 :=
  let nv := a.snan ||| b.snan
  if a.isNan && b.isNan then (.nan false, nv)
  else if a.isNan then (b, nv)
  else if b.isNan then (a, nv)
  else
    let aLow := fpLess a b || (fpEqual a b && a.isNeg)
    (if aLow = max then b else a, nv)

/-- |x|. -/
def Fp.abs : Fp → Fp
  | .nan s => .nan s
  | .inf _ => .inf false
  | .fin _ m e => .fin false m e

/-! ### Results on patterns -/

/-- A binary operation on patterns: operands flushed, the result rounded once (R107). -/
def floatOp2 (t : Ty) (r : Rnd) (ftz : Bool) (op : Fp → Fp → Fp × BitVec 8) (a b : Nat) : Res :=
  let f := t.fmt
  let x := op (f.unpack ftz a) (f.unpack ftz b)
  let y := f.ofFp r ftz x.1
  (y.1, y.2 ||| x.2)

/-- A fused operation on patterns (R107). -/
def floatFma (t : Ty) (r : Rnd) (ftz negP negD : Bool) (a b d : Nat) : Res :=
  let f := t.fmt
  let av := f.unpack ftz a
  let x := fpFma r (if negP then av.neg else av) (f.unpack ftz b) (if negD then (f.unpack ftz d).neg else f.unpack ftz d)
  let y := f.ofFp r ftz x.1
  (y.1, y.2 ||| x.2)

/-- FADD, FSUB, FMUL, FDIV, FMIN, FMAX, FABSD (R107). -/
def floatAdd (t : Ty) (r : Rnd) (ftz : Bool) (a b : Nat) : Res := floatOp2 t r ftz (fpAdd r) a b
def floatSub (t : Ty) (r : Rnd) (ftz : Bool) (a b : Nat) : Res := floatOp2 t r ftz (fun x y => fpAdd r x y.neg) a b
def floatMul (t : Ty) (r : Rnd) (ftz : Bool) (a b : Nat) : Res := floatOp2 t r ftz fpMul a b
/-- FDIV (R107): an exact quotient leaves NX clear, by R66 (DEDUCED, log 49). -/
def floatDiv (t : Ty) (r : Rnd) (ftz : Bool) (a b : Nat) : Res := floatOp2 t r ftz (fpDiv (t.fmt.mb + 4)) a b
def floatMinMax (t : Ty) (ftz max : Bool) (a b : Nat) : Res := floatOp2 t .rne ftz (fpMinMax max) a b
/-- |a - b| with one rounding of the absolute value; the result's sign is 0 (R107). -/
def floatAbsd (t : Ty) (r : Rnd) (ftz : Bool) (a b : Nat) : Res :=
  floatOp2 t r ftz (fun x y => let d := fpAdd r x y.neg; (d.1.abs, d.2)) a b

/-- FLDEXP (R107): a x 2^n. -/
def floatLdexp (t : Ty) (r : Rnd) (ftz : Bool) (a : Nat) (n : Int) : Res :=
  let f := t.fmt
  match f.unpack ftz a with
  | .fin neg m e =>
    let lim := clampTo (-8192) 8192 n
    f.round r ftz neg m (e + lim)
  | x => let y := f.ofFp r ftz x; (y.1, y.2 ||| x.snan)

/-- FDOT2 (R80, R108): x0 y0 + x1 y1 exactly, one rounding. -/
def floatDot2 (t : Ty) (r : Rnd) (ftz : Bool) (x0 y0 x1 y1 : Nat) : Res :=
  let f := t.fmt
  let p := fpMul (f.unpack ftz x0) (f.unpack ftz y0)
  let q := fpMul (f.unpack ftz x1) (f.unpack ftz y1)
  let s := fpAdd r p.1 q.1
  let z := f.ofFp r ftz s.1
  (z.1, z.2 ||| s.2 ||| p.2 ||| q.2)

/-- FABS, FNEG, FCPYS (R64, R107, R109): only the sign bit changes. -/
def floatAbs (t : Ty) (a : Nat) : Res := (a % 2 ^ (t.width - 1), 0)
def floatNeg (t : Ty) (a : Nat) : Res := (Nat.xor a (2 ^ (t.width - 1)), 0)
def floatCpys (t : Ty) (a b : Nat) : Res := (a % 2 ^ (t.width - 1) + b / 2 ^ (t.width - 1) * 2 ^ (t.width - 1), 0)

/-- FRND (R109): an integral value of TYPE; NX is not set. -/
def floatRnd (t : Ty) (r : Rnd) (ftz : Bool) (a : Nat) : Res :=
  let f := t.fmt
  match f.unpack ftz a with
  | .fin neg m e => ((f.round .rne false neg (roundAt r neg m e (max e 0)).1 (max e 0)).1, 0)
  | x => ((f.ofFp r ftz x).1, x.snan)

/-- FCLASS (R109). -/
def floatClass (t : Ty) (a : Nat) : Nat :=
  let f := t.fmt
  match f.unpack false a with
  | .nan sig => if sig then 1 else 2
  | .inf neg => if neg then 4 else 512
  | .fin neg m _ =>
    if m = 0 then (if neg then 32 else 64)
    else if m < 2 ^ f.mb then (if neg then 16 else 128)
    else if neg then 8 else 256

/-- FEXPT (R109) as a signed integer of w bits. -/
def floatExpt (t : Ty) (w : Nat) (ftz : Bool) (a : Nat) : Res :=
  match t.fmt.unpack ftz a with
  | .fin _ m e => (if m = 0 then 2 ^ (w - 1) else wrapTo w (e + (bitLen m : Int) - 1), 0)
  | .inf _ => (2 ^ (w - 1) - 1, 0)
  | .nan sig => (2 ^ (w - 1) - 1, if sig then stNV else 0)

/-- FSAT (R109): max(+0, min(a, 1)). -/
def floatSat (t : Ty) (ftz : Bool) (a : Nat) : Res :=
  let f := t.fmt
  match f.unpack ftz a with
  | .nan sig => (0, if sig then stNV else 0)
  | x =>
    let lo := (fpMinMax false x (.fin false 1 0)).1
    ((f.ofFp .rne false (fpMinMax true (.fin false 0 0) lo).1).1, 0)

/-- FSETP (R111) on patterns; un is UN. -/
def floatCmp (t : Ty) (ftz : Bool) (k : Cmp) (a b : Nat) : Bool × BitVec 8 :=
  let x := t.fmt.unpack ftz a
  let y := t.fmt.unpack ftz b
  if x.isNan || y.isNan then
    match k with
    | .eq => (false, x.snan ||| y.snan)
    | .ne => (true, x.snan ||| y.snan)
    | _ => (false, stNV)
  else (match k with
    | .eq => fpEqual x y
    | .ne => !fpEqual x y
    | .lt => fpLess x y
    | .le => !fpLess y x
    | .gt => fpLess y x
    | .ge => !fpLess x y, 0)

/-- FSETP.UN (R111). -/
def floatUn (t : Ty) (a b : Nat) : Bool × BitVec 8 :=
  let x := t.fmt.unpack false a
  let y := t.fmt.unpack false b
  (x.isNan || y.isNan, x.snan ||| y.snan)

/-! ### Conversions (R68) -/

/-- Float to float. -/
def cvtFF (src dst : Ty) (r : Rnd) (ftz : Bool) (a : Nat) : Res :=
  let x := src.fmt.unpack ftz a
  let y := dst.fmt.ofFp r ftz x
  (y.1, y.2 ||| x.snan)

/-- Integer to float. -/
def cvtIF (src dst : Ty) (r : Rnd) (ftz : Bool) (a : Nat) : Res :=
  let x := src.read a
  dst.fmt.round r ftz (decide (x < 0)) x.natAbs 0

/-- Float to integer: rounded, then clamped whatever SAT holds. -/
def cvtFI (src dst : Ty) (r : Rnd) (ftz sat : Bool) (a : Nat) : Res :=
  match src.fmt.unpack ftz a with
  | .nan _ => (0, stNV)
  | .inf neg => (wrapTo dst.width (if neg then dst.minVal else dst.maxVal), stNV ||| (if sat then stSATD else 0))
  | .fin neg m e =>
    let n := roundAt r neg m e (max e 0)
    let v : Int := signedAt neg n.1 (max e 0) 0
    let w := clampTo dst.minVal dst.maxVal v
    if w = v then (wrapTo dst.width v, if n.2 then 0 else stNX)
    else (wrapTo dst.width w, stNV ||| (if sat then stSATD else 0))

/-- Integer to integer. -/
def cvtII (src dst : Ty) (sat : Bool) (a : Nat) : Res := roundInt dst sat (src.read a)

/-! ### References for the function instructions (R83) -/

/-- Fraction bits of the references. -/
def refBits : Nat := 200

/-- pi x 2^1400, rounded down. -/
def piBits : Nat := 0x3243f6a8885a308d313198a2e03707344a4093822299f31d0082efa98ec4e6c89452821e638d01377be5466cf34e90c6cc0ac29b7c97c50dd3f84d5b5b54709179216d5d98979fb1bd1310ba698dfb5ac2ffd72dbd01adfb7b8e1afed6a267e96ba7c9045f12c7f9924a19947b3916cf70801f2e2858efc16636920d871574e69a458fea3f4933d7e0d95748f728eb658718bcd5882154aee7b54a41dc25a59b59c30d5392af26013c5d1b023286085

/-- ln 2 x 2^256, rounded down. -/
def ln2Bits : Nat := 0xb17217f7d1cf79abc9e3b39803f2f6af40f343267298b62d8a0d175b8baafa2b

/-- Sum of y^k / k! in fixed point: term, next k, sum. -/
def expSeries (y : Nat) : Nat → Nat → Nat → Nat → Nat
  | 0, _, _, sum => sum
  | fuel + 1, k, term, sum =>
    let t := term * y / 2 ^ refBits / k
    if t = 0 then sum else expSeries y fuel (k + 1) t (sum + t)

/-- 2^f for f / 2^refBits in [0, 1), in fixed point. -/
def exp2Frac (f : Nat) : Nat := expSeries (f * ln2Bits / 2 ^ 256) 80 1 (2 ^ refBits) (2 ^ refBits)

/-- 2 atanh(z) in fixed point, z in [0, 1/3]: power, next odd k, sum. -/
def atanhSeries (z2 : Nat) : Nat → Nat → Nat → Nat → Nat
  | 0, _, _, sum => 2 * sum
  | fuel + 1, k, p, sum =>
    let t := p / k
    if t = 0 then 2 * sum else atanhSeries z2 fuel (k + 2) (p * z2 / 2 ^ refBits) (sum + t)

/-- log2 of 1 + z with 1 + z = m / 2^n in [1, 2), in fixed point. -/
def log2Frac (m n : Nat) : Nat :=
  let z := (m - 2 ^ n) * 2 ^ refBits / (m + 2 ^ n)
  atanhSeries (z * z / 2 ^ refBits) 90 1 z 0 * 2 ^ 256 / ln2Bits

/-- sin (k = 1, term = y) or cos (k = 0, term = 1) in fixed point: alternating series. -/
def trigSeries (y2 : Nat) : Nat → Nat → Nat → Int → Int → Int
  | 0, _, _, _, sum => sum
  | fuel + 1, k, term, sgn, sum =>
    let t := term * y2 / 2 ^ refBits / ((k + 1) * (k + 2))
    if t = 0 then sum else trigSeries y2 fuel (k + 2) t (-sgn) (sum - sgn * (t : Int))

/-- sin of a positive value, as quadrant and the two series at the reduced argument: (quadrant, sin, cos) in fixed point. -/
def trigReduce (m : Nat) (e : Int) : Nat × Int × Int :=
  let x := if 0 ≤ e + 1300 then m * 2 ^ (e + 1300).toNat else m / 2 ^ (-(e + 1300)).toNat
  let half := piBits / 2 ^ 101
  let y := x % half / 2 ^ (1300 - refBits)
  let y2 := y * y / 2 ^ refBits
  (x / half % 4, trigSeries y2 60 1 y 1 (y : Int), trigSeries y2 60 0 (2 ^ refBits) 1 ((2 ^ refBits : Nat) : Int))

/-- A reference: sign, magnitude m x 2^e from below. -/
abbrev Ref := Bool × Nat × Int

/-- A signed fixed-point number as a reference. -/
def refOf (x : Int) : Ref := (decide (x < 0), 2 * x.natAbs + 1, -((refBits : Int) + 1))

/-- A value just below m x 2^e in magnitude. -/
def refBelow (neg : Bool) (m : Nat) (e : Int) : Ref := (neg, m * 2 ^ 80 - 1, e - 80)

/-- sin or cos of a finite non-zero value (R110: radians). -/
def trigRef (cos neg : Bool) (m : Nat) (e : Int) : Ref :=
  if e + (bitLen m : Int) < -40 then (if cos then refBelow false 1 0 else refBelow neg m e)
  else
    let t := trigReduce m e
    let q := if cos then (t.1 + 1) % 4 else t.1
    let v := if q % 2 = 0 then t.2.1 else t.2.2
    refOf (if (2 ≤ q) != (neg && !cos) then -v else v)

/-- 2^x for a finite x. -/
def exp2Ref (neg : Bool) (m : Nat) (e : Int) : Ref :=
  if e + (bitLen m : Int) < -150 then (if neg then refBelow false 1 0 else (false, 2 ^ 80 + 1, -80))
  else
    let x := if 0 ≤ e + (refBits : Int) then m * 2 ^ (min (e + refBits).toNat 400) else m / 2 ^ (-(e + refBits)).toNat
    let y : Int := if neg then -(x : Int) else x
    let i := y / ((2 ^ refBits : Nat) : Int)
    let f := (y % ((2 ^ refBits : Nat) : Int)).toNat
    (false, 2 * exp2Frac f + 1, clampTo (-5000) 5000 i - refBits - 1)

/-- log2 of a positive finite value. -/
def log2Ref (m : Nat) (e : Int) : Ref :=
  let n := bitLen m - 1
  refOf ((e + n) * ((2 ^ refBits : Nat) : Int) + (log2Frac m n : Int))

/-- tanh of a finite non-zero value, from exp(2x). -/
def tanhRef (neg : Bool) (m : Nat) (e : Int) : Ref :=
  let top := e + (bitLen m : Int)
  if top < -40 then refBelow neg m e
  else if 7 < top then refBelow neg 1 0
  else
    let x2 := if 0 ≤ e + 1 + (refBits : Int) then m * 2 ^ (e + 1 + refBits).toNat else m / 2 ^ (-(e + 1 + refBits)).toNat
    let y := x2 * 2 ^ 256 / ln2Bits
    let ex := exp2Frac (y % 2 ^ refBits) * 2 ^ (y / 2 ^ refBits)
    (neg, 2 * ((ex - 2 ^ refBits) * 2 ^ refBits / (ex + 2 ^ refBits)) + 1, -((refBits : Int) + 1))

end Sys2Proof.Machine
end

