-- ==== Sys2Proof/Machine/Dsb.lean ====
section
/-! DEFINITION. Dual-scale block floating point (R69 to R73) and fx128 (R74 to R77). -/

namespace Sys2Proof.Machine

/-- Whether a dsb format has 8-bit elements, by its TYPE. -/
def Ty.dsb8 : Ty → Bool
  | .dsb8i | .dsb8f => true
  | _ => false

/-- The format code of header byte 0 (R69). -/
def dsbCode : Ty → Nat
  | .dsb8i => 0x81
  | .dsb8f => 0x82
  | .dsb4i => 0x41
  | _ => 0x42

/-- The TYPE a format code names (R69). -/
def dsbOfCode (x : Nat) : Option Ty :=
  match x with
  | 0x41 => some .dsb4i
  | 0x42 => some .dsb4f
  | 0x81 => some .dsb8i
  | 0x82 => some .dsb8f
  | _ => none

/-- Whether a header word is valid (R70). -/
def dsbValid (h : Nat) : Bool := (dsbOfCode (h % 256)).isSome && bitsAt h 31 27 == 0 && bitsAt h 26 24 ≤ 3

/-- L of a header (R69). -/
def dsbLen (h : Nat) : Nat := 16 * 2 ^ bitsAt h 25 24

/-- Magnitude of an element's magnitude field as m x 2^e (R71). -/
def dsbMag (t : Ty) (x : Nat) : Nat × Int :=
  match t with
  | .dsb4i => (x % 4, 0)
  | .dsb4f => (x % 4, -1)
  | .dsb8i => (x % 64, 0)
  | _ => if x % 64 / 8 = 0 then (x % 8, -5) else (x % 8 + 8, (x % 64 / 8 : Int) - 6)

/-- An element's value under a valid header (R71). -/
def dsbDecode (h x : Nat) : Fp :=
  match dsbOfCode (h % 256) with
  | none => .nan false
  | some t =>
    let w := t.width
    let e := if bitAt x (w - 1) then bitsAt h 23 16 else bitsAt h 15 8
    let g := dsbMag t x
    if e = 255 then .nan false
    else if e = 0 ∨ g.1 = 0 then .fin false 0 0
    else .fin (bitAt x (w - 2)) g.1 (g.2 + (e : Int) - 127)

/-- maxmag as m x 2^e (R71). -/
def dsbMax : Ty → Nat × Int
  | .dsb4i => (3, 0)
  | .dsb4f => (3, -1)
  | .dsb8i => (63, 0)
  | _ => (15, 1)

/-- m1 x 2^e1 at most m2 x 2^e2. -/
def dyLe (m1 : Nat) (e1 : Int) (m2 : Nat) (e2 : Int) : Bool :=
  m1 * 2 ^ (e1 - min e1 e2).toNat ≤ m2 * 2 ^ (e2 - min e1 e2).toNat

/-- The magnitude of a value: none for an infinity. -/
def Fp.mag : Fp → Option (Nat × Int)
  | .fin _ m e => some (m, e)
  | _ => none

/-- Step 3 of R73 before the clamp: the smallest E with amax at most maxmag x 2^(E - 127). -/
def dsbScale (t : Ty) (m : Nat) (e : Int) : Int :=
  let g := dsbMax t
  let k := e + (bitLen m : Int) - (bitLen g.1 : Int) - 1
  let fits (k : Int) : Bool := dyLe m e g.1 k
  127 - g.2 + (if fits k then k else if fits (k + 1) then k + 1 else k + 2)

/-- E0 and E1 of a block (R73 steps 1 to 4). -/
def dsbScales (t : Ty) (span : Nat) (xs : List Fp) : Nat × Nat :=
  if xs.any Fp.isNan then (255, 255)
  else
    let hasInf := xs.any fun x => x.mag.isNone
    let amax := xs.foldl (fun b x => match x.mag with
      | some g => if dyLe g.1 g.2 b.1 b.2 then b else g
      | none => b) (0, (0 : Int))
    if !hasInf && amax.1 == 0 then (0, 0)
    else
      let e0 := if hasInf then 254 else (clampTo 1 254 (dsbScale t amax.1 amax.2)).toNat
      (e0, max 1 (e0 - span))

/-- A magnitude rounded to the format's grid: the field of the grid value (R73 step 6), and whether it is exact. -/
def dsbRound (t : Ty) (r : Rnd) (neg : Bool) (m : Nat) (e : Int) : Nat × Bool :=
  match t with
  | .dsb4i | .dsb8i => roundAt r neg m e 0
  | .dsb4f => roundAt r neg m e (-1)
  | _ =>
    let q := max (e + (bitLen m : Int) - 4) (-5)
    let n := roundAt r neg m e q
    ((q + 5).toNat * 8 + n.1, n.2)

/-- An element's code and flags (R73 steps 5 and 6). -/
def dsbElem (t : Ty) (r : Rnd) (e0 e1 : Nat) (x : Fp) : Res :=
  if e0 = 255 ∨ e0 = 0 then (0, 0)
  else
    let g := dsbMax t
    let w := t.width
    let maxField := 2 ^ (w - 2) - 1
    let neg := x.isNeg
    match x.mag with
    | none => ((if neg then 2 ^ (w - 2) else 0) + maxField, stOF ||| stNX)
    | some v =>
      let sel := dyLe v.1 v.2 g.1 (g.2 + (e1 : Int) - 127)
      let q := (v.1, v.2 - (((if sel then e1 else e0) : Nat) : Int) + 127)
      let big := !dyLe q.1 q.2 g.1 g.2
      let n := dsbRound t r neg q.1 q.2
      let mag := if big then maxField else n.1
      let fl := if big then stOF ||| stNX else if n.2 then 0 else if mag = 0 then stUF ||| stNX else stNX
      ((if sel then 2 ^ (w - 1) else 0) + (if neg && mag != 0 then 2 ^ (w - 2) else 0) + mag, fl)

/-- The header word of a block (R69, R117). -/
def dsbHeader (t : Ty) (e0 e1 l : Nat) : Nat :=
  dsbCode t + 256 * e0 + 65536 * e1 + 2 ^ 24 * (if l = 16 then 0 else if l = 32 then 1 else if l = 64 then 2 else 3)

/-- A whole block in memory form (R69, R73): header, elements, flags. -/
def dsbBlock (t : Ty) (r : Rnd) (span l : Nat) (xs : List Fp) : List Byte × BitVec 8 :=
  let e := dsbScales t span xs
  let rs := xs.map (dsbElem t r e.1 e.2)
  let codes := rs.map (·.1)
  let bytes := if t.dsb8 then codes.map (BitVec.ofNat 8)
    else (List.range (l / 2)).map fun j => BitVec.ofNat 8 (codes.getD (2 * j) 0 + 16 * codes.getD (2 * j + 1) 0)
  (leBytes 4 (dsbHeader t e.1 e.2 l) ++ bytes, rs.foldl (fun a x => a ||| x.2) 0)

/-- Element j of a block in memory form, decoded (R69, R71). -/
def dsbBlockElem (blk : List Byte) (j : Nat) : Fp :=
  let h := fieldAt blk 0 4
  let code := if bitsAt h 7 4 = 8 then fieldAt blk (4 + j) 1 else fieldAt blk (4 + j / 2) 1 / 16 ^ (j % 2) % 16
  dsbDecode h code

/-- The default span of a format (R73). -/
def dsbSpan (t : Ty) : Nat := if t.dsb8 then 4 else 2

/-! ### fx128 -/

/-- Lowest and highest fx128 integers (R74). -/
def fxMin : Int := -((2 ^ 127 : Nat) : Int)
def fxMax : Int := ((2 ^ 127 : Nat) : Int) - 1

/-- One addition of an f32 pattern into an fx128 integer (R75). -/
def fxAdd (acc : Int) (x : Nat) : Int × BitVec 8 :=
  match Ty.f32.fmt.unpack false x with
  | .nan _ => (acc, stNV)
  | y =>
    let conv : Int × BitVec 8 := match y with
      | .fin neg m e =>
        if dyLe 1 63 m e then (if neg then fxMin else fxMax, stFXOV)
        else
          let n := roundAt .rtz neg m e (-64)
          (if neg then -(n.1 : Int) else (n.1 : Int), if n.2 then 0 else stNX)
      | v => (if v.isNeg then fxMin else fxMax, stFXOV)
    let sum := acc + conv.1
    let z := clampTo fxMin fxMax sum
    (z, conv.2 ||| (if z = sum then 0 else stFXOV))

/-- FXCVT (R77): rounded to a float TYPE; zero gives +0. -/
def fxRound (t : Ty) (r : Rnd) (v : Int) : Res := t.fmt.round r false (decide (v < 0)) v.natAbs (-64)

end Sys2Proof.Machine
end

