-- ==== Sys2Proof/Machine/FloatOps.lean ====
section
/-! DEFINITION. The floating-point instructions of R107 to R112: arithmetic, the function instructions, comparisons, reductions. -/

namespace Sys2Proof.Machine

/-- ROUND and FTZ of the clause. -/
def Ctx.rnd (c : Ctx) : Rnd := modeRnd c.m
def Ctx.ftz (c : Ctx) : Bool := modeFtz c.m

/-- A binary float operation on every element (R107). -/
def issueF2 (opc : Nat) (o : V3) (s : State) (f : Ty → Rnd → Bool → Nat → Nat → Res) : Out :=
  issue opc s (fun c => v3Uses o (pairs c.ty.pair) (pairs c.ty.pair) (pairs c.ty.pair)) (tyCheck opc Ty.isFloat) fun c =>
    let t := c.ty
    c.vresult o.d.toNat t.pair fun i =>
      perElem t.width t.count fun e => f t c.rnd c.ftz (elemAt t.width e (c.aval o t.pair i)) (elemAt t.width e (c.bval o t.pair i))

/-- A fused operation: d is the third source (R50, R107). -/
def issueF3 (opc : Nat) (o : V3) (s : State) (negP negD : Bool) : Out :=
  issue opc s (fun c => v3AccUses o (pairs c.ty.pair) (pairs c.ty.pair) (pairs c.ty.pair)) (tyCheck opc Ty.isFloat) fun c =>
    let t := c.ty
    c.vresult o.d.toNat t.pair fun i =>
      perElem t.width t.count fun e =>
        floatFma t c.rnd c.ftz negP negD (elemAt t.width e (c.aval o t.pair i)) (elemAt t.width e (c.bval o t.pair i))
          (elemAt t.width e (c.dval o.d t.pair i))

/-- FADD (R107). -/
def execFadd (o : V3) (s : State) : Out := issueF2 0x40 o s floatAdd
/-- FSUB (R107). -/
def execFsub (o : V3) (s : State) : Out := issueF2 0x41 o s floatSub
/-- FMUL (R107). -/
def execFmul (o : V3) (s : State) : Out := issueF2 0x42 o s floatMul
/-- FFMA (R107): a x b + d. -/
def execFfma (o : V3) (s : State) : Out := issueF3 0x43 o s false false
/-- FFMS (R107): a x b - d. -/
def execFfms (o : V3) (s : State) : Out := issueF3 0x44 o s false true
/-- FNMA (R107): -(a x b) + d. -/
def execFnma (o : V3) (s : State) : Out := issueF3 0x45 o s true false
/-- FMIN (R65, R107). -/
def execFmin (o : V3) (s : State) : Out := issueF2 0x46 o s fun t _ ftz a b => floatMinMax t ftz false a b
/-- FMAX (R65, R107). -/
def execFmax (o : V3) (s : State) : Out := issueF2 0x47 o s fun t _ ftz a b => floatMinMax t ftz true a b
/-- FABSD (R107). -/
def execFabsd (o : V3) (s : State) : Out := issueF2 0x48 o s floatAbsd
/-- FCPYS (R64, R107): no flag, no FTZ. -/
def execFcpys (o : V3) (s : State) : Out := issueF2 0x50 o s fun t _ _ a b => floatCpys t a b
/-- FDIV (R83, R107): long-latency, correctly rounded. -/
def execFdiv (o : V3) (s : State) : Out := issueF2 0x5A o s floatDiv

/-- FDOT2 (R80, R108): packed pairs for f16 and bf16, register pairs for f32; f64 traps. -/
def execFdot2 (o : V3) (s : State) : Out :=
  issue 0x49 s (fun c => let n := if c.ty = .f32 then 2 else 1; v3Uses o 1 n n)
    (tyCheck 0x49 fun t => t.isFloat && t != .f64) fun c =>
    let t := c.ty
    let p := t == .f32
    c.vresult o.d.toNat false fun i =>
      let a := c.aval o p i
      let b := c.bval o p i
      floatDot2 t c.rnd c.ftz (elemAt t.width 0 a) (elemAt t.width 0 b) (elemAt t.width 1 a) (elemAt t.width 1 b)

/-- FLDEXP (R107): the exponent is b read as an i32 per lane, never a pair. -/
def execFldexp (o : V3) (s : State) : Out :=
  issue 0x4E s (fun c => v3Uses o (pairs c.ty.pair) (pairs c.ty.pair) 1) (tyCheck 0x4E Ty.isFloat) fun c =>
    let t := c.ty
    c.vresult o.d.toNat t.pair fun i =>
      perElem t.width t.count fun e =>
        floatLdexp t c.rnd c.ftz (elemAt t.width e (c.aval o t.pair i)) (toSigned 32 (c.bval o false i))

/-- A unary float operation on every element (R109). -/
def issueF1 (opc : Nat) (o : V3) (s : State) (f : Ty → Rnd → Bool → Nat → Res) : Out :=
  issue opc s (fun c => unUses o (pairs c.ty.pair) (pairs c.ty.pair)) (tyCheck opc Ty.isFloat) fun c =>
    let t := c.ty
    c.vresult o.d.toNat t.pair fun i => perElem t.width t.count fun e => f t c.rnd c.ftz (elemAt t.width e (c.aval o t.pair i))

/-- FABS (R64, R109). -/
def execFabs (o : V3) (s : State) : Out := issueF1 0x4A o s fun t _ _ a => floatAbs t a
/-- FNEG (R64, R109). -/
def execFneg (o : V3) (s : State) : Out := issueF1 0x4B o s fun t _ _ a => floatNeg t a
/-- FRND (R109). -/
def execFrnd (o : V3) (s : State) : Out := issueF1 0x4C o s floatRnd
/-- FSAT (R109). -/
def execFsat (o : V3) (s : State) : Out := issueF1 0x51 o s fun t _ ftz a => floatSat t ftz a

/-- FCLASS and FEXPT: 16 bits per element, or one 32-bit value (R109). -/
def issueFint (opc : Nat) (o : V3) (s : State) (f : Ty → Nat → Bool → Nat → Res) : Out :=
  issue opc s (fun c => unUses o 1 (pairs c.ty.pair)) (tyCheck opc Ty.isFloat) fun c =>
    let t := c.ty
    let w := if t.width = 16 then 16 else 32
    c.vresult o.d.toNat false fun i => perElem w t.count fun e => f t w c.ftz (elemAt t.width e (c.aval o t.pair i))

/-- FCLASS (R109): no FTZ, and no flag. -/
def execFclass (o : V3) (s : State) : Out := issueFint 0x4D o s fun t _ _ a => (floatClass t a, 0)
/-- FEXPT (R109): a signalling NaN sets NV, as R64 says of every arithmetic operation; its own row is silent (DEDUCED, log 49). -/
def execFexpt (o : V3) (s : State) : Out := issueFint 0x4F o s fun t w ftz a => floatExpt t w ftz a

/-! ### The function instructions (R83, R84, R110) -/

/-- The patterns within U units in the last place of a reference, near its truncation (R83). -/
def Fmt.within (f : Fmt) (u : Nat) (r : Ref) : List Nat :=
  let m := r.2.1
  let e := r.2.2
  let q := max (e + (bitLen m : Int) - 1 - f.mb) (1 - (f.bias : Int) - f.mb)
  let t := (f.round .rtz false false m e).1
  let ok (x : Nat) : Bool :=
    match f.unpack false x with
    | .fin _ n k =>
      let b := min (min k e) q
      decide ((signedAt false n k b - signedAt false m e b).natAbs ≤ (u * 2 ^ (q - b).toNat))
    | _ => false
  ((List.range 9).filterMap fun i => if 4 ≤ t + i then some (t + i - 4) else none).filter ok

/-- A free result among those R83 allows, with NX, and UF where it is tiny (R66, R67, R84). -/
def pickWithin (opc : Nat) (t : Ty) (r : Rnd) (ftz : Bool) (a u : Nat) (x : Ref) : Res :=
  let f := t.fmt
  let base := f.round r false x.1 x.2.1 x.2.2
  if base.2 &&& stOF != 0 then base
  else
    let cs := f.within u x
    let y := cs.getD (Config.ulpChoice opc t.code r.code a % cs.length) (base.1 % 2 ^ (f.width - 1))
    let tiny := y < 2 ^ f.mb
    (if tiny && ftz then f.zero x.1 else f.signBit x.1 + y, stNX ||| (if tiny then stUF else 0))

/-- A reference correctly rounded, with NX (R83, R84). -/
def roundRef (t : Ty) (r : Rnd) (ftz : Bool) (x : Ref) : Res :=
  let y := t.fmt.round r ftz x.1 x.2.1 x.2.2
  (y.1, y.2 ||| stNX)

/-- f16 and bf16 (R83). -/
def Ty.half (t : Ty) : Bool := t.width == 16

/-- The result of a function instruction for a reference: correctly rounded for f16 and bf16 where R83 says so, else free. -/
def funcResult (opc : Nat) (exactHalf : Bool) (u : Nat) (t : Ty) (r : Rnd) (ftz : Bool) (a : Nat) (x : Ref) : Res :=
  if exactHalf && t.half then roundRef t r ftz x else pickWithin opc t r ftz a (if t.half then 1 else u) x

/-- FRCP (R84). -/
def funcRcp (t : Ty) (r : Rnd) (ftz : Bool) (a : Nat) : Res :=
  let f := t.fmt
  match f.unpack ftz a with
  | .nan sig => (f.nan, if sig then stNV else 0)
  | .inf neg => (f.zero neg, 0)
  | .fin neg m e =>
    if m = 0 then (f.inf neg, stDZ)
    else if m = 2 ^ (bitLen m - 1) then f.round r ftz neg 1 (-(e + (bitLen m : Int) - 1))
    else
      let q := divExact (f.mb + 8) 1 0 m e
      funcResult 0x52 true 1 t r ftz a (neg, q.1, q.2)

/-- FRSQ (R84). -/
def funcRsq (t : Ty) (r : Rnd) (ftz : Bool) (a : Nat) : Res :=
  let f := t.fmt
  match f.unpack ftz a with
  | .nan sig => (f.nan, if sig then stNV else 0)
  | .inf neg => if neg then (f.nan, stNV) else (f.zero false, 0)
  | .fin neg m e =>
    if m = 0 then (f.inf neg, stDZ)
    else if neg then (f.nan, stNV)
    else
      let k := 2 * (bitLen m + f.mb + 8)
      let k2 := if ((k : Int) + e) % 2 = 0 then k else k + 1
      let n := 2 ^ k2 / m
      let y := isqrt (bitLen n / 2 + 1) n 0
      let exact := y * y * m == 2 ^ k2
      funcResult 0x53 true 1 t r ftz a (false, 2 * y + (if exact then 0 else 1), -(((k2 : Int) + e) / 2) - 1)

/-- FSQRT (R83, R84): correctly rounded under ROUND, with NX for every finite input above zero, since R84 lists no exact case of FSQRT; a
root of zero is exact (DEDUCED, log 49). -/
def funcSqrt (t : Ty) (r : Rnd) (ftz : Bool) (a : Nat) : Res :=
  let f := t.fmt
  let x := fpSqrt (f.mb + 8) (f.unpack ftz a)
  match x.1 with
  | .fin neg m e => if m = 0 then (f.zero neg, x.2) else roundRef t r ftz (neg, m, e)
  | v => ((f.ofFp r ftz v).1, (f.ofFp r ftz v).2 ||| x.2)

/-- FEXP2 (R84). -/
def funcExp2 (t : Ty) (r : Rnd) (ftz : Bool) (a : Nat) : Res :=
  let f := t.fmt
  match f.unpack ftz a with
  | .nan sig => (f.nan, if sig then stNV else 0)
  | .inf neg => (if neg then f.zero false else f.inf false, 0)
  | .fin neg m e =>
    let n := roundAt .rtz false m e 0
    if m = 0 || n.2 then
      let i : Int := if neg then -(n.1 : Int) else n.1
      f.round r ftz false 1 (clampTo (-5000) 5000 i)
    else funcResult 0x55 true 2 t r ftz a (exp2Ref neg m e)

/-- FLOG2 (R83, R84): near 1.0 the bound of f32 and f64 is absolute, 2^-22 and 2^-51. -/
def funcLog2 (t : Ty) (r : Rnd) (ftz : Bool) (a : Nat) : Res :=
  let f := t.fmt
  match f.unpack ftz a with
  | .nan sig => (f.nan, if sig then stNV else 0)
  | .inf neg => if neg then (f.nan, stNV) else (f.inf false, 0)
  | .fin neg m e =>
    if m = 0 then (f.inf true, stDZ)
    else if neg then (f.nan, stNV)
    else if m = 2 ^ (bitLen m - 1) then
      let k := e + (bitLen m : Int) - 1
      f.round r ftz (decide (k < 0)) k.natAbs 0
    else
      let x := log2Ref m e
      let one := signedAt false 1 0 (min e 0 - 7)
      let near := decide ((signedAt false m e (min e 0 - 7) - one).natAbs ≤ 2 ^ (-(min e 0)).toNat)
      if near && !t.half then
        let lim := if t = .f64 then 81 else 52
        let k : Int := (Config.ulpChoice 0x56 t.code r.code a % (2 ^ 31 - 2 ^ 23) : Nat) - ((2 ^ 30 - 2 ^ 22 : Nat) : Int)
        let v := signedAt x.1 x.2.1 x.2.2 (x.2.2) + k * ((2 ^ (-(x.2.2) - lim).toNat : Nat) : Int)
        let y := f.round .rtz ftz (decide (v < 0)) v.natAbs x.2.2
        (y.1, y.2 ||| stNX)
      else funcResult 0x56 true 2 t r ftz a x

/-- FSIN and FCOS (R84, R110: radians). -/
def funcTrig (cos : Bool) (t : Ty) (r : Rnd) (ftz : Bool) (a : Nat) : Res :=
  let f := t.fmt
  match f.unpack ftz a with
  | .nan sig => (f.nan, if sig then stNV else 0)
  | .inf _ => (f.nan, stNV)
  | .fin neg m e =>
    if m = 0 then (if cos then f.round r ftz false 1 0 else (f.zero neg, 0))
    else funcResult (if cos then 0x58 else 0x57) false 2 t r ftz a (trigRef cos neg m e)

/-- FTANH (R84). -/
def funcTanh (t : Ty) (r : Rnd) (ftz : Bool) (a : Nat) : Res :=
  let f := t.fmt
  match f.unpack ftz a with
  | .nan sig => (f.nan, if sig then stNV else 0)
  | .inf neg => f.round r ftz neg 1 0
  | .fin neg m e => if m = 0 then (f.zero neg, 0) else funcResult 0x59 false 2 t r ftz a (tanhRef neg m e)

/-- FRCP (R110). -/
def execFrcp (o : V3) (s : State) : Out := issueF1 0x52 o s funcRcp
/-- FRSQ (R110). -/
def execFrsq (o : V3) (s : State) : Out := issueF1 0x53 o s funcRsq
/-- FSQRT (R110). -/
def execFsqrt (o : V3) (s : State) : Out := issueF1 0x54 o s funcSqrt
/-- FEXP2 (R110). -/
def execFexp2 (o : V3) (s : State) : Out := issueF1 0x55 o s funcExp2
/-- FLOG2 (R110). -/
def execFlog2 (o : V3) (s : State) : Out := issueF1 0x56 o s funcLog2
/-- FSIN (R110). -/
def execFsin (o : V3) (s : State) : Out := issueF1 0x57 o s (funcTrig false)
/-- FCOS (R110). -/
def execFcos (o : V3) (s : State) : Out := issueF1 0x58 o s (funcTrig true)
/-- FTANH (R110). -/
def execFtanh (o : V3) (s : State) : Out := issueF1 0x59 o s funcTanh

/-! ### Comparisons (R111) -/

/-- A float comparison: element 0 of each operand. -/
def issueFcmp (opc : Nat) (o : V3) (s : State) (f : Ty → Bool → Nat → Nat → Bool × BitVec 8) : Out :=
  issue opc s (fun c => cmpUses o (pairs c.ty.pair)) (tyCheck opc Ty.isFloat) fun c =>
    let t := c.ty
    c.presult (bitsAt o.d.toNat 2 0) fun i => f t c.ftz (elemAt t.width 0 (c.aval o t.pair i)) (elemAt t.width 0 (c.bval o t.pair i))

/-- FSETP.EQ (R111). -/
def execFsetpEq (o : V3) (s : State) : Out := issueFcmp 0x5B o s fun t z => floatCmp t z .eq
/-- FSETP.NE (R111). -/
def execFsetpNe (o : V3) (s : State) : Out := issueFcmp 0x5C o s fun t z => floatCmp t z .ne
/-- FSETP.LT (R111). -/
def execFsetpLt (o : V3) (s : State) : Out := issueFcmp 0x5D o s fun t z => floatCmp t z .lt
/-- FSETP.LE (R111). -/
def execFsetpLe (o : V3) (s : State) : Out := issueFcmp 0x5E o s fun t z => floatCmp t z .le
/-- FSETP.GT (R111). -/
def execFsetpGt (o : V3) (s : State) : Out := issueFcmp 0x5F o s fun t z => floatCmp t z .gt
/-- FSETP.GE (R111). -/
def execFsetpGe (o : V3) (s : State) : Out := issueFcmp 0x60 o s fun t z => floatCmp t z .ge
/-- FSETP.UN (R111). -/
def execFsetpUn (o : V3) (s : State) : Out := issueFcmp 0x61 o s fun t _ => floatUn t

/-! ### Reductions and scans (R78, R79, R112) -/

/-- One pattern op of a reduction with its sticky bits. -/
abbrev RedOp := Nat → Nat → Res

/-- One level of the FRED tree at distance d. -/
def redLevel (op : RedOp) (d : Nat) (x : List Nat × BitVec 8) : List Nat × BitVec 8 :=
  let rs := (List.range d).map fun i => op (x.1.getD i 0) (x.1.getD (i + d) 0)
  (rs.map (·.1) ++ x.1.drop d, rs.foldl (fun a r => a ||| r.2) x.2)

/-- fred of R78. -/
def fred (op : RedOp) (n : Nat) (x : List Nat) : Res :=
  let y := ((if n = 16 then [8, 4, 2, 1] else [16, 8, 4, 2, 1]).foldl (fun x d => redLevel op d x) (x, 0))
  (y.1.headD 0, y.2)

/-- One level of the FSCAN pairing at distance d; a lane's value carries the sticky bits of the additions that it was made by. -/
def scanLevel (op : RedOp) (d : Nat) (x : List Res) : List Res :=
  (List.range x.length).map fun i =>
    let b := x.getD i (0, 0)
    if d ≤ i then
      let a := x.getD (i - d) (0, 0)
      let y := op a.1 b.1
      (y.1, y.2 ||| a.2 ||| b.2)
    else b

/-- fscan of R79: each lane's prefix, with the sticky bits that belong to it. -/
def fscan (op : RedOp) (n : Nat) (x : List Nat) : List Res :=
  (if n = 16 then [1, 2, 4, 8] else [1, 2, 4, 8, 16]).foldl (fun x d => scanLevel op d x) (x.map fun v => (v, 0))

/-- Contributing elements e of the lanes, flushed, others the identity (R78, R112). -/
def Ctx.redInputs (c : Ctx) (o : V3) (ident e : Nat) : List Nat :=
  let t := c.ty
  let f := t.fmt
  let flush (x : Nat) : Nat := if c.ftz && x / 2 ^ f.mb % 2 ^ f.eb == 0 then f.zero (bitAt x (f.width - 1)) else x
  (List.range c.n).map fun i => if hasLane c.act i then flush (elemAt t.width e (c.aval o t.pair i)) else ident

/-- FRED: the tree's result in d of every contributing lane, each packed position its own tree (R112). -/
def issueRed (opc : Nat) (o : V3) (s : State) (ident : Ty → Nat) (op : Ty → Rnd → Bool → RedOp) : Out :=
  issue opc s (fun c => unUses o (pairs c.ty.pair) (pairs c.ty.pair)) (tyCheck opc Ty.isFloat) fun c =>
    let t := c.ty
    let r := perElem t.width t.count fun e => fred (op t c.rnd c.ftz) c.n (c.redInputs o (ident t) e)
    if c.act = 0 then .done c.st [] 0 else .done c.st (vwrite o.d.toNat t.pair c.act fun _ => r.1) r.2

/-- FSCAN: each contributing lane's inclusive prefix (R112); only the prefixes of contributing lanes raise exceptions (R66). -/
def issueScan (opc : Nat) (o : V3) (s : State) (ident : Ty → Nat) (op : Ty → Rnd → Bool → RedOp) : Out :=
  issue opc s (fun c => unUses o (pairs c.ty.pair) (pairs c.ty.pair)) (tyCheck opc Ty.isFloat) fun c =>
    let t := c.ty
    let xs := (List.range t.count).map fun e => fscan (op t c.rnd c.ftz) c.n (c.redInputs o (ident t) e)
    if c.act = 0 then .done c.st [] 0
    else .done c.st (vwrite o.d.toNat t.pair c.act fun i => packElems t.width (xs.map fun x => (x.getD i (0, 0)).1))
      (xs.foldl (fun a x => (lanesOf c.act).foldl (fun a i => a ||| (x.getD i (0, 0)).2) a) 0)

/-- FRED.ADD (R112). -/
def execFredAdd (o : V3) (s : State) : Out := issueRed 0x62 o s (fun _ => 0) floatAdd
/-- FRED.MAX (R112). -/
def execFredMax (o : V3) (s : State) : Out := issueRed 0x63 o s (fun t => t.fmt.inf true) fun t _ z => floatMinMax t z true
/-- FRED.MIN (R112). -/
def execFredMin (o : V3) (s : State) : Out := issueRed 0x64 o s (fun t => t.fmt.inf false) fun t _ z => floatMinMax t z false
/-- FRED.AMAX (R112): |x| compared and returned. -/
def execFredAmax (o : V3) (s : State) : Out :=
  issueRed 0x65 o s (fun _ => 0) fun t _ z a b => floatMinMax t z true (floatAbs t a).1 (floatAbs t b).1
/-- FSCAN.ADD (R112). -/
def execFscanAdd (o : V3) (s : State) : Out := issueScan 0x66 o s (fun _ => 0) floatAdd
/-- FSCAN.MAX (R112). -/
def execFscanMax (o : V3) (s : State) : Out := issueScan 0x67 o s (fun t => t.fmt.inf true) fun t _ z => floatMinMax t z true

end Sys2Proof.Machine
end

