-- ==== Sys2Proof/Machine/Convert.lean ====
section
/-! DEFINITION. The fx128, packing, conversion and scale-block instructions (R113 to R118). -/

namespace Sys2Proof.Machine

/-- The fx128 integer of a register group in a lane (R74). -/
def Ctx.fx (c : Ctx) (r i : Nat) : Int := toSigned 128 (c.val true r i + 2 ^ 64 * c.val true (r + 2) i)

/-- FXACC (R113): a, then b, added into the lane's accumulator, each addition under R75; s0 as b adds nothing. -/
def execFxacc (o : V3) (s : State) : Out :=
  issue 0x68 s (fun _ => v3AccUses o 4 1 1) (tyCheck 0x68 (· == .f32)) fun c =>
    let one (i : Nat) : Int × BitVec 8 :=
      let x := fxAdd (c.fx o.d.toNat i) (c.aval o false i)
      if o.bs && o.b == 0 then x
      else
        let y := fxAdd x.1 (c.bval o false i)
        (y.1, x.2 ||| y.2)
    let rs := (List.range 32).map fun i => if hasLane c.act i then one i else (0, 0)
    let pat (i : Nat) : Nat := wrapTo 128 ((rs[i]?).getD (0, 0)).1
    .done c.st (vwrite o.d.toNat true c.act (fun i => pat i % 2 ^ 64) ++ vwrite (o.d.toNat + 2) true c.act fun i => pat i / 2 ^ 64)
      (rs.foldl (fun a r => a ||| r.2) 0)

/-- FXCVT (R114): a names the group a to a + 3. -/
def execFxcvt (o : V3) (s : State) : Out :=
  issue 0x69 s (fun c => [vdst o.d (pairs c.ty.pair), vsrc o.a o.pa o.la 4]) (tyCheck 0x69 fun t => t == .f32 || t == .f64) fun c =>
    c.vresult o.d.toNat c.ty.pair fun i =>
      match c.srcLane o.pa.toNat i with
      | some j => fxRound c.ty c.rnd (c.fx o.a.toNat j)
      | none => fxRound c.ty c.rnd 0

/-- FPACK (R115): element 0 from a, element 1 from b, each rounded from f32. -/
def execFpack (o : V3) (s : State) : Out :=
  issue 0x6A s (fun _ => v3Uses o 1 1 1) (tyCheck 0x6A Ty.half) fun c =>
    c.vresult o.d.toNat false fun i =>
      let x := cvtFF .f32 c.ty c.rnd c.ftz (c.aval o false i)
      let y := cvtFF .f32 c.ty c.rnd c.ftz (c.bval o false i)
      (y.1 * 65536 + x.1, x.2 ||| y.2)

/-- FUNPK (R115): each element widened exactly to f32. -/
def execFunpk (o : V3) (s : State) : Out :=
  issue 0x6B s (fun _ => unUses o 2 1) (tyCheck 0x6B Ty.half) fun c =>
    c.vresult o.d.toNat true fun i =>
      let x := cvtFF c.ty .f32 c.rnd c.ftz (elemAt 16 0 (c.aval o false i))
      let y := cvtFF c.ty .f32 c.rnd c.ftz (elemAt 16 1 (c.aval o false i))
      (x.1 + 2 ^ 32 * y.1, x.2 ||| y.2)

/-- One conversion of R68. -/
def convert (src dst : Ty) (r : Rnd) (ftz sat : Bool) (a : Nat) : Res :=
  if src.isFloat then (if dst.isFloat then cvtFF src dst r ftz a else cvtFI src dst r ftz sat a)
  else if dst.isFloat then cvtIF src dst r ftz a else cvtII src dst sat a

/-- The source type of CVT (R116). -/
def cvtSrc (o : VI) : Ty := Ty.ofCode (bitsAt o.imm.toNat 3 0)

/-- The checks of CVT's description (R116): a dsb TYPE gives code 28; an illegal STYPE, SEL or DEL gives code 30. -/
def cvtCheck (o : VI) (c : Ctx) : Option (Nat × Word) :=
  if c.ty.isDsb then some (1, illegalInfo 0x70 28)
  else if (cvtSrc o).isDsb then some (1, illegalInfo 0x70 30)
  else if decide ((cvtSrc o).count ≤ bitsAt o.imm.toNat 5 4) then some (1, illegalInfo 0x70 30)
  else if decide (c.ty.count ≤ bitsAt o.imm.toNat 7 6) then some (1, illegalInfo 0x70 30)
  else none

/-- CVT (R116): element SEL of a converted into element DEL of d, whose other elements stay. -/
def execCvt (o : VI) (s : State) : Out :=
  issue 0x70 s (fun c =>
    [if c.ty.width < 32 then vacc o.d 1 else vdst o.d (pairs c.ty.pair), vsrc o.a o.pa o.la (pairs (cvtSrc o).pair)]) (cvtCheck o) fun c =>
    let t := c.ty
    let st := cvtSrc o
    let sel := bitsAt o.imm.toNat 5 4
    let del := bitsAt o.imm.toNat 7 6
    c.vresult o.d.toNat t.pair fun i =>
      let r := convert st t c.rnd c.ftz (modeSat c.m) (elemAt st.width sel (c.src st.pair o.a.toNat o.pa.toNat i))
      if t.width < 32 then
        let d := c.dval o.d false i
        (packElems t.width ((List.range t.count).map fun e => if e = del then r.1 else elemAt t.width e d), r.2)
      else r

/-! ### Scale blocks (R117, R118) -/

/-- L of a group (R117). -/
def dsbGroupLen (o : VI) : Nat := if bitsAt o.imm.toNat 1 0 = 0 then 16 else 32

/-- The checks of DSBSCAL and DSBENC (R117). -/
def dsbCheck (opc : Nat) (o : VI) (c : Ctx) : Option (Nat × Word) :=
  if !c.ty.isDsb then some (1, illegalInfo opc 28)
  else if 2 ≤ bitsAt o.imm.toNat 1 0 || (c.native && bitsAt o.imm.toNat 1 0 == 1) then some (1, illegalInfo opc 30)
  else none

/-- The values of the group that lane i belongs to: contributing lanes, flushed; others +0 (R67, R117). -/
def Ctx.dsbGroup (c : Ctx) (o : VI) (i : Nat) : List Fp :=
  let l := dsbGroupLen o
  (List.range l).map fun j =>
    let k := i / l * l + j
    if hasLane c.act k then Ty.f32.fmt.unpack c.ftz (c.src false o.a.toNat o.pa.toNat k) else .fin false 0 0

/-- The span of an encoding (R117). -/
def dsbSpanOf (o : VI) (t : Ty) : Nat := if bitAt o.imm.toNat 2 then bitsAt o.imm.toNat 5 3 else dsbSpan t

/-- DSBSCAL (R117): the header word in every contributing lane; no flag. -/
def execDsbscal (o : VI) (s : State) : Out :=
  issue 0x71 s (fun _ => [vdst o.d 1, vsrc o.a o.pa o.la 1]) (dsbCheck 0x71 o) fun c =>
    c.vresult o.d.toNat false fun i =>
      let e := dsbScales c.ty (dsbSpanOf o c.ty) (c.dsbGroup o i)
      (dsbHeader c.ty e.1 e.2 (dsbGroupLen o), 0)

/-- DSBENC (R117): the lane's element code, with the flags of step 6. -/
def execDsbenc (o : VI) (s : State) : Out :=
  issue 0x72 s (fun _ => [vdst o.d 1, vsrc o.a o.pa o.la 1]) (dsbCheck 0x72 o) fun c =>
    c.vresult o.d.toNat false fun i =>
      let g := c.dsbGroup o i
      let e := dsbScales c.ty (dsbSpanOf o c.ty) g
      dsbElem c.ty c.rnd e.1 e.2 (g.getD (i % dsbGroupLen o) (.fin false 0 0))

/-- DSBDEC (R118): d is the header, a the packed codes; an invalid header gives the default NaN with NV. -/
def execDsbdec (o : VI) (s : State) : Out :=
  issue 0x73 s (fun _ => [vacc o.d 1, vsrc o.a o.pa o.la 1])
    (tyCheck 0x73 fun t => t == .f32 || t == .f16 || t == .bf16) fun c =>
    c.vresult o.d.toNat false fun i =>
      let h := c.dval o.d false i
      let a := c.src false o.a.toNat o.pa.toNat i
      let p := o.imm.toNat % 8
      if dsbValid h then
        let code := if bitsAt h 7 4 = 8 then elemAt 8 (p % 4) a else elemAt 4 p a
        c.ty.fmt.ofFp c.rnd c.ftz (dsbDecode h code)
      else (c.ty.fmt.nan, stNV)

end Sys2Proof.Machine
end

