-- ==== Sys2Proof/Machine/Tensor.lean ====
section
/-! DEFINITION. The order table's entries and states (R155, R354), the decisions of the monitors (R357 to R363) and the moves (R356, R364,
R366). -/

namespace Sys2Proof.Machine

/-! ### Costs and decisions -/

/-- The cost of a code under a stride vector (R359): distinct lines among 16 elements. -/
def RegionDesc.cost (d : RegionDesc) (k code : Nat) (delta : List Int) : Nat :=
  let rows := min d.slabRows (d.shape.headD 1 - k * d.slabRows)
  let ext := rows :: (d.shape.take d.rank).drop 1
  let lines := (List.range 16).map fun (j : Nat) =>
    let c := List.zipWith (fun (x : Int) (e : Nat) => ((j : Int) * x % (e : Int)).toNat) delta ext
    let u := c.set (d.rank - 1) (c.getD (d.rank - 1) 0 / d.blockLen)
    d.lineOf (unitIndex d.rank d.blockLen code (d.extents k) u)
  lines.eraseDups.length

/-- The dominant stride of a window (R358): the highest count, ties to the vector counted first. -/
def dominant (l : List (List Int × Nat)) : Option (List Int) :=
  (l.foldl (fun (b : Option (List Int × Nat)) x => match b with
    | none => some x
    | some y => if y.2 < x.2 then some x else some y) none).map (·.1)

/-- The candidates of a window (R359). -/
def Slab.candidates (sl : Slab) (d : RegionDesc) : List Nat :=
  let fixed := [0x0000, 0x0001] ++ (if 2 ≤ d.rank then [0x0442, 0x0443, 0x0404] else [])
  let adv := match sl.adv with | some a => [a.1.toNat] | none => []
  ((sl.cur.toNat :: fixed ++ adv).filter (codeValid d.rank d.blockLen)).eraseDups

/-- The effective cost of a candidate in sixteenths (R359). -/
def Slab.effective (sl : Slab) (d : RegionDesc) (k : Nat) (delta : List Int) (code : Nat) : Nat :=
  d.cost k code delta * (match sl.adv with | some a => if a.1.toNat = code then 16 - a.2 else 16 | none => 16)

/-- The code for which a window qualifies (R359, R360 step 2). -/
def Slab.qualify (sl : Slab) (d : RegionDesc) (k : Nat) : Option Nat :=
  match dominant sl.strides with
  | none => none
  | some delta =>
    let cur := sl.cur.toNat
    let eff := sl.effective d k delta
    let best := (sl.candidates d).foldl (fun b x =>
      if eff x < eff b || (eff x == eff b && b != cur && (x == cur || x < b)) then x else b) cur
    if best ≠ cur ∧ 2 * eff best ≤ 16 * d.cost k cur delta then some best else none

/-- MOVES (R155, R362): unpinned TSWAPs of the open window, whose number is closed, and the 31 before it. -/
def Slab.moves (sl : Slab) : Nat := sl.history.countP fun h => sl.closed ≤ h + 31

/-! ### The reserve and the start of a move -/

/-- 64 KiB units that a slab holds beyond those its region brought (R364). -/
def Slab.reserveUse (sl : Slab) (d : RegionDesc) (k : Nat) : Int :=
  (d.slabUnits k sl.cur.toNat : Int) + (if sl.state = 1 then (d.slabUnits k sl.target.toNat : Int) else 0) - (sl.firstUnits : Int)

/-- Free units of a stack's re-tile reserve (R364): a TSWAP returns the old storage. -/
def State.reserveFree (s : State) (stack : Nat) : Int :=
  let size : Int := ((s.frontEnds[stack]?).map (·.reserve)).getD 0
  s.regions.foldl (fun n r =>
    (List.range r.slabs.length).foldl (fun n k =>
      match r.slabs[k]? with
      | some sl => if sl.home = stack then n - sl.reserveUse r.desc k else n
      | none => n) n) size

/-- A slab replaced. -/
def State.setSlab (s : State) (key k : Nat) (sl : Slab) : State :=
  match s.regionOf key with
  | some r => s.setRegion { r with slabs := r.slabs.set k sl }
  | none => s

/-- A slab by its region's key and number. -/
def State.slab? (s : State) (key k : Nat) : Option (Region × Slab) :=
  (s.regionOf key).bind fun r => (r.slabs[k]?).map fun sl => (r, sl)

/-- A decided move starts where the reserve covers it (R356, R360 step 3); one that the whole reserve could never cover has no effect
(R361); otherwise it stays decided. -/
def State.tryMove (s : State) (key k : Nat) : State :=
  match s.slab? key k with
  | none => s
  | some (r, sl) =>
    match sl.decided with
    | none => s
    | some code =>
      let need := r.desc.slabUnits k code.toNat
      let whole := ((s.frontEnds[sl.home]?).map (·.reserve)).getD 0
      if sl.state = 1 then s
      else if whole < need then s.setSlab key k { sl with decided := none, pinnedMove := false, pin := none }
      else if s.reserveFree sl.home < (need : Int) then s
      else s.setSlab key k { sl with decided := none, state := 1, target := code, frontier := 0, new := [], newMarks := [] }

/-- A move towards a code is decided; pinned: it is marked pinned (R354). -/
def State.decideMove (s : State) (key k : Nat) (code : BitVec 16) (pinned : Bool) : State :=
  match s.slab? key k with
  | none => s
  | some (_, sl) => (s.setSlab key k { sl with decided := some code, pinnedMove := pinned }).tryMove key k

/-- MONITOR_WINDOW_CLOSE (R358, R360): a window of 2^w observed accesses closes. -/
def State.closeWindow (s : State) (key k : Nat) : State :=
  match s.slab? key k with
  | none => s
  | some (r, sl) =>
    if sl.seen < 2 ^ r.desc.wlog then s
    else
      let q := if sl.state = 0 ∧ sl.decided.isNone ∧ sl.cool = 0 then sl.qualify r.desc k else none
      let base := { sl with seen := 0, strides := [], closed := sl.closed + 1, win := sl.win + 1 }
      if sl.state ≠ 0 then s.setSlab key k { base with run := none }
      else if 0 < sl.cool then s.setSlab key k { base with cool := sl.cool - 1, run := none }
      else if sl.decided.isSome then s.setSlab key k { base with run := none }
      else match q with
        | none => s.setSlab key k { base with run := none }
        | some x =>
          let code : BitVec 16 := BitVec.ofNat 16 x
          let s1 := s.setSlab key k { base with run := some code }
          if sl.run = some code then s1.decideMove key k code false else s1

/-! ### Monitors -/

/-- A monitor's stream (R357): a main core's warp slot, a wavefront's slot, or a guest lane's home warp. -/
def State.stream (s : State) (w : Warp) : Nat :=
  match w.wave, w.guest with
  | some v, _ => 2 ^ 20 + (v.stack * 16 + v.core) * 8 + v.slot
  | _, some g => ((s.warp? g.home).map fun h => h.core * 96 + h.slot).getD 0
  | _, _ => w.core * 96 + w.slot

/-- A stride vector counted in a window, up to 8 distinct ones (R358). -/
def countStride (l : List (List Int × Nat)) (d : List Int) : List (List Int × Nat) :=
  if l.any (·.1 == d) then updateFirst (·.1 == d) (fun x => (x.1, x.2 + 1)) l
  else if l.length < 8 then l ++ [(d, 1)] else l

/-- One element access observed by its slab's monitor (R357, R358). -/
def Slab.observe (sl : Slab) (stream : Nat) (coords : List Int) : Slab :=
  let strides := match sl.prev.find? (·.1 == stream) with
    | some p => countStride sl.strides (List.zipWith (· - ·) coords p.2)
    | none => sl.strides
  { sl with seen := sl.seen + 1, strides := strides, prev := (sl.prev.filter (·.1 != stream)) ++ [(stream, coords)] }

/-- The accesses of one instruction observed in ascending lane order (R357); the one that fills a window closes it (R358). -/
def State.observe (s : State) (w : Warp) (key : Nat) (coords : List (List Int)) : State :=
  let st := s.stream w
  coords.foldl (fun s cs =>
    match s.regionOf key with
    | none => s
    | some r =>
      let k := r.desc.slabOf (cs.map Int.toNat)
      match r.slabs[k]? with
      | some sl => (s.setSlab key k (sl.observe st cs)).closeWindow key k
      | none => s) s

/-! ### TMOVE and TSWAP -/

/-- Every unit coordinate list of the given extents, first dimension slowest. -/
def unitCells : List Nat → List (List Nat)
  | [] => [[]]
  | e :: es => (List.range e).flatMap fun x => (unitCells es).map (x :: ·)

/-- One line of the target storage filled from the old (R227, R364): its units whole; the rest reads zero. -/
def Slab.moveLine (sl : Slab) (d : RegionDesc) (k line : Nat) : Memory :=
  let e := d.extents k
  let here := (unitCells e).filter fun c => d.lineOf (unitIndex d.rank d.blockLen sl.target.toNat e c) = line
  here.foldl (fun m c =>
    let u := unitIndex d.rank d.blockLen sl.cur.toNat e c
    let t := unitIndex d.rank d.blockLen sl.target.toNat e c
    (List.range d.unitBytes).foldl (fun m b =>
      Memory.put m (d.byteAt sl.target.toNat t b) (Memory.get sl.old (d.byteAt sl.cur.toNat u b))) m) sl.new

/-- The marks of the target storage once a line of it is filled: a granule that takes a byte of a poisoned one is poisoned (R227, R419). -/
def Slab.moveMarks (sl : Slab) (d : RegionDesc) (k line : Nat) : List Nat :=
  let e := d.extents k
  if sl.oldMarks.isEmpty then sl.newMarks
  else ((unitCells e).filter fun c => d.lineOf (unitIndex d.rank d.blockLen sl.target.toNat e c) = line).foldl (fun l c =>
    let u := unitIndex d.rank d.blockLen sl.cur.toNat e c
    let t := unitIndex d.rank d.blockLen sl.target.toNat e c
    (List.range d.unitBytes).foldl (fun l b =>
      if sl.oldMarks.contains (d.byteAt sl.cur.toNat u b / 32) then withEntry l (d.byteAt sl.target.toNat t b / 32) else l) l) sl.newMarks

/-- The order table of a stack (R155, R354): the slabs homed there, in the order in which they were created. -/
def State.orderTable (s : State) (stack : Nat) : List (Nat × Nat) :=
  s.regions.flatMap fun r => ((List.range r.slabs.length).filter fun k => ((r.slabs[k]?).map (·.home)) == some stack).map fun k =>
    (regionKey r.fn r.index, k)

/-- TMOVE of a slab (R227): status 0 moved, 1 not moving, 2 not the frontier. -/
def State.tmove (s : State) (key k line : Nat) : State × Nat :=
  match s.slab? key k with
  | none => (s, 1)
  | some (r, sl) =>
    if sl.state ≠ 1 then (s, 1)
    else if line ≠ sl.frontier ∨ r.desc.lines k sl.target.toNat ≤ line then (s, 2)
    else (s.setSlab key k { sl with
      new := sl.moveLine r.desc k line, newMarks := sl.moveMarks r.desc k line, frontier := sl.frontier + 1 }, 0)

/-- TSWAP of a slab (R227, R354, R360, R362, R366). A window that it discards keeps its number, as the rules' example counts
(windows 3 and 4 to 11), so the new window has the next one; one without an access does not, as the worked program counts
(windows 33 to 40) (DEDUCED, log 38). -/
def State.tswap (s : State) (key k : Nat) : State × Nat :=
  match s.slab? key k with
  | none => (s, 1)
  | some (r, sl) =>
    if sl.state ≠ 1 then (s, 1)
    else if sl.frontier ≠ r.desc.lines k sl.target.toNat then (s, 2)
    else
      let base := { sl with
        old := sl.new, new := [], oldMarks := sl.newMarks, newMarks := [], cur := sl.target, ver :=
          (sl.ver + 1) % 16, frontier := 0, state := 0, cool := 8, win := 0, run := none,
        seen := 0, strides := [], closed := if sl.seen = 0 then sl.closed else sl.closed + 1, pinnedMove := false, decided := none, pin := none }
      match sl.pin with
      | some p =>
        if p = base.cur then (s.setSlab key k { base with state := 2 }, 0)
        else ((s.setSlab key k { base with pin := some p }).decideMove key k p true, 0)
      | none =>
        if sl.pinnedMove then (s.setSlab key k base, 0)
        else
          let past := { sl with history := sl.history ++ [sl.closed] }
          (s.setSlab key k { base with history := past.history, state := if 3 ≤ past.moves then 3 else 0 }, 0)

/-! ### Pins and advice -/

/-- PINORD performed at a slab's home (R156, R354). -/
def State.pinSlab (s : State) (key k : Nat) (code : BitVec 16) : State :=
  match s.slab? key k with
  | none => s
  | some (_, sl) =>
    if code = 0xFFFF then
      if sl.state = 1 then s.setSlab key k { sl with pin := none }
      else s.setSlab key k { sl with state := 0, cool := 8, history := [], run := none, decided := none, pin := none, pinnedMove := false }
    else if sl.state = 1 then s.setSlab key k { sl with pin := some code }
    else if code = sl.cur then s.setSlab key k { sl with state := 2, run := none, decided := none, pin := none, pinnedMove := false }
    else (s.setSlab key k { sl with pin := some code, run := none }).decideMove key k code true

/-- ADVORD performed at a slab's home (R157, R363). -/
def State.adviseSlab (s : State) (key k : Nat) (code : BitVec 16) (weight : Nat) : State :=
  match s.slab? key k with
  | none => s
  | some (_, sl) => s.setSlab key k { sl with adv := if weight = 0 then none else some (code, weight) }

/-- The four words of an order-table entry (R155). -/
def Slab.entry (sl : Slab) : List Nat :=
  [min 3 sl.moves * 2 ^ 22 + sl.state * 2 ^ 20 + sl.ver * 2 ^ 16 + sl.cur.toNat,
   (match sl.adv with | some a => a.1.toNat | none => 0xFFFF) * 2 ^ 16 + (if sl.state = 1 then sl.target.toNat else sl.cur.toNat),
   if sl.state = 1 then sl.frontier else 0,
   (match sl.adv with | some a => a.2 | none => 0) * 2 ^ 28 + sl.cool * 2 ^ 8 + min sl.win 255]

end Sys2Proof.Machine
end

