-- ==== Sys2Proof/Machine/Memory.lean ====
section
/-! DEFINITION. Loads and stores: linear, scalar, scratchpad, packet, spill and fill, and coordinate access (R128 to R142, R327, R357). -/

namespace Sys2Proof.Machine

/-- Bytes that an access of a TYPE moves (R128). -/
def Ty.bytes (t : Ty) : Nat := t.width / 8

/-- The lane value that loaded bytes make (R128): i8 and i16 sign-extended to 32 bits, the others zero-extended. -/
def Ty.extend (t : Ty) (x : Nat) : Nat :=
  match t with
  | .i8 => wrapTo 32 (toSigned 8 x)
  | .i16 => wrapTo 32 (toSigned 16 x)
  | _ => x

/-- The TYPE check of the plain accesses (R128): dsb types are illegal. -/
def plainTy (opc : Nat) : Ctx → Option (Nat × Word) := tyCheck opc fun t => !t.isDsb

/-- Displacement of format M (R133). -/
def dispOf (o : M) : Int := toSigned 13 o.imm.toNat

/-- A 64-bit lane address, wrapped (R133). -/
def wrap64 (x : Int) : Nat := wrapTo 64 x

/-- The per-lane address of an M instruction with an even v pair as base (R133). -/
def Ctx.mAddr (c : Ctx) (o : M) (i : Nat) : Nat := wrap64 (c.val true o.base.toNat i + dispOf o)

/-- The base pair of an M instruction. -/
def baseUse (o : M) : Use := vsrc o.base 0 o.lb 2

/-- n registers from d on. -/
def regsFrom (d n : Nat) : List Nat := (List.range n).map (d + ·)

/-- Values loaded by lanes, for registers from d on. -/
def State.loads (s : State) (u : Nat) (as : List Acc) (f : List Byte → Nat) : List (Nat × Nat × Bool) :=
  let v := s.overlay u
  as.map fun a => (a.lane, f (v.readLocs a.locs), v.poisoned a.locs)

/-- The effect of a load into d, in n registers. -/
def Ctx.loadTo (c : Ctx) (d n : Nat) (f : List Byte → Nat) (s : State) (as : List Acc) : MemResult :=
  (s, laneWrites d n (s.loads c.w.uid as f), 0)

/-- The byte writes of a store: the lanes' bytes in ascending lane order (R129). -/
def accWrites (as : List Acc) (f : Nat → Nat) : List (Loc × Byte) := as.flatMap fun a => List.zip a.locs (leBytes a.locs.length (f a.lane))

/-- The effect of a store that the region store buffer covers (R384). -/
def Ctx.storeFrom (c : Ctx) (f : Nat → Nat) (s : State) (as : List Acc) : MemResult := (s.store c.w (accWrites as f), [], 0)

/-- The effect of a store that is performed at once. -/
def Ctx.storeNowFrom (c : Ctx) (f : Nat → Nat) (s : State) (as : List Acc) : MemResult := (s.storeNow c.w (accWrites as f), [], 0)

/-! ### Linear memory -/

/-- LD (R133). -/
def execLd (o : M) (s : State) : Out :=
  issue 0x80 s (fun c => [vdst o.d (pairs c.ty.pair), baseUse o]) (plainTy 0x80) fun c =>
    c.access { write := false, migrates := true, names := regsFrom o.d.toNat (pairs c.ty.pair) } (lanesOf c.act)
      (fun i => c.st.linearTarget c.fn (c.mAddr o i))
      (fun s i => c.linear false false true c.ty.bytes s i (c.mAddr o i))
      (c.loadTo o.d.toNat (pairs c.ty.pair) fun bs => c.ty.extend (leNat bs))

/-- ST (R133). -/
def execSt (o : M) (s : State) : Out :=
  issue 0x82 s (fun c => [vsrc o.d 0 false (pairs c.ty.pair), baseUse o]) (plainTy 0x82) fun c =>
    c.access { write := true, migrates := true } (lanesOf c.act) (fun i => c.st.linearTarget c.fn (c.mAddr o i))
      (fun s i => c.linear true false true c.ty.bytes s i (c.mAddr o i))
      (c.storeFrom fun i => c.val c.ty.pair o.d.toNat i)

/-- LD4 (R134): 16 bytes to four registers. -/
def execLd4 (o : M) (s : State) : Out :=
  issue 0x81 s (fun _ => [vdst o.d 4, baseUse o]) noCheck fun c =>
    c.access { write := false } (lanesOf c.act) (fun _ => none)
      (fun s i => c.linear false false false 16 s i (c.mAddr o i)) (c.loadTo o.d.toNat 4 leNat)

/-- Four registers of a lane as a number. -/
def Ctx.val4 (c : Ctx) (r i : Nat) : Nat := c.val true r i + 2 ^ 64 * c.val true (r + 2) i

/-- ST4 (R134). -/
def execSt4 (o : M) (s : State) : Out :=
  issue 0x83 s (fun _ => [vsrc o.d 0 false 4, baseUse o]) noCheck fun c =>
    c.access { write := true } (lanesOf c.act) (fun _ => none)
      (fun s i => c.linear true false false 16 s i (c.mAddr o i)) (c.storeFrom fun i => c.val4 o.d.toNat i)

/-! ### Scalar loads and stores -/

/-- The lane that the faults of an access by the whole split name (R130): 0, or an away lane's own number (R311); DEDUCED, log 35. -/
def Ctx.uniLane (c : Ctx) : Nat := if c.guest then lowLane c.sp.lanes else 0

/-- The address of SLD and SST (R135). -/
def Ctx.sAddr (c : Ctx) (o : M) : Nat := wrap64 (c.s2 o.base.toNat + dispOf o)

/-- SLD (R135): once per issue, whatever the guard. -/
def execSld (o : M) (s : State) : Out :=
  issue 0x84 s (fun c => [sdst o.d (pairs c.ty.pair), ssrc o.base 2]) noCheck fun c =>
    let p := c.ty.pair
    c.access { write := false } [c.uniLane] (fun _ => none) (fun s i => c.linear false false false (if p then 8 else 4) s i (c.sAddr o)) fun s as =>
      let l := s.loads c.w.uid as leNat
      let x := ((l.head?).map (·.2.1)).getD 0
      let mark (ws : List LaneWrite) : List LaneWrite := if l.any (·.2.2) then ws.map fun w => { w with poison := 1 } else ws
      (s, mark (if p then swrite2 o.d.toNat x else swrite o.d.toNat x), 0)

/-- SST (R135). -/
def execSst (o : M) (s : State) : Out :=
  issue 0x85 s (fun c => [ssrc o.d (pairs c.ty.pair), ssrc o.base 2]) noCheck fun c =>
    let p := c.ty.pair
    c.access { write := true } [c.uniLane] (fun _ => none) (fun s i => c.linear true false false (if p then 8 else 4) s i (c.sAddr o))
      (c.storeNowFrom fun _ => if p then c.s2 o.d.toNat else (c.s o.d.toNat).toNat)

/-! ### Scratchpad -/

/-- The scratchpad address of LDS and STS (R137). -/
def Ctx.spAddr (c : Ctx) (o : M) (i : Nat) : Nat := wrapTo 32 ((c.lane o.base.toNat i).toNat + dispOf o)

/-- LDS (R137). -/
def execLds (o : M) (s : State) : Out :=
  issue 0x86 s (fun c => [vdst o.d (pairs c.ty.pair), vsrc o.base 0 o.lb 1]) (plainTy 0x86) fun c =>
    c.access { write := false, migrates := true, names := regsFrom o.d.toNat (pairs c.ty.pair) } (lanesOf c.act)
      (fun i => c.scratchTarget (c.spAddr o i))
      (fun s i => c.scratch c.ty.bytes s i (c.spAddr o i))
      (c.loadTo o.d.toNat (pairs c.ty.pair) fun bs => c.ty.extend (leNat bs))

/-- STS (R137). -/
def execSts (o : M) (s : State) : Out :=
  issue 0x87 s (fun c => [vsrc o.d 0 false (pairs c.ty.pair), vsrc o.base 0 o.lb 1]) (plainTy 0x87) fun c =>
    c.access { write := true, migrates := true } (lanesOf c.act) (fun i => c.scratchTarget (c.spAddr o i))
      (fun s i => c.scratch c.ty.bytes s i (c.spAddr o i))
      (c.storeNowFrom fun i => c.val c.ty.pair o.d.toNat i)

/-! ### Packets -/

/-- The address of a packet's lane (R139). -/
def Ctx.packetAddr (c : Ctx) (o : MA) (i : Nat) : Nat := wrap64 (c.s2 o.a.toNat + (c.lane o.o.toNat i).toNat)

/-- GATHER (R139, R327). -/
def execGather (o : MA) (s : State) : Out :=
  issue 0x88 s (fun c => [vdst o.d (pairs c.ty.pair), ssrc o.a 2, vsrc o.o 0 o.lo 1]) (plainTy 0x88) fun c =>
    c.access { write := false } (lanesOf c.act) (fun _ => none)
      (fun s i => c.linear false false false c.ty.bytes s i (c.packetAddr o i))
      (c.loadTo o.d.toNat (pairs c.ty.pair) fun bs => c.ty.extend (leNat bs))

/-- SCATTER (R139, R327). -/
def execScatter (o : MA) (s : State) : Out :=
  issue 0x89 s (fun c => [vsrc o.d 0 false (pairs c.ty.pair), ssrc o.a 2, vsrc o.o 0 o.lo 1]) (plainTy 0x89) fun c =>
    c.access { write := true } (lanesOf c.act) (fun _ => none)
      (fun s i => c.linear true false false c.ty.bytes s i (c.packetAddr o i))
      (c.storeFrom fun i => c.val c.ty.pair o.d.toNat i)

/-! ### Spill and fill -/

/-- CNT of SPILL and FILL (R140): how many registers. -/
def runLen (o : M) : Nat := bitsAt o.imm.toNat 12 10 + 1

/-- The address of register j of a lane (R140). -/
def Ctx.spillAddr (c : Ctx) (o : M) (j i : Nat) : Nat := wrap64 (c.val true o.base.toNat i + 4 * (bitsAt o.imm.toNat 9 0) + 4 * j)

/-- The base pair inside the run (R140). -/
def baseInRun (o : M) : Bool := o.d.toNat ≤ o.base.toNat + 1 && o.base.toNat < o.d.toNat + (runLen o)

/-- The check of SPILL and FILL (R140). -/
def spillCheck (opc : Nat) (o : M) (_ : Ctx) : Option (Nat × Word) := if baseInRun o then some (1, illegalInfo opc 30) else none

/-- TRAPINFO[13:11] of a fault part-way (R130, R140); a memory-model conflict is none of the faults of R130, and has its own map (R271). -/
def Act.partWay (s : State) (j : Nat) (a : Act) : Act :=
  let mark (cause : Nat) (info : Word) : Word := if cause = 0x10 then info else info ||| word (j * 2048)
  match a with
  | .trap cause info => .trapIn s cause (mark cause info)
  | .trapIn s' cause info => .trapIn s' cause (mark cause info)
  | .replay va info => .replayIn s va (info ||| word (j * 2048))
  | .replayIn s' va info => .replayIn s' va (info ||| word (j * 2048))
  | a => a

/-- The registers of a SPILL or FILL move in ascending order, each one whole before the next (R140): the first that fails stops the
instruction, and those before it stay moved. -/
def Ctx.moveRun (c : Ctx) (kind : MemKind) (o : M) (effect : Nat → State → List Acc → MemResult) : List Nat → State → Act
  | [], s => .done s [] 0
  | j :: rest, s =>
    let cj : Ctx := { c with st := s }
    match cj.access kind (lanesOf c.act) (fun _ => none) (fun s i => cj.linear kind.write false false 4 s i (c.spillAddr o j i))
        (effect j) with
    | .done s1 ws _ =>
      match c.moveRun kind o effect rest s1 with
      | .done s2 ws2 st => .done s2 (ws ++ ws2) st
      | .trapIn s2 cause info => .trapIn (s2.applyWrites c.w ws) cause info
      | .replayIn s2 va info => .replayIn (s2.applyWrites c.w ws) va info
      | a => a
    | a => a.partWay s j

/-- SPILL (R140): an unallocated name stores 0. -/
def execSpill (o : M) (s : State) : Out :=
  issue 0x8A s (fun _ => [{ cls := 0, reg := o.d.toNat, cnt := (runLen o), rd := true, quiet := true }, baseUse o]) (spillCheck 0x8A o) fun c =>
    c.moveRun { write := true } o (fun j => c.storeFrom fun i => (c.lane (o.d.toNat + j) i).toNat) (List.range (runLen o)) c.st

/-- FILL (R140): the whole run is allocated at issue. -/
def execFill (o : M) (s : State) : Out :=
  issue 0x8B s (fun _ => [{ cls := 0, reg := o.d.toNat, cnt := (runLen o), wr := true }, baseUse o]) (spillCheck 0x8B o) fun c =>
    let alloc := c.st.allocNames c.w c.act ((List.range (runLen o)).map (o.d.toNat + ·))
    c.moveRun { write := false } o (fun j => c.loadTo (o.d.toNat + j) 1 leNat) (List.range (runLen o)) alloc

/-! ### Coordinates -/

/-- The coordinates of a lane (R141): the innermost with the displacement added. -/
def Ctx.coords (c : Ctx) (r first : Nat) (disp : Int) (i : Nat) : List Int :=
  (List.range r).map fun q => toSigned 32 (c.lane (first + q) i).toNat + (if q + 1 = r then disp else 0)

/-- The rank of the region that a handle register names; 1 where it names none. -/
def Ctx.rankOf (c : Ctx) (h : BitVec 5) : Nat := ((c.st.region? c.fn (c.s h.toNat).toNat).map fun r => r.desc.rank).getD 1

/-- Registers of an element of a type (R141). -/
def elemRegs (etype : Nat) : Nat := if elemBytes etype = 8 then 2 else 1

/-- The element type of the region that a handle register names. -/
def Ctx.etypeOf (c : Ctx) (h : BitVec 5) : Nat := ((c.st.region? c.fn (c.s h.toNat).toNat).map fun r => r.desc.etype).getD 0

/-- The coordinate run of an MC instruction (R51, R141). -/
def Ctx.coordUse (c : Ctx) (o : MC) : Use := { cls := 0, reg := o.c.toNat, cnt := c.rankOf o.h, rd := true, last := o.lc }

/-- Region-access fault of a handle, a warp-uniform operand (R130, R142). -/
def regionTrap (reason : Nat) : Act := .trap 0xC (word (32 * reason))

/-- Element idx of a scale block in a dsb region as f32 (R71, R72 with rne, R141): a block whose header is not valid, or whose WIDTH or L
differ from the region's, gives the default NaN and NV. -/
def dsbElement (d : RegionDesc) (ftz : Bool) (bs : List Byte) (idx : Nat) : Res :=
  let h := fieldAt bs 0 4
  if dsbValid h ∧ dsbLen h = d.blockLen ∧ ((dsbOfCode (h % 256)).map Ty.width) = some (dsbWidth d.etype) then
    Ty.f32.fmt.ofFp .rne ftz (dsbBlockElem bs idx)
  else (Ty.f32.fmt.nan, stNV)

/-- LDC (R141). -/
def execLdc (o : MC) (s : State) : Out :=
  issue 0x8C s (fun c => [vdst o.d (elemRegs (c.etypeOf o.h)), ssrc o.h 1, c.coordUse o]) noCheck fun c =>
    match c.st.region? c.fn (c.s o.h.toNat).toNat with
    | none => if c.act = 0 then .done c.st [] 0 else regionTrap 1
    | some r =>
      let at' (i : Nat) : List Int := c.coords r.desc.rank o.c.toNat (toSigned 8 o.imm.toNat) i
      c.access { write := false, migrates := true, names := regsFrom o.d.toNat (elemRegs r.desc.etype) } (lanesOf c.act)
        (fun i => r.target (at' i))
        (fun s i => c.element r s i (at' i)) fun s as =>
          let s1 := s.observe c.w (regionKey r.fn r.index) (as.map fun a => at' a.lane)
          if dsbWidth r.desc.etype = 0 then
            (s1, laneWrites o.d.toNat (elemRegs r.desc.etype) (s1.loads c.w.uid as fun bs => (Ty.ofCode r.desc.etype).extend (leNat bs)), 0)
          else
            let v := s1.overlay c.w.uid
            let rs := as.map fun a => (a, dsbElement r.desc c.ftz (v.readLocs a.locs) (((at' a.lane).getLastD 0).toNat % r.desc.blockLen))
            (s1, laneWrites o.d.toNat 1 (rs.map fun x => (x.1.lane, x.2.1, v.poisoned x.1.locs)), rs.foldl (fun a x => a ||| x.2.2) 0)

/-- STC (R141, R142). -/
def execStc (o : MC) (s : State) : Out :=
  issue 0x8D s (fun c => [vsrc o.d 0 false (elemRegs (c.etypeOf o.h)), ssrc o.h 1, c.coordUse o]) noCheck fun c =>
    match c.st.region? c.fn (c.s o.h.toNat).toNat with
    | none => if c.act = 0 then .done c.st [] 0 else regionTrap 1
    | some r =>
      if dsbWidth r.desc.etype ≠ 0 ∧ c.act ≠ 0 then regionTrap 3
      else
        let at' (i : Nat) : List Int := c.coords r.desc.rank o.c.toNat (toSigned 8 o.imm.toNat) i
        c.access { write := true, migrates := true } (lanesOf c.act) (fun i => r.target (at' i))
          (fun s i => c.element r s i (at' i)) fun s as =>
            c.storeFrom (fun i => c.val (elemRegs r.desc.etype == 2) o.d.toNat i)
              (s.observe c.w (regionKey r.fn r.index) (as.map fun a => at' a.lane)) as

end Sys2Proof.Machine
end

