-- ==== Sys2Proof/Machine/Order.lean ====
section
/-! DEFINITION. The order-table instructions (R153 to R157) and the events of monitors and moves (R356 to R361). -/

namespace Sys2Proof.Machine

/-! ### The instructions -/

/-- The slab that an order-table instruction names (R155), or its region-access fault. -/
def Ctx.orderSlab (c : Ctx) (o : X) : Except Act (Region × Nat) :=
  match c.st.region? c.fn (c.s o.y.toNat).toNat with
  | none => .error (regionTrap 1)
  | some r =>
    let z := toSigned 32 (c.s o.z.toNat).toNat
    if z < 0 ∨ (r.desc.shape.headD 1 : Int) ≤ z then .error (regionTrap 2) else .ok (r, z.toNat / r.desc.slabRows)

/-- RDORD (R155). -/
def execRdord (o : X) (s : State) : Out :=
  issue 0xA1 s (fun _ => [sdst o.x 4, ssrc o.y 1, ssrc o.z 1]) noCheck fun c =>
    match c.orderSlab o with
    | .error a => a
    | .ok (r, k) =>
      let e := ((r.slabs[k]?).map Slab.entry).getD [0, 0, 0, 0]
      .done c.st ((List.range 4).flatMap fun j => swrite (o.x.toNat + j) (e.getD j 0)) 0

/-- The slabs that PINORD and ADVORD act on (R156, R157): the named one, or all of them. -/
def Ctx.orderSlabs (c : Ctx) (o : X) : Except Act (Region × List Nat) :=
  if bitAt o.imm.toNat 0 then
    match c.st.region? c.fn (c.s o.y.toNat).toNat with
    | none => .error (regionTrap 1)
    | some r => .ok (r, List.range r.slabs.length)
  else match c.orderSlab o with
    | .error a => .error a
    | .ok (r, k) => .ok (r, [k])

/-- Reason 5 of R142: bits [31:16] set, or a code that is not valid for the region. -/
def Region.badCode (r : Region) (x : Word) : Bool := x.toNat / 65536 != 0 || !codeValid r.desc.rank r.desc.blockLen x.toNat

/-- Scalars of PINORD and ADVORD: z names no slab with imm9[0] = 1. -/
def orderUses (o : X) : List Use := [ssrc o.x 1, ssrc o.y 1, ssrc o.z 1]

/-- PINORD (R156). -/
def execPinord (o : X) (s : State) : Out :=
  issue 0xA2 s (fun _ => orderUses o) noCheck fun c =>
    match c.orderSlabs o with
    | .error a => a
    | .ok (r, ks) =>
      let x := c.s o.x.toNat
      if x ≠ 0xFFFF ∧ r.badCode x then regionTrap 5
      else .done (ks.foldl (fun s k => s.pinSlab (regionKey r.fn r.index) k (BitVec.ofNat 16 x.toNat)) c.st) [] 0

/-- ADVORD (R157): with weight 0, s x is not checked. -/
def execAdvord (o : X) (s : State) : Out :=
  issue 0xA3 s (fun _ => orderUses o) noCheck fun c =>
    match c.orderSlabs o with
    | .error a => a
    | .ok (r, ks) =>
      let x := c.s o.x.toNat
      let weight := bitsAt o.imm.toNat 4 1
      if weight ≠ 0 ∧ r.badCode x then regionTrap 5
      else .done (ks.foldl (fun s k => s.adviseSlab (regionKey r.fn r.index) k (BitVec.ofNat 16 x.toNat) weight) c.st) [] 0

/-! ### Events -/

/-- MONITOR_WINDOW_CLOSE (R358, R360): the window of slab b of the region whose key is a closes, where it is full. -/
def execMonitorWindowClose (s : State) : Out := .next (s.closeWindow s.args.a s.args.b)

/-- MOVE_START (R356, R360): a decided move of slab b of the region whose key is a starts, where the reserve covers it. -/
def execMoveStart (s : State) : Out := .next (s.tryMove s.args.a s.args.b)

end Sys2Proof.Machine
end

