-- ==== Sys2Proof/Machine/Entry.lean ====
section
/-! DEFINITION. Copy entries as they are read (R282 to R285, R289, R290, R292): flags, descriptors, boxes, lengths, and the
bytes they name. -/

namespace Sys2Proof.Machine

/-! ### Fields (R282) -/

/-- KIND. -/
def entryKind (e : List Byte) : Nat := fieldAt e 0 1
/-- A flag by its bit. -/
def entryFlag (e : List Byte) (i : Nat) : Bool := bitAt (fieldAt e 0 4) i
/-- PCODE. -/
def entryCode (e : List Byte) : Nat := fieldAt e 2 1
/-- SLOT. -/
def entrySlot (e : List Byte) : Nat := fieldAt e 3 1
/-- SRC, DST, LEN and AUX. -/
def entrySrc (e : List Byte) : Nat := fieldAt e 4 8
def entryDst (e : List Byte) : Nat := fieldAt e 12 8
def entryLen (e : List Byte) : Nat := fieldAt e 20 4
def entryAux (e : List Byte) : Nat := fieldAt e 24 8

/-- Status 1 (R282, R286): a reserved kind, a reserved bit, a flag outside its kinds, or two of STAMP, ARRIVAL and GATE. -/
def entryFlagsBad (e : List Byte) : Bool :=
  let k := entryKind e
  let one (i : Nat) : Nat := if entryFlag e i then 1 else 0
  k = 0 || 10 < k || entryFlag e 15 || entryFlag e 14 || 1 < one 8 + one 12 + one 13 || (entryFlag e 11 && 3 < k) || (entryFlag e 10 && k != 7)

/-- The element size that a permute code reverses (R284); 1 for identity. -/
def permSize (code : Nat) : Nat := if code ≤ 1 then 1 else 2 ^ (code - 1)

/-- L of PCODE for kind 0x0A (R284). -/
def encodeLen (code : Nat) : Nat := 16 * 2 ^ (code % 4)
/-- Bytes of one encoded block. -/
def encodeBytes (code : Nat) : Nat := blockBytes (if bitAt code 2 then 4 else 8) (encodeLen code)

/-! ### Boxes (R285) -/

/-- Bytes of a box, and of one of its rows along the innermost scratchpad dimension. -/
def BoxShape.bytes (b : BoxShape) : Nat := b.extent.foldl (· * ·) 1 * b.unit
def BoxShape.row (b : BoxShape) : Nat := b.extent.getLastD 1 * b.unit

/-- Coordinates over a list of extents from a row-major index, last fastest. -/
def indexCoords (ext : List Nat) (n : Nat) : List Nat :=
  ((ext.reverse.foldl (fun (acc : Nat × List Nat) e => (acc.1 / e, acc.1 % e :: acc.2)) (n, []))).2

/-- The element (in a dsb region the first of the block) that unit n of a box names; l is the block length. -/
def BoxShape.coords (b : BoxShape) (l n : Nat) : List Nat :=
  let c := indexCoords b.extent n
  let rank := b.extent.length
  (List.range rank).map fun q =>
    let j := b.order.idxOf q
    b.origin.getD q 0 + c.getD j 0 * (if q + 1 = rank then l else 1)

/-- A box record read (R285): status 3 where it is malformed, 5 where the region, the shape or the block alignment fails, 6
where the record lies outside the allocation. -/
def State.readBox (s : State) (b : Block) (fn off : Nat) : Except Nat BoxShape :=
  if off % 8 ≠ 0 then .error 3
  else match s.rangeBad b off 64, s.scrPlace b off with
    | none, .ok (u, o) =>
      let r := s.readLocs ((Loc.scr u o).span 64)
      let rank := fieldAt r 4 1
      let ord := (List.range rank).map fun q => bitsAt (fieldAt r 6 2) (3 * q + 2) (3 * q)
      let org := (List.range 5).map fun q => toSigned 32 (fieldAt r (8 + 4 * q) 4)
      let ext := (List.range 5).map fun q => fieldAt r (28 + 4 * q) 4
      let perm := (List.range rank).all fun q => ord.contains q
      if rank = 0 ∨ 5 < rank ∨ fieldAt r 5 1 ≠ 0 ∨ bitAt (fieldAt r 6 2) 15 ∨ !perm ∨ ext.any (· == 0) ∨
          (org.drop rank).any (· != 0) ∨ (ext.drop rank).any (· != 1) ∨ leNat (r.drop 52) ≠ 0 then .error 3
      else match s.region? fn (fieldAt r 0 4) with
        | none => .error 5
        | some x =>
          let d := x.desc
          let fits := (List.range rank).all fun q => 0 ≤ org.getD q 0 && org.getD q 0 + (ext.getD q 1 : Int) ≤ (d.shape.getD q 1 : Int)
          let inner := rank - 1
          if d.rank ≠ rank ∨ (dsbWidth d.etype ≠ 0 ∧ ord.getD inner 0 ≠ inner) then .error 3
          else if !fits ∨ (org.getD inner 0).toNat % d.blockLen ≠ 0 ∨ ext.getD inner 1 % d.blockLen ≠ 0 then .error 5
          else
            .ok { handle := fieldAt r 0 4, order := ord, origin := (org.take rank).map Int.toNat,
                  extent := ord.map fun q => if q = inner then ext.getD q 1 / d.blockLen else ext.getD q 1,
                  pitch := fieldAt r 48 4, unit := d.unitBytes }
    | _, _ => .error 6

/-! ### Descriptors (R283, R284) -/

/-- A descriptor whose space is one of those allowed; status 3 otherwise. -/
def readDesc (lin scr drive : Bool) (x : Nat) : Except Nat Side :=
  let space := x / 2 ^ 57
  if space = 0 ∧ lin then .ok (.lin (wrapTo 64 (toSigned 57 (x % 2 ^ 57))))
  else if space = 1 ∧ scr ∧ bitsAt x 56 20 = 0 then .ok (.scr (x % 2 ^ 20))
  else if space = 2 ∧ drive ∧ !bitAt x 56 then .ok (.drive (bitsAt x 55 48) (x % 2 ^ 48))
  else .error 3

/-- The scratchpad ranges that a side names: rows under the box of the other side, or one run of n bytes. -/
def scrRanges (side other : Side) (n : Nat) : List (Nat × Nat) :=
  match side with
  | .scr a =>
    match other with
    | .box b =>
      if b.row = 0 then [] else (List.range (n / b.row)).map fun i => (a + i * (if b.pitch = 0 then b.row else b.pitch), b.row)
    | _ => if n = 0 then [] else [(a, n)]
  | _ => []

/-- What an entry names: its sides and the lengths of its source and destination in bytes. -/
structure Named where
  src : Side
  dst : Side
  srcLen : Nat
  dstLen : Nat
  deriving DecidableEq, Repr

/-- log2 of the block size of a storage grant (R414). -/
def State.grantLbas (s : State) (fn grant : Nat) : Option Nat :=
  (s.fn? fn).bind fun f => (f.grants.find? (·.1 == grant)).map fun g => fieldAt g.2 34 1

/-- The sides of an entry by its kind (R284); the status where it is malformed. -/
def State.entrySides (s : State) (b : Block) (fn : Nat) (e : List Byte) : Except Nat Named := do
  let len := entryLen e
  let code := entryCode e
  let conv := entryFlag e 11
  match entryKind e with
  | 4 =>
    if code ≠ 0 ∨ entrySrc e ≠ 0 then throw 3
    let dst ← readDesc false true false (entryDst e)
    let bx ← s.readBox b fn len
    pure { src := .box bx, dst := dst, srcLen := bx.bytes, dstLen := bx.bytes }
  | 5 =>
    if code ≠ 0 ∨ entryDst e ≠ 0 then throw 3
    let src ← readDesc false true false (entrySrc e)
    let bx ← s.readBox b fn len
    pure { src := src, dst := .box bx, srcLen := bx.bytes, dstLen := bx.bytes }
  | 6 =>
    if code ≠ 0 ∨ entrySrc e ≠ 0 then throw 3
    let at' ← readDesc false true false (entryDst e)
    let bs ← s.readBox b fn len
    let bd ← s.readBox b fn (match at' with | .scr a => a | _ => 0)
    if bs.bytes ≠ bd.bytes ∨ bs.unit ≠ bd.unit then throw 3
    pure { src := .box bs, dst := .box bd, srcLen := bs.bytes, dstLen := bs.bytes }
  | 7 =>
    let out := if entryFlag e 10 then 4 * len else len
    if code ≠ 0 ∨ len % 4 ≠ 0 then throw 3
    let src ← readDesc true true false (entrySrc e)
    let dst ← readDesc true true false (entryDst e)
    let addr (x : Side) : Nat := match x with | .lin a => a | .scr a => a | _ => 0
    if addr src % 4 ≠ 0 ∨ addr dst % (if entryFlag e 10 then 16 else 4) ≠ 0 then throw 3
    pure { src := src, dst := dst, srcLen := len, dstLen := out }
  | 8 =>
    if code ≠ 0 then throw 3
    let src ← readDesc false false true (entrySrc e)
    let dst ← readDesc true true false (entryDst e)
    let g := match src with | .drive g _ => g | _ => 0
    match s.grantLbas fn g with
    | none => throw 3
    | some l => if len % 2 ^ l ≠ 0 then throw 3 else pure { src := src, dst := dst, srcLen := len, dstLen := len }
  | 9 =>
    if code ≠ 0 then throw 3
    let dst ← readDesc true true false (entryDst e)
    pure { src := .pattern (entrySrc e), dst := dst, srcLen := 0, dstLen := len }
  | 10 =>
    if 16 ≤ code ∨ len % (4 * encodeLen code) ≠ 0 then throw 3
    let src ← readDesc true true false (entrySrc e)
    let dst ← readDesc true true false (entryDst e)
    pure { src := src, dst := dst, srcLen := len, dstLen := len / (4 * encodeLen code) * encodeBytes code }
  | k =>
    let out := if conv then len / 2 else len
    if 4 < code ∨ (conv ∧ len % 4 ≠ 0) ∨ out % permSize code ≠ 0 then throw 3
    let src ← readDesc (k != 3) (k == 3) false (entrySrc e)
    let dst ← readDesc (k != 2) (k == 2) false (entryDst e)
    pure { src := src, dst := dst, srcLen := len, dstLen := out }

/-- The scratchpad ranges of a named destination or source. -/
def Named.dstRanges (n : Named) : List (Nat × Nat) := scrRanges n.dst n.src n.dstLen
def Named.srcRanges (n : Named) : List (Nat × Nat) := scrRanges n.src n.dst n.srcLen

/-- Status 6 (R286): a scratchpad byte that an entry names lies outside the group's allocations (R136). -/
def State.namedOut (s : State) (b : Block) (n : Named) : Bool :=
  (n.dstRanges ++ n.srcRanges).any fun r => r.2 != 0 && (s.rangeBad b r.1 r.2).isSome

/-- The locations of scratchpad ranges of a block's group. -/
def State.rangeLocs (s : State) (b : Block) (rs : List (Nat × Nat)) : List Loc :=
  rs.flatMap fun r => (List.range r.2).filterMap fun i => ((s.scrPlace b (r.1 + i)).toOption).map fun p => .scr p.1 p.2

/-- The ring slot that entry p lies in (R281). -/
def Ring.slot (r : Ring) (p : Nat) : Nat := r.off + 32 * (p % r.count)

/-- Entry p of a block's ring. -/
def Block.entry (b : Block) (r : Ring) (p : Nat) : List Byte := Memory.getBytes b.scratch (r.slot p) 32

/-- The scratchpad destination of entries i to j - 1 of a block's ring, as they stand. -/
def State.entryTargets (s : State) (b : Block) (i j : Nat) : List (Nat × List (Nat × Nat)) :=
  match b.ring with
  | none => []
  | some r =>
    let fn := ((s.launch? b.launch).map (·.fn)).getD 0
    (List.range (j - i)).map fun k =>
      (i + k, match s.entrySides b fn (b.entry r (i + k)) with
        | .ok n => n.dstRanges
        | .error _ => [])

/-- Entries of a block that are published and not consumed. -/
def Block.pending (b : Block) : Nat × Nat :=
  match b.ring with
  | some r => if r.stopped then (0, 0) else (r.consumed, r.published)
  | none => (0, 0)

/-- Scratchpad destinations of a block's copies that are not done, published entries included (R294), with their numbers. -/
def State.openTargets (s : State) (b : Block) : List (Nat × List (Nat × Nat)) :=
  let run := (s.copies.filter (·.block == b.uid)).map fun c => (c.number, scrRanges c.dst c.src c.dstLen)
  let p := b.pending
  let number (i : Nat) : Nat := (b.ring.map fun r => r.base + (i - r.from0) + 1).getD 0
  run ++ (s.entryTargets b p.1 p.2).map fun x => (number x.1, x.2)

/-- Two lists of ranges have a byte in common: the first such byte of the first list. -/
def rangesMeet (xs ys : List (Nat × Nat)) : Option Nat :=
  xs.findSome? fun x => ys.findSome? fun y => if x.1 < y.1 + y.2 ∧ y.1 < x.1 + x.2 then some (max x.1 y.1) else none

/-- A write of P to a bound notify word that would publish an entry whose scratchpad destination is held (R281): the held byte. -/
def State.publishHeld (s : State) (b : Block) (p : Nat) : Option HeldByte :=
  match b.ring with
  | none => none
  | some r =>
    if r.stopped ∨ p ≤ r.published ∨ r.consumed + r.count < p then none
    else s.heldLoc (s.rangeLocs b ((s.entryTargets b r.published p).flatMap (·.2))) fun _ _ => true

end Sys2Proof.Machine
end

