-- ==== Sys2Proof/Machine/Lane.lean ====
section
/-! DEFINITION. Lane operations (R119 to R123), mode, shape and carry (R124 to R126), and the system registers (R29 to R31, R98, R99). -/

namespace Sys2Proof.Machine

/-! ### Lane operations -/

/-- MATCH (R119): the guarded lanes whose value outside the ignore mask equals this lane's. -/
def execMatchV (o : V3) (s : State) : Out :=
  issue 0x74 s (fun c => v3Uses o 1 (pairs c.ty.intPair) (pairs c.ty.intPair)) noCheck fun c =>
    let p := c.ty.intPair
    let andn (a m : Nat) : Nat := Nat.land a (Nat.xor m (2 ^ 64 - 1))
    c.vresult o.d.toNat false fun i =>
      let m := c.bval o p i
      ((maskOf fun j => hasLane c.act j && andn (c.aval o p j) m == andn (c.aval o p i) m).toNat, 0)

/-- VOTE (R119): the guarded lanes whose value outside their mask is not zero. -/
def execVote (o : V3) (s : State) : Out :=
  issue 0x75 s (fun c => v3Uses o 1 (pairs c.ty.intPair) (pairs c.ty.intPair)) noCheck fun c =>
    let p := c.ty.intPair
    let m := maskOf fun j => hasLane c.act j && Nat.land (c.aval o p j) (Nat.xor (c.bval o p j) (2 ^ 64 - 1)) != 0
    c.vresult o.d.toNat false fun _ => (m.toNat, 0)

/-- PLOP (R120): a truth table of two predicates. -/
def execPlop (o : X) (s : State) : Out :=
  issue 0x76 s (fun _ => [pwrite o.x, pread o.y, pread o.z]) noCheck fun c =>
    c.presult o.x.toNat fun i =>
      (bitAt o.imm.toNat ((if c.pbit o.y.toNat i then 2 else 0) + (if c.pbit o.z.toNat i then 1 else 0)), 0)

/-- PMOV (R121): a ballot of a predicate, or a predicate from the bits of a vector. -/
def execPmov (o : X) (s : State) : Out :=
  if bitAt o.imm.toNat 0 then
    issue 0x77 s (fun _ => [pwrite o.x, { cls := 0, reg := o.y.toNat, rd := true }]) noCheck fun c =>
      c.presult o.x.toNat fun i => (bitAt (c.lane o.y.toNat i).toNat i, 0)
  else
    issue 0x77 s (fun _ => [vdst o.x 1, pread o.y]) noCheck fun c =>
      let m := maskOf fun j => hasLane c.sp.lanes j && c.pbit o.y.toNat j
      c.vresult o.x.toNat false fun _ => (m.toNat, 0)

/-- SHUF (R122): the value of a, its pattern applied, in the lane that b names. -/
def execShuf (o : V3) (s : State) : Out :=
  issue 0x78 s (fun c => [vdst o.d (pairs c.ty.intPair), { vsrc o.a o.pa o.la (pairs c.ty.intPair) with all := true }, bsrc o 1]) noCheck fun c =>
    let p := c.ty.intPair
    c.vresult o.d.toNat p fun i =>
      let j := c.bval o false i % c.n
      (if hasLane c.sp.lanes j then c.aval o p j else 0, 0)

/-- The exact sum of element e over lanes of a mask. -/
def Ctx.laneSum (c : Ctx) (o : V3) (e : Nat) (m : Mask) : Int :=
  let t := c.ty
  (lanesOf m).foldl (fun x i => x + t.read (elemAt t.width e (c.aval o t.pair i))) 0

/-- IRED (R61, R123): roundT of the exact sum over the contributing lanes. -/
def execIred (o : V3) (s : State) : Out :=
  issue 0x79 s (fun c => unUses o (pairs c.ty.pair) (pairs c.ty.pair)) (tyCheck 0x79 Ty.isInt) fun c =>
    let t := c.ty
    let r := perElem t.width t.count fun e => roundInt t (modeSat c.m) (c.laneSum o e c.act)
    c.vresult o.d.toNat t.pair fun _ => r

/-- ISCAN (R61, R123): roundT of the exact inclusive prefix. -/
def execIscan (o : V3) (s : State) : Out :=
  issue 0x7A s (fun c => unUses o (pairs c.ty.pair) (pairs c.ty.pair)) (tyCheck 0x7A Ty.isInt) fun c =>
    let t := c.ty
    c.vresult o.d.toNat t.pair fun i =>
      perElem t.width t.count fun e => roundInt t (modeSat c.m) (c.laneSum o e (c.act &&& maskOf fun j => j ≤ i))

/-! ### Mode, shape and carry -/

/-- Whether MODE may write a value (R26): MIG 3, ROUND 5 to 7, GUARD 9 to 15 and bit 21 are illegal. -/
def modeLegal (v : Nat) : Bool := bitsAt v 20 19 != 3 && bitsAt v 11 9 < 5 && bitsAt v 3 0 < 9 && !bitAt v 21

/-- MODE (R124): the register governs clauses that begin later; an away lane writes its carried copy.
In a compacted warp the dense warp's copy alone is written, which is dropped at BJOIN (DEDUCED, log 63). -/
def execMode (i : BitVec 24) (s : State) : Out :=
  issue 0x7B s (fun _ => []) (fun _ => if modeLegal (bitsAt i.toNat 21 0) then none else some (1, illegalInfo 0x7B 29)) fun c =>
    .done (c.st.modWarp c.w.uid fun w =>
      { w with m := w.m.set (bitsAt i.toNat 23 22) (BitVec.ofNat 22 i.toNat), guest := w.guest.map fun g => { g with modew := true } }) [] 0

/-- Whether MSHAPE may write a value (R27). -/
def shapeLegal (v : Nat) : Bool := !bitAt v 23 && bitsAt v 18 16 < 6 && bitsAt v 15 13 < 6

/-- MSHAPE (R125): writes ms; a native wavefront has none, an away lane returns home.  In a native wavefront code 30 comes before code 29,
and in a compacted warp the dense warp's ms alone is written, which is dropped at BJOIN (DEDUCED, log 63). -/
def execMshape (i : BitVec 24) (s : State) : Out :=
  issue 0x7C s (fun _ => [])
    (fun c => if c.guest then none else if c.native then some (1, illegalInfo 0x7C 30)
      else if shapeLegal i.toNat then none else some (1, illegalInfo 0x7C 29)) fun c =>
    if c.guest then .bounce else .done (c.st.modWarp c.w.uid fun w => { w with ms := i }) [] 0

/-- CARRY (R126): the carry masks of the warp, of every home of a compacted warp's lanes, or of the away lane. -/
def execCarry (o : X) (s : State) : Out :=
  issue 0x7D s (fun _ => [ssrc o.x 1, ssrc o.y 1]) (fun c => if c.native then some (1, illegalInfo 0x7D 30) else none) fun c =>
    let set (w : Warp) : Warp := { w with carryV := c.s o.x.toNat, carryS := c.s o.y.toNat &&& 0xFFFFFFFE }
    .done ((c.st.owners c.w (State.homeMask c.w)).foldl (fun s h => s.modWarp h.uid set) (c.st.modWarp c.w.uid set)) [] 0

/-! ### System registers -/

/-- The assigned indices (R29). -/
def sysKnown (i : Nat) : Bool := i ≤ 0x10

/-- The destination of SYSRD (R98): a vector register, a scalar, or a scalar pair. -/
def sysUse (x : BitVec 5) (i : Nat) : Use :=
  if i = 0 ∨ i = 2 then vdst x 1 else if i = 0xC ∨ i = 0x10 then sdst x 2 else sdst x 1

/-- Matrix contexts granted to the block of an agent (R28). -/
def Ctx.contexts (c : Ctx) : Nat := (c.block?.map (·.mctx.length)).getD 0

/-- WARPSTAT (R30, R31). -/
def Ctx.warpstat (c : Ctx) : Nat :=
  let w := c.w
  let debug := if c.st.debugOf w then 2 ^ 31 else 0
  let own := w.sticky.toNat
  match w.kind with
  | .guest => debug + 2 ^ 22 + own
  | .native => own
  | _ =>
    let mctx := if c.contexts = 0 then 0 else w.idx % c.contexts
    debug + mctx * 2 ^ 29 + (if w.kind = .dense then 2 ^ 23 else 0) + (if w.someAway then 2 ^ 22 else 0) + (w.liveCount - 1) * 2 ^ 20 + own

/-- Where an agent executes: CORE, CLUSTER, DIE and STACK (R29, R31, R304). -/
def Ctx.place (c : Ctx) : Nat × Nat × Nat × Nat :=
  let none32 := 2 ^ 32 - 1
  match c.w.wave, c.w.guest with
  | some v, _ => (v.core, none32, dieOfStack v.stack, v.stack)
  | _, some g =>
    if g.onStack then (g.sillCore, none32, dieOfStack g.site, g.site) else (g.site, clusterOf g.site, dieOfCore g.site, none32)
  | _, _ => (c.w.core, clusterOf c.w.core, dieOfCore c.w.core, none32)

/-- A warp-uniform system register (R29, R31, R304).  A compacted warp reads QUOTA and LIVEMASK of its lowest-numbered home (DEDUCED,
log 63). -/
def Ctx.sysreg (c : Ctx) (i : Nat) : Nat :=
  let w := c.w
  let b := c.block?
  let renamed := c.st.scalarWarp w
  match i with
  | 1 =>
    match w.guest with
    | some g => (g.slot.getD 0) + (if g.onStack then 8 else 0)
    | none => w.slot
  | 3 => if w.renames then c.k else 0
  | 4 => (b.map (·.index)).getD 0
  | 5 => (b.map fun x => if (c.launch?.map (·.group)).getD false then x.pos + 4 * x.group else 0).getD 0
  | 6 => c.place.1
  | 7 => c.place.2.1
  | 8 => c.place.2.2.1
  | 9 => c.place.2.2.2
  | 0xA => c.warpstat
  | 0xB => w.trapcause.toNat
  | 0xC => w.trappc.toNat
  | 0xD => w.trapinfo.toNat
  | 0xE => if w.renames then renamed.quota else 0
  | 0xF => if w.renames then renamed.liveMask.toNat else 0
  | _ => 0

/-- HOMEWARP of a lane (R29, R31). -/
def Ctx.homeIndex (c : Ctx) (i : Nat) : Nat :=
  match c.w.kind with
  | .native => 0
  | .guest => (((c.w.guest.bind fun g => c.st.warp? g.home)).map (·.idx)).getD 0
  | _ => (c.st.laneWarp c.w i).idx

/-- SYSRD (R98): TIMEBASE is sampled once; between two samples an unknown number of counts passes (log 8). -/
def execSysrd (o : X) (s : State) : Out :=
  let i := o.imm.toNat
  issue 0x0C s (fun _ => if sysKnown i then [sysUse o.x i] else [])
    (fun _ => if sysKnown i then none else some (1, illegalInfo 0x0C 30)) fun c =>
    if i = 0 then c.vresult o.x.toNat false fun l => (l, 0)
    else if i = 2 then c.vresult o.x.toNat false fun l => (c.homeIndex l, 0)
    else if i = 0x10 then
      let n := c.st.takeFree
      let t := n.2.timebase + Config.elapsed n.1
      .done { n.2 with timebase := t } (swrite2 o.x.toNat t.toNat) 0
    else if i = 0xC then .done c.st (swrite2 o.x.toNat (c.sysreg i)) 0
    else .done c.st (swrite o.x.toNat (c.sysreg i)) 0

/-- A write to a system register under its access code (R5, R99). -/
def Warp.sysWrite (w : Warp) (i x : Nat) : Warp :=
  match i with
  | 0xA => { w with sticky := w.sticky &&& ~~~(BitVec.ofNat 8 x) }
  | 0xB => { w with trapcause := word (x % 256) }
  | 0xC => { w with trappc := dword (bitsAt x 56 2 * 4) }
  | 0xD => { w with trapinfo := word x }
  | _ => w

/-- SYSWR (R99).  In an away lane TRAPCAUSE, TRAPPC and TRAPINFO are the agent's own copies, which no shuttle carries home (DEDUCED,
log 63). -/
def execSyswr (o : X) (s : State) : Out :=
  let i := o.imm.toNat
  issue 0x0D s (fun _ => if sysKnown i then [ssrc o.y (if i = 0xC then 2 else 1)] else [])
    (fun _ => if sysKnown i then none else some (1, illegalInfo 0x0D 30)) fun c =>
    .done (c.st.modWarp c.w.uid fun w => w.sysWrite i (c.s2 o.y.toNat)) [] 0

end Sys2Proof.Machine
end

