-- ==== Sys2Proof/Machine/Preempt.lean ====
section
/-! DEFINITION. Taking a warp for pre-emption and giving it back (R386 to R396): the prologue, the block header, the save handler's and
the resume handler's entry and return. -/

namespace Sys2Proof.Machine

/-- The block's slot in the save area (R388). -/
def State.blockSlot (s : State) (b : Block) : Nat :=
  match s.launch? b.launch with
  | some l => (l.saveBase + b.index * l.saveStride) % 2 ^ 64
  | none => 0

/-- The warp's slot in the save area (R388). -/
def State.warpSlot (s : State) (w : Warp) : Nat :=
  match s.block? w.block with
  | some b => (s.blockSlot b + 0x100 + 0x1800 * w.idx) % 2 ^ 64
  | none => 0

/-- The slot at which a split resumes: a split that enters its clause's last valid slot (R91) needs the header; none where
that is not readable now. -/
def State.resumeSlot (s : State) (w : Warp) (sp : Split) : Option Nat :=
  if sp.slot = 8 then (match s.fetchWord w sp.pc.toNat with
    | .ok (_, h) => some (hdrCount h)
    | .error _ => none)
  else some (max sp.slot 1)

/-- STATE and object bytes of a split record (R389). -/
def Warp.splitState (w : Warp) (k : Nat) (sp : Split) : Nat × Nat :=
  if w.replay.isSome && w.running == k then (6, 0)
  else match sp.status with
    | .ready | .resume => (0, 0)
    | .wait _ | .shed => (1, 0)
    | .join => (2, 0)
    | .barrier o => (3, o)
    | .bblk _ | .bjoin => (4, 0)
    | .home => (5, 0)
    | .svc _ => (7, 0)

/-- A mask-stack entry in memory form (R389). -/
def MaskEntry.bytes (e : MaskEntry) : List Byte := leBytes 8 (e.pc.toNat + (if e.parked then 1 else 0)) ++ leBytes 4 e.mask.toNat

/-- A list of bytes brought to n bytes with zeros. -/
def padTo (n : Nat) (l : List Byte) : List Byte := l ++ List.replicate (n - l.length) 0

/-- A split record (R389). -/
def Warp.splitRecord (w : Warp) (k : Nat) (sp : Split) : List Byte :=
  if !sp.live then List.replicate 80 0
  else
    let st := w.splitState k sp
    leBytes 8 (trapPc sp.pc (if sp.slot = 0 then 1 else sp.slot)).toNat ++ leBytes 4 sp.lanes.toNat ++ leBytes 4 sp.overflow.toNat ++
      leBytes 1 st.1 ++ leBytes 1 st.2 ++ List.replicate 6 0 ++ padTo 48 (sp.stack.flatMap MaskEntry.bytes) ++ List.replicate 8 0

/-- The warp prologue, 1 KiB (R389). -/
def Ctx.prologue (c : Ctx) : List Byte :=
  let w := c.w
  let words (r : Nat) : List Byte := ((w.reg r).val).flatMap fun x => leBytes 4 x.toNat
  leBytes 4 w.liveMask.toNat ++ leBytes 4 w.quota ++ leBytes 8 w.trappc.toNat ++ leBytes 4 w.trapinfo.toNat ++ leBytes 4 c.warpstat ++
    (w.m.flatMap fun m => leBytes 4 m.toNat) ++ leBytes 4 w.ms.toNat ++ leBytes 4 w.carryV.toNat ++ leBytes 4 w.carryS.toNat ++
    List.replicate 4 0 ++ ([28, 29, 30, 31].flatMap fun r => leBytes 4 (w.sreg r).toNat) ++ List.replicate 8 0 ++
    ((List.range 4).flatMap fun k => w.splitRecord k ((w.splits[k]?).getD Split.free)) ++ List.replicate 112 0 ++ words 30 ++ words 31 ++
    List.replicate 256 0

/-- The block header, 256 bytes (R390). -/
def Block.header (b : Block) : List Byte :=
  let ring := match b.ring with
    | some r => leBytes 4 r.off ++ leBytes 4 r.count ++ leBytes 4 r.notify ++ leBytes 4 0 ++ leBytes 8 r.consumed
    | none => List.replicate 24 0
  leBytes 8 b.copyIssued ++ leBytes 8 b.copyDone ++ ring ++ leBytes 4 b.scratchSize ++ leBytes 4 b.warps.length ++ leBytes 8 b.tag ++
    List.replicate 72 0 ++
    padTo 128 (b.counters.flatMap fun c => leBytes 4 c.off ++ leBytes 4 c.start ++ leBytes 4 c.len ++ leBytes 4 0)

/-- A warp enters the save or resume handler (R388, R393): m0 to m3 reset, one split of every lane that has not exited at HANDLER, the
addresses in s28 to s31 and v30:v31. -/
def State.enterHandler (s : State) (w : Warp) (save : Bool) : State :=
  let slot := s.warpSlot w
  let bslot := ((s.block? w.block).map s.blockSlot).getD 0
  let entry := ((s.launch? w.launch).map (·.handler)).getD 0
  let all := ~~~w.exited
  let sp : Split := { Split.free with pc := dword entry, slot := 0, lanes := all }
  let addr (i : Nat) : Nat := (slot + 0x400 + 128 * i) % 2 ^ 64
  let w1 := (w.alloc 30).alloc 31
  let w2 := (w1.putV 30 all (perLane fun i => word (addr i)) 0).putV 31 all (perLane fun i => word (addr i / 2 ^ 32)) 0
  let w3 := (((w2.putS 28 (word slot) false).putS 29 (word (slot / 2 ^ 32)) false).putS 30 (word bslot) false).putS 31 (word (bslot / 2 ^ 32)) false
  s.setWarp { w3 with
    trapcause := if save then 0x20 else 0x21, m := List.replicate 4 modeReset, splits := sp :: List.replicate 3 Split.free, running := 0,
      idle := false,
    handler := if save then .save 0 else .restore 0, resv := [], region := none, replay := none, closeReq := false, expired := false }

/-- A split as a restarted region finds it: one that has waited at a wait point since before the region goes on with that wait; one whose
wait was over goes to the instruction again, or past an SVC whose reply has come, which is not sent again (R386). -/
def Split.again (old now : Split) : Split :=
  let sp : Split := { old with begun := false, asks := [], queued := none }
  if now.live && now.status == old.status && now.pc == old.pc && now.slot == old.slot then sp
  else match old.status with
    | .wait _ | .shed => { sp with status := .ready }
    | .svc _ => { old.advance with status := .ready, begun := false }
    | _ => sp

/-- A warp taken back to the start of its open region (R171, R386, R422): every split is where it was when the region was
opened, the opener's at the slot after the REGION, with the lanes that have exited since, whose stores are dropped too
(DEDUCED, log 65). A handler that the region's splits entered is left. -/
def Warp.rewind (w : Warp) : Warp :=
  match w.region with
  | none => w
  | some r =>
    let lanes := r.splits.foldl (fun m sp => m ||| sp.allLanes) 0
    let left := !r.handled && w.handler != .none
    { w with
      splits := r.splits.zipIdx.map fun x => x.1.again ((w.splits[x.2]?).getD Split.free)
      running := r.opener, exited := w.exited &&& ~~~lanes, handler := if left then .none else w.handler,
      m := if left then w.shadow else w.m, replay := none, region := none }

/-- The open region of a warp is abandoned (R259): its pieces are dropped and the warp goes back to its start. One that
cannot be restarted, since a handler that is over opened it or lanes that came back since left it no index for a split, ends
instead (DEDUCED, log 65). -/
def State.rewindWarp (s : State) (u : Nat) : State :=
  match (s.warp? u).bind fun w => w.region.map fun r => (r.handled && w.handler == .none) || 4 < r.splits.length with
  | some true => s.endRegion u
  | some false => s.modWarp u Warp.rewind
  | none => s

/-- Whether a warp may be taken now (R386): its long-latency operations complete, and it is in an open region, blocked, replayable, or at
a take point of its running split; past the deadline a clause boundary is one (R387). -/
def Warp.takable (w : Warp) (atPoint : Bool) : Bool :=
  w.kind == .main && !w.gone && !w.parked && w.ops.isEmpty && w.handler == .none && w.away == 0 &&
  (atPoint || w.region.isSome || w.replay.isSome || w.splits.all fun sp => !sp.live || sp.status != .ready)

/-- Offsets of the poisoned words of a prologue (R389, R419). -/
def Warp.prologuePoison (w : Warp) : List Nat :=
  let lanes (r o : Nat) : List Nat := (lanesOf (w.reg r).poison).map fun i => o + 4 * i
  (((List.range 4).filter fun i => hasLane w.spoison (28 + i)).map fun i => 0x38 + 4 * i) ++ lanes 30 0x200 ++ lanes 31 0x280

/-- A warp is taken (R386, R388): its prologue is written to its slot, its SFR closes, and it enters the save handler. -/
def State.takeWarp (s : State) (u : Nat) : State :=
  match (s.rewindWarp u).warp? u with
  | none => s
  | some w =>
    let s0 := (s.rewindWarp u).closeRecords u
    let c : Ctx := { st := s0, w := w, k := w.running, sp := (w.splits[w.running]?).getD Split.free }
    let s1 := match s0.reachN (s0.fnOf w) w.die (s0.warpSlot w) 1024 true with
      | .ok (s1, ls) => (s1.perform (List.zip ls c.prologue)).mark (w.prologuePoison.flatMap fun o => (ls.drop o).take 4)
      | .error _ => s0.touch (s0.fnOf w) w.die (s0.warpSlot w) 1024 true
    ({ s1 with growQ := s1.growQ.filter fun q => q.warp != u } : State).enterHandler { w with sfr := w.sfr + 1 } true

/-- Whether every warp of a block that has not exited satisfies a property. -/
def State.blockAll (s : State) (b : Block) (p : Warp → Bool) : Bool := (s.liveWarps b).all p

/-- When every warp of a block that has not exited has been taken, its forwarding tag is assigned and the block header is written, once
(R390, R393). -/
def State.headerStep (s : State) (block : Nat) : State :=
  match s.block? block with
  | none => s
  | some b =>
    if b.preempt == .requested && !b.compacted && b.tag == 0 && !(s.liveWarps b).isEmpty && s.blockAll b fun w => w.handler == .save 0 ||
      w.parked then
      let fn := ((s.launch? b.launch).map (·.fn)).getD 0
      let u := s.fresh
      let b1 := { b with tag := u.1 }
      let s1 := u.2.modBlock block fun b => { b with tag := u.1 }
      s1.putVa fn (dieOfCore b.core) (s1.blockSlot b1) b1.header
    else s

/-- A context of a block changed. -/
def State.modCtx (s : State) (b n : Nat) (f : MatCtx → MatCtx) : State := s.modBlock b fun x => { x with mctx := x.mctx.modify n f }

/-- MCANCEL (R200): every batch, the open one included, completes as cancelled. -/
def MatCtx.cancel (x : MatCtx) : MatCtx :=
  { x with cmds := [], open' := x.open' + 1, pendingClosed := [], done := x.open', bad := [], busy := [], stopped := false }

/-- The follow-ons of a block's published copies for a context are discarded (R188, R200). -/
def State.dropFollows (s : State) (b n : Nat) : State :=
  let drop (c : CopyCmd) : CopyCmd := if c.block = b ∧ (c.target.map (·.1)) = some n then { c with target := none } else c
  let zero (p : Published) : Published := { p with batches := p.batches.map fun q => if q.1 = n then (q.1, 0) else q }
  ({ s with copies := s.copies.map drop } : State).modBlock b fun x => { x with ring := x.ring.map fun r => { r with pubs := r.pubs.map zero } }

/-- A context that is neither idle nor stopped is cancelled at a save as by MCANCEL, with a class 0x11 record (R391). -/
def State.cancelContexts (s : State) (b : Block) : State :=
  let fn := ((s.launch? b.launch).map (·.fn)).getD 0
  b.mctx.zipIdx.foldl (fun s x =>
    if x.1.cmds.isEmpty && x.1.pendingClosed.isEmpty || x.1.stopped then s
    else ((s.log fn 0x11 0 (s.agentWord (.matrix b.uid x.1.done) false) 1 1
      (x.1.done % 2 ^ 32) 0).1.dropFollows b.uid x.2).modCtx b.uid x.2 MatCtx.cancel) s

/-- Every warp of a block that has not exited has left the core in pre-emption: the block is taken, and its reservations are
given up (R391); a ring that an overrun has stopped stays stopped until a new CRING (R281). -/
def State.blockTaken (s : State) (block : Nat) : State :=
  match s.block? block with
  | none => s
  | some b =>
    if b.preempt == .requested && !b.compacted && s.blockAll b (·.parked) then
      let s1 := s.cancelContexts b
      let s2 := s1.modBlock b.uid fun b =>
        { b with preempt := .taken, deadline := false, scratch := [], counters := [], ring := b.ring.filter (·.stopped),
                 pubs := (b.ring.map (·.pubs)).getD [], moves := b.moves ++ [{ core := b.core, issued := b.copyIssued, mark := s.nextUid }],
                 mctx := b.mctx.map fun x => { MatCtx.fresh with done := x.done, normal := x.normal, open' := x.open' } }
      ({ s2 with warps := s2.warps.map fun w => if b.warps.contains w.uid then { w with quota := 0 } else w } : State).growGrants b.core 96
    else s

/-- A TRET that ends a save handler (R391): the warp leaves the core. -/
def State.saveReturn (s : State) (u : Nat) : State :=
  match s.warp? u with
  | none => s
  | some w =>
    let s1 := s.setWarp { w with splits := List.replicate 4 Split.free, v := List.replicate 32 VReg.empty, handler := .none, parked := true }
    (({ s1 with cur := if s1.cur = some u then none else s1.cur } : State).headerStep w.block).blockTaken w.block

/-- A warp of a block that is asked is taken where it stands (R386 to R390), with its operations complete, its slots resolved
and no lane away; where it cannot be, nothing happens. -/
def State.takeNow (s0 : State) (u : Nat) : State :=
  let s := s0.completeOps u fun _ => true
  match s.warp? u with
  | none => s0
  | some w =>
    let slots := w.splits.map fun sp => if sp.live then s.resumeSlot w sp else some 1
    let asked := (s.block? w.block).any fun b => b.preempt == .requested && !b.compacted
    if !asked || w.kind != .main || w.gone || w.parked || w.handler != .none || w.someAway || !(slots.all (·.isSome)) then s0
    else
      let fix (x : Split × Nat) : Split := { x.1 with slot := (slots.getD x.2 none).getD 1 }
      ((s.setWarp { w with splits := w.splits.zipIdx.map fix }).takeWarp u).headerStep w.block

end Sys2Proof.Machine
end

