-- ==== Sys2Proof/Machine/Control.lean ====
section
/-! DEFINITION. Control transfers (R88 to R93, R100), compaction (R94, R95, R242, R243), and the software trap and its return (R96, R97). -/

namespace Sys2Proof.Machine

/-- The split's next place is set by the instruction. -/
def Ctx.turnState (c : Ctx) (s : State) (f : Split → Split) : State :=
  s.modWarp c.w.uid fun w => w.setSplit c.k (f { ((w.splits[c.k]?).getD Split.free) with status := .ready })

/-- The split goes where the instruction sends it. -/
def Ctx.turn (c : Ctx) (s : State) (f : Split → Split) : Act := .jump (c.turnState s f)

/-- The target of a B-format branch (R43). -/
def Ctx.target (c : Ctx) (o : B) : Dword := c.sp.pc + 32 * o.imm.signExtend 64

/-- NOP (R100). -/
def execNop (s : State) : Out := issue 0x00 s (fun _ => []) noCheck fun c => .done c.st [] 0

/-- BRA (R89): the guarded lanes go to the target, the others to the next clause. -/
def execBra (o : B) (s : State) : Out :=
  issue 0x01 s (fun _ => []) noCheck fun c =>
    let t := c.act
    let f := c.sp.lanes &&& ~~~t
    let next := c.sp.nextClause
    if f = 0 then c.turn c.st (·.goto (c.target o))
    else if t = 0 then c.turn c.st (·.goto next)
    else match if c.native then none else c.w.freeSplit with
      | none =>
        if 4 ≤ c.sp.stack.length then .trap 5 t
        else c.turn c.st fun sp =>
          { (sp.goto (c.target o)) with lanes := t, stack := { parked := false, pc := next, mask := f } :: sp.stack }
      | some x =>
        let s1 := c.turnState c.st fun sp => { (sp.goto next) with lanes := f }
        .jump (s1.modWarp c.w.uid fun w => w.addSplit x { Split.free with pc := c.target o, lanes := t, missed := c.sp.missed })

/-- Whether a uniform transfer is taken: the guard of the lowest lane of the split (R93); in a compacted warp that has diverged too, the
lowest lane of the executing split and not of the whole warp (DEDUCED, log 63). -/
def Ctx.lead (c : Ctx) : Bool := c.guard (lowLane c.sp.lanes)

/-- BRAU (R93). -/
def execBrau (o : B) (s : State) : Out :=
  issue 0x02 s (fun _ => []) noCheck fun c =>
    c.turn c.st (·.goto (if c.lead then c.target o else c.sp.nextClause))

/-- A transfer to the address in a scalar pair (R42 reason 8, R93). The 57 bits of a clause address stand for a 64-bit
address whose upper bits are 0, so that one with bit 56 set is not canonical and its fetch takes the access-violation trap:
the model's choice (DEDUCED, log 57). -/
def Ctx.transferTo (c : Ctx) (r : BitVec 5) : Act :=
  let a := c.s2 r.toNat
  if !c.lead then c.turn c.st (·.goto c.sp.nextClause)
  else if bitsAt a 4 0 != 0 || bitsAt a 63 57 != 0 then .trap 2 (word (8 + c.sp.slot * 16))
  else c.turn c.st (·.goto (dword (bitsAt a 56 0)))

/-- The pair that a register-held transfer reads, when it is taken. -/
def Ctx.transferUse (c : Ctx) (r : BitVec 5) : List Use := [{ ssrc r 2 with rd := c.lead }]

/-- BRX (R93). -/
def execBrx (o : BX) (s : State) : Out := issue 0x03 s (fun c => c.transferUse o.s) noCheck fun c => c.transferTo o.s

/-- RET (R93). -/
def execRet (o : BX) (s : State) : Out := issue 0x05 s (fun c => c.transferUse o.s) noCheck fun c => c.transferTo o.s

/-- CALL (R93): s30:s31 takes the next clause's address. -/
def execCall (o : B) (s : State) : Out :=
  issue 0x04 s (fun c => if c.lead then [sdst 30 2] else []) noCheck fun c =>
    let next := c.sp.nextClause
    if c.lead then c.turn (c.st.applyWrites c.w (swrite2 30 (bitsAt next.toNat 56 0))) (·.goto (c.target o))
    else c.turn c.st (·.goto next)

/-- A split that has passed steps 1 and 2 of R90 waits at its JOIN (step 3); one that arrives after the JOIN's fairness limit
has expired merges with nothing and goes on to step 4 at once (R240). -/
def Ctx.awaitJoin (c : Ctx) (sp : Split) : Act :=
  let j := c.sp.pc
  if !sp.missed.contains j then c.turn c.st fun _ => { sp with status := .join, waited := 0 }
  else
    let sp1 := { sp with missed := sp.missed.erase j }
    if sp1.stack.isEmpty && sp1.overflow != 0 then .jump ((c.turnState c.st fun _ => sp1).takeTrap c.w.uid c.k 6 sp1.overflow (j + 32) 1)
    else c.turn c.st fun _ => sp1.goto (j + 32)

/-- JOIN (R90): steps 1 and 2 act on the top entry; step 3 is the status join, which ends at once when no other split is live
(State.after). -/
def execJoin (s : State) : Out :=
  issue 0x06 s (fun _ => []) noCheck fun c =>
    match c.sp.stack with
    | [] => c.awaitJoin c.sp
    | e :: es =>
      if !e.parked then
        c.turn c.st fun sp =>
          { (sp.goto e.pc) with lanes := e.mask, stack := { parked := true, pc := c.sp.pc, mask := sp.lanes } :: es }
      else if e.pc = c.sp.pc then c.awaitJoin { c.sp with lanes := c.sp.lanes ||| e.mask, stack := es }
      else c.awaitJoin c.sp

/-! ### Compaction -/

/-- The threads of a path: for each home warp, its lanes on the path. -/
abbrev PathLanes := List (Warp × Mask)

/-- The home of the thread of lane l in dense warp j of a path (R242). -/
def pathHome (p : PathLanes) (j l : Nat) : Option Nat := (((p.filter fun h => hasLane h.2 l).map (·.1.uid)))[j]?

/-- c_P: how many dense warps a path needs (R242). -/
def pathCount (p : PathLanes) : Nat :=
  (List.range 32).foldl (fun n l => max n ((p.filter fun h => hasLane h.2 l).length)) 0

/-- A dense warp (R94, R242): its lanes and their homes; modes, ms and carry masks of its lowest-numbered home; flags clear. -/
def denseWarp (uid slot : Nat) (entry : Dword) (p : PathLanes) (j : Nat) : Option Warp :=
  let homes := (List.range 32).map fun l => (pathHome p j l).getD 0
  let lanes := maskOf fun l => homes.getD l 0 != 0
  match p.find? fun h => homes.contains h.1.uid with
  | none => none
  | some h =>
    some { h.1 with
      uid := uid, kind := .dense, slot := slot, v := List.replicate 32 VReg.empty, f := List.replicate 12 0, hazards := [], ops := [],
      sticky := 0, splits := [{ Split.free with pc := entry, lanes := lanes }, Split.free, Split.free, Split.free], running := 0,
      idle := false, handler := .none, exited := 0, resv := [], region := none, sfr := 0, closeReq := false, replay := none,
        homes := homes, parked := false }

/-- The dense warps of one path are added to the machine. -/
def State.addPath (s : State) (b : Nat) (entry : Dword) (p : PathLanes) (slots : List Nat) : State :=
  (List.range (pathCount p)).foldl (fun s j =>
    match denseWarp s.nextUid (slots.getD j 0) entry p j with
    | none => s
    | some w => { (s.modBlock b fun x => { x with dense := x.dense ++ [w.uid] }) with warps := s.warps ++ [w], nextUid := s.nextUid + 1 }) s

/-- The first live split of a warp: its only one at a BBLK. -/
def Warp.front (w : Warp) : Nat := (w.splits.findIdx? Split.live).getD w.running

/-- That split. -/
def Warp.frontSplit (w : Warp) : Split := (w.splits[w.front]?).getD Split.free

/-- Whether a warp waits at a BBLK as R94 asks: one split with an empty stack, its flags clear and no lane away. -/
def Warp.atBblk (w : Warp) : Option Dword :=
  match w.frontSplit.status with
  | .bblk t =>
    if w.liveCount == 1 && w.frontSplit.stackEmpty && w.f.all (· == 0) && !w.someAway && w.ops.isEmpty && w.replay.isNone then some t else none
  | _ => none

/-- Every warp of a set takes a trap at its first live split's place. -/
def State.trapAll (s : State) (ws : List Warp) (cause : Nat) (info : Word) : State :=
  ws.foldl (fun s w => s.takeTrap w.uid w.front cause info w.frontSplit.pc w.frontSplit.slot) s

/-- A block whose live warps all wait at a BBLK is compacted, or its warps trap where the clauses differ (R94, R242). -/
def State.bblkStep (s : State) (block : Nat) : State :=
  match s.block? block with
  | none => s
  | some b =>
    let ws := s.liveWarps b
    if b.compacted || ws.isEmpty || !(ws.all fun w => w.atBblk.isSome) then s
    else
      let pc := ((ws.head?).map (·.frontSplit.pc)).getD 0
      if !(ws.all fun w => w.frontSplit.pc == pc) then s.trapAll ws 1 2
      else
        let target := ((ws.head?).bind Warp.atBblk).getD 0
        let taken : PathLanes := ws.map fun w =>
          let c : Ctx := { st := s, w := w, k := w.front, sp := w.frontSplit }
          (w, c.act)
        let rest : PathLanes := taken.map fun h => (h.1, h.1.frontSplit.lanes &&& ~~~h.2)
        let slots := ws.map (·.slot) ++ b.spare
        let s1 := (s.addPath block target taken slots).addPath block (pc + 32) rest (slots.drop (pathCount taken))
        let park (w : Warp) : Warp := if ws.any (·.uid == w.uid) then { w with parked := true, resv := [] } else w
        { (s1.modBlock block fun x => { x with compacted := true }) with warps := s1.warps.map park }

/-- BBLK (R94, R231).  A launch without COMPACT is tested first, then a compacted warp, then its splits and stack; all three answer
illegal-instruction traps, and R94 gives them no order: the model's choice (DEDUCED, log 57). -/
def execBblk (o : B) (s : State) : Out :=
  issue 0x07 s (fun _ => [])
    (fun c =>
      if !((c.launch?.map (·.compact)).getD false) then some (1, 22)
      else if c.dense || c.w.liveCount != 1 || !c.sp.stackEmpty then some (1, 1) else none) fun c =>
    let s1 := c.turnState c.st fun sp => { sp with status := .bblk (c.target o) }
    .jump (s1.bblkStep c.w.block)

/-- A compacted warp's outstanding operations complete before its threads return (R14). -/
def State.flushOps (s : State) (w : Warp) : State :=
  w.ops.foldl (fun s o => (s.applyWrites w o.writes).raise w.uid o.sticky) s

/-- A home warp takes its threads back after a BJOIN (R95): it continues at the next clause, and deferred frees apply (R14). -/
def State.unpark (s : State) (u : Nat) (next : Dword) (sticky : BitVec 8) : State :=
  match s.warp? u with
  | none => s
  | some w =>
    let sp := w.frontSplit
    let lanes := sp.lanes &&& ~~~w.exited
    let sp1 : Split := { (sp.goto next) with status := .ready, lanes := lanes }
    let w1 := { (w.setSplit w.front (if lanes = 0 then Split.free else sp1)) with running := w.front, idle := false, parked := false, resv := [], sticky := w.sticky ||| sticky }
    if lanes = 0 then (s.setWarp w1).exitWarp u else s.setWarp w1.settle

/-- A compacted warp waits at a BJOIN: every split that it has does. -/
def Warp.atBjoin (w : Warp) : Bool := w.replay.isNone && w.splits.all fun sp => !sp.live || sp.status == .bjoin

/-- Whether every live split of a warp stands at a clause. -/
def Warp.allAt (w : Warp) (pc : Dword) : Bool := w.splits.all fun sp => !sp.live || sp.pc == pc

/-- A compacted block whose dense warps all wait at one BJOIN, or have ended, is unpacked (R95); at different clauses they trap. -/
def State.bjoinStep (s : State) (block : Nat) : State :=
  match s.block? block with
  | none => s
  | some b =>
    let ds := s.warps.filter fun w => b.dense.contains w.uid
    let live := ds.filter fun w => !w.gone
    if !b.compacted || !(live.all Warp.atBjoin) then s
    else
      let pc := ((live.head?).map (·.frontSplit.pc)).getD 0
      if !(live.all (Warp.allAt · pc)) then s.trapAll live 1 2
      else
        let s1 := live.foldl State.flushOps s
        let s2 := live.foldl (fun s w => s.endSfr w.uid) s1
        let bits (h : Warp) : BitVec 8 :=
          s2.warps.foldl (fun a d => if b.dense.contains d.uid && d.homes.contains h.uid then a ||| d.sticky else a) 0
        let homes := (s2.liveWarps b).filter (·.parked)
        let s3 : State :=
          { (s2.modBlock block fun x => { x with compacted := false, dense := [] }) with
            warps := s2.warps.filter fun w => !b.dense.contains w.uid,
            cur := if b.dense.contains (s2.cur.getD 0) then none else s2.cur }
        homes.foldl (fun s h => s.unpark h.uid (pc + 32) (bits h)) s3

/-- BJOIN (R95). -/
def execBjoin (s : State) : Out :=
  issue 0x08 s (fun _ => []) (fun c => if c.dense then none else some (1, 3)) fun c =>
    let s1 := c.turnState c.st fun sp => { sp with status := .bjoin }
    .jump (s1.bjoinStep c.w.block)

/-! ### Ending lanes -/

/-- A handler whose splits have all ended is over, and the splits it held go on (log 23). -/
def Warp.dropHandler (w : Warp) : Warp :=
  if w.handler != .none && w.splits.all (fun sp => !sp.live || sp.held) then
    { w with handler := .none, splits := w.splits.map fun (sp : Split) => { sp with held := false } }
  else w

/-- Lanes of an agent have exited (R91); in a compacted warp, in their home warps (R95). -/
def Ctx.exitLanes (c : Ctx) (x : Mask) : State :=
  if c.dense then c.st.exitHomes c.w x
  else c.st.modWarp c.w.uid fun w =>
    { w with exited := w.exited ||| x, resv := w.resv.filter fun r => !hasLane x r.lane }

/-- A warp whose last lane has ended (R91, R319, R95). -/
def Ctx.endWarp (c : Ctx) (s : State) : State :=
  match c.w.kind with
  | .native => s.endWave c.w
  | .dense => (s.exitWarp c.w.uid).bjoinStep c.w.block
  | _ => ((s.exitWarp c.w.uid).bblkStep c.w.block).headerStep c.w.block

/-- EXIT (R91). -/
def execExit (s : State) : Out :=
  issue 0x09 s (fun _ => []) noCheck fun c =>
    let x := c.act
    let rest := c.sp.lanes &&& ~~~x
    if c.guest then
      if x = 0 then c.turn c.st (·.goto c.sp.nextClause)
      else .jump (c.st.sendHome c.w c.sp.pc c.sp.slot none true)
    else if rest != 0 then c.turn (c.exitLanes x) fun sp => { (sp.goto c.sp.nextClause) with lanes := rest }
    else match c.sp.stack with
      | e :: es =>
        c.turn (c.exitLanes x) fun sp =>
          { (sp.goto e.pc) with lanes := e.mask, stack := es, slot := if e.parked then 8 else 1 }
      | [] =>
        if c.sp.overflow != 0 then .trap 6 c.sp.overflow
        else
          let s1 := (c.exitLanes x).modWarp c.w.uid fun w => (w.setSplit c.k Split.free).dropHandler
          .jump (if (s1.warp? c.w.uid).any fun w => w.allLanes == 0 then c.endWarp s1 else s1)

/-! ### Traps -/

/-- TRAP (R96): TRAPPC names the slot after it (R44); an away lane returns home to execute it there. -/
def execTrap (i : BitVec 24) (s : State) : Out :=
  issue 0x0A s (fun _ => []) noCheck fun c =>
    if c.guest then .bounce
    else if hdrCount c.sp.hdr ≤ c.sp.slot then .jump (c.st.takeTrap c.w.uid c.k 4 (word i.toNat) c.sp.nextClause 1)
    else .jump (c.st.takeTrap c.w.uid c.k 4 (word i.toNat) c.sp.pc (c.sp.slot + 1))

/-- TRET (R97): the end of a trap handler (R92), at which a warp that is asked for is taken (R386), of a save handler (R391), or of a resume
handler (R394). -/
def execTret (s : State) : Out :=
  issue 0x0B s (fun _ => []) (fun c => if c.w.handler = .none then some (1, illegalInfo 0x0B 30) else none) fun c =>
    match c.w.handler with
    | .save _ => .jump (c.st.saveReturn c.w.uid)
    | .restore _ => c.turn c.st fun sp => { sp with status := .resume }
    | _ => .jump ((c.st.modWarp c.w.uid fun w => w.trapReturn c.k).takeNow c.w.uid)

/-- A reserved opcode (R56): the illegal-instruction trap with code 24, or an away lane returns home to execute it there; the checks
that precede every instruction say so. -/
def execReservedOpcode (w : Word) (s : State) : Out :=
  issue (w.toNat / 2 ^ 24) s (fun _ => []) (fun _ => some (1, illegalInfo (w.toNat / 2 ^ 24) 24)) fun c => .done c.st [] 0

end Sys2Proof.Machine
end

