-- ==== Sys2Proof/Machine/Sync.lean ====
section
/-! DEFINITION. Prefetch and probe (R158, R159), scopes and fences (R160, R161), barriers (R162 to R166), waits on memory,
timelines and counters (R167 to R170), regions, quota, yielding and HOME (R171 to R175). -/

namespace Sys2Proof.Machine

/-! ### Prefetch and probe -/

/-- PREF (R158): a level above 1 is illegal; no value changes. -/
def execPref (o : M) (s : State) : Out :=
  issue 0xA4 s (fun _ => [baseUse o]) (fun _ => if 2 ≤ o.d.toNat then some (1, illegalInfo 0xA4 30) else none) fun c => .done c.st [] 0

/-- PSIZE of a leaf (R159). -/
def psize (size : Nat) : Nat := if size ≤ 12 then 0 else if size ≤ 16 then 1 else if size ≤ 21 then 2 else 3

/-- The description of an address (R159); a page of the peer aperture has no home on this device, so its STACKN and DIE are free values
(log 8). -/
def State.probe (s : State) (fn va free : Nat) : Nat :=
  if !canonical va then 0
  else match s.leafOf fn va false with
    | .error _ => 0
    | .ok (_, l) =>
      let p := l.pte
      let attr := pteAttr p
      let host := bitAt p 7 && attr < 4
      let home : Nat :=
        match s.locIn fn l va with
        | .ok (.dev pa) => match stackOf pa with
          | some n => n * 256 + dieOfStack n * 4096
          | none => bitsAt (Config.freeWord free).toNat 13 8 * 256
        | .ok (.stripe k _) => match s.stripes.find? (·.frame == k) with
          | some t => t.stack * 256 + dieOfStack t.stack * 4096
          | none => 0
        | .ok (.view key b) => match s.regionOf key with
          | some r => r.stackOf b * 256 + dieOfStack (r.stackOf b) * 4096
          | none => 0
        | _ => 0
      let flag (b : Bool) (n : Nat) : Nat := if b then n else 0
      (if host then 15 * 256 else home) + psize l.size * 64 + flag host 32 + flag (bitAt p 52) 16 + flag (bitAt attr 0) 8 + flag (bitAt attr 1) 4 +
        flag (bitAt p 2 && attr < 4) 2 + 1

/-- PROBE (R159). -/
def execProbe (o : X) (s : State) : Out :=
  issue 0xA5 s (fun _ => [vdst o.x 1, vsrc o.y 0 false 2]) noCheck fun c =>
    let f := c.st.free
    .done { c.st with free := f + 32 } (vwrite o.x.toNat false c.act fun i => c.st.probe c.fn (c.val true o.y.toNat i) (f + i)) 0

/-! ### Fences -/

/-- The scope check (R160): codes 5 to 7 are illegal. -/
def scopeCheck (opc : Nat) (o : X) (_ : Ctx) : Option (Nat × Word) := if 5 ≤ o.imm.toNat % 8 then some (1, illegalInfo opc 30) else none

/-- A release or an acquire as the warp sees it (R161, R176): its earlier accesses are complete, loads written, and its SFR ends. -/
def Ctx.fenced (c : Ctx) : State := (c.st.completeOps c.w.uid (·.memory)).endSfr c.w.uid

/-- FENCE.ACQ (R161). -/
def execFenceAcq (o : X) (s : State) : Out := issue 0xA8 s (fun _ => []) (scopeCheck 0xA8 o) fun c => .done c.fenced [] 0

/-- FENCE.REL (R161). -/
def execFenceRel (o : X) (s : State) : Out := issue 0xA9 s (fun _ => []) (scopeCheck 0xA9 o) fun c => .done c.fenced [] 0

/-- FENCE.AR (R161). -/
def execFenceAr (o : X) (s : State) : Out := issue 0xAA s (fun _ => []) (scopeCheck 0xAA o) fun c => .done c.fenced [] 0

/-- FENCE.RF (R161): return-free atomics, pins and advice are performed when they issue (log 3). -/
def execFenceRf (o : X) (s : State) : Out :=
  issue 0xAB s (fun _ => []) (scopeCheck 0xAB o) fun c => .done (c.st.endSfr c.w.uid) [] 0

/-! ### Barriers -/

/-- R166: illegal in a compacted warp. -/
def Ctx.compactedCheck (c : Ctx) : Option (Nat × Word) := if c.dense then some (1, 6) else none

/-- Whether the warp has arrived at an object of its block already (R163). -/
def Ctx.arrived (c : Ctx) (obj : Nat) : Bool := (c.block?.map fun b => bitAt (b.barrier obj).1 c.w.idx).getD false

/-- The checks of BAR and BARA (R163, R166). -/
def barCheck (opc : Nat) (o : X) (c : Ctx) : Option (Nat × Word) :=
  match c.compactedCheck with
  | some t => some t
  | none =>
    if 12 ≤ o.imm.toNat % 16 then some (1, illegalInfo opc 30)
    else if c.arrived (o.imm.toNat % 16) then some (1, 5) else none

/-- The split waits until its warp arrives (R163): every lane that has not exited waits at the object.  The release comes before it. -/
def Ctx.arriveAt (c : Ctx) (obj : Nat) (reg : Option Nat) : Act := .wait c.fenced (.wait (.arrive obj reg))

/-- The object at which every lane of a warp waits to arrive (R163). -/
def Warp.arriving (w : Warp) : Option Nat :=
  let at' (sp : Split) : Option Nat := match sp.status with
    | .wait (.arrive o _) => if sp.stackEmpty && !sp.held then some o else none
    | _ => none
  match (w.splits.filter Split.live).map at' with
  | some o :: rest => if rest.all (· == some o) && !w.someAway && !w.gone && !w.parked then some o else none
  | _ => none

/-- A warp arrives (R163 to R165): its bit is set; a BARA's split takes the PHASE before completion and goes on, the others wait for the
episode. -/
def State.arriveWarp (s : State) (u : Nat) : State :=
  match s.warp? u with
  | none => s
  | some w =>
    match w.arriving, s.block? w.block with
    | some obj, some b =>
      let phase := (b.barrier obj).2
      let go (w : Warp) (k : Nat) : Warp :=
        match w.splits[k]? with
        | none => w
        | some sp =>
          match sp.status with
          | .wait (.arrive _ (some x)) => (w.setSplit k { sp.advance with status := .ready }).putS x (word phase) false
          | .wait (.arrive _ none) => w.setSplit k { sp with status := .barrier obj }
          | _ => w
      let s1 := s.modWarp u fun w => (List.range w.splits.length).foldl go w
      if obj < 16 then
        (s1.setBarrier b.uid obj (Nat.lor (b.barrier obj).1 (2 ^ w.idx)) phase).barrierStep b.uid obj
      else (s1.modLaunch w.launch fun l => { l with gbar := l.gbar ++ [u] }).gbarStep w.launch
    | _, _ => s

/-- BAR (R163). -/
def execBar (o : X) (s : State) : Out := issue 0xAC s (fun _ => []) (barCheck 0xAC o) fun c => c.arriveAt (o.imm.toNat % 16) none

/-- BARA (R163). -/
def execBara (o : X) (s : State) : Out :=
  issue 0xAD s (fun _ => [sdst o.x 1]) (barCheck 0xAD o) fun c => c.arriveAt (o.imm.toNat % 16) (some o.x.toNat)

/-- BARW (R163): waits until PHASE differs from bits [3:0] of s y. -/
def execBarw (o : X) (s : State) : Out :=
  issue 0xAE s (fun _ => [ssrc o.y 1])
    (fun c => match c.compactedCheck with
      | some t => some t
      | none => if 12 ≤ o.imm.toNat % 16 then some (1, illegalInfo 0xAE 30) else none) fun c =>
    let obj := o.imm.toNat % 16
    let p := (c.s o.y.toNat).toNat % 16
    let phase := (c.block?.map fun b => (b.barrier obj).2).getD 0
    if phase ≠ p then .done c.fenced [] 0 else .wait c.fenced (.wait (.barw obj p))

/-- CLBAR (R164): object 12 + c of the block. -/
def execClbar (o : X) (s : State) : Out :=
  issue 0xAF s (fun _ => []) Ctx.compactedCheck fun c => c.arriveAt (12 + o.imm.toNat % 4) none

/-- GBAR (R165): legal only in a co-resident launch. -/
def execGbar (s : State) : Out :=
  issue 0xB0 s (fun _ => [])
    (fun c => match c.compactedCheck with
      | some t => some t
      | none => if (c.launch?.map (·.cores)).getD false then none else some (1, 4)) fun c => c.arriveAt 16 none

/-! ### Waiting on memory -/

/-- The 8-byte word that WAITGE and WAITNE read, a strong access (R167, R258): the state in which it was read and its value,
or what stops it. -/
def Ctx.waitWord (c : Ctx) (va : Nat) : Except Act (State × Nat) :=
  match c.access { write := false, strong := true, ends := true } [c.uniLane] (fun _ => none) (fun s i => c.linear false true false 8 s i va)
      (fun s as => (s.completeOps c.w.uid (·.memory), swrite2 1 ((as.head?.map fun a => leNat (s.readLocs a.locs)).getD 0), 0)) with
  | .done s ws _ => .ok (s, leNat (ws.flatMap fun w => leBytes 4 ((w.vals.headD 0).toNat)))
  | a => .error a

/-- WAITGE or WAITNE (R167): the split waits while the condition does not hold. -/
def Ctx.waitMem (c : Ctx) (o : X) (ne : Bool) : Act :=
  let va := c.s2 o.x.toNat
  let y := c.s2 o.y.toNat
  match c.waitWord va with
  | .error a => a
  | .ok (s, v) =>
    if (if ne then v ≠ y else y ≤ v) then .done s [] 0
    else .wait s (.wait (if ne then .memNe (dword va) (dword y) else .memGe (dword va) (dword y)))

/-- WAITGE (R167). -/
def execWaitge (o : X) (s : State) : Out :=
  issue 0xB1 s (fun _ => [ssrc o.x 2, ssrc o.y 2]) (scopeCheck 0xB1 o) fun c => c.waitMem o false

/-- WAITNE (R167). -/
def execWaitne (o : X) (s : State) : Out :=
  issue 0xB2 s (fun _ => [ssrc o.x 2, ssrc o.y 2]) (scopeCheck 0xB2 o) fun c => c.waitMem o true

/-! ### Timelines -/

/-- A failure that a timeline has not reported (R192, R286, R292, R323, R334): number, cause, TRAPINFO. -/
structure Failure where
  num : Nat
  cause : Nat
  info : Word
  deriving DecidableEq, Repr

/-- A timeline as TLWAIT and TLREAD see it (R168). -/
structure Line where
  done : Nat
  issued : Nat
  failed : List Failure
  deriving DecidableEq, Repr

/-- TRAPINFO of a copy-command fault (R286, R334). -/
def copyInfo (status num : Nat) : Word := word (status + num % 65536 * 65536)

/-- The number of the matrix context that an agent's warp uses (R28); none where its block has no context. -/
def State.ctxNum (s : State) (w : Warp) : Option Nat :=
  match s.block? w.block with
  | some b => if b.mctx.isEmpty then none else some ((s.homeWarp w).idx % b.mctx.length)
  | none => none

/-- The timeline of a code (R168): the block's copies, the warp's matrix context, the launch's dispatches or bank operations. -/
def State.line (s : State) (w : Warp) (code : Nat) : Option Line :=
  let ofTimeline (t : Timeline) : Line :=
    { done := t.done, issued := t.issued, failed := t.failed.map fun f => { num := f.1, cause := f.2.1, info := f.2.2 } }
  match code with
  | 0 => (s.block? w.block).map fun b =>
      { done := b.copyDone, issued := b.copyIssued, failed := b.copyFailed.map fun f => { num := f.1, cause := 0x13, info := copyInfo f.2 f.1 } }
  | 1 =>
    match s.block? w.block, s.ctxNum w with
    | some b, some n => (b.mctx[n]?).map fun x =>
        { done := x.done, issued := x.open' - 1, failed := x.failed.map fun f => { num := f.batch, cause := f.cause, info := f.info } }
    | _, _ => none
  | 2 => (s.launch? w.launch).map fun l => ofTimeline l.sill
  | _ => (s.launch? w.launch).map fun l => ofTimeline l.bank

/-- A timeline's failure has been reported (R286). -/
def State.reported (s : State) (w : Warp) (code num : Nat) : State :=
  let cut (t : Timeline) : Timeline := { t with failed := t.failed.filter fun f => f.1 != num }
  match code with
  | 0 => s.modBlock w.block fun b => { b with copyFailed := b.copyFailed.filter fun f => f.1 != num }
  | 1 =>
    match s.ctxNum w with
    | some n => s.modBlock w.block fun b =>
        { b with mctx := b.mctx.modify n fun x => { x with failed := x.failed.filter fun f => f.batch != num } }
    | none => s
  | 2 => s.modLaunch w.launch fun l => { l with sill := cut l.sill }
  | _ => s.modLaunch w.launch fun l => { l with bank := cut l.bank }

/-- The wait of TLWAIT and WAITB (R168, R189): it blocks, reports the first unreported failure that the threshold covers, or goes on. -/
def Ctx.waitLine (c : Ctx) (code threshold : Nat) (cond : Cond) : Act :=
  match c.st.line c.w code with
  | none => .done c.fenced [] 0
  | some l =>
    if l.done < threshold then .wait c.fenced (.wait cond)
    else match l.failed.find? fun f => f.num ≤ threshold with
      | some f => .trapIn (c.fenced.reported c.w code f.num) f.cause f.info
      | none => .done c.fenced [] 0

/-- The checks of TLWAIT and TLREAD (R28, R168). -/
def lineCheck (opc : Nat) (o : X) (c : Ctx) : Option (Nat × Word) :=
  if c.native then some (1, 7)
  else if o.imm.toNat % 4 = 1 ∧ (c.st.ctxNum c.w).isNone then some (1, illegalInfo opc 30) else none

/-- TLWAIT (R168). -/
def execTlwait (o : X) (s : State) : Out :=
  issue 0xB3 s (fun _ => [ssrc o.y 2]) (lineCheck 0xB3 o) fun c =>
    c.waitLine (o.imm.toNat % 4) (c.s2 o.y.toNat) (.timeline (o.imm.toNat % 4) (dword (c.s2 o.y.toNat)))

/-- TLREAD (R168). -/
def execTlread (o : X) (s : State) : Out :=
  issue 0xB4 s (fun _ => [sdst o.x 2]) (lineCheck 0xB4 o) fun c =>
    let v := match c.st.line c.w (o.imm.toNat % 4) with
      | some l => if bitAt o.imm.toNat 2 then l.issued else l.done
      | none => 0
    .done c.st (swrite2 o.x.toNat v) 0

/-! ### Counters -/

/-- TRAPINFO 8 of CTRARM (R169): a ninth counter, or a counter word inside an armed range, the new one included. -/
def counterRefused (others : List Counter) (off start len : Nat) : Bool :=
  let meets (s n w : Nat) : Bool := s < w + 8 && w < s + n
  (len != 0 && 8 ≤ others.length) || (others.any fun c => meets c.start c.len off) || (len != 0 && meets start len off) ||
    (len != 0 && others.any fun c => meets start len c.off)

/-- CTRARM (R169). -/
def execCtrarm (o : X) (s : State) : Out :=
  issue 0xB5 s (fun _ => [ssrc o.x 1, ssrc o.y 1, ssrc o.z 1]) noCheck fun c =>
    let off := (c.s o.x.toNat).toNat
    let start := (c.s o.y.toNat).toNat
    let len := (c.s o.z.toNat).toNat
    match c.block? with
    | none => .done c.st [] 0
    | some b =>
      match c.scratch 8 c.st c.uniLane off with
      | .error e => e.act c
      | .ok _ =>
        match if len = 0 then none else c.st.rangeBad b start len with
        | some r => .trap 0xB (reasonInfo c.uniLane r)
        | none =>
          let others := b.counters.filter fun x => x.off != off
          let arm (s : State) : State := s.modBlock b.uid fun b =>
            { b with counters := others ++ (if len = 0 then [] else [{ off := off, start := start, len := len }]) }
          if counterRefused others off start len then .trap 1 8
          else if bitAt o.imm.toNat 0 then
            c.access { write := true, ends := true } [c.uniLane] (fun _ => none) (fun s i => c.scratch 8 s i off) fun s as =>
              ((arm (s.completeOps c.w.uid (·.memory))).land (List.zip (as.flatMap (·.locs)) (leBytes 8 0)) c.w.writer, [], 0)
          else .done (arm c.fenced) [] 0

/-- CTRWAIT (R170); its read is checked as any access is (R268). -/
def execCtrwait (o : X) (s : State) : Out :=
  issue 0xB6 s (fun _ => [ssrc o.x 1, ssrc o.y 2]) noCheck fun c =>
    let off := (c.s o.x.toNat).toNat
    let y := c.s2 o.y.toNat
    match c.access { write := false, ends := true } [c.uniLane] (fun _ => none) (fun s i => c.scratch 8 s i off) fun s _ =>
        (s.completeOps c.w.uid (·.memory), [], 0) with
    | .done s1 _ _ =>
      match c.scratch 8 s1 c.uniLane off with
      | .ok (_, a) => if y ≤ leNat (s1.readLocs a.locs) then .done s1 [] 0 else .wait s1 (.wait (.counter off (dword y)))
      | .error e => e.act c
    | a => a

/-! ### Regions, quota, yielding -/

/-- REGION (R171): no effect on a sill core or for an away lane (log 37); the restart point is the slot after it, and the
other splits restart where they are (DEDUCED, log 65). -/
def execRegion (s : State) : Out :=
  issue 0xB7 s (fun _ => []) noCheck fun c =>
    if !c.w.renames then .done c.st [] 0
    else
      .done ((c.st.endRegion c.w.uid).modWarp c.w.uid fun w =>
        { w with region := some { splits := w.splits.set c.k c.sp.advance, opener := c.k, handled := w.handler != .none, buf := [] } }) [] 0

/-- GROW (R18, R166, R172): status 2 for a quota out of range, 0 granted, 1 failed; a blocking request waits in arrival order. -/
def execGrow (o : X) (s : State) : Out :=
  issue 0xB8 s (fun _ => [sdst o.x 1, ssrc o.y 1]) Ctx.compactedCheck fun c =>
    let q := (c.s o.y.toNat).toNat
    let covered := (q : Int) - (c.w.quota : Int) ≤ c.st.poolFree c.w.core
    let queued := c.st.growQ.any fun g => ((c.st.warp? g.warp).map (·.core)) == some c.w.core
    let grant := c.st.modWarp c.w.uid fun w => { w with quota := q }
    if q = 0 ∨ 32 < q then .done c.st (swrite o.x.toNat 2) 0
    else if q ≤ c.w.quota then .done c.st (swrite o.x.toNat 0) 0
    else if bitAt o.imm.toNat 0 then
      if covered && !queued then .done grant (swrite o.x.toNat 0) 0
      else .wait { c.st with growQ := c.st.growQ ++ [{ warp := c.w.uid, split := c.k, want := q, dst := o.x.toNat }] } (.wait .grow)
    else if covered then .done grant (swrite o.x.toNat 0) 0
    else .done c.st (swrite o.x.toNat 1) 0

/-- SHRINK (R19, R166, R172): a quota at or above the current one leaves it (log 25). -/
def execShrink (o : X) (s : State) : Out :=
  issue 0xB9 s (fun _ => [sdst o.x 1, ssrc o.y 1]) Ctx.compactedCheck fun c =>
    let q := (c.s o.y.toNat).toNat
    if q = 0 ∨ 32 < q then .done c.st (swrite o.x.toNat 2) 0
    else if q < c.w.held then .done c.st (swrite o.x.toNat 1) 0
    else .done ((c.st.modWarp c.w.uid fun w => { w with quota := min q w.quota }).growGrants c.w.core 96) (swrite o.x.toNat 0) 0

/-- YIELD (R173): the SFR and the region end; another ready split or agent issues before this split goes on. -/
def execYield (s : State) : Out :=
  issue 0xBA s (fun _ => []) noCheck fun c =>
    let s1 := (c.turnState (c.st.endSfr c.w.uid) Split.advance).reselect c.w.uid true
    .jump { s1 with cur := none }

/-- HOME (R175): an away lane goes home with a release; at home the split waits until no lane is away (R310), then acquires. -/
def execHome (s : State) : Out :=
  issue 0xBD s (fun _ => []) (fun c => if c.native then some (3, 0) else none) fun c =>
    if c.guest then
      let next := c.sp.advance
      .jump (c.st.sendHome c.w next.pc next.slot none false)
    else if c.w.someAway then .wait c.fenced .home
    else .done c.fenced [] 0

end Sys2Proof.Machine
end

