-- ==== Sys2Proof/Machine/Matrix.lean ====
section
/-! DEFINITION. The matrix engine (R177 to R200, R278, R294): the checks and the queueing of its commands, the accumulator
instructions, batches, saving, restoring and cancelling a context, and the engine's events. -/

namespace Sys2Proof.Machine

/-! ### Contexts -/

/-- A context of a block. -/
def State.mctx? (s : State) (b n : Nat) : Option (Block × MatCtx) :=
  match s.block? b with
  | none => none
  | some x => (x.mctx[n]?).map fun m => (x, m)

/-- The block, number and contents of the context that the executing warp uses (R28). -/
def Ctx.mat? (c : Ctx) : Option (Block × Nat × MatCtx) :=
  match c.st.ctxNum c.w with
  | none => none
  | some n => (c.st.mctx? c.w.block n).map fun x => (x.1, n, x.2)

/-- TRAPINFO of a failed check of R179. -/
def ownCode (code : Nat) : Option (Nat × Word) := some (1, word code)

/-- Codes 11 and 9 (R179). -/
def matCheck (c : Ctx) : Option (Nat × Word) := if c.dense then ownCode 11 else if c.mat?.isNone then ownCode 9 else none

/-- Code 10 after codes 11 and 9 (R179). -/
def stoppedCheck (c : Ctx) : Option (Nat × Word) :=
  match matCheck c with
  | some t => some t
  | none => if (c.mat?.map fun x => x.2.2.stopped).getD false then ownCode 10 else none

/-- The lowest of some tiles that a batch other than a given one holds, with that batch (R190). -/
def MatCtx.busyTile (x : MatCtx) (tiles : List Nat) (open? : Option Nat) : Option (Nat × Nat) :=
  (List.range 16).findSome? fun t =>
    if tiles.contains t then (x.busy.find? fun p => p.1 == t && some p.2 != open?) else none

/-- The accumulator-busy fault (R190). -/
def busyTrap (p : Nat × Nat) : Act := .trap 0x11 (word (p.1 + p.2 % 65536 * 65536))

/-! ### Checks of a command -/

/-- Code 14 for a dsb operand whose block length does not divide K. -/
def lengthBad (code l k : Nat) : Bool := opDsb code != 0 && k % l != 0

/-- Code 15 (R182): the limits of a register operand. -/
def registerBad (code l k tiles : Nat) : Bool := tiles != 1 || 32 < k || opDsb code == 4 || (opDsb code == 8 && l != 32)

/-- The first of codes 12 to 16 that a command fails (R179 to R184, R194, R195). -/
def MatCmd.code (c : MatCmd) : Option Nat :=
  let k := msK c.ms
  let wa := rowBytes (msA c.ms) (msLa c.ms) k
  let wb := rowBytes (msB c.ms) (msLb c.ms) k
  let n := 16 * msNt c.ms
  if c.tiles.any (16 ≤ ·) then some 12
  else if c.op ≤ 0xC3 then
    match stepDepth (msA c.ms) (msB c.ms) with
    | none => some 13
    | some d =>
      if k % d ≠ 0 ∨ lengthBad (msA c.ms) (msLa c.ms) k ∨ lengthBad (msB c.ms) (msLb c.ms) k then some 14
      else if c.op = 0xC2 ∧ registerBad (msA c.ms) (msLa c.ms) k (msMt c.ms) then some 15
      else if c.op = 0xC3 ∧ registerBad (msB c.ms) (msLb c.ms) k (msNt c.ms) then some 15
      else if (c.op ≠ 0xC2 ∧ specBad c.specA wa) ∨ (c.op ≠ 0xC3 ∧ specBad c.specB wb) then some 16 else none
  else
    let t := c.specB.1.toNat
    let dtype := bitsAt t 2 0
    if bitsAt t 31 5 ≠ 0 ∨ dtype = 7 ∨ (c.op = 0xCA ∧ 2 < dtype) then some 13
    else if 3 ≤ dtype ∧ n % (16 * 2 ^ bitsAt t 4 3) ≠ 0 then some 14
    else if specBad c.specA (tileRow c.specB.1 n) then some 16 else none

/-- The command that an MM instruction queues; register operands as they read at issue (R182). -/
def Ctx.mmCmd (c : Ctx) (opc : Nat) (o : MM) : MatCmd :=
  let pair (r : BitVec 5) : Word × Word := (c.s r.toNat, c.s (r.toNat + 1))
  { uid := 0, word := word (opc * 2 ^ 24 + o.acc.toNat * 2 ^ 20 + o.a.toNat * 2 ^ 15 + o.b.toNat * 2 ^ 10), ms := c.w.ms,
    specA := if opc = 0xC2 then (0, 0) else pair o.a, specB := if opc = 0xC3 then (0, 0) else pair o.b, step := 0, round := 0, ftz := false,
    batch := 0, regs := [], issuer := c.w.uid, follow := false }

/-- The command that ACCST or ACCLD queues, with the clause's ROUND and FTZ (R194). -/
def Ctx.accCmd (c : Ctx) (opc : Nat) (o : X) : MatCmd :=
  { uid := 0, word := word (opc * 2 ^ 24 + o.x.toNat * 2 ^ 19 + o.y.toNat * 2 ^ 14 + o.imm.toNat), ms := c.w.ms,
    specA := (c.s o.x.toNat, c.s (o.x.toNat + 1)), specB := (c.s o.y.toNat, 0), step := 0, round := c.rnd.code, ftz := c.ftz,
    batch := 0, regs := [], issuer := c.w.uid, follow := false }

/-- The checks of a command at issue, in the order of R184. -/
def cmdCheck (f : Ctx → MatCmd) (c : Ctx) : Option (Nat × Word) :=
  match stoppedCheck c with
  | some t => some t
  | none => ((f c).code).map fun n => (1, word n)

/-- The number of registers that a register operand takes (R182); 1 where a limit is exceeded. -/
def regCount (code l k tiles : Nat) : Nat := if registerBad code l k tiles then 1 else if opDsb code = 8 then 5 else k / 4

/-- The operands of an MM instruction (R177, R182): a register operand is read in all lanes. -/
def mmUses (opc : Nat) (o : MM) (c : Ctx) : List Use :=
  let ms := c.w.ms
  let regs (r : BitVec 5) (n : Nat) : Use := { cls := 0, reg := r.toNat, cnt := n, rd := true, all := true }
  [if opc = 0xC2 then regs o.a (regCount (msA ms) (msLa ms) (msK ms) (msMt ms)) else ssrc o.a 2,
   if opc = 0xC3 then regs o.b (regCount (msB ms) (msLb ms) (msK ms) (msNt ms)) else ssrc o.b 2]

/-- The register operand of a command as it reads at issue (R182). -/
def Ctx.mmRegs (c : Ctx) (opc : Nat) (o : MM) : List (List Word) :=
  let ms := c.w.ms
  let grab (r n : Nat) : List (List Word) := (List.range n).map fun j => perLane fun i => word (c.src false (r + j) 0 i)
  if opc = 0xC2 then grab o.a.toNat (regCount (msA ms) (msLa ms) (msK ms) (msMt ms))
  else if opc = 0xC3 then grab o.b.toNat (regCount (msB ms) (msLb ms) (msK ms) (msNt ms)) else []

/-! ### Queueing -/

/-- A command joins a context's queue (R183, R187, R190). -/
def MatCtx.push (x : MatCtx) (m : MatCmd) : MatCtx :=
  { x with cmds := x.cmds ++ [m], busy := x.busy.filter (fun p => !m.tiles.contains p.1) ++ m.tiles.map fun t => (t, m.batch) }

/-- The copy of a block whose unfinished destination a command would read, with the byte (R294); ACCST reads none, and the copy waits for it
where it would write what ACCST holds (DEDUCED, log 42). -/
def State.copyTarget (s : State) (b : Block) (m : MatCmd) : Option (Nat × Nat) :=
  if m.op = 0xC9 then none
  else (s.openTargets b).findSome? fun t => (rangesMeet m.ranges t.2).map fun a => (t.1, a)

/-- The exception of R294: SUB 9, with the copy's agent word. -/
def Ctx.copyTargetTrap (c : Ctx) (b : Block) (number addr : Nat) : Act :=
  let qs := c.st.queueSeq b.launch
  let place := match c.st.scrPlace b addr with
    | .ok p => p
    | .error _ => (b.uid, addr)
  let l := c.st.logConflict c.fn 9 (c.st.windowAddr place.1 (place.2 / 4 * 4)) (c.st.wordOf c.w) (agentBits 2 qs.1 number 0 false qs.2) 0 false true
    false 2
  .trapIn l.1 0x10 (word (l.2 % 65536 * 65536 + 9))

/-- A command that has passed the checks of its description is queued (R184, R186, R190, R294). -/
def Ctx.queueMat (c : Ctx) (m : MatCmd) : Act :=
  match c.mat? with
  | none => .done c.st [] 0
  | some (b, n, x) =>
    match m.ranges.findSome? fun r => c.st.rangeBad b r.1 r.2 with
    | some r => .trap 0xB (reasonInfo 0 r)
    | none =>
      match x.busyTile m.tiles (some x.open') with
      | some p => busyTrap p
      | none =>
        match c.st.copyTarget b m with
        | some t => c.copyTargetTrap b t.1 t.2
        | none =>
          if 16 ≤ x.cmds.length then .wait c.st (.wait .contextFull)
          else
            let u := c.st.fresh
            .done ((u.2.endRegion c.w.uid).modCtx b.uid n fun x => x.push { m with uid := u.1, batch := x.open' }) [] 0

/-- The shared form of the MM instructions. -/
def matmul (opc : Nat) (o : MM) (s : State) : Out :=
  issue opc s (mmUses opc o) (cmdCheck fun c => c.mmCmd opc o) fun c => c.queueMat { c.mmCmd opc o with regs := c.mmRegs opc o }

/-- MMAT (R183). -/
def execMmat (o : MM) (s : State) : Out := matmul 0xC0 o s
/-- MMATZ (R183). -/
def execMmatz (o : MM) (s : State) : Out := matmul 0xC1 o s
/-- MMATAR (R182). -/
def execMmatar (o : MM) (s : State) : Out := matmul 0xC2 o s
/-- MMATBR (R182). -/
def execMmatbr (o : MM) (s : State) : Out := matmul 0xC3 o s

/-- ACCST (R194). -/
def execAccst (o : X) (s : State) : Out :=
  issue 0xC9 s (fun _ => [ssrc o.x 2, ssrc o.y 1]) (cmdCheck fun c => c.accCmd 0xC9 o) fun c => c.queueMat (c.accCmd 0xC9 o)

/-- ACCLD (R195). -/
def execAccld (o : X) (s : State) : Out :=
  issue 0xCA s (fun _ => [ssrc o.x 2, ssrc o.y 1]) (cmdCheck fun c => c.accCmd 0xCA o) fun c => c.queueMat (c.accCmd 0xCA o)

/-! ### Batches -/

/-- A FOLLOW entry of the block that is not consumed, or a follow-on of the context that is neither issued nor discarded (R188). -/
def State.followPending (s : State) (b : Block) (n : Nat) : Bool :=
  let p := b.pending
  ((List.range (p.2 - p.1)).any fun i => (b.ring.map fun r => entryFlag (b.entry r (p.1 + i)) 9).getD false) ||
    s.copies.any fun c => c.block == b.uid && (c.target.map (·.1)) == some n

/-- The open batch closes (R187). -/
def MatCtx.close (x : MatCtx) : MatCtx := { x with pendingClosed := x.pendingClosed ++ [x.open'], open' := x.open' + 1 }

/-- COMMIT (R187, R188). -/
def execCommit (o : X) (s : State) : Out :=
  issue 0xC4 s (fun _ => [sdst o.x 2]) matCheck fun c =>
    match c.mat? with
    | none => .done c.st [] 0
    | some (b, n, x) =>
      if c.st.followPending b n then .wait c.st (.wait .commit)
      else .done ((c.st.endRegion c.w.uid).modCtx b.uid n MatCtx.close) (swrite2 o.x.toNat x.open') 0

/-- WAITB (R189). -/
def execWaitb (o : X) (s : State) : Out :=
  issue 0xC5 s (fun _ => [ssrc o.y 2]) matCheck fun c => c.waitLine 1 (c.s2 o.y.toNat) (.batch (dword (c.s2 o.y.toNat)))

/-- The lowest closed batch that is not complete completes, where its commands have (R187, R190, R192, R292). -/
def MatCtx.complete (x : MatCtx) : MatCtx :=
  let n := x.done + 1
  if x.pendingClosed.contains n && !(x.cmds.any (·.batch == n)) then
    let bad := x.bad.filter (·.batch == n)
    { x with pendingClosed := x.pendingClosed.filter (· != n), done := n, normal := if bad.isEmpty && x.normal + 1 == n then n else x.normal,
             failed := x.failed ++ bad.take 1, bad := x.bad.filter (·.batch != n), busy := x.busy.filter fun p => p.2 != n }
  else x

/-- BATCH_COMPLETE (R187): the next batch of context b of block a completes, where it can. -/
def execBatchComplete (s : State) : Out := .next (s.modCtx s.args.a s.args.b MatCtx.complete)

/-! ### Accumulators -/

/-- Element index within a tile of register j, lane i (R193). -/
def tileIndex (j i : Nat) : Nat := (2 * j + i / 16) * 16 + i % 16

/-- Codes 11, 9 and 10, then 12 where the tiles pass acc15 (R179, R193). -/
def accCheck (first count : Nat) (c : Ctx) : Option (Nat × Word) :=
  match stoppedCheck c with
  | some t => some t
  | none => if 16 < first + count then ownCode 12 else none

/-- ACCZ (R193). -/
def execAccz (o : X) (s : State) : Out :=
  let first := o.imm.toNat % 16
  let count := bitsAt o.imm.toNat 7 4 + 1
  issue 0xC6 s (fun _ => []) (accCheck first count) fun c =>
    match c.mat? with
    | none => .done c.st [] 0
    | some (b, n, x) =>
      let ts := (List.range count).map (first + ·)
      match x.busyTile ts none with
      | some p => busyTrap p
      | none =>
        .done ((c.st.endRegion c.w.uid).modCtx b.uid n fun x =>
          { x with tiles := ts.foldl (fun l t => l.set t (List.replicate 256 0)) x.tiles,
                   poison := x.poison.filter fun e => !ts.contains (e / 256) }) [] 0

/-- ACCRD (R193). -/
def execAccrd (o : X) (s : State) : Out :=
  let t := o.imm.toNat % 16
  issue 0xC7 s (fun _ => [vdst o.x 8]) stoppedCheck fun c =>
    match c.mat? with
    | none => .done c.st [] 0
    | some (_, _, x) =>
      match x.busyTile [t] none with
      | some p => busyTrap p
      | none =>
        let tile := x.tiles.getD t []
        .done c.st ((List.range 8).map fun j =>
          { cls := 0, reg := o.x.toNat + j, mask := c.act, vals := perLane fun i => tile.getD (tileIndex j i) 0,
            poison := maskOf fun i => x.poison.contains (t * 256 + tileIndex j i) }) 0

/-- ACCWR (R193). -/
def execAccwr (o : X) (s : State) : Out :=
  let t := o.imm.toNat % 16
  issue 0xC8 s (fun _ => [vsrc o.x 0 false 8]) stoppedCheck fun c =>
    match c.mat? with
    | none => .done c.st [] 0
    | some (b, n, x) =>
      match x.busyTile [t] none with
      | some p => busyTrap p
      | none =>
        let put (tile : List Word) : List Word :=
          (List.range 8).foldl (fun tile j => (lanesOf c.act).foldl (fun tile i => tile.set (tileIndex j i) (c.lane (o.x.toNat + j) i)) tile) tile
        let written (e : Nat) : Bool := e / 256 == t && hasLane c.act (e % 16 + 16 * (e % 256 / 16 % 2))
        .done ((c.st.endRegion c.w.uid).modCtx b.uid n fun x =>
          { x with tiles := x.tiles.modify t put, poison := x.poison.filter fun e => !written e }) [] 0

/-- MQRY (R196). -/
def execMqry (o : X) (s : State) : Out :=
  issue 0xCB s (fun _ => [sdst o.x 4]) matCheck fun c =>
    match c.mat? with
    | none => .done c.st [] 0
    | some (_, _, x) =>
      let first := (sortBy id (x.failed.map (·.batch))).headD 0
      let busy := (List.range 16).foldl (fun n t => if x.busy.any (·.1 == t) then n + 2 ^ t else n) 0
      let w0 := busy + x.cmds.length * 2 ^ 16 + (if x.stopped then 2 ^ 21 else 0) + (if x.failed.isEmpty then 0 else 2 ^ 22)
      .done c.st (swrite o.x.toNat w0 ++ swrite (o.x.toNat + 1) x.done ++ swrite (o.x.toNat + 2) (x.open' - 1) ++ swrite (o.x.toNat + 3) first) 0

/-- MBUDG (R197). -/
def execMbudg (o : X) (s : State) : Out :=
  issue 0xCF s (fun _ => [sdst o.x 2]) matCheck fun c =>
    match c.mat? with
    | none => .done c.st [] 0
    | some (_, _, x) => .done c.st (swrite o.x.toNat x.last ++ swrite (o.x.toNat + 1) x.total) 0

/-! ### The steps of a command (R81, R183, R192, R194, R195) -/

/-- The location of a scratchpad byte as a block's group names it. -/
def State.scrLoc (s : State) (b : Block) (addr : Nat) : List Loc :=
  match s.scrPlace b addr with
  | .ok p => [.scr p.1 p.2]
  | .error _ => []

/-- A number of n bytes of an operand row from byte o on, with its locations. -/
def State.rowNum (s : State) (b : Block) (sp : Spec) (r o n : Nat) : Nat × List Loc :=
  let ls := (List.range n).flatMap fun i => s.scrLoc b (sp.addr r (o + i))
  (leNat (s.readLocs ls), ls)

/-- The header of the scale block that holds element k of row r, from scratchpad or from a register operand, with whether it is poisoned
(R181, R182, R419). -/
def State.operandHeader (s : State) (b : Block) (c : MatCmd) (a : Bool) (r k : Nat) : Nat × Bool :=
  let code := if a then msA c.ms else msB c.ms
  let l := if a then msLa c.ms else msLb c.ms
  if (a && c.op == 0xC2) || (!a && c.op == 0xC3) then ((((c.regs.getD 4 []).getD (r % 16) 0)).toNat, false)
  else
    let x := s.rowNum b (Spec.of (if a then c.specA else c.specB)) r (k / l * blockBytes (opDsb code) l) 4
    (x.1, s.poisoned x.2)

/-- Element k of row r of an operand, with whether it is poisoned (R181, R182, R419). -/
def State.operandElem (s : State) (b : Block) (c : MatCmd) (a : Bool) (r k : Nat) : Fp × Bool :=
  let code := if a then msA c.ms else msB c.ms
  let l := if a then msLa c.ms else msLb c.ms
  let reg := (a && c.op == 0xC2) || (!a && c.op == 0xC3)
  let fmt := if code = 0 then Ty.f16.fmt else Ty.bf16.fmt
  if opDsb code = 0 then
    if reg then
      let x := ((c.regs.getD (k / 4) []).getD (r % 16 + 16 * (k % 4 / 2)) 0).toNat
      (fmt.unpack false (elemAt 16 (k % 2) x), false)
    else
      let x := s.rowNum b (Spec.of (if a then c.specA else c.specB)) r (rowOffset code l k) 2
      (fmt.unpack false x.1, s.poisoned x.2)
  else
    let h := s.operandHeader b c a r k
    if reg then
      let x := ((c.regs.getD (k / 8) []).getD (r % 16 + 16 * (k % 8 / 4)) 0).toNat
      (dsbDecode h.1 (elemAt 8 (k % 4) x), h.2)
    else
      let x := s.rowNum b (Spec.of (if a then c.specA else c.specB)) r (rowOffset code l k) 1
      (dsbDecode h.1 (if opDsb code = 4 then x.1 / 16 ^ (k % 2) % 16 else x.1), h.2 || s.poisoned x.2)

/-- Why a header does not suit its operand (R70, R192): 1 invalid, 2 width, 3 length. -/
def headerReason (code l h : Nat) : Option Nat :=
  if !dsbValid h then some 1
  else if (dsbOfCode (h % 256)).any fun t => t.width != opDsb code then some 2
  else if dsbLen h ≠ l then some 3 else none

/-- The first unsuitable header that a step meets: operand (0 A, 1 B) and reason (R192). -/
def State.headerFault (s : State) (b : Block) (c : MatCmd) (mt nt k0 d : Nat) : Option (Nat × Nat) :=
  let side (a : Bool) : Option (Nat × Nat) :=
    let code := if a then msA c.ms else msB c.ms
    let l := if a then msLa c.ms else msLb c.ms
    if opDsb code = 0 then none
    else (List.range 16).findSome? fun r => (List.range (roundUp d l / l)).findSome? fun j =>
      (headerReason code l (s.operandHeader b c a (16 * (if a then mt else nt) + r) (k0 + j * l)).1).map fun x => (if a then 0 else 1, x)
  match side true with
  | some x => some x
  | none => side false

/-- One output element of a step: the exact sum, rounded once (R81). -/
def stepElem (acc : Word) (xs ys : List Fp) : Word :=
  let sum := (List.zip xs ys).foldl (fun a p => (fpAdd .rne a (fpMul p.1 p.2).1).1) (Ty.f32.fmt.unpack false acc.toNat)
  word (Ty.f32.fmt.ofFp .rne false sum).1

/-- A step of a multiplication on its tile (R183): the context after it.  A poisoned input poisons every element it writes (R419). -/
def State.mmatStep (s : State) (b : Block) (x : MatCtx) (c : MatCmd) (d : Nat) : MatCtx :=
  let per := msMt c.ms * msNt c.ms
  let k0 := d * (c.step / per)
  let t := c.step % per
  let mt := t / msNt c.ms
  let nt := t % msNt c.ms
  let tile := bitsAt c.word.toNat 23 20 + t
  let zero := c.op == 0xC1 && k0 == 0
  let old := if zero then List.replicate 256 0 else x.tiles.getD tile []
  let row (a : Bool) (r : Nat) : List (Fp × Bool) := (List.range d).map fun k => s.operandElem b c a r (k0 + k)
  let as := (List.range 16).map fun m => row true (16 * mt + m)
  let bs := (List.range 16).map fun n => row false (16 * nt + n)
  let new := as.zipIdx.flatMap fun p => bs.zipIdx.map fun q =>
    stepElem (old.getD (16 * p.2 + q.2) 0) (p.1.map (·.1)) (q.1.map (·.1))
  let mine (e : Nat) : Bool := e / 256 == tile
  let dirty := (as ++ bs).any (fun r => r.any (·.2)) || (!zero && x.poison.any mine)
  { x with tiles := x.tiles.set tile new,
           poison := x.poison.filter (fun e => !mine e) ++ if dirty then (List.range 256).map (tile * 256 + ·) else [] }

/-- The float type of an ACCST or ACCLD type word with DTYPE 0 to 2 (R194). -/
def tileTy (dtype : Nat) : Ty := if dtype = 0 then .f32 else if dtype = 1 then .f16 else .bf16

/-- The dsb type of DTYPE 3 to 6 (R194). -/
def tileDsb (dtype : Nat) : Ty := if dtype = 3 then .dsb8i else if dtype = 4 then .dsb8f else if dtype = 5 then .dsb4i else .dsb4f

/-- Where element n of row m of the tiles of an ACCST or ACCLD lies among the accumulator elements. -/
def MatCmd.tileElem (c : MatCmd) (m n : Nat) : Nat :=
  (bitsAt c.word.toNat 3 0 + m / 16 * msNt c.ms + n / 16) * 256 + m % 16 * 16 + n % 16

/-- An accumulator element by its index over all tiles. -/
def MatCtx.elem (x : MatCtx) (e : Nat) : Nat := ((x.tiles.getD (e / 256) []).getD (e % 256) 0).toNat

/-- The pieces of row m that ACCST writes: byte offset, bytes, and whether an element is poisoned (R194, R419). -/
def MatCtx.storeRow (x : MatCtx) (c : MatCmd) (m : Nat) : List (Nat × List Byte × Bool) :=
  let t := c.specB.1.toNat
  let dtype := bitsAt t 2 0
  let n := 16 * msNt c.ms
  let rnd := Rnd.ofCode c.round
  if dtype ≤ 2 then
    (List.range n).map fun j =>
      let e := c.tileElem m j
      let v := if dtype = 0 then x.elem e else (cvtFF .f32 (tileTy dtype) rnd c.ftz (x.elem e)).1
      let w := if dtype = 0 then 4 else 2
      (w * j, leBytes w v, x.poison.contains e)
  else
    let l := 16 * 2 ^ bitsAt t 4 3
    let ty := tileDsb dtype
    (List.range (n / l)).map fun j =>
      let es := (List.range l).map fun i => c.tileElem m (j * l + i)
      let blk := (dsbBlock ty rnd (dsbSpan ty) l (es.map fun e => Ty.f32.fmt.unpack c.ftz (x.elem e))).1
      (j * blk.length, blk, es.any x.poison.contains)

/-- ACCST performed (R194): its bytes land as the block's own (R169); a byte that a command of another block holds is not written (R293). -/
def State.accstRun (s : State) (b : Block) (x : MatCtx) (c : MatCmd) : State :=
  let sp := Spec.of c.specA
  let parts := (List.range (16 * msMt c.ms)).flatMap fun m => (x.storeRow c m).map fun p =>
    ((List.zip ((List.range p.2.1.length).flatMap fun i => s.scrLoc b (sp.addr m (p.1 + i))) p.2.1).filter fun y =>
      (s.heldLoc [y.1] fun u _ => u != b.uid).isNone, p.2.2)
  let s1 := s.land (parts.flatMap (·.1)) (some b.uid)
  s1.mark ((parts.filter (·.2)).flatMap fun p => p.1.map (·.1))

/-- ACCLD performed (R195). -/
def State.accldRun (s : State) (b : Block) (x : MatCtx) (c : MatCmd) : MatCtx :=
  let sp := Spec.of c.specA
  let dtype := bitsAt c.specB.1.toNat 2 0
  let w := if dtype = 0 then 4 else 2
  (List.range (16 * msMt c.ms)).foldl (fun x m => (List.range (16 * msNt c.ms)).foldl (fun x n =>
    let e := c.tileElem m n
    let v := s.rowNum b sp m (w * n) w
    let f := if dtype = 0 then v.1 else (cvtFF (tileTy dtype) .f32 .rne false v.1).1
    { x with tiles := x.tiles.modify (e / 256) fun t => t.set (e % 256) (word f),
             poison := x.poison.filter (· != e) ++ if s.poisoned v.2 then [e] else [] }) x) x

/-- Scratchpad bytes that a step of a multiplication reads (R181). -/
def State.stepReads (s : State) (b : Block) (c : MatCmd) (mt nt k0 d : Nat) : List Loc :=
  let side (a : Bool) : List Loc :=
    let code := if a then msA c.ms else msB c.ms
    let l := if a then msLa c.ms else msLb c.ms
    let sp := Spec.of (if a then c.specA else c.specB)
    let start := if opDsb code = 0 then 2 * k0 else k0 / l * blockBytes (opDsb code) l
    let n := rowOffset code l (k0 + d - 1) + (if opDsb code = 0 then 2 else 1) - start
    if (a && c.op == 0xC2) || (!a && c.op == 0xC3) then []
    else (List.range 16).flatMap fun r => (List.range n).flatMap fun i => s.scrLoc b (sp.addr (16 * (if a then mt else nt) + r) (start + i))
  side true ++ side false

/-- The first open record of another agent that a command's accesses conflict with (R268, R278).  The block's own warps, copies and commands
are ordered with the command (R185, R187, R287, R294; DEDUCED, log 41). -/
def State.matConflict (s : State) (b : Block) (c : MatCmd) (write : Bool) (ls : List Loc) : Option (Acc × LineKey × Nat × SfrRecord) :=
  ({ s with records := s.records.filter fun r => s.agentBlock r.agent != some b.uid } : State).conflictOf (.matrix b.uid c.batch) write
    [{ lane := 0, va := 0, locs := ls }]

/-- A fault of a batch whose cause and TRAPINFO [15:0] the spec leaves open (log 8): within those of R192 and R292. -/
def freeFault (batch free : Nat) : FailedBatch :=
  let follow := bitAt free 31
  { batch := batch, cause := if follow then 0x14 else 0x12,
    info := word ((if follow then free % 256 else free % 16) + batch % 65536 * 65536) }

/-- A command that meets another agent's open record ends before its access (R278): the record of SUB 8, and its batch fails with a fault
that the spec does not give (log 41). -/
def State.matEnds (s : State) (b : Block) (n : Nat) (c : MatCmd) (write : Bool) (x : Acc × LineKey × Nat × SfrRecord) : State :=
  let (a, k, bit, r) := x
  let s1 := (s.logConflict (((s.launch? b.launch).map (·.fn)).getD 0) 8 (s.conflictAddr a k bit) (s.agentWord (.matrix b.uid c.batch) false)
    (s.agentWord r.agent r.away) 0 false (r.wr.getLsbD bit) write k.space3).1
  ({ s1 with free := s1.free + 1 } : State).modCtx b.uid n fun x =>
    { x with cmds := x.cmds.filter (· != c), bad := x.bad ++ [freeFault c.batch (Config.freeWord s1.free).toNat] }

/-- Scratchpad bytes that a tile transfer moves (R194, R195). -/
def State.tileLocs (s : State) (b : Block) (c : MatCmd) : List Loc :=
  c.ranges.flatMap fun r => (List.range r.2).flatMap fun i => s.scrLoc b (r.1 + i)

/-- Steps of a command (R183); a tile transfer is one step (log 27). -/
def MatCmd.steps (c : MatCmd) : Nat :=
  if c.op ≤ 0xC3 then msK c.ms / ((stepDepth (msA c.ms) (msB c.ms)).getD 8) * msMt c.ms * msNt c.ms else 1

/-- The budget units of a step, whose toggle estimate is free (R197, log 8), charged. -/
def MatCtx.charge (x : MatCtx) (units : Nat) : MatCtx := { x with last := units, total := (x.total + units) % 2 ^ 32 }

/-- The steps of a context are cancelled by a bad header (R192): its commands go, and their batches fail. -/
def MatCtx.failAll (x : MatCtx) (f : Nat × Nat) : MatCtx :=
  let batches := (x.cmds.map (·.batch)).eraseDups
  { x with cmds := [], bad := x.bad ++ batches.map fun n => { batch := n, cause := 0x12, info := word (f.1 + 2 * f.2 + n % 65536 * 65536) } }

/-- The next step of a context's first command (R81, R183, R192), checked against the records of other agents (R278). -/
def State.engineStep (s : State) (b n : Nat) : State :=
  match s.mctx? b n with
  | none => s
  | some (blk, x) =>
    match x.cmds with
    | [] => s
    | c :: rest =>
      let d := (stepDepth (msA c.ms) (msB c.ms)).getD 8
      let per := msMt c.ms * msNt c.ms
      let t := c.step % per
      let next (x : MatCtx) : MatCtx :=
        ({ x with cmds := if c.step + 1 < c.steps then { c with step := c.step + 1 } :: rest else rest }).charge
          (1 + (Config.freeWord s.free).toNat % 4)
      let s1 := s.takeFree.2
      let reads := if c.op ≤ 0xC3 then s.stepReads blk c (t / msNt c.ms) (t % msNt c.ms) (d * (c.step / per)) d else s.tileLocs blk c
      match s.matConflict blk c (c.op == 0xC9) reads with
      | some f => s.matEnds blk n c (c.op == 0xC9) f
      | none =>
      if c.op ≤ 0xC3 then
        match s.headerFault blk c (t / msNt c.ms) (t % msNt c.ms) (d * (c.step / per)) d with
        | some f => s.modCtx b n fun x => x.failAll f
        | none => s1.modCtx b n fun x => next (s.mmatStep blk x c d)
      else if c.op = 0xC9 then (s1.accstRun blk x c).modCtx b n next
      else s1.modCtx b n fun x => next (s.accldRun blk x c)

/-- The quadrant of a core that a context's next step is charged to: that of the warp which issued the command, or published the copy that
carries it (R234, R440); the first where none did. -/
def State.stepQuadrant (s : State) (b : Block) (x : MatCtx) : Nat :=
  4 * b.core + (((x.cmds.head?).bind fun c => s.warp? c.issuer).map fun w => w.slot % 4).getD 0

/-- Budget units that a quadrant has spent in this microsecond (R440). -/
def State.spentOf (s : State) (q : Nat) : Nat := ((s.admin.spent.find? (·.1 == q)).map (·.2)).getD 0

/-- ENGINE_STEP (R183, R440): context b of block a, where it is not stopped, holds a command and its quadrant's budget is not spent. -/
def execEngineStep (s : State) : Out :=
  match s.mctx? s.args.a s.args.b with
  | none => .next s
  | some (b, x) =>
    let q := s.stepQuadrant b x
    if x.stopped || x.cmds.isEmpty || s.admin.budget ≤ s.spentOf q then .next s
    else
      let s1 := s.engineStep s.args.a s.args.b
      let units := ((s1.mctx? s.args.a s.args.b).map (·.2.last)).getD 0
      .next { s1 with admin := { s1.admin with spent := s1.admin.spent.filter (·.1 != q) ++ [(q, s.spentOf q + units)] } }

/-- MATRIX_BUDGET_PERIOD (R440): the next microsecond begins; every quadrant has its budget again. -/
def execMatrixBudgetPeriod (s : State) : Out := .next { s with admin := { s.admin with spent := [] } }

/-! ### Saving, restoring and cancelling -/

/-- Steps run in queue order until no register-form command is left (R198); fuel bounds them. -/
def State.drainRegs (s : State) (b n : Nat) : Nat → State
  | 0 => s
  | fuel + 1 =>
    match s.mctx? b n with
    | none => s
    | some (_, x) =>
      if x.cmds.any fun c => c.op == 0xC2 || c.op == 0xC3 then State.drainRegs (s.engineStep b n) b n fuel else s

/-- Steps left in a context's queue. -/
def MatCtx.stepsLeft (x : MatCtx) : Nat := x.cmds.foldl (fun n c => n + (c.steps - c.step)) 0

/-- A command record (R198). -/
def MatCmd.record (c : MatCmd) (openBatch : Nat) : List Byte :=
  leBytes 4 c.word.toNat ++ leBytes 4 c.ms.toNat ++ leBytes 4 c.specA.1.toNat ++ leBytes 4 c.specA.2.toNat ++ leBytes 4 c.specB.1.toNat ++
    leBytes 4 c.specB.2.toNat ++ leBytes 4 c.step ++ leBytes 4 (c.round + (if c.ftz then 8 else 0)) ++
    leBytes 8 (if c.batch = openBatch then 0 else c.batch) ++ List.replicate 24 0

/-- The record of a context (R198). -/
def MatCtx.save (x : MatCtx) : List Byte :=
  let busy := (List.range 16).foldl (fun n t => if x.busy.any (·.1 == t) then n + 2 ^ t else n) 0
  leBytes 4 (1 + 256 * x.cmds.length) ++ leBytes 4 busy ++ leBytes 8 x.open' ++ leBytes 8 x.done ++
    leBytes 8 ((sortBy id (x.failed.map (·.batch))).headD 0) ++ leBytes 4 x.last ++ leBytes 4 x.total ++ List.replicate 24 0 ++
    padTo 1024 (x.cmds.flatMap fun c => c.record x.open') ++ x.tiles.flatMap fun t => t.flatMap fun w => leBytes 4 w.toNat

/-- Bytes of a record (R198). -/
def matRecord : Nat := 17472

/-- Where MSAVE writes (R198): the address must be 256-byte aligned. -/
def Ctx.msaveAcc (c : Ctx) (va : Nat) (s : State) (lane : Nat) : Except AFault (State × Acc) :=
  if va % 256 ≠ 0 then .error (.trap 0xA (alignInfo lane 256)) else c.linear true false false matRecord s lane va

/-- MSAVE (R198). -/
def execMsave (o : X) (s : State) : Out :=
  issue 0xCC s (fun _ => [ssrc o.x 2]) matCheck fun c =>
    match c.mat? with
    | none => .done c.st [] 0
    | some (b, n, x) =>
      Ctx.access { c with st := c.st.endRegion c.w.uid } { write := true } [c.uniLane] (fun _ => none) (c.msaveAcc (c.s2 o.x.toNat)) fun s as =>
        let s1 := s.drainRegs b.uid n x.stepsLeft
        match s1.mctx? b.uid n with
        | none => (s1, [], 0)
        | some (_, x) =>
          let ls := as.flatMap (·.locs)
          let dirty := x.poison.flatMap fun e => (ls.drop (0x440 + 4 * e)).take 4
          (((s1.storeNow c.w (List.zip ls x.save)).mark dirty).modCtx b.uid n fun x => { x with stopped := true }, [], 0)

/-- A command record read back (R198, R199). -/
def readCmd (r : List Byte) (uid issuer openBatch : Nat) : MatCmd :=
  let batch := fieldAt r 32 8
  { uid := uid, word := word (fieldAt r 0 4), ms := BitVec.ofNat 24 (fieldAt r 4 4), specA := (word (fieldAt r 8 4), word (fieldAt r 12 4)),
    specB := (word (fieldAt r 16 4), word (fieldAt r 20 4)), step := fieldAt r 24 4, round := fieldAt r 28 4 % 8, ftz := bitAt (fieldAt r 28 4) 3,
    batch := if batch = 0 then openBatch else batch, regs := [], issuer := issuer, follow := false }

/-- A context restored from a record (R199); none where the record is not valid: its version, q, or a command that is none of MMAT, MMATZ,
ACCST and ACCLD, which no save writes.  The record names a failed batch and not its fault, whose cause and TRAPINFO [15:0] are free values
within R192 and R292 (log 8). -/
def readContext (r : List Byte) (uid issuer : Nat) (marks : List Nat) (free : Nat) : Option MatCtx :=
  let q := fieldAt r 1 1
  let openBatch := fieldAt r 8 8
  let done := fieldAt r 16 8
  let bad := fieldAt r 24 8
  let cmds := (List.range q).map fun i => readCmd (r.drop (0x40 + 64 * i)) (uid + i) issuer openBatch
  let known (c : MatCmd) : Bool := c.op == 0xC0 || c.op == 0xC1 || c.op == 0xC9 || c.op == 0xCA
  if fieldAt r 0 1 ≠ 1 ∨ 16 < q ∨ cmds.any (fun c => !known c) then none
  else
    let holder (t : Nat) : Nat := ((cmds.filter fun c => c.tiles.contains t).getLast?.map (·.batch)).getD openBatch
    some { tiles := (List.range 16).map fun t => (List.range 256).map fun e => word (fieldAt r (0x440 + 1024 * t + 4 * e) 4), poison := marks,
           cmds := cmds, open' := openBatch, pendingClosed := (List.range (openBatch - 1 - done)).map (done + 1 + ·), done := done,
           normal := if bad = 0 then done else bad - 1,
           failed := if bad = 0 then [] else [freeFault bad free], bad := [],
           busy := ((List.range 16).filter fun t => bitAt (fieldAt r 4 4) t).map fun t => (t, holder t), stopped := false,
           last := fieldAt r 32 4, total := fieldAt r 36 4 }

/-- MREST (R199). -/
def execMrest (o : X) (s : State) : Out :=
  issue 0xCD s (fun _ => [ssrc o.x 2])
    (fun c => match matCheck c with
      | some t => some t
      | none => if (c.mat?.map fun x => !x.2.2.cmds.isEmpty).getD false then ownCode 17 else none) fun c =>
    match c.mat? with
    | none => .done c.st [] 0
    | some (b, n, _) =>
      let c := { c with st := c.st.endRegion c.w.uid }
      let va := c.s2 o.x.toNat
      match c.linear false false false matRecord c.st c.uniLane va with
      | .error e => e.act c
      | .ok (s1, a) =>
        let marks := if s1.poison.isEmpty then [] else (List.range 4096).filter fun e => s1.poisoned ((a.locs.drop (0x440 + 4 * e)).take 4)
        match readContext (s1.readLocs a.locs) s1.nextUid c.w.uid marks (Config.freeWord s1.free).toNat with
        | none => .trap 1 (word 17)
        | some x =>
          c.access { write := false } [c.uniLane] (fun _ => none) (fun s i => c.linear false false false matRecord s i va) fun s _ =>
            (({ s with nextUid := s.nextUid + 16, free := s.free + 1 } : State).modCtx b.uid n fun _ => x, [], 0)

/-- MCANCEL (R200). -/
def execMcancel (o : X) (s : State) : Out :=
  issue 0xCE s (fun _ => [sdst o.x 2]) matCheck fun c =>
    match c.mat? with
    | none => .done c.st [] 0
    | some (b, n, x) =>
      .done (((c.st.endRegion c.w.uid).dropFollows b.uid n).modCtx b.uid n MatCtx.cancel) (swrite2 o.x.toNat x.normal) 0

end Sys2Proof.Machine
end

