-- ==== Sys2Proof/Machine/Copy.lean ====
section
/-! DEFINITION. The copy engine (R203, R278 to R293, R296, R392, R395, R415, R448): binding a ring, consuming entries, the
order among commands, landing units, follow-ons, completion and failure. -/

namespace Sys2Proof.Machine

/-! ### CRING -/

/-- Code 19 (R203): an illegal count, ring or notify word. -/
def ringBad (size off count notify : Nat) : Bool :=
  count != 0 &&
  (!(List.range 9).any (fun i => 3 ≤ i && 2 ^ i == count) || off % 32 != 0 || off < 128 || size < off + 32 * count || notify % 8 != 0 ||
    size < notify + 8 || (notify < off + 32 * count && off < notify + 8))

/-- CRING (R203): it waits until every entry published to the ring bound before is consumed; the notify word's value becomes the consumed
index. -/
def execCring (o : X) (s : State) : Out :=
  let arg (c : Ctx) (r : BitVec 5) : Nat := (c.s r.toNat).toNat
  issue 0xD0 s (fun _ => [ssrc o.x 1, ssrc o.y 1, ssrc o.z 1])
    (fun c => if ringBad ((c.block?.map (·.scratchSize)).getD 0) (arg c o.x) (arg c o.y) (arg c o.z) then ownCode 19 else none) fun c =>
    match c.block? with
    | none => .done c.st [] 0
    | some b =>
      if b.pending.1 < b.pending.2 then .wait c.fenced (.wait .copyRing)
      else
        let now := c.st.readNum (.scr b.uid (arg c o.z)) 8
        let ring : Ring := { off := arg c o.x, count := arg c o.y, notify := arg c o.z, consumed := now, base := b.copyIssued, from0 := now,
                             published := now, pubs := [], stopped := false }
        .done (c.fenced.modBlock b.uid fun b => { b with ring := if arg c o.y = 0 then none else some ring }) [] 0

/-! ### What a command names -/

/-- The bytes of a side from byte lo on, n of them, as accesses: a linear or scratchpad run, or the units of a box (R283, R285), whose slabs
lie at home in the context's partition (R399, R404). -/
def State.sideAccs (s : State) (b : Block) (fn : Nat) (side other : Side) (lo n : Nat) (write : Bool) : Except XFault (State × List Acc) :=
  if n = 0 then .ok (s, [])
  else match side with
    | .lin va =>
      let a := (va + lo) % 2 ^ 64
      match s.translateN fn a n write with
      | .ok (s1, ls) => .ok (s1, [{ lane := 0, va := a, locs := ls }])
      | .error e => .error e
    | .scr a =>
      let at' (j : Nat) : Nat := match other with
        | .box x => if x.row = 0 then a + j else a + j / x.row * (if x.pitch = 0 then x.row else x.pitch) + j % x.row
        | _ => a + j
      let ls := (List.range n).flatMap fun i => s.scrLoc b (at' (lo + i))
      if ls.length = n then .ok (s, [{ lane := 0, va := at' lo, locs := ls }]) else .error (.viol 1 none)
    | .box x =>
      match s.region? fn x.handle with
      | none => .error (.viol 1 none)
      | some r =>
        let d := r.desc
        let first := lo / x.unit
        let last := (lo + n - 1) / x.unit
        let at' (i : Nat) : Acc :=
          let u := first + i
          let e := d.logical (x.coords d.blockLen u)
          let from' := max lo (u * x.unit) - u * x.unit
          let upto := min (lo + n) ((u + 1) * x.unit) - u * x.unit
          { lane := 0, va := e, locs := (Loc.view (regionKey fn r.index) (e / d.blockLen * d.unitBytes + from')).span (upto - from') }
        let as := (List.range (last - first + 1)).map at'
        let home (l : Loc) : Bool := match l with
          | .view _ b => s.stackIn fn (r.stackOf b)
          | _ => true
        if as.all fun a => a.locs.all home then .ok (s, as) else .error (.viol 3 none)
    | _ => .ok (s, [])

/-- Element extents of a box along a region dimension: origin and length (R287). -/
def BoxShape.extentOf (x : BoxShape) (l q : Nat) : Nat × Nat :=
  (x.origin.getD q 0, x.extent.getD (x.order.idxOf q) 1 * if q + 1 = x.extent.length then l else 1)

/-- Whether two sides overlap, judged on virtual, scratchpad or region-element ranges (R287). -/
def State.overlap (s : State) (fn : Nat) (x xo : Side) (xn : Nat) (y yo : Side) (yn : Nat) : Bool :=
  match x, y with
  | .lin a, .lin b => xn != 0 && yn != 0 && a < b + yn && b < a + xn
  | .scr _, .scr _ => (rangesMeet (scrRanges x xo xn) (scrRanges y yo yn)).isSome
  | .box a, .box b =>
    let l := ((s.region? fn a.handle).map fun r => r.desc.blockLen).getD 1
    a.handle == b.handle && (List.range a.extent.length).all fun q =>
      let p := a.extentOf l q
      let r := b.extentOf l q
      p.1 < r.1 + r.2 && r.1 < p.1 + p.2
  | _, _ => false

/-- Whether a command's own source and destination overlap (R288). -/
def State.selfOverlap (s : State) (c : CopyCmd) : Bool := s.overlap c.fn c.src c.dst c.srcLen c.dst c.src c.dstLen

/-- Not an identity move (R288): a permute code, an ORDER that is not identity, or kind 0x0A. -/
def CopyCmd.permuted (c : CopyCmd) : Bool :=
  let moved (x : Side) : Bool := match x with
    | .box b => b.order != List.range b.order.length
    | _ => false
  entryKind c.entry == 10 || (entryKind c.entry ≤ 3 && entryCode c.entry != 0) || moved c.src || moved c.dst

/-- The storage grant and its fields DEPTH and MDTS (R414). -/
def State.grant? (s : State) (c : CopyCmd) : Option (List Byte) :=
  match c.src with
  | .drive g _ => (s.fn? c.fn).bind fun f => (f.grants.find? (·.1 == g)).map (·.2)
  | _ => none

/-- Block size of a command's grant. -/
def State.blockBytes (s : State) (c : CopyCmd) : Nat := 2 ^ (((s.grant? c).map fun g => fieldAt g 34 1).getD 9)

/-- The first logical block of a storage source. -/
def CopyCmd.firstBlock (c : CopyCmd) : Nat :=
  match c.src with
  | .drive _ n => n
  | _ => 0

/-- Whether the whole payload of a command has landed. -/
def State.landed (s : State) (c : CopyCmd) : Bool :=
  if entryKind c.entry = 8 then c.drive.all DriveCmd.done && (c.drive.foldl (fun n d => n + d.count) 0) * s.blockBytes c == c.dstLen
  else c.units * 256 ≥ c.dstLen

/-! ### Templates (R292) -/

/-- The bytes of a FOLLOW entry's template, where they lie inside the allocation. -/
def Block.templateBytes (b : Block) (r : Ring) (e : List Byte) : Option (List Byte) :=
  let off := r.off + 32 * (r.count + entrySlot e)
  if b.scratchSize < off + 32 then none else some (Memory.getBytes b.scratch off 32)

/-- The template of a FOLLOW entry: status 3 where it is out of range or malformed. -/
def Block.template (b : Block) (r : Ring) (e : List Byte) : Except Nat (List Byte) :=
  match b.templateBytes r e with
  | none => .error 3
  | some t =>
    let op := fieldAt t 3 1
    if (op ≠ 0xC0 ∧ op ≠ 0xC1) ∨ fieldAt t 7 1 ≠ 0 ∨ !shapeLegal (fieldAt t 4 4) ∨ b.mctx.length ≤ fieldAt t 24 1 ∨ leNat (t.drop 25) ≠ 0 then
      .error 3
    else .ok t

/-- The context and batch that the follow-on of a published entry is to join (R188): those of the template's context byte,
even where the rest of the template is malformed; none where that batch has been cancelled since. -/
def Block.followTarget (b : Block) (r : Ring) (p : Nat) (e : List Byte) : Option (Nat × Nat) :=
  match if entryFlag e 9 then b.templateBytes r e else none with
  | none => none
  | some t => ((r.pubs.find? (·.index == p)).bind fun q => q.batches.find? (·.1 == fieldAt t 24 1)).bind fun x =>
      if x.2 = 0 ∨ b.mctx.length ≤ x.1 then none else some x

/-- The matrix command that a template stands for; the steps are charged as those of a warp (R440). -/
def followCmd (t : List Byte) (uid batch : Nat) (issuer : Nat := 0) : MatCmd :=
  { uid := uid, word := word (fieldAt t 0 4), ms := BitVec.ofNat 24 (fieldAt t 4 4), specA := (word (fieldAt t 8 4), word (fieldAt t 12 4)),
    specB := (word (fieldAt t 16 4), word (fieldAt t 20 4)), step := 0, round := 0, ftz := false, batch := batch, regs := [], issuer := issuer,
    follow := true }

/-- A batch fails by its follow-on (R292). -/
def State.failBatch (s : State) (b n batch reason : Nat) : State :=
  s.modCtx b n fun x => { x with bad := x.bad ++ [{ batch := batch, cause := 0x14, info := word (reason + batch % 65536 * 65536) }] }

/-! ### Failure and completion -/

/-- A command fails (R286): nothing more lands, its records close, its follow-on is discarded and the batch fails, and the failure is
logged. -/
def State.copyFail (s : State) (u st addr : Nat) : State :=
  match s.copy? u with
  | none => s
  | some c =>
    let s1 := s.closeRecords u
    let s2 := match c.target with
      | some t => s1.failBatch c.block t.1 t.2 32
      | none => s1
    let s3 := s2.setCopy { c with ended := some st, target := none, gated := false, drive := [] }
    (s3.log c.fn 0x11 addr (s.agentWord (.copy u) false) st 0 (c.number % 2 ^ 32) 0).1

/-- The die of a block's core. -/
def State.blockDie (s : State) (bu : Nat) : Nat := dieOfCore (((s.block? bu).map (·.core)).getD 0)

/-- The stamp that a command or dispatch writes from a die (R289, R448): none while a page fault is serviced or the bytes'
pseudo-channel is in all-bank mode (R329); the second component says that it could not be written, for which an entry that
the walk rejects, or a closed bridge, is logged (R399, R405). A stamp that the consumption found misaligned is not written.
-/
def State.stampWrite (s : State) (fn die me addr value : Nat) (noStamp : Bool) : Option (State × Bool) :=
  if addr % 8 ≠ 0 then some (s, false)
  else match s.reachN fn die addr 8 true with
    | .ok (s1, ls) =>
      if (s1.bankWait me none [{ lane := 0, va := addr, locs := ls }]).isSome then none
      else some (s1.land (List.zip ls (leBytes 8 value)) none, false)
    | .error .page => if noStamp then some (s, true) else none
    | .error (.viol _ _) => some (s.touch fn die addr 8 true, true)

/-- The record of SUB 8 (R278), or 3 for two strong accesses (R258): an engine command met what another agent has open. -/
def State.engineConflict (s : State) (c : CopyCmd) (sub : Nat) (x : Acc × LineKey × Nat × SfrRecord) (write strong : Bool) : State × Nat :=
  let (a, k, bit, r) := x
  let addr := s.conflictAddr a k bit
  ((s.logConflict c.fn sub addr (s.agentWord (.copy c.uid) false) (s.agentWord r.agent r.away) (s.conflictHandle k) strong
    (r.wr.getLsbD bit) write k.space3).1, addr)

/-- A command that a conflict ends (R278): its record and status 8. -/
def State.copyClash (s : State) (c : CopyCmd) (sub : Nat) (x : Acc × LineKey × Nat × SfrRecord) (write strong : Bool) : State :=
  let r := s.engineConflict c sub x write strong
  r.1.copyFail c.uid 8 r.2

/-- Whether an earlier command of the block is ordered before a later one (R287). -/
def State.ordersBefore (s : State) (e c : CopyCmd) : Bool :=
  let named (x : CopyCmd) (dst : Bool) : Side × Side × Nat := if dst then (x.dst, x.src, x.dstLen) else (x.src, x.dst, x.srcLen)
  let meets (p q : Side × Side × Nat) : Bool := s.overlap c.fn p.1 p.2.1 p.2.2 q.1 q.2.1 q.2.2
  let follow := e.target.isSome && (rangesMeet (followCmd e.template 0 0).ranges (scrRanges c.dst c.src c.dstLen)).isSome
  follow || meets (named e true) (named c false) || meets (named e true) (named c true) || meets (named e false) (named c true)

/-- Whether R287 orders a command with the agent of a record: those two make no conflict (log 29). -/
def State.orderedWith (s : State) (c : CopyCmd) (a : AgentId) : Bool :=
  match a with
  | .copy u => (s.copy? u).any fun e => e.block == c.block && (if e.number < c.number then s.ordersBefore e c else s.ordersBefore c e)
  | _ => false

/-- The first conflicting record that an access of a command meets (R268, R278). -/
def State.copyConflict (s : State) (c : CopyCmd) (write : Bool) (as : List Acc) : Option (Acc × LineKey × Nat × SfrRecord) :=
  ({ s with records := s.records.filter fun r => !s.orderedWith c r.agent } : State).conflictOf (.copy c.uid) write as

/-- What a strong write of a command meets, with the sub-code: a conflicting record (R278), or in debug mode a strong access of another size
(R258). -/
def State.strongClash (s : State) (c : CopyCmd) (as : List Acc) : Option (Nat × (Acc × LineKey × Nat × SfrRecord)) :=
  match s.copyConflict c true as with
  | some x => some (8, x)
  | none => (s.mixedOf (.copy c.uid) true as).map fun x => (3, x.1, x.2.1, x.2.2.1, x.2.2.2.record x.2.1 x.2.2.1)

/-- The ARRIVAL increment of a command (R289): one added to the counter at AUX in the block's own scratchpad, unless the word
is held (status 10, R293) or it conflicts with what another agent has open (status 8, R278). -/
def State.arrival (s : State) (b : Block) (c : CopyCmd) : State :=
  let l := Loc.scr b.uid (entryAux c.entry)
  let a : Acc := { lane := 0, va := entryAux c.entry, locs := l.span 8 }
  match s.heldLoc a.locs fun _ _ => true with
  | some h => s.copyFail c.uid 10 (s.windowAddr h.block h.off)
  | none =>
    match s.strongClash c [a] with
    | some x => s.copyClash c x.1 x.2 true true
    | none => s.landNum l 8 ((s.readNum l 8 + 1) % 2 ^ 64) none

/-- The stamp of a command meets what another agent has open (R278): it is not written. -/
def State.stampClash (s : State) (c : CopyCmd) : Option (Nat × (Acc × LineKey × Nat × SfrRecord)) :=
  if entryAux c.entry % 8 ≠ 0 then none
  else match s.translateN c.fn (entryAux c.entry) 8 true with
    | .ok (s1, ls) => s1.strongClash c [{ lane := 0, va := entryAux c.entry, locs := ls }]
    | .error _ => none

/-- A finished command's completion (R280, R286, R289, R448): ARRIVAL, stamp, number.  ARRIVAL is counted where every byte has landed: with
status 0 or 11 (R286); a command whose increment or stamp is not performed for a conflict or a held byte ends with that status. -/
def State.copyDone (s : State) (u : Nat) (noStamp : Bool) : State :=
  match s.copy? u with
  | none => s
  | some c =>
    match s.block? c.block with
    | none => s
    | some b =>
      let st := c.ended.getD 0
      if !(c.ended.isSome || (s.landed c && c.target.isNone)) || (b.preempt != .none && entryFlag c.entry 12) then s
      else
        let s1 := s.closeRecords u
        let s2 := if entryFlag c.entry 12 && (st == 0 || st == 11) then s1.arrival b c else s1
        let st2 := if st != 0 then st else (((s2.copy? u).bind (·.ended)).getD 0)
        let clash := if entryFlag c.entry 8 then s2.stampClash c else none
        let s3 := match clash with
          | some x => if st2 = 0 then s2.copyClash c x.1 x.2 true true else (s2.engineConflict c x.1 x.2 true true).1
          | none => s2
        let st3 := if st2 = 0 ∧ clash.isSome then 8 else st2
        match if entryFlag c.entry 8 && clash.isNone then s3.stampWrite c.fn (s.blockDie c.block) c.uid (entryAux c.entry)
          (c.number + if st3 = 0 then 0 else 2 ^ 63) noStamp
              else some (s3, false) with
        | none => s.touch c.fn (s.blockDie c.block) (entryAux c.entry) 8 true
        | some (s4, lost) =>
          let s5 := if lost then (s4.log c.fn 0x11 (entryAux c.entry) (s.agentWord (.copy u) false) 4 0 (c.number % 2 ^ 32) 0).1 else s4
          let s6 := s5.modBlock c.block fun b => b.finishCopy c.number (if lost && st3 == 0 then 4 else st3)
          { s6 with copies := s6.copies.filter (·.uid != u) }

/-! ### Consumption (R279, R281 to R290, R293) -/

/-- The gate's range: filled counter, freed word and armed range of a GATE entry (R290). -/
def Block.gate (b : Block) (e : List Byte) : Option (Counter × Nat) :=
  (b.counters.find? (·.off == fieldAt e 24 4)).map fun c => (c, fieldAt e 28 4)

/-- What the checks of an entry find: what it names, or its status. -/
def State.entryCheck (s : State) (b : Block) (r : Ring) (fn : Nat) (e : List Byte) (stampBad : Bool) : Except Nat Named := do
  if entryFlagsBad e then throw 1
  let n ← s.entrySides b fn e
  if s.namedOut b n then throw 6
  if entryFlag e 8 then
    if entryAux e % 8 ≠ 0 then throw 3
    if stampBad then throw 4
  if entryFlag e 12 then
    if entryAux e / 2 ^ 18 ≠ 0 ∨ entryAux e % 8 ≠ 0 then throw 3
    if b.scratchSize < entryAux e + 8 then throw 6
  if entryFlag e 13 then
    match n.dst, b.gate e with
    | .scr a, some (c, freed) =>
      if a < c.start ∨ c.start + c.len < a then throw 3
      if n.dstRanges.any fun x => x.1 < c.start || c.start + c.len < x.1 + x.2 then throw 3
      if b.scratchSize < freed + 4 then throw 6
    | _, _ => throw 3
  let c : CopyCmd := { uid := 0, block := b.uid, fn := fn, number := 0, entry := e, src := n.src, dst := n.dst, srcLen := n.srcLen, dstLen := n.dstLen,
                       template := [], target := none, units := 0, staged := none, gateT := 0, gated := false, drive := [], ended := none }
  if c.permuted && 2 ^ 20 < n.srcLen && s.selfOverlap c then throw 2
  if entryFlag e 9 then
    let _ ← b.template r e
  if (s.heldLoc (s.rangeLocs b n.dstRanges) fun u m => u == b.uid && !m.follow).isSome then throw 10
  pure n

/-- The freed word's condition (R290): the bytes of the gated commands so far, less those freed (a word of the block's own
scratchpad), fit the armed range. -/
def State.gateOpen (s : State) (b : Block) (c : CopyCmd) : Bool :=
  match b.gate c.entry with
  | none => true
  | some g => (c.gateT + 2 ^ 32 - s.readNum (.scr b.uid g.2) 4) % 2 ^ 32 ≤ g.1.len

/-- The source bytes that destination bytes lo to lo + n - 1 come from: start and length (R282, R284, R291). -/
def CopyCmd.sourceRange (c : CopyCmd) (lo n : Nat) : Nat × Nat :=
  let e := c.entry
  match entryKind e with
  | 7 => if entryFlag e 10 then (lo / 4, n / 4) else (lo, n)
  | 9 => (0, 0)
  | 10 =>
    let l := encodeLen (entryCode e)
    let w := encodeBytes (entryCode e)
    (4 * l * (lo / w), 4 * l * ((lo + n - 1) / w + 1 - lo / w))
  | k =>
    let start := if k ≤ 3 ∧ entryCode e ≠ 0 then c.dstLen - lo - n else lo
    if entryFlag e 11 then (2 * start, 2 * n) else (start, n)

/-- The source bytes that a command has not read yet: from one byte up to another. -/
def CopyCmd.unread (c : CopyCmd) : Nat × Nat :=
  let lo := 256 * c.units
  if c.staged.isSome ∨ c.dstLen ≤ lo then (0, 0)
  else
    let r := c.sourceRange lo (c.dstLen - lo)
    (r.1, r.1 + r.2)

/-- The accesses of one side from byte lo to byte hi that translate, 256 bytes at a time (R278). -/
def State.recordAccs (s : State) (b : Block) (fn : Nat) (side other : Side) (lo hi : Nat) (write : Bool) : List Acc :=
  (List.range (roundUp (hi - lo) 256 / 256)).flatMap fun i =>
    match s.sideAccs b fn side other (lo + 256 * i) (min 256 (hi - lo - 256 * i)) write with
    | .ok x => x.2
    | .error _ => []

/-- The records of what a command has not read or landed yet (R278): read on its sources, write on its destinations unless it
reduces. They are opened at consumption; where a page is not translated then, or its line holds four records of other SFRs,
they are opened at the first step of the command at which they can be (R269). -/
def State.openCopy (s : State) (b : Block) (c : CopyCmd) : State :=
  let add (write : Bool) (s : State) (a : Acc) : State :=
    if (s.fullLine c.uid [a]).isSome then s
    else (s.granules a).foldl (fun s g => s.addGranule (.copy c.uid) c.uid false false write g) s
  let s1 := (s.recordAccs b c.fn c.src c.dst c.unread.1 c.unread.2 false).foldl (add false) s
  if entryKind c.entry = 7 then s1 else (s1.recordAccs b c.fn c.dst c.src (256 * c.units) c.dstLen true).foldl (add true) s1

/-- The next published entry is consumed (R279, R281, R392); a page fault at its stamp address keeps it waiting while the page is asked for
(R289, R402), unless fault service has failed. -/
def State.consumeEntry (s : State) (bu : Nat) (noStamp : Bool) : State :=
  match s.block? bu with
  | none => s
  | some b =>
    match b.ring with
    | none => s
    | some r =>
      if r.stopped ∨ r.published ≤ r.consumed ∨ b.preempt ≠ .none then s
      else
        let p := r.consumed
        let e := b.entry r p
        let fn := ((s.launch? b.launch).map (·.fn)).getD 0
        let die := dieOfCore b.core
        let stamp : Except XFault (State × List Loc) :=
          if entryFlag e 8 ∧ entryAux e % 8 = 0 then s.reachN fn die (entryAux e) 8 true else .ok (s, [])
        if (match stamp with | .error .page => !noStamp | _ => false) then s.touch fn die (entryAux e) 8 true
        else
          let s1 := match stamp with
            | .ok x => x.1
            | .error _ => s.touch fn die (entryAux e) 8 true
          let u := s1.fresh
          let number := b.copyIssued + 1
          let chosen := if entryFlag e 9 then (b.template r e).toOption else none
          let check := s.entryCheck b r fn e stamp.toOption.isNone
          let n : Named := check.toOption.getD { src := .pattern 0, dst := .pattern 0, srcLen := 0, dstLen := 0 }
          let len := if 4 ≤ entryKind e ∧ entryKind e ≤ 6 then n.dstLen else entryLen e
          let filled := fieldAt e 24 4
          let gate := entryFlag e 13 && check.toOption.isSome
          let total := (((b.gates.find? (·.1 == filled)).map (·.2)).getD 0 + len) % 2 ^ 32
          let c : CopyCmd :=
            { uid := u.1, block := bu, fn := fn, number := number, entry := e, src := n.src, dst := n.dst, srcLen := n.srcLen, dstLen := n.dstLen,
              template := chosen.getD [], target := b.followTarget r p e, units := 0, staged := none, gateT := total, gated := gate, drive := [],
              ended := none, publisher := (r.pubs.find? (·.index == p)).bind (·.publisher) }
          let s2 := u.2.modBlock bu fun b =>
            { b with copyIssued := number, ring := some { r with consumed := p + 1, pubs := r.pubs.filter (·.index != p) },
                     gates := if gate then b.gates.filter (·.1 != filled) ++ [(filled, total)] else b.gates }
          let s3 : State := { s2 with copies := s2.copies ++ [c] }
          match check with
          | .error st => s3.copyFail u.1 st (if st = 4 then entryAux e else 0)
          | .ok _ => (s3.setCopy { c with gated := gate && !s3.gateOpen b c }).openCopy b c

/-! ### Order among commands (R287, R392, R395) -/

/-- Whether a command may make accesses now: it has not ended, its gate is open, nothing earlier holds it back, fewer than 8 earlier ones
are unfinished, no issued follow-on reads what it writes, and its block is resident (R287, R290, R392, R395). -/
def State.copyMayRun (s : State) (b : Block) (c : CopyCmd) : Bool :=
  let earlier := s.copies.filter fun e => e.block == c.block && e.number < c.number && e.ended.isNone
  let dst := scrRanges c.dst c.src c.dstLen
  let scr (x : Side) : Bool := match x with | .scr _ => true | _ => false
  let read := b.mctx.any fun x => x.cmds.any fun m => m.follow && (rangesMeet m.ranges dst).isSome
  c.ended.isNone && !c.gated && earlier.length < 8 && !(earlier.any fun e => e.gated || s.ordersBefore e c) && !read &&
    (b.preempt == .none || !(scr c.src || scr c.dst)) && b.moves.all fun m => c.number ≤ m.issued || m.issued ≤ b.copyDone

/-! ### Landing -/

/-- The bytes that land at lo to lo + n - 1 from their source bytes (R73, R282, R284). -/
def CopyCmd.payload (c : CopyCmd) (lo n : Nat) (src : List Byte) : List Byte :=
  let e := c.entry
  match entryKind e with
  | 9 => (List.range n).map fun i => (leBytes 8 (entrySrc e)).getD ((lo + i) % 8) 0
  | 10 =>
    let code := entryCode e
    let ty : Ty := if bitAt code 2 then (if bitAt code 3 then .dsb4f else .dsb4i) else if bitAt code 3 then .dsb8f else .dsb8i
    let blocks := (chunks (4 * encodeLen code) src.length src).map fun blk =>
      (dsbBlock ty .rne (dsbSpan ty) (encodeLen code) ((chunks 4 blk.length blk).map fun x => Ty.f32.fmt.unpack false (leNat x))).1
    (blocks.flatten.drop (lo % encodeBytes code)).take n
  | k =>
    let conv := if entryFlag e 11 then (chunks 4 src.length src).flatMap fun x => leBytes 2 (cvtFF .f32 .f16 .rne false (leNat x)).1 else src
    if k ≤ 3 ∧ entryCode e ≠ 0 then (chunks (permSize (entryCode e)) conv.length conv).reverse.flatten else conv

/-- A command's access queues (R329, R403): its place is that of its first arrival there. -/
def State.copyQueue (s : State) (c : CopyCmd) (q : QueueAt) : State :=
  if (sinceAt c.queued q).isSome then s
  else
    let u := s.fresh
    u.2.setCopy { c with queued := some { at' := q, since := u.1 } }

/-- A reducing unit (R75, R291): each source value added into its element; saturations are logged as ATOMX logs them (R147). -/
def State.reduceUnit (s : State) (c : CopyCmd) (fx : Bool) (va : Nat) : List (List Byte) → List (List Loc) → Nat → State
  | x :: xs, ls :: lss, i =>
    let old := leNat (s.readLocs ls)
    let r : Nat × BitVec 8 :=
      if fx then ((wrapTo 128 (fxAdd (toSigned 128 old) (leNat x)).1), (fxAdd (toSigned 128 old) (leNat x)).2)
      else ((floatAdd .f32 .rne false old (leNat x)).1, 0)
    let s1 := s.land (List.zip ls (leBytes ls.length r.1)) none
    let s2 := if r.2 &&& stFXOV = 0 then s1 else (s1.log c.fn 0x14 (va + i * ls.length) (s1.agentWord (.copy c.uid) false) 0 0 0 0).1
    s2.reduceUnit c fx va xs lss (i + 1)
  | _, _, _ => s

/-- Granule bits of an owner's records closed (R278). -/
def State.closeGranules (s : State) (owner : Nat) (write : Bool) (gs : List (LineKey × Nat)) : State :=
  if s.records.isEmpty then s
  else
    let clear (r : SfrRecord) : SfrRecord :=
      if r.owner != owner then r
      else
        let m : Dword := dword ((gs.filter (·.1 == r.key)).foldl (fun m g => Nat.lor m (2 ^ g.2)) 0)
        if write then { r with wr := r.wr &&& ~~~m } else { r with rd := r.rd &&& ~~~m }
    { s with records := (s.records.map clear).filter fun r => r.owner != owner || r.rd != 0 || r.wr != 0 }

/-- The granules of some accesses, but for those that the byte after them shares. -/
def State.doneGranules (s : State) (as next : List Acc) : List (LineKey × Nat) :=
  let later := next.flatMap s.granules
  (as.flatMap s.granules).filter fun g => !later.contains g

/-- An access of a command that gives no translation (R286): a page fault stalls it, in a queue where its page migrates and
it writes (R403); a violation ends the command. -/
def State.copyFault (s : State) (c : CopyCmd) (e : XFault) (addr : Nat) (write : Bool) : State :=
  match e with
  | .page => if write && s.migrating c.fn addr then s.copyQueue c (s.pageQueue c.fn addr) else s
  | .viol _ entry => (s.logEntry c.fn entry).copyFail c.uid 4 addr

/-- The address that the error log names for a side's byte. -/
def sideAddr (x : Side) (lo : Nat) : Nat :=
  match x with
  | .lin va => (va + lo) % 2 ^ 64
  | .scr a => a + lo
  | _ => 0

/-- The address at which a write to n bytes of a side faults. -/
def State.sideFault (s : State) (fn : Nat) (side : Side) (lo n : Nat) : Nat :=
  match side with
  | .lin va => s.faultAt fn ((va + lo) % 2 ^ 64) n true
  | _ => sideAddr side lo

/-- Whether accesses of a command wait for a pseudo-channel, or at a page that migrated behind an earlier one, with the state in which it
queues (R329, R403). -/
def State.copyWaits (s s1 : State) (c : CopyCmd) (as : List Acc) : Option State :=
  match s1.bankWait c.uid c.queued as with
  | some p => some (s.copyQueue c (.pch p.1 p.2))
  | none => if (s1.pageBehind c.queued).isSome then some s else none

/-- An access of a command over a closed bridge is not made (R405): logged, and the command ends with status 4. -/
def State.copyShut (s : State) (b : Block) (c : CopyCmd) (as : List Acc) : Option State :=
  (as.find? fun a => (s.shutOut (dieOfCore b.core) a.locs).isSome).map fun a =>
    ((s.log c.fn 0x15 a.va (s.agentWord (.copy c.uid) false) 0 2 0 0).1).copyFail c.uid 4 a.va

/-- A list of bytes in pieces of n. -/
def pieces4 {α : Type} (n : Nat) (l : List α) : List (List α) := chunks n l.length l

/-- The next unit of a command lands (R278, R286, R288, R291, R293, R296), once no command of its own block holds what it
writes (log 42): read, checked, performed, counted, and its records closed. -/
def State.landUnit (s : State) (b : Block) (c : CopyCmd) : State :=
  let lo := 256 * c.units
  let n := min 256 (c.dstLen - lo)
  let from' := c.sourceRange lo n
  let reduce := entryKind c.entry == 7
  let source : Except XFault (State × List Acc) :=
    match c.staged with
    | some _ => .ok (s, [])
    | none => s.sideAccs b c.fn c.src c.dst from'.1 from'.2 false
  match source with
  | .error e => s.copyFault c e (sideAddr c.src from'.1) false
  | .ok (s1, ras) =>
    match s1.sideAccs b c.fn c.dst c.src lo n true with
    | .error e => s.copyFault c e (s.sideFault c.fn c.dst lo n) true
    | .ok (s2, was) =>
      match s2.copyShut b c (ras ++ was) with
      | some s3 => s3
      | none =>
      match s.copyWaits s2 c (ras ++ was) with
      | some s3 => s3
      | none =>
      let wl := was.flatMap (·.locs)
      if (s2.fullLine c.uid (ras ++ if reduce then [] else was)).isSome || (s2.heldLoc wl fun u m => u == c.block && !m.follow).isSome then s
      else match s2.copyConflict c false ras with
        | some x => s.copyClash c 8 x false false
        | none => match if reduce then s2.strongClash c was else (s2.copyConflict c true was).map fun x => (8, x) with
          | some x => s.copyClash c x.1 x.2 true reduce
          | none =>
            match s2.heldLoc wl fun u _ => u != c.block with
            | some h => s.copyFail c.uid 10 (s.windowAddr h.block h.off)
            | none =>
              let rl := ras.flatMap (·.locs)
              let src : List (Byte × Bool) := match c.staged with
                | some l => (l.drop from'.1).take from'.2
                | none => rl.map fun l => (s2.readByte l, s2.poisoned [l])
              let bytes := src.map (·.1)
              let esize := if entryFlag c.entry 10 then 16 else 4
              let s3 :=
                if reduce then s2.reduceUnit c (entryFlag c.entry 10) (sideAddr c.dst lo) (pieces4 4 bytes) (pieces4 esize wl) 0
                else s2.land (List.zip wl (c.payload lo n bytes)) none
              let same := from'.2 == n && !c.permuted && !reduce
              let dirty := if same then ((List.zip wl src).filter fun p => p.2.2).map (·.1) else if src.any (·.2) then wl else []
              let s4 := s3.mark dirty
              let more (side other : Side) (at' total : Nat) (write : Bool) : List Acc :=
                if at' < total then ((s4.sideAccs b c.fn side other at' 1 write).toOption.map (·.2)).getD [] else []
              let s5 := s4.closeGranules c.uid true (s4.doneGranules was (more c.dst c.src (lo + n) c.dstLen true))
              let s6 := s5.closeGranules c.uid false (s5.doneGranules ras (more c.src c.dst (from'.1 + from'.2) c.srcLen false))
              s6.setCopy { c with units := c.units + 1, queued := none }

/-- The whole source is read before any byte lands (R288). -/
def State.stageCopy (s : State) (b : Block) (c : CopyCmd) : State :=
  match s.sideAccs b c.fn c.src c.dst 0 c.srcLen false with
  | .error e => s.copyFault c e (sideAddr c.src 0) false
  | .ok (s1, as) =>
    match s1.copyShut b c as with
    | some s2 => s2
    | none =>
    match s.copyWaits s1 c as with
    | some s2 => s2
    | none =>
    if (s1.fullLine c.uid as).isSome then s
    else match s1.copyConflict c false as with
      | some x => s.copyClash c 8 x false false
      | none =>
        let s2 := s1.setCopy { c with queued := none, staged := some ((as.flatMap (·.locs)).map fun l => (s1.readByte l, s1.poisoned [l])) }
        s2.closeGranules c.uid false (as.flatMap s2.granules)

/-- The most blocks that one Read of a command transfers (R415: MDTS). -/
def State.readBlocks (s : State) (c : CopyCmd) : Nat := ((s.grant? c).map fun g => max 1 (fieldAt g 40 4)).getD 1

/-- The grant index of a storage source. -/
def CopyCmd.grantIndex (c : CopyCmd) : Nat :=
  match c.src with
  | .drive g _ => g
  | _ => 0

/-- The queue pair of a grant as the device uses it; one that it has not used is empty, and its first completions have phase
tag 1 (PRESUMED, log 66). -/
def State.nvmeOf (s : State) (fn grant : Nat) : Nvme :=
  (s.admin.nvme.find? fun x => x.fn == fn && x.grant == grant).getD { fn := fn, grant := grant, tail := 0, head := 0, phase := true, cid := 0 }

/-- The queue pair of a grant changed. -/
def State.setNvme (s : State) (n : Nvme) : State :=
  { s with admin := { s.admin with nvme := s.admin.nvme.filter (fun x => !(x.fn == n.fn && x.grant == n.grant)) ++ [n] } }

/-- The address by which a drive names a byte (R415): device-physical, or in a block's scratchpad window. -/
def State.busAddr (s : State) (l : Loc) : Nat :=
  match l with
  | .dev pa => pa
  | .host a => a
  | .scr b o => s.windowAddr b o
  | .stripe k i => k + i
  | _ => 0

/-- An NVMe Read as the submission queue holds it (PRESUMED, log 66): opcode 0x02, identifier, namespace, the data pointer, first block and
count less one.  The data pointer names the first page and, of two, the second; the place of the list of more pages is a free value. -/
def readCommand (cid nsid first count : Nat) (pages : List Nat) (list : Nat) : List Byte :=
  let second := match pages with
    | [_, q] => q
    | _ :: _ :: _ => list
    | _ => 0
  leBytes 2 2 ++ leBytes 2 cid ++ leBytes 4 nsid ++ List.replicate 16 0 ++ leBytes 8 (pages.headD 0) ++ leBytes 8 second ++ leBytes 8 first ++
    leBytes 4 (count - 1) ++ List.replicate 12 0

/-- A Read enters the submission queue of its grant, and the drive's doorbell is rung (R415). -/
def State.submit (s : State) (c : CopyCmd) (g : List Byte) (first count : Nat) (ls : List Loc) : State :=
  let n := s.nvmeOf c.fn c.grantIndex
  let tail := (n.tail + 1) % max 2 (fieldAt g 32 2)
  let pages := ((ls.map s.busAddr).zipIdx.filter fun x => x.2 == 0 || x.1 % 4096 == 0).map (·.1)
  let list := (Config.freeWord s.free).toNat
  let s1 := { s with free := s.free + 1 }.perform
    (List.zip ((Loc.dev (fieldAt g 0 8 + 64 * n.tail)).span 64) (readCommand n.cid (fieldAt g 36 4) first count pages list))
  ((s1.setNvme { n with tail := tail, cid := (n.cid + 1) % 65536 }).writeNum (.host (fieldAt g 16 8)) 4 tail).setCopy
    { c with queued := none, drive := c.drive ++ [{ first := first, count := count, done := false, cid := n.cid }] }

/-- The next NVMe Read of a storage copy is issued, where its grant's queue has a free entry, in order of arrival (R415); its destination is
translated then, with the outcomes of R286. -/
def State.issueRead (s : State) (b : Block) (c : CopyCmd) : State :=
  match s.grant? c with
  | none => s.copyFail c.uid 3 0
  | some g =>
    let issued := c.drive.foldl (fun n d => n + d.count) 0
    let left := c.dstLen / s.blockBytes c - issued
    let q := QueueAt.drive c.fn c.grantIndex
    let out := (s.copies.filter fun x => x.fn == c.fn && (s.grant? x).isSome && x.grantIndex == c.grantIndex).foldl
      (fun n x => n + x.drive.countP fun d => !d.done) 0
    let count := min left (s.readBlocks c)
    let lo := issued * s.blockBytes c
    let n := count * s.blockBytes c
    if left = 0 then s
    else if fieldAt g 32 2 ≤ out ∨ (s.queuedAt q).any fun k => (sinceAt c.queued q).all (k < ·) then s.copyQueue c q
    else match s.sideAccs b c.fn c.dst c.src lo n true with
    | .error e => s.copyFault c e (s.sideFault c.fn c.dst lo n) true
    | .ok (s1, was) => s1.submit c g (c.firstBlock + issued) count (was.flatMap (·.locs))

/-- The page that a command's next access waits for (R286): its address in the error log, none where the next access translates. -/
def State.copyWaitsOn (s : State) (b : Block) (c : CopyCmd) : Option Nat :=
  let bad (side other : Side) (lo n : Nat) (write : Bool) : Option Nat :=
    match s.sideAccs b c.fn side other lo n write with
    | .error .page => some (match side with
      | .lin va => s.faultAt c.fn ((va + lo) % 2 ^ 64) n write
      | _ => sideAddr side lo)
    | _ => none
  let lo := 256 * c.units
  let n := min 256 (c.dstLen - lo)
  let r := c.sourceRange lo n
  if !s.copyMayRun b c || s.landed c then none
  else if entryKind c.entry = 8 then
    let at0 := c.drive.foldl (fun n d => n + d.count) 0 * s.blockBytes c
    if c.dstLen ≤ at0 then none else bad c.dst c.src at0 (min (c.dstLen - at0) (s.readBlocks c * s.blockBytes c)) true
  else if c.staged.isNone && s.selfOverlap c then bad c.src c.dst 0 c.srcLen false
  else (if c.staged.isSome then none else bad c.src c.dst r.1 r.2 false).or (bad c.dst c.src lo n true)

/-- The location at which a command's next access stalls for a record (R269). -/
def State.copyStall (s : State) (b : Block) (c : CopyCmd) : Option Loc :=
  let lo := 256 * c.units
  let n := min 256 (c.dstLen - lo)
  let r := if c.staged.isNone && s.selfOverlap c then (0, c.srcLen) else if c.staged.isSome then (0, 0) else c.sourceRange lo n
  let accs (side other : Side) (lo n : Nat) (write : Bool) : List Acc := ((s.sideAccs b c.fn side other lo n write).toOption.map (·.2)).getD []
  if s.records.isEmpty || !s.copyMayRun b c || s.landed c || entryKind c.entry == 8 then none
  else s.fullLine c.uid (accs c.src c.dst r.1 r.2 false ++ if entryKind c.entry = 7 then [] else accs c.dst c.src lo n true)

/-- COPY_UNIT_LAND (R278): command a makes its next access, where it may, and asks the host for a page that it waits for
(R402); a cancelled launch's command stops with a status that the spec does not give (R383, log 8). -/
def execCopyUnitLand (s : State) : Out :=
  match s.copy? s.args.a with
  | none => .next s
  | some c =>
    match s.block? c.block with
    | none => .next s
    | some b =>
      if c.ended.isNone ∧ ((s.launch? b.launch).map (·.cancelled)).getD false then
        .next (({ s with free := s.free + 1 } : State).copyFail c.uid (1 + (Config.freeWord s.free).toNat % 255) 0)
      else if !s.copyMayRun b c || s.landed c then .next s
      else
        let s0 := ((s.copyWaitsOn b c).map (s.askHost c.fn)).getD s
        let s1 := if c.drive.isEmpty then s0.openCopy b c else s0
        .next (if entryKind c.entry = 8 then s1.issueRead b c else if c.staged.isNone && s.selfOverlap c then s1.stageCopy b c else s1.landUnit b c)

/-- COPY_RING_NOTIFY (R281): block a's engine sees the notify word. -/
def execCopyRingNotify (s : State) : Out :=
  match (s.block? s.args.a).bind (·.ring) with
  | none => .next s
  | some r => .next (s.publishRing s.args.a (s.readNum (.scr s.args.a r.notify) 8) none)

/-- COPY_ENTRY_CONSUME (R279): block a's next published entry is consumed. -/
def execCopyEntryConsume (s : State) : Out := .next (s.consumeEntry s.args.a false)

/-- COPY_COMMAND_DONE (R280): command a is done, where it can be. -/
def execCopyCommandDone (s : State) : Out := .next (s.copyDone s.args.a false)

/-- GATE_REEVALUATE (R290): the gate of command a opens where its condition holds. -/
def execGateReevaluate (s : State) : Out :=
  match s.copy? s.args.a with
  | none => .next s
  | some c =>
    match s.block? c.block with
    | none => .next s
    | some b => .next (if c.gated && s.gateOpen b c then s.setCopy { c with gated := false } else s)

/-- A follow-on that a check of R184 refuses: the copy ends with status 11 and the batch fails with the reason (R292). -/
def State.followRefused (s : State) (c : CopyCmd) (t : Nat × Nat) (reason : Nat) : State :=
  ((s.setCopy { c with target := none }).failBatch c.block t.1 t.2 reason).copyFail c.uid 11 0

/-- FOLLOW_ON_ISSUE (R188, R292): the follow-on of command a issues once every byte has landed; it waits behind busy tiles of
earlier batches and for a place in the queue, and while its block is pre-empted (R296). -/
def execFollowOnIssue (s : State) : Out :=
  match s.copy? s.args.a with
  | none => .next s
  | some c =>
    match c.target with
    | none => .next s
    | some t =>
      match s.mctx? c.block t.1 with
      | none => .next s
      | some (b, x) =>
        let m := followCmd c.template s.nextUid t.2 (c.publisher.getD 0)
        if c.ended.isSome || c.gated || !s.landed c || b.preempt != .none then .next s
        else if x.stopped then .next (s.followRefused c t 10)
        else match m.code with
          | some code => .next (s.followRefused c t code)
          | none =>
            if (m.ranges.findSome? fun r => s.rangeBad b r.1 r.2).isSome then .next (s.followRefused c t 31)
            else if (x.busyTile m.tiles (some t.2)).isSome || 16 ≤ x.cmds.length then .next s
            else
              let s1 := s.fresh.2.modCtx c.block t.1 fun x => x.push m
              .next (s1.setCopy { c with target := none })

/-! ### Drives (R414, R415) -/

/-- A copy's NVMe Read that begins at a logical block and is outstanding. -/
def CopyCmd.read? (c : CopyCmd) (first : Nat) : Option DriveCmd := c.drive.find? fun d => d.first == first && !d.done

/-- A completion as the drive writes it (PRESUMED, log 66): the submission queue's head, the command's identifier, and the
phase tag under the status. -/
def completionEntry (head cid status : Nat) (phase : Bool) : List Byte :=
  List.replicate 8 0 ++ leBytes 4 head ++ leBytes 2 cid ++ leBytes 2 (status * 2 + if phase then 1 else 0)

/-- A completion read (R415): the entry that the phase tag shows, the queue's head behind it, and the drive's doorbell written. -/
def State.readCompletion (s : State) (fn grant : Nat) (g : List Byte) (cid status : Nat) : State :=
  let n := s.nvmeOf fn grant
  let head := (n.head + 1) % max 2 (fieldAt g 32 2)
  let s1 := s.perform (List.zip ((Loc.dev (fieldAt g 8 8 + 16 * n.head)).span 16) (completionEntry n.tail cid status n.phase))
  (s1.setNvme { n with head := head, phase := if head = 0 then !n.phase else n.phase }).writeNum (.host (fieldAt g 24 8)) 4 head

/-- NVME_COMPLETION (R415): the drive completes command a's Read that begins at block b, with status value: the engine reads the completion
from the queue. -/
def execNvmeCompletion (s : State) : Out :=
  match s.copy? s.args.a with
  | none => .next s
  | some c =>
    match c.read? s.args.b with
    | none => .next s
    | some d =>
      let s1 := match s.grant? c with
        | some g => s.readCompletion c.fn c.grantIndex g d.cid s.args.value.toNat
        | none => s
      if s.args.value ≠ 0 then .next (s1.copyFail c.uid 7 0)
      else .next (s1.setCopy { c with drive := c.drive.map fun x => if x == d then { x with done := true } else x })

/-- NVME_TIMEOUT (R415): TMO of a Read of command a has expired. -/
def execNvmeTimeout (s : State) : Out :=
  match s.copy? s.args.a with
  | none => .next s
  | some c => .next (if c.drive.any fun d => !d.done then s.copyFail c.uid 7 0 else s)

/-- Where byte pa of a drive write lies: device memory, or a block's scratchpad window (R251, R415). -/
def State.driveLoc (s : State) (pa : Nat) : Loc :=
  match s.blocks.find? fun b => pa / 2 ^ 56 == 0xFD && b.window ≤ pa % 2 ^ 52 && pa % 2 ^ 52 < b.window + 2 ^ 18 with
  | some b => .scr b.uid (pa % 2 ^ 52 - b.window)
  | none => .dev pa

/-- The destination bytes of a copy's outstanding Read (R415), as accesses. -/
def State.readAccs (s : State) (b : Block) (c : CopyCmd) (d : DriveCmd) : List Acc :=
  match s.sideAccs b c.fn c.dst c.src ((d.first - c.firstBlock) * s.blockBytes c) (d.count * s.blockBytes c) true with
  | .ok x => x.2
  | .error _ => []

/-- DRIVE_WRITE (R415): a drive writes bytes at c for grant b of function a; it lands only inside a range of an outstanding command of that
grant, as a plain write of the copy's agent, and is otherwise discarded and logged. -/
def execDriveWrite (s : State) : Out :=
  let ls := (List.range s.args.bytes.length).map fun i => s.driveLoc (s.args.c + i)
  let mine (c : CopyCmd) : Bool := c.fn == s.args.a && (match c.src with | .drive g _ => g == s.args.b | _ => false)
  let hit := (s.copies.filter mine).findSome? fun c => (s.block? c.block).bind fun b =>
    (c.drive.find? fun d => !d.done && ls.all ((s.readAccs b c d).flatMap (·.locs)).contains).map fun _ => (b, c)
  match hit with
  | none => .next (s.log s.args.a 0x15 s.args.c 0 0 4 0 0).1
  | some (b, c) =>
    let a : Acc := { lane := 0, va := sideAddr c.dst 0, locs := ls }
    if !s.copyMayRun b c || (s.bankWait c.uid none [a]).isSome || (s.heldLoc ls fun u m => u == c.block && !m.follow).isSome then .next s
    else match s.copyConflict c true [a] with
      | some x => .next (s.copyClash c 8 x true false)
      | none =>
        match s.heldLoc ls fun u _ => u != c.block with
        | some h => .next (s.copyFail c.uid 10 (s.windowAddr h.block h.off))
        | none =>
          let s1 := s.land (List.zip ls s.args.bytes) none
          .next (s1.closeGranules c.uid true (s1.granules a))

end Sys2Proof.Machine
end

