-- ==== Sys2Proof/WellFormed.lean ====
section
/-! DEFINITION. Well-formed instructions: the fields that the format or the description requires to be zero are zero
(R6, R48, check 3 of R58), and the BS rule of V3 holds (R50).  Register classes, pair parity and the checks of the
descriptions (checks 4 and 5 of R58) depend on the mode and are made when the slot executes, in Machine/Ops.lean. -/

namespace Sys2Proof

/-- R50: with BS = 1 the operand b is a scalar, and pattern-b and last-b must be zero. -/
def V3.bsRule (o : V3) : Bool := !o.bs || (o.pb == 0 && o.lb == false)

/-- R54: the 32 reserved opcodes. -/
def reservedOpcodes : List Nat :=
  [0x0E, 0x0F, 0x3C, 0x3D, 0x3E, 0x3F, 0x6C, 0x6D, 0x6E, 0x6F, 0x7E, 0x7F, 0xA6, 0xA7, 0xBE, 0xBF] ++
  [0xF0, 0xF1, 0xF2, 0xF3, 0xF4, 0xF5, 0xF6, 0xF7, 0xF8, 0xF9, 0xFA, 0xFB, 0xFC, 0xFD, 0xFE, 0xFF]

/-- Check 3 of R58 for every constructor; the rows that have no bits have no such fields. -/
def Instr.wellFormed (i : Instr) : Bool :=
  match i with
  | .nop => true
  | .bra _ => true
  | .brau _ => true
  | .brx _ => true
  | .call _ => true
  | .ret _ => true
  | .join => true
  | .bblk _ => true
  | .bjoin => true
  | .exit => true
  | .trap _ => true
  | .tret => true
  | .sysrd o => o.y == 0 && o.z == 0
  | .syswr o => o.x == 0 && o.z == 0
  | .iadd o => o.bsRule
  | .isub o => o.bsRule
  | .imul o => o.bsRule
  | .imulh o => o.bsRule
  | .imad o => o.bsRule
  | .imin o => o.bsRule
  | .imax o => o.bsRule
  | .and o => o.bsRule
  | .or o => o.bsRule
  | .xor o => o.bsRule
  | .andn o => o.bsRule
  | .shl o => o.bsRule
  | .shr o => o.bsRule
  | .sar o => o.bsRule
  | .sel o => o.bsRule
  | .iabs o => o.b == 0 && o.pb == 0 && o.lb == false && o.bs == false
  | .popc o => o.b == 0 && o.pb == 0 && o.lb == false && o.bs == false
  | .clz o => o.b == 0 && o.pb == 0 && o.lb == false && o.bs == false
  | .brev o => o.b == 0 && o.pb == 0 && o.lb == false && o.bs == false
  | .isetpEq o => decide (o.d.toNat < 8) && o.bsRule
  | .isetpNe o => decide (o.d.toNat < 8) && o.bsRule
  | .isetpLt o => decide (o.d.toNat < 8) && o.bsRule
  | .isetpLe o => decide (o.d.toNat < 8) && o.bsRule
  | .isetpGt o => decide (o.d.toNat < 8) && o.bsRule
  | .isetpGe o => decide (o.d.toNat < 8) && o.bsRule
  | .iaddi _ => true
  | .andi _ => true
  | .ori _ => true
  | .xori _ => true
  | .shli o => decide (o.imm.toNat < 64)
  | .shri o => decide (o.imm.toNat < 64)
  | .sari o => decide (o.imm.toNat < 64)
  | .movi _ => true
  | .movhi o => decide (o.imm.toNat < 8192)
  | .sadd _ => true
  | .ssub _ => true
  | .smul _ => true
  | .sand _ => true
  | .sor _ => true
  | .sxor _ => true
  | .sshl _ => true
  | .sshr _ => true
  | .saddi _ => true
  | .smovi _ => true
  | .fadd o => o.bsRule
  | .fsub o => o.bsRule
  | .fmul o => o.bsRule
  | .ffma o => o.bsRule
  | .ffms o => o.bsRule
  | .fnma o => o.bsRule
  | .fmin o => o.bsRule
  | .fmax o => o.bsRule
  | .fabsd o => o.bsRule
  | .fdot2 o => o.bsRule
  | .fabs o => o.b == 0 && o.pb == 0 && o.lb == false && o.bs == false
  | .fneg o => o.b == 0 && o.pb == 0 && o.lb == false && o.bs == false
  | .frnd o => o.b == 0 && o.pb == 0 && o.lb == false && o.bs == false
  | .fclass o => o.b == 0 && o.pb == 0 && o.lb == false && o.bs == false
  | .fldexp o => o.bsRule
  | .fexpt o => o.b == 0 && o.pb == 0 && o.lb == false && o.bs == false
  | .fcpys o => o.bsRule
  | .fsat o => o.b == 0 && o.pb == 0 && o.lb == false && o.bs == false
  | .frcp o => o.b == 0 && o.pb == 0 && o.lb == false && o.bs == false
  | .frsq o => o.b == 0 && o.pb == 0 && o.lb == false && o.bs == false
  | .fsqrt o => o.b == 0 && o.pb == 0 && o.lb == false && o.bs == false
  | .fexp2 o => o.b == 0 && o.pb == 0 && o.lb == false && o.bs == false
  | .flog2 o => o.b == 0 && o.pb == 0 && o.lb == false && o.bs == false
  | .fsin o => o.b == 0 && o.pb == 0 && o.lb == false && o.bs == false
  | .fcos o => o.b == 0 && o.pb == 0 && o.lb == false && o.bs == false
  | .ftanh o => o.b == 0 && o.pb == 0 && o.lb == false && o.bs == false
  | .fdiv o => o.bsRule
  | .fsetpEq o => decide (o.d.toNat < 8) && o.bsRule
  | .fsetpNe o => decide (o.d.toNat < 8) && o.bsRule
  | .fsetpLt o => decide (o.d.toNat < 8) && o.bsRule
  | .fsetpLe o => decide (o.d.toNat < 8) && o.bsRule
  | .fsetpGt o => decide (o.d.toNat < 8) && o.bsRule
  | .fsetpGe o => decide (o.d.toNat < 8) && o.bsRule
  | .fsetpUn o => decide (o.d.toNat < 8) && o.bsRule
  | .fredAdd o => o.b == 0 && o.pb == 0 && o.lb == false && o.bs == false
  | .fredMax o => o.b == 0 && o.pb == 0 && o.lb == false && o.bs == false
  | .fredMin o => o.b == 0 && o.pb == 0 && o.lb == false && o.bs == false
  | .fredAmax o => o.b == 0 && o.pb == 0 && o.lb == false && o.bs == false
  | .fscanAdd o => o.b == 0 && o.pb == 0 && o.lb == false && o.bs == false
  | .fscanMax o => o.b == 0 && o.pb == 0 && o.lb == false && o.bs == false
  | .fxacc o => o.bsRule
  | .fxcvt o => o.b == 0 && o.pb == 0 && o.lb == false && o.bs == false
  | .fpack o => o.bsRule
  | .funpk o => o.b == 0 && o.pb == 0 && o.lb == false && o.bs == false
  | .cvt o => decide (o.imm.toNat < 256)
  | .dsbscal o => decide (o.imm.toNat < 64)
  | .dsbenc o => decide (o.imm.toNat < 64)
  | .dsbdec o => decide (o.imm.toNat < 8)
  | .matchV o => o.bsRule
  | .vote o => o.bsRule
  | .plop o => decide (o.imm.toNat < 16)
  | .pmov o => o.z == 0 && decide (o.imm.toNat < 2)
  | .shuf o => o.bsRule
  | .ired o => o.b == 0 && o.pb == 0 && o.lb == false && o.bs == false
  | .iscan o => o.b == 0 && o.pb == 0 && o.lb == false && o.bs == false
  | .mode _ => true
  | .mshape _ => true
  | .carry o => o.z == 0 && o.imm == 0
  | .ld _ => true
  | .ld4 _ => true
  | .st _ => true
  | .st4 _ => true
  | .sld o => o.lb == false
  | .sst o => o.lb == false
  | .lds _ => true
  | .sts _ => true
  | .gather o => o.la == false && o.z == 0
  | .scatter o => o.la == false && o.z == 0
  | .spill _ => true
  | .fill _ => true
  | .ldc _ => true
  | .stc _ => true
  | .atomAdd o => o.z == 0
  | .atomMin o => o.z == 0
  | .atomMax o => o.z == 0
  | .atomAnd o => o.z == 0
  | .atomOr o => o.z == 0
  | .atomXor o => o.z == 0
  | .atomExch o => o.z == 0
  | .atomFadd o => o.z == 0
  | .cas o => o.z == 0
  | .atomrfAdd o => o.d == 0 && o.z == 0
  | .atomrfFadd o => o.d == 0 && o.z == 0
  | .atomrfMax o => o.d == 0 && o.z == 0
  | .atomrfMin o => o.d == 0 && o.z == 0
  | .atomx o => o.d == 0 && o.z == 0
  | .atomc _ => true
  | .atomcrf _ => true
  | .atoms o => o.z.toNat % 16 == 0
  | .lr o => o.o == 0 && o.lo == false && o.z == 0
  | .sc o => o.z == 0
  | .rdord o => o.imm == 0
  | .pinord o => decide (o.imm.toNat < 2)
  | .advord o => decide (o.imm.toNat < 32)
  | .pref _ => true
  | .probe o => o.z == 0 && o.imm == 0
  | .fenceAcq o => o.x == 0 && o.y == 0 && o.z == 0 && decide (o.imm.toNat < 8)
  | .fenceRel o => o.x == 0 && o.y == 0 && o.z == 0 && decide (o.imm.toNat < 8)
  | .fenceAr o => o.x == 0 && o.y == 0 && o.z == 0 && decide (o.imm.toNat < 8)
  | .fenceRf o => o.x == 0 && o.y == 0 && o.z == 0 && decide (o.imm.toNat < 8)
  | .bar o => o.x == 0 && o.y == 0 && o.z == 0 && decide (o.imm.toNat < 16)
  | .bara o => o.y == 0 && o.z == 0 && decide (o.imm.toNat < 16)
  | .barw o => o.x == 0 && o.z == 0 && decide (o.imm.toNat < 16)
  | .clbar o => o.x == 0 && o.y == 0 && o.z == 0 && decide (o.imm.toNat < 4)
  | .gbar => true
  | .waitge o => o.z == 0 && decide (o.imm.toNat < 8)
  | .waitne o => o.z == 0 && decide (o.imm.toNat < 8)
  | .tlwait o => o.x == 0 && o.z == 0 && decide (o.imm.toNat < 4)
  | .tlread o => o.y == 0 && o.z == 0 && decide (o.imm.toNat < 8)
  | .ctrarm o => decide (o.imm.toNat < 2)
  | .ctrwait o => o.z == 0 && o.imm == 0
  | .region => true
  | .grow o => o.z == 0 && decide (o.imm.toNat < 2)
  | .shrink o => o.z == 0 && o.imm == 0
  | .yield => true
  | .strel _ => true
  | .ldacq _ => true
  | .home => true
  | .mmat _ => true
  | .mmatz _ => true
  | .mmatar _ => true
  | .mmatbr _ => true
  | .commit o => o.y == 0 && o.z == 0 && o.imm == 0
  | .waitb o => o.x == 0 && o.z == 0 && o.imm == 0
  | .accz o => o.x == 0 && o.y == 0 && o.z == 0 && decide (o.imm.toNat < 256)
  | .accrd o => o.y == 0 && o.z == 0 && decide (o.imm.toNat < 16)
  | .accwr o => o.y == 0 && o.z == 0 && decide (o.imm.toNat < 16)
  | .accst o => o.z == 0 && decide (o.imm.toNat < 16)
  | .accld o => o.z == 0 && decide (o.imm.toNat < 16)
  | .mqry o => o.y == 0 && o.z == 0 && o.imm == 0
  | .msave o => o.y == 0 && o.z == 0 && o.imm == 0
  | .mrest o => o.y == 0 && o.z == 0 && o.imm == 0
  | .mcancel o => o.y == 0 && o.z == 0 && o.imm == 0
  | .mbudg o => o.y == 0 && o.z == 0 && o.imm == 0
  | .cring o => o.imm == 0
  | .send o => decide (o.imm.toNat < 8)
  | .recv o => decide (o.imm.toNat < 2)
  | .caprd o => o.z == 0 && o.imm == 0
  | .launch o => o.imm == 0
  | .launchu o => o.imm == 0
  | .cancel o => decide (o.imm.toNat < 4)
  | .distL2 o => decide (o.imm.toNat < 16)
  | .distIp o => decide (o.imm.toNat < 16)
  | .topkMin o => decide (o.imm.toNat < 32)
  | .topkMax o => decide (o.imm.toNat < 32)
  | .bankop o => o.imm == 0
  | .stkdisp o => o.imm == 0
  | .migqry o => o.z == 0 && o.imm == 0
  | .migr o => o.x == 0 && o.z == 0 && o.imm == 0
  | .svc o => decide (o.imm.toNat < 256)
  | .abmode o => o.z == 0 && decide (o.imm.toNat < 4)
  | .vbcast o => o.z == 0 && o.imm == 0
  | .bmac o => o.x == 0 && decide (o.imm.toNat < 8)
  | .bmacx o => o.x == 0 && decide (o.imm.toNat < 8)
  | .bmacrd o => o.y == 0 && o.z == 0 && decide (o.imm.toNat < 8)
  | .bmacz o => o.x == 0 && o.y == 0 && o.z == 0 && decide (o.imm.toNat < 16)
  | .rowact o => o.x == 0 && o.z == 0 && o.imm == 0
  | .colrd o => o.z == 0 && o.imm == 0
  | .colwr o => o.z == 0 && o.imm == 0
  | .ecsrd o => o.z == 0 && o.imm == 0
  | .ecsclr o => o.x == 0 && o.z == 0 && o.imm == 0
  | .tmove o => o.imm == 0
  | .tswap o => o.z == 0 && o.imm == 0
  | .stksave o => o.y == 0 && o.z == 0 && o.imm == 0
  | .skyield => true
  | .pchown o => o.z == 0 && o.imm == 0
  | .reservedOpcode w => reservedOpcodes.contains (w.toNat / 2 ^ 24)
  | .clauseBegin => true
  | .longLatencyCompletion => true
  | .pageFaultReplay => true
  | .faultServiceFailure => true
  | .shedRetry => true
  | .shuttleLanding => true
  | .guestWavefrontFormation => true
  | .guestWarpFormation => true
  | .shuttleReturn => true
  | .guestPreemption => true
  | .growGrant => true
  | .growDeadlock => true
  | .warpAgePromotion => true
  | .fairnessTimerExpiry => true
  | .joinFairnessLimit => true
  | .memoryWaitWake => true
  | .timelineWaitWake => true
  | .counterWaitWake => true
  | .batchWaitWake => true
  | .svcReplyWake => true
  | .recordCloseRequest => true
  | .blockPlacement => true
  | .blockFree => true
  | .queueWriteUpdate => true
  | .launchRecordConsume => true
  | .launchComplete => true
  | .copyRingNotify => true
  | .copyEntryConsume => true
  | .copyUnitLand => true
  | .copyCommandDone => true
  | .gateReevaluate => true
  | .followOnIssue => true
  | .engineStep => true
  | .batchComplete => true
  | .matrixBudgetPeriod => true
  | .ringDoorbell => true
  | .sillRingPoll => true
  | .wavefrontStart => true
  | .level3Save => true
  | .wavefrontResume => true
  | .wavefrontStarvation => true
  | .sillPreemptTimeout => true
  | .sillDispatchDone => true
  | .allBankModeExpiry => true
  | .abmodeBlockedEntry => true
  | .bankopRun => true
  | .bankopResultLand => true
  | .splitQuiesceEnd => true
  | .monitorWindowClose => true
  | .moveStart => true
  | .bucketAdmission => true
  | .sliceEnd => true
  | .warpTaken => true
  | .preemptionDeadline => true
  | .blockResumption => true
  | .resumeEpisode => true
  | .hostCxlAccess => true
  | .priResponse => true
  | .atsInvalidation => true
  | .watchArm => true
  | .watchFire => true
  | .registerWrite => true
  | .messageDelivery => true
  | .nvmeCompletion => true
  | .nvmeTimeout => true
  | .driveWrite => true
  | .flitReceive => true
  | .laneRepair => true
  | .scrubPeriod => true
  | .rowRepair => true
  | .coreLogicError => true
  | .pseudoChannelRetirement => true
  | .powerLimitStep => true
  | .packageReset => true
  | .cmdClaim => true
  | .cmdHandover => true
  | .cmdRelease => true
  | .cmdMeasure => true
  | .cmdGetcert => true
  | .cmdStatus => true
  | .cmdReadlog => true
  | .cmdPartition => true
  | .cmdFunction => true
  | .cmdGrant => true
  | .cmdInval => true
  | .cmdMigrate => true
  | .cmdRegion => true
  | .cmdAlloc => true
  | .cmdReserve => true
  | .cmdSplit => true
  | .cmdScrub => true
  | .cmdSlice => true
  | .cmdBucket => true
  | .cmdLogctl => true
  | .cmdCancel => true
  | .cmdPower => true
  | .cmdBudget => true
  | .cmdLifecycle => true
  | .svcSlotFree => true

end Sys2Proof
end

