-- ==== Sys2Proof/Decode.lean ====
section
/-! DEFINITION. The decoder, total on every 32-bit word, and the encoder (R48 to R56).  The opcode map is laid out as R54
lays it out: one function per high hexadecimal digit, one arm per low digit.  A word whose fields required to be zero
are not zero, or that breaks the BS rule, is refused by name; the machine takes the illegal-instruction trap for it
(R6, R58 check 3, R59 code 25). -/

namespace Sys2Proof

/-- Why a word is no well-formed instruction (check 3 of R58). -/
inductive DecodeError where
  | zeroField (opcode : Nat)
  deriving DecidableEq, Repr

/-- Field [l + n - 1 : l] of an instruction word (R3). -/
def Word.field (w : Word) (l n : Nat) : BitVec n := BitVec.ofNat n (w.toNat / 2 ^ l)

/-- One bit of an instruction word. -/
def Word.flag (w : Word) (l : Nat) : Bool := w.toNat / 2 ^ l % 2 == 1

/-- Bits [31:24] of every format hold the opcode (R48). -/
def Word.opcode (w : Word) : Nat := w.toNat / 2 ^ 24

/-- A Boolean field as a number. -/
def bitNat (b : Bool) : Nat := if b then 1 else 0

/-- The fields of format V3 (R49). -/
def V3.ofWord (w : Word) : V3 where
  d := w.field 19 5
  a := w.field 14 5
  pa := w.field 11 3
  la := w.flag 10
  b := w.field 5 5
  pb := w.field 2 3
  lb := w.flag 1
  bs := w.flag 0

/-- The bits [23:0] of format V3 (R49). -/
def V3.toBits (o : V3) : Nat :=
  o.d.toNat * 2 ^ 19 + o.a.toNat * 2 ^ 14 + o.pa.toNat * 2 ^ 11 + bitNat o.la * 2 ^ 10 + o.b.toNat * 2 ^ 5 + o.pb.toNat * 2 ^ 2 + bitNat o.lb * 2 ^ 1 + bitNat o.bs

/-- The fields of format VI (R49). -/
def VI.ofWord (w : Word) : VI where
  d := w.field 19 5
  a := w.field 14 5
  pa := w.field 11 3
  la := w.flag 10
  imm := w.field 0 10

/-- The bits [23:0] of format VI (R49). -/
def VI.toBits (o : VI) : Nat :=
  o.d.toNat * 2 ^ 19 + o.a.toNat * 2 ^ 14 + o.pa.toNat * 2 ^ 11 + bitNat o.la * 2 ^ 10 + o.imm.toNat

/-- The fields of format S3 (R49). -/
def S3.ofWord (w : Word) : S3 where
  d := w.field 19 5
  a := w.field 14 5
  b := w.field 9 5

/-- The bits [23:0] of format S3 (R49). -/
def S3.toBits (o : S3) : Nat :=
  o.d.toNat * 2 ^ 19 + o.a.toNat * 2 ^ 14 + o.b.toNat * 2 ^ 9

/-- The fields of format SI (R49). -/
def SI.ofWord (w : Word) : SI where
  d := w.field 19 5
  a := w.field 14 5
  imm := w.field 0 14

/-- The bits [23:0] of format SI (R49). -/
def SI.toBits (o : SI) : Nat :=
  o.d.toNat * 2 ^ 19 + o.a.toNat * 2 ^ 14 + o.imm.toNat

/-- The fields of format SL (R49). -/
def SL.ofWord (w : Word) : SL where
  d := w.field 19 5
  imm := w.field 0 19

/-- The bits [23:0] of format SL (R49). -/
def SL.toBits (o : SL) : Nat :=
  o.d.toNat * 2 ^ 19 + o.imm.toNat

/-- The fields of format B (R49). -/
def B.ofWord (w : Word) : B where
  imm := w.field 0 24

/-- The bits [23:0] of format B (R49). -/
def B.toBits (o : B) : Nat :=
  o.imm.toNat

/-- The fields of format BX (R49). -/
def BX.ofWord (w : Word) : BX where
  s := w.field 19 5

/-- The bits [23:0] of format BX (R49). -/
def BX.toBits (o : BX) : Nat :=
  o.s.toNat * 2 ^ 19

/-- The fields of format M (R49). -/
def M.ofWord (w : Word) : M where
  d := w.field 19 5
  base := w.field 14 5
  lb := w.flag 13
  imm := w.field 0 13

/-- The bits [23:0] of format M (R49). -/
def M.toBits (o : M) : Nat :=
  o.d.toNat * 2 ^ 19 + o.base.toNat * 2 ^ 14 + bitNat o.lb * 2 ^ 13 + o.imm.toNat

/-- The fields of format MC (R49). -/
def MC.ofWord (w : Word) : MC where
  d := w.field 19 5
  h := w.field 14 5
  c := w.field 9 5
  lc := w.flag 8
  imm := w.field 0 8

/-- The bits [23:0] of format MC (R49). -/
def MC.toBits (o : MC) : Nat :=
  o.d.toNat * 2 ^ 19 + o.h.toNat * 2 ^ 14 + o.c.toNat * 2 ^ 9 + bitNat o.lc * 2 ^ 8 + o.imm.toNat

/-- The fields of format MA (R49). -/
def MA.ofWord (w : Word) : MA where
  d := w.field 19 5
  a := w.field 14 5
  la := w.flag 13
  o := w.field 8 5
  lo := w.flag 7
  z := w.field 0 7

/-- The bits [23:0] of format MA (R49). -/
def MA.toBits (o : MA) : Nat :=
  o.d.toNat * 2 ^ 19 + o.a.toNat * 2 ^ 14 + bitNat o.la * 2 ^ 13 + o.o.toNat * 2 ^ 8 + bitNat o.lo * 2 ^ 7 + o.z.toNat

/-- The fields of format X (R49). -/
def X.ofWord (w : Word) : X where
  x := w.field 19 5
  y := w.field 14 5
  z := w.field 9 5
  imm := w.field 0 9

/-- The bits [23:0] of format X (R49). -/
def X.toBits (o : X) : Nat :=
  o.x.toNat * 2 ^ 19 + o.y.toNat * 2 ^ 14 + o.z.toNat * 2 ^ 9 + o.imm.toNat

/-- The fields of format MM (R49). -/
def MM.ofWord (w : Word) : MM where
  acc := w.field 20 4
  a := w.field 15 5
  b := w.field 10 5

/-- The bits [23:0] of format MM (R49). -/
def MM.toBits (o : MM) : Nat :=
  o.acc.toNat * 2 ^ 20 + o.a.toNat * 2 ^ 15 + o.b.toNat * 2 ^ 10

/-- Row 0x0_ of the opcode map (R54). -/
def mapRow0 (lo : Nat) (w : Word) : Instr :=
  match lo with
  | 0x0 => .nop
  | 0x1 => .bra (.ofWord w)
  | 0x2 => .brau (.ofWord w)
  | 0x3 => .brx (.ofWord w)
  | 0x4 => .call (.ofWord w)
  | 0x5 => .ret (.ofWord w)
  | 0x6 => .join
  | 0x7 => .bblk (.ofWord w)
  | 0x8 => .bjoin
  | 0x9 => .exit
  | 0xA => .trap (w.field 0 24)
  | 0xB => .tret
  | 0xC => .sysrd (.ofWord w)
  | 0xD => .syswr (.ofWord w)
  | _ => .reservedOpcode w

/-- Row 0x1_ of the opcode map (R54). -/
def mapRow1 (lo : Nat) (w : Word) : Instr :=
  match lo with
  | 0x0 => .iadd (.ofWord w)
  | 0x1 => .isub (.ofWord w)
  | 0x2 => .imul (.ofWord w)
  | 0x3 => .imulh (.ofWord w)
  | 0x4 => .imad (.ofWord w)
  | 0x5 => .imin (.ofWord w)
  | 0x6 => .imax (.ofWord w)
  | 0x7 => .and (.ofWord w)
  | 0x8 => .or (.ofWord w)
  | 0x9 => .xor (.ofWord w)
  | 0xA => .andn (.ofWord w)
  | 0xB => .shl (.ofWord w)
  | 0xC => .shr (.ofWord w)
  | 0xD => .sar (.ofWord w)
  | 0xE => .sel (.ofWord w)
  | _ => .iabs (.ofWord w)

/-- Row 0x2_ of the opcode map (R54). -/
def mapRow2 (lo : Nat) (w : Word) : Instr :=
  match lo with
  | 0x0 => .popc (.ofWord w)
  | 0x1 => .clz (.ofWord w)
  | 0x2 => .brev (.ofWord w)
  | 0x3 => .isetpEq (.ofWord w)
  | 0x4 => .isetpNe (.ofWord w)
  | 0x5 => .isetpLt (.ofWord w)
  | 0x6 => .isetpLe (.ofWord w)
  | 0x7 => .isetpGt (.ofWord w)
  | 0x8 => .isetpGe (.ofWord w)
  | 0x9 => .iaddi (.ofWord w)
  | 0xA => .andi (.ofWord w)
  | 0xB => .ori (.ofWord w)
  | 0xC => .xori (.ofWord w)
  | 0xD => .shli (.ofWord w)
  | 0xE => .shri (.ofWord w)
  | _ => .sari (.ofWord w)

/-- Row 0x3_ of the opcode map (R54). -/
def mapRow3 (lo : Nat) (w : Word) : Instr :=
  match lo with
  | 0x0 => .movi (.ofWord w)
  | 0x1 => .movhi (.ofWord w)
  | 0x2 => .sadd (.ofWord w)
  | 0x3 => .ssub (.ofWord w)
  | 0x4 => .smul (.ofWord w)
  | 0x5 => .sand (.ofWord w)
  | 0x6 => .sor (.ofWord w)
  | 0x7 => .sxor (.ofWord w)
  | 0x8 => .sshl (.ofWord w)
  | 0x9 => .sshr (.ofWord w)
  | 0xA => .saddi (.ofWord w)
  | 0xB => .smovi (.ofWord w)
  | _ => .reservedOpcode w

/-- Row 0x4_ of the opcode map (R54). -/
def mapRow4 (lo : Nat) (w : Word) : Instr :=
  match lo with
  | 0x0 => .fadd (.ofWord w)
  | 0x1 => .fsub (.ofWord w)
  | 0x2 => .fmul (.ofWord w)
  | 0x3 => .ffma (.ofWord w)
  | 0x4 => .ffms (.ofWord w)
  | 0x5 => .fnma (.ofWord w)
  | 0x6 => .fmin (.ofWord w)
  | 0x7 => .fmax (.ofWord w)
  | 0x8 => .fabsd (.ofWord w)
  | 0x9 => .fdot2 (.ofWord w)
  | 0xA => .fabs (.ofWord w)
  | 0xB => .fneg (.ofWord w)
  | 0xC => .frnd (.ofWord w)
  | 0xD => .fclass (.ofWord w)
  | 0xE => .fldexp (.ofWord w)
  | _ => .fexpt (.ofWord w)

/-- Row 0x5_ of the opcode map (R54). -/
def mapRow5 (lo : Nat) (w : Word) : Instr :=
  match lo with
  | 0x0 => .fcpys (.ofWord w)
  | 0x1 => .fsat (.ofWord w)
  | 0x2 => .frcp (.ofWord w)
  | 0x3 => .frsq (.ofWord w)
  | 0x4 => .fsqrt (.ofWord w)
  | 0x5 => .fexp2 (.ofWord w)
  | 0x6 => .flog2 (.ofWord w)
  | 0x7 => .fsin (.ofWord w)
  | 0x8 => .fcos (.ofWord w)
  | 0x9 => .ftanh (.ofWord w)
  | 0xA => .fdiv (.ofWord w)
  | 0xB => .fsetpEq (.ofWord w)
  | 0xC => .fsetpNe (.ofWord w)
  | 0xD => .fsetpLt (.ofWord w)
  | 0xE => .fsetpLe (.ofWord w)
  | _ => .fsetpGt (.ofWord w)

/-- Row 0x6_ of the opcode map (R54). -/
def mapRow6 (lo : Nat) (w : Word) : Instr :=
  match lo with
  | 0x0 => .fsetpGe (.ofWord w)
  | 0x1 => .fsetpUn (.ofWord w)
  | 0x2 => .fredAdd (.ofWord w)
  | 0x3 => .fredMax (.ofWord w)
  | 0x4 => .fredMin (.ofWord w)
  | 0x5 => .fredAmax (.ofWord w)
  | 0x6 => .fscanAdd (.ofWord w)
  | 0x7 => .fscanMax (.ofWord w)
  | 0x8 => .fxacc (.ofWord w)
  | 0x9 => .fxcvt (.ofWord w)
  | 0xA => .fpack (.ofWord w)
  | 0xB => .funpk (.ofWord w)
  | _ => .reservedOpcode w

/-- Row 0x7_ of the opcode map (R54). -/
def mapRow7 (lo : Nat) (w : Word) : Instr :=
  match lo with
  | 0x0 => .cvt (.ofWord w)
  | 0x1 => .dsbscal (.ofWord w)
  | 0x2 => .dsbenc (.ofWord w)
  | 0x3 => .dsbdec (.ofWord w)
  | 0x4 => .matchV (.ofWord w)
  | 0x5 => .vote (.ofWord w)
  | 0x6 => .plop (.ofWord w)
  | 0x7 => .pmov (.ofWord w)
  | 0x8 => .shuf (.ofWord w)
  | 0x9 => .ired (.ofWord w)
  | 0xA => .iscan (.ofWord w)
  | 0xB => .mode (w.field 0 24)
  | 0xC => .mshape (w.field 0 24)
  | 0xD => .carry (.ofWord w)
  | _ => .reservedOpcode w

/-- Row 0x8_ of the opcode map (R54). -/
def mapRow8 (lo : Nat) (w : Word) : Instr :=
  match lo with
  | 0x0 => .ld (.ofWord w)
  | 0x1 => .ld4 (.ofWord w)
  | 0x2 => .st (.ofWord w)
  | 0x3 => .st4 (.ofWord w)
  | 0x4 => .sld (.ofWord w)
  | 0x5 => .sst (.ofWord w)
  | 0x6 => .lds (.ofWord w)
  | 0x7 => .sts (.ofWord w)
  | 0x8 => .gather (.ofWord w)
  | 0x9 => .scatter (.ofWord w)
  | 0xA => .spill (.ofWord w)
  | 0xB => .fill (.ofWord w)
  | 0xC => .ldc (.ofWord w)
  | 0xD => .stc (.ofWord w)
  | 0xE => .atomAdd (.ofWord w)
  | _ => .atomMin (.ofWord w)

/-- Row 0x9_ of the opcode map (R54). -/
def mapRow9 (lo : Nat) (w : Word) : Instr :=
  match lo with
  | 0x0 => .atomMax (.ofWord w)
  | 0x1 => .atomAnd (.ofWord w)
  | 0x2 => .atomOr (.ofWord w)
  | 0x3 => .atomXor (.ofWord w)
  | 0x4 => .atomExch (.ofWord w)
  | 0x5 => .atomFadd (.ofWord w)
  | 0x6 => .cas (.ofWord w)
  | 0x7 => .atomrfAdd (.ofWord w)
  | 0x8 => .atomrfFadd (.ofWord w)
  | 0x9 => .atomrfMax (.ofWord w)
  | 0xA => .atomrfMin (.ofWord w)
  | 0xB => .atomx (.ofWord w)
  | 0xC => .atomc (.ofWord w)
  | 0xD => .atomcrf (.ofWord w)
  | 0xE => .atoms (.ofWord w)
  | _ => .lr (.ofWord w)

/-- Row 0xA_ of the opcode map (R54). -/
def mapRowA (lo : Nat) (w : Word) : Instr :=
  match lo with
  | 0x0 => .sc (.ofWord w)
  | 0x1 => .rdord (.ofWord w)
  | 0x2 => .pinord (.ofWord w)
  | 0x3 => .advord (.ofWord w)
  | 0x4 => .pref (.ofWord w)
  | 0x5 => .probe (.ofWord w)
  | 0x8 => .fenceAcq (.ofWord w)
  | 0x9 => .fenceRel (.ofWord w)
  | 0xA => .fenceAr (.ofWord w)
  | 0xB => .fenceRf (.ofWord w)
  | 0xC => .bar (.ofWord w)
  | 0xD => .bara (.ofWord w)
  | 0xE => .barw (.ofWord w)
  | 0xF => .clbar (.ofWord w)
  | _ => .reservedOpcode w

/-- Row 0xB_ of the opcode map (R54). -/
def mapRowB (lo : Nat) (w : Word) : Instr :=
  match lo with
  | 0x0 => .gbar
  | 0x1 => .waitge (.ofWord w)
  | 0x2 => .waitne (.ofWord w)
  | 0x3 => .tlwait (.ofWord w)
  | 0x4 => .tlread (.ofWord w)
  | 0x5 => .ctrarm (.ofWord w)
  | 0x6 => .ctrwait (.ofWord w)
  | 0x7 => .region
  | 0x8 => .grow (.ofWord w)
  | 0x9 => .shrink (.ofWord w)
  | 0xA => .yield
  | 0xB => .strel (.ofWord w)
  | 0xC => .ldacq (.ofWord w)
  | 0xD => .home
  | _ => .reservedOpcode w

/-- Row 0xC_ of the opcode map (R54). -/
def mapRowC (lo : Nat) (w : Word) : Instr :=
  match lo with
  | 0x0 => .mmat (.ofWord w)
  | 0x1 => .mmatz (.ofWord w)
  | 0x2 => .mmatar (.ofWord w)
  | 0x3 => .mmatbr (.ofWord w)
  | 0x4 => .commit (.ofWord w)
  | 0x5 => .waitb (.ofWord w)
  | 0x6 => .accz (.ofWord w)
  | 0x7 => .accrd (.ofWord w)
  | 0x8 => .accwr (.ofWord w)
  | 0x9 => .accst (.ofWord w)
  | 0xA => .accld (.ofWord w)
  | 0xB => .mqry (.ofWord w)
  | 0xC => .msave (.ofWord w)
  | 0xD => .mrest (.ofWord w)
  | 0xE => .mcancel (.ofWord w)
  | _ => .mbudg (.ofWord w)

/-- Row 0xD_ of the opcode map (R54). -/
def mapRowD (lo : Nat) (w : Word) : Instr :=
  match lo with
  | 0x0 => .cring (.ofWord w)
  | 0x1 => .send (.ofWord w)
  | 0x2 => .recv (.ofWord w)
  | 0x3 => .caprd (.ofWord w)
  | 0x4 => .launch (.ofWord w)
  | 0x5 => .launchu (.ofWord w)
  | 0x6 => .cancel (.ofWord w)
  | 0x7 => .distL2 (.ofWord w)
  | 0x8 => .distIp (.ofWord w)
  | 0x9 => .topkMin (.ofWord w)
  | 0xA => .topkMax (.ofWord w)
  | 0xB => .bankop (.ofWord w)
  | 0xC => .stkdisp (.ofWord w)
  | 0xD => .migqry (.ofWord w)
  | 0xE => .migr (.ofWord w)
  | _ => .svc (.ofWord w)

/-- Row 0xE_ of the opcode map (R54). -/
def mapRowE (lo : Nat) (w : Word) : Instr :=
  match lo with
  | 0x0 => .abmode (.ofWord w)
  | 0x1 => .vbcast (.ofWord w)
  | 0x2 => .bmac (.ofWord w)
  | 0x3 => .bmacx (.ofWord w)
  | 0x4 => .bmacrd (.ofWord w)
  | 0x5 => .bmacz (.ofWord w)
  | 0x6 => .rowact (.ofWord w)
  | 0x7 => .colrd (.ofWord w)
  | 0x8 => .colwr (.ofWord w)
  | 0x9 => .ecsrd (.ofWord w)
  | 0xA => .ecsclr (.ofWord w)
  | 0xB => .tmove (.ofWord w)
  | 0xC => .tswap (.ofWord w)
  | 0xD => .stksave (.ofWord w)
  | 0xE => .skyield
  | _ => .pchown (.ofWord w)

/-- The opcode map of R54: the instruction an opcode names, with the word's fields. -/
def decodeFields (w : Word) : Instr :=
  match w.opcode / 16 with
  | 0x0 => mapRow0 (w.opcode % 16) w
  | 0x1 => mapRow1 (w.opcode % 16) w
  | 0x2 => mapRow2 (w.opcode % 16) w
  | 0x3 => mapRow3 (w.opcode % 16) w
  | 0x4 => mapRow4 (w.opcode % 16) w
  | 0x5 => mapRow5 (w.opcode % 16) w
  | 0x6 => mapRow6 (w.opcode % 16) w
  | 0x7 => mapRow7 (w.opcode % 16) w
  | 0x8 => mapRow8 (w.opcode % 16) w
  | 0x9 => mapRow9 (w.opcode % 16) w
  | 0xA => mapRowA (w.opcode % 16) w
  | 0xB => mapRowB (w.opcode % 16) w
  | 0xC => mapRowC (w.opcode % 16) w
  | 0xD => mapRowD (w.opcode % 16) w
  | 0xE => mapRowE (w.opcode % 16) w
  | _ => .reservedOpcode w

/-- An opcode with its bits [23:0]. -/
def word (opcode bits : Nat) : Word := BitVec.ofNat 32 (opcode * 2 ^ 24 + bits)

/-- The encoder (R48 to R55): the word of an instruction; the rows that have no bits have none. -/
def encode (i : Instr) : Option Word :=
  match i with
  | .nop => some (word 0x00 0)
  | .bra o => some (word 0x01 o.toBits)
  | .brau o => some (word 0x02 o.toBits)
  | .brx o => some (word 0x03 o.toBits)
  | .call o => some (word 0x04 o.toBits)
  | .ret o => some (word 0x05 o.toBits)
  | .join => some (word 0x06 0)
  | .bblk o => some (word 0x07 o.toBits)
  | .bjoin => some (word 0x08 0)
  | .exit => some (word 0x09 0)
  | .trap i => some (word 0x0A i.toNat)
  | .tret => some (word 0x0B 0)
  | .sysrd o => some (word 0x0C o.toBits)
  | .syswr o => some (word 0x0D o.toBits)
  | .iadd o => some (word 0x10 o.toBits)
  | .isub o => some (word 0x11 o.toBits)
  | .imul o => some (word 0x12 o.toBits)
  | .imulh o => some (word 0x13 o.toBits)
  | .imad o => some (word 0x14 o.toBits)
  | .imin o => some (word 0x15 o.toBits)
  | .imax o => some (word 0x16 o.toBits)
  | .and o => some (word 0x17 o.toBits)
  | .or o => some (word 0x18 o.toBits)
  | .xor o => some (word 0x19 o.toBits)
  | .andn o => some (word 0x1A o.toBits)
  | .shl o => some (word 0x1B o.toBits)
  | .shr o => some (word 0x1C o.toBits)
  | .sar o => some (word 0x1D o.toBits)
  | .sel o => some (word 0x1E o.toBits)
  | .iabs o => some (word 0x1F o.toBits)
  | .popc o => some (word 0x20 o.toBits)
  | .clz o => some (word 0x21 o.toBits)
  | .brev o => some (word 0x22 o.toBits)
  | .isetpEq o => some (word 0x23 o.toBits)
  | .isetpNe o => some (word 0x24 o.toBits)
  | .isetpLt o => some (word 0x25 o.toBits)
  | .isetpLe o => some (word 0x26 o.toBits)
  | .isetpGt o => some (word 0x27 o.toBits)
  | .isetpGe o => some (word 0x28 o.toBits)
  | .iaddi o => some (word 0x29 o.toBits)
  | .andi o => some (word 0x2A o.toBits)
  | .ori o => some (word 0x2B o.toBits)
  | .xori o => some (word 0x2C o.toBits)
  | .shli o => some (word 0x2D o.toBits)
  | .shri o => some (word 0x2E o.toBits)
  | .sari o => some (word 0x2F o.toBits)
  | .movi o => some (word 0x30 o.toBits)
  | .movhi o => some (word 0x31 o.toBits)
  | .sadd o => some (word 0x32 o.toBits)
  | .ssub o => some (word 0x33 o.toBits)
  | .smul o => some (word 0x34 o.toBits)
  | .sand o => some (word 0x35 o.toBits)
  | .sor o => some (word 0x36 o.toBits)
  | .sxor o => some (word 0x37 o.toBits)
  | .sshl o => some (word 0x38 o.toBits)
  | .sshr o => some (word 0x39 o.toBits)
  | .saddi o => some (word 0x3A o.toBits)
  | .smovi o => some (word 0x3B o.toBits)
  | .fadd o => some (word 0x40 o.toBits)
  | .fsub o => some (word 0x41 o.toBits)
  | .fmul o => some (word 0x42 o.toBits)
  | .ffma o => some (word 0x43 o.toBits)
  | .ffms o => some (word 0x44 o.toBits)
  | .fnma o => some (word 0x45 o.toBits)
  | .fmin o => some (word 0x46 o.toBits)
  | .fmax o => some (word 0x47 o.toBits)
  | .fabsd o => some (word 0x48 o.toBits)
  | .fdot2 o => some (word 0x49 o.toBits)
  | .fabs o => some (word 0x4A o.toBits)
  | .fneg o => some (word 0x4B o.toBits)
  | .frnd o => some (word 0x4C o.toBits)
  | .fclass o => some (word 0x4D o.toBits)
  | .fldexp o => some (word 0x4E o.toBits)
  | .fexpt o => some (word 0x4F o.toBits)
  | .fcpys o => some (word 0x50 o.toBits)
  | .fsat o => some (word 0x51 o.toBits)
  | .frcp o => some (word 0x52 o.toBits)
  | .frsq o => some (word 0x53 o.toBits)
  | .fsqrt o => some (word 0x54 o.toBits)
  | .fexp2 o => some (word 0x55 o.toBits)
  | .flog2 o => some (word 0x56 o.toBits)
  | .fsin o => some (word 0x57 o.toBits)
  | .fcos o => some (word 0x58 o.toBits)
  | .ftanh o => some (word 0x59 o.toBits)
  | .fdiv o => some (word 0x5A o.toBits)
  | .fsetpEq o => some (word 0x5B o.toBits)
  | .fsetpNe o => some (word 0x5C o.toBits)
  | .fsetpLt o => some (word 0x5D o.toBits)
  | .fsetpLe o => some (word 0x5E o.toBits)
  | .fsetpGt o => some (word 0x5F o.toBits)
  | .fsetpGe o => some (word 0x60 o.toBits)
  | .fsetpUn o => some (word 0x61 o.toBits)
  | .fredAdd o => some (word 0x62 o.toBits)
  | .fredMax o => some (word 0x63 o.toBits)
  | .fredMin o => some (word 0x64 o.toBits)
  | .fredAmax o => some (word 0x65 o.toBits)
  | .fscanAdd o => some (word 0x66 o.toBits)
  | .fscanMax o => some (word 0x67 o.toBits)
  | .fxacc o => some (word 0x68 o.toBits)
  | .fxcvt o => some (word 0x69 o.toBits)
  | .fpack o => some (word 0x6A o.toBits)
  | .funpk o => some (word 0x6B o.toBits)
  | .cvt o => some (word 0x70 o.toBits)
  | .dsbscal o => some (word 0x71 o.toBits)
  | .dsbenc o => some (word 0x72 o.toBits)
  | .dsbdec o => some (word 0x73 o.toBits)
  | .matchV o => some (word 0x74 o.toBits)
  | .vote o => some (word 0x75 o.toBits)
  | .plop o => some (word 0x76 o.toBits)
  | .pmov o => some (word 0x77 o.toBits)
  | .shuf o => some (word 0x78 o.toBits)
  | .ired o => some (word 0x79 o.toBits)
  | .iscan o => some (word 0x7A o.toBits)
  | .mode i => some (word 0x7B i.toNat)
  | .mshape i => some (word 0x7C i.toNat)
  | .carry o => some (word 0x7D o.toBits)
  | .ld o => some (word 0x80 o.toBits)
  | .ld4 o => some (word 0x81 o.toBits)
  | .st o => some (word 0x82 o.toBits)
  | .st4 o => some (word 0x83 o.toBits)
  | .sld o => some (word 0x84 o.toBits)
  | .sst o => some (word 0x85 o.toBits)
  | .lds o => some (word 0x86 o.toBits)
  | .sts o => some (word 0x87 o.toBits)
  | .gather o => some (word 0x88 o.toBits)
  | .scatter o => some (word 0x89 o.toBits)
  | .spill o => some (word 0x8A o.toBits)
  | .fill o => some (word 0x8B o.toBits)
  | .ldc o => some (word 0x8C o.toBits)
  | .stc o => some (word 0x8D o.toBits)
  | .atomAdd o => some (word 0x8E o.toBits)
  | .atomMin o => some (word 0x8F o.toBits)
  | .atomMax o => some (word 0x90 o.toBits)
  | .atomAnd o => some (word 0x91 o.toBits)
  | .atomOr o => some (word 0x92 o.toBits)
  | .atomXor o => some (word 0x93 o.toBits)
  | .atomExch o => some (word 0x94 o.toBits)
  | .atomFadd o => some (word 0x95 o.toBits)
  | .cas o => some (word 0x96 o.toBits)
  | .atomrfAdd o => some (word 0x97 o.toBits)
  | .atomrfFadd o => some (word 0x98 o.toBits)
  | .atomrfMax o => some (word 0x99 o.toBits)
  | .atomrfMin o => some (word 0x9A o.toBits)
  | .atomx o => some (word 0x9B o.toBits)
  | .atomc o => some (word 0x9C o.toBits)
  | .atomcrf o => some (word 0x9D o.toBits)
  | .atoms o => some (word 0x9E o.toBits)
  | .lr o => some (word 0x9F o.toBits)
  | .sc o => some (word 0xA0 o.toBits)
  | .rdord o => some (word 0xA1 o.toBits)
  | .pinord o => some (word 0xA2 o.toBits)
  | .advord o => some (word 0xA3 o.toBits)
  | .pref o => some (word 0xA4 o.toBits)
  | .probe o => some (word 0xA5 o.toBits)
  | .fenceAcq o => some (word 0xA8 o.toBits)
  | .fenceRel o => some (word 0xA9 o.toBits)
  | .fenceAr o => some (word 0xAA o.toBits)
  | .fenceRf o => some (word 0xAB o.toBits)
  | .bar o => some (word 0xAC o.toBits)
  | .bara o => some (word 0xAD o.toBits)
  | .barw o => some (word 0xAE o.toBits)
  | .clbar o => some (word 0xAF o.toBits)
  | .gbar => some (word 0xB0 0)
  | .waitge o => some (word 0xB1 o.toBits)
  | .waitne o => some (word 0xB2 o.toBits)
  | .tlwait o => some (word 0xB3 o.toBits)
  | .tlread o => some (word 0xB4 o.toBits)
  | .ctrarm o => some (word 0xB5 o.toBits)
  | .ctrwait o => some (word 0xB6 o.toBits)
  | .region => some (word 0xB7 0)
  | .grow o => some (word 0xB8 o.toBits)
  | .shrink o => some (word 0xB9 o.toBits)
  | .yield => some (word 0xBA 0)
  | .strel o => some (word 0xBB o.toBits)
  | .ldacq o => some (word 0xBC o.toBits)
  | .home => some (word 0xBD 0)
  | .mmat o => some (word 0xC0 o.toBits)
  | .mmatz o => some (word 0xC1 o.toBits)
  | .mmatar o => some (word 0xC2 o.toBits)
  | .mmatbr o => some (word 0xC3 o.toBits)
  | .commit o => some (word 0xC4 o.toBits)
  | .waitb o => some (word 0xC5 o.toBits)
  | .accz o => some (word 0xC6 o.toBits)
  | .accrd o => some (word 0xC7 o.toBits)
  | .accwr o => some (word 0xC8 o.toBits)
  | .accst o => some (word 0xC9 o.toBits)
  | .accld o => some (word 0xCA o.toBits)
  | .mqry o => some (word 0xCB o.toBits)
  | .msave o => some (word 0xCC o.toBits)
  | .mrest o => some (word 0xCD o.toBits)
  | .mcancel o => some (word 0xCE o.toBits)
  | .mbudg o => some (word 0xCF o.toBits)
  | .cring o => some (word 0xD0 o.toBits)
  | .send o => some (word 0xD1 o.toBits)
  | .recv o => some (word 0xD2 o.toBits)
  | .caprd o => some (word 0xD3 o.toBits)
  | .launch o => some (word 0xD4 o.toBits)
  | .launchu o => some (word 0xD5 o.toBits)
  | .cancel o => some (word 0xD6 o.toBits)
  | .distL2 o => some (word 0xD7 o.toBits)
  | .distIp o => some (word 0xD8 o.toBits)
  | .topkMin o => some (word 0xD9 o.toBits)
  | .topkMax o => some (word 0xDA o.toBits)
  | .bankop o => some (word 0xDB o.toBits)
  | .stkdisp o => some (word 0xDC o.toBits)
  | .migqry o => some (word 0xDD o.toBits)
  | .migr o => some (word 0xDE o.toBits)
  | .svc o => some (word 0xDF o.toBits)
  | .abmode o => some (word 0xE0 o.toBits)
  | .vbcast o => some (word 0xE1 o.toBits)
  | .bmac o => some (word 0xE2 o.toBits)
  | .bmacx o => some (word 0xE3 o.toBits)
  | .bmacrd o => some (word 0xE4 o.toBits)
  | .bmacz o => some (word 0xE5 o.toBits)
  | .rowact o => some (word 0xE6 o.toBits)
  | .colrd o => some (word 0xE7 o.toBits)
  | .colwr o => some (word 0xE8 o.toBits)
  | .ecsrd o => some (word 0xE9 o.toBits)
  | .ecsclr o => some (word 0xEA o.toBits)
  | .tmove o => some (word 0xEB o.toBits)
  | .tswap o => some (word 0xEC o.toBits)
  | .stksave o => some (word 0xED o.toBits)
  | .skyield => some (word 0xEE 0)
  | .pchown o => some (word 0xEF o.toBits)
  | .reservedOpcode w => some w
  | .clauseBegin => none
  | .longLatencyCompletion => none
  | .pageFaultReplay => none
  | .faultServiceFailure => none
  | .shedRetry => none
  | .shuttleLanding => none
  | .guestWavefrontFormation => none
  | .guestWarpFormation => none
  | .shuttleReturn => none
  | .guestPreemption => none
  | .growGrant => none
  | .growDeadlock => none
  | .warpAgePromotion => none
  | .fairnessTimerExpiry => none
  | .joinFairnessLimit => none
  | .memoryWaitWake => none
  | .timelineWaitWake => none
  | .counterWaitWake => none
  | .batchWaitWake => none
  | .svcReplyWake => none
  | .recordCloseRequest => none
  | .blockPlacement => none
  | .blockFree => none
  | .queueWriteUpdate => none
  | .launchRecordConsume => none
  | .launchComplete => none
  | .copyRingNotify => none
  | .copyEntryConsume => none
  | .copyUnitLand => none
  | .copyCommandDone => none
  | .gateReevaluate => none
  | .followOnIssue => none
  | .engineStep => none
  | .batchComplete => none
  | .matrixBudgetPeriod => none
  | .ringDoorbell => none
  | .sillRingPoll => none
  | .wavefrontStart => none
  | .level3Save => none
  | .wavefrontResume => none
  | .wavefrontStarvation => none
  | .sillPreemptTimeout => none
  | .sillDispatchDone => none
  | .allBankModeExpiry => none
  | .abmodeBlockedEntry => none
  | .bankopRun => none
  | .bankopResultLand => none
  | .splitQuiesceEnd => none
  | .monitorWindowClose => none
  | .moveStart => none
  | .bucketAdmission => none
  | .sliceEnd => none
  | .warpTaken => none
  | .preemptionDeadline => none
  | .blockResumption => none
  | .resumeEpisode => none
  | .hostCxlAccess => none
  | .priResponse => none
  | .atsInvalidation => none
  | .watchArm => none
  | .watchFire => none
  | .registerWrite => none
  | .messageDelivery => none
  | .nvmeCompletion => none
  | .nvmeTimeout => none
  | .driveWrite => none
  | .flitReceive => none
  | .laneRepair => none
  | .scrubPeriod => none
  | .rowRepair => none
  | .coreLogicError => none
  | .pseudoChannelRetirement => none
  | .powerLimitStep => none
  | .packageReset => none
  | .cmdClaim => none
  | .cmdHandover => none
  | .cmdRelease => none
  | .cmdMeasure => none
  | .cmdGetcert => none
  | .cmdStatus => none
  | .cmdReadlog => none
  | .cmdPartition => none
  | .cmdFunction => none
  | .cmdGrant => none
  | .cmdInval => none
  | .cmdMigrate => none
  | .cmdRegion => none
  | .cmdAlloc => none
  | .cmdReserve => none
  | .cmdSplit => none
  | .cmdScrub => none
  | .cmdSlice => none
  | .cmdBucket => none
  | .cmdLogctl => none
  | .cmdCancel => none
  | .cmdPower => none
  | .cmdBudget => none
  | .cmdLifecycle => none
  | .svcSlotFree => none

/-- The opcode of an instruction that has one (R54). -/
def Instr.opcode (i : Instr) : Option Nat := (encode i).map Word.opcode

/-- The decoder: total on every word.  It refuses a word that breaks check 3 of R58, by name. -/
def decode (w : Word) : Except DecodeError Instr :=
  if encode (decodeFields w) = some w then
    if (decodeFields w).wellFormed then .ok (decodeFields w) else .error (.zeroField w.opcode)
  else .error (.zeroField w.opcode)

/-- The decoder as the host's table numbers an instruction's bits: every instruction of this machine is one 32-bit word,
whose bit 0 is the table's bit 0.  Bits above nbits are zero. -/
def decodeTableWord (nbits w : Nat) : Option Instr :=
  match decode (BitVec.ofNat 32 (w % 2 ^ nbits)) with
  | .ok i => some i
  | .error _ => none

end Sys2Proof
end

