-- ==== Sys2Proof/Machine/Fetch.lean ====
section
/-! DEFINITION. Fetching: how a clause begins (R39 to R43, R269), which word a slot holds, and what a word that the decoder refuses, or a
trap that a lane carried home, does (R57, R58, R311). -/

namespace Sys2Proof.Machine

/-- Conditions 1 to 7 of R42: the reason and the slot. -/
def clauseFault (ws : List Word) : Option (Nat × Nat) :=
  let h := ws.headD 0
  let slots := (List.range (hdrCount h)).map (· + 1)
  let op (n : Nat) : Nat := (ws.getD n 0).toNat / 2 ^ 24
  let flag (n : Nat) : Nat := if n ≤ hdrSplit h then hdrSetA h else hdrSetB h
  let bad (f : Nat) : Bool := 12 ≤ f && f ≤ 14
  if bitsAt h.toNat 31 29 != 5 then some (1, 0)
  else if hdrCount h = 0 then some (2, 0)
  else if hdrCount h < hdrSplit h then some (3, 0)
  else if bad (hdrSetA h) then some (4, 0)
  else if bad (hdrSetB h) then some (5, 0)
  else match slots.find? fun n => opcodeLongReg (op n) && flag n == 15 with
    | some n => some (6, n)
    | none =>
      match slots.find? fun n => opcodeTransfer (op n) && n != hdrCount h with
      | some n => some (7, n)
      | none => none

/-- A fetch that does not translate: a page fault makes the warp replayable, a violation is the access-violation trap (R130, R131). -/
def Ctx.fetchFault (c : Ctx) (slot : Nat) (e : XFault) : State :=
  match e with
  | .page => c.replay c.sp.pc.toNat (word 32)
  | .viol r entry => (c.st.logEntry c.fn entry).takeTrap c.w.uid c.k 0xD (word (r * 32)) c.sp.pc slot

/-- A split begins its clause: the header is fetched, checked and latched with the mode register it selects (R42, R43, R124).  A split at
slot 0 enters slot 1 without WAIT (R33, R57); one at slot 8 enters the last valid slot (R91).  A level-3 wavefront of Aderic executes
firmware, one instruction to a clause (log 38). -/
def Ctx.beginClause (c : Ctx) : State :=
  let s0 := if c.w.closeReq && c.sp.slot == 1 then c.st.endSfr c.w.uid else c.st
  if c.w.slab.isSome then s0.modWarp c.w.uid fun w => w.setSplit c.k { c.sp with slot := 1, begun := true, hdr := 0, mode := modeReset }
  else match s0.fetchWords c.w c.sp.pc.toNat 8 with
  | .error e => c.fetchFault (if c.sp.slot = 0 ∨ c.sp.slot = 8 then 1 else c.sp.slot) e
  | .ok (s1, ws) =>
    match clauseFault ws with
    | some (reason, slot) => s1.takeTrap c.w.uid c.k 2 (word (reason + slot * 16)) c.sp.pc slot
    | none =>
      let h := ws.headD 0
      let slot := if c.sp.slot = 0 then 1 else if c.sp.slot = 8 then hdrCount h else c.sp.slot
      s1.modWarp c.w.uid fun w =>
        let sp := (w.splits[c.k]?).getD Split.free
        if hdrCount h < slot then w.setSplit c.k (sp.enter sp.nextClause)
        else w.setSplit c.k { sp with slot := slot, begun := true, hdr := h, mode := w.m.getD (hdrMsel h) 0 }

/-- CLAUSE_BEGIN (R43): split b of warp a begins its clause, if it is the running split and ready (R236). -/
def execClauseBegin (s : State) : Out :=
  match s.warp? s.args.a with
  | none => .next s
  | some w =>
    match w.splits[s.args.b]? with
    | none => .next s
    | some sp =>
      if w.running = s.args.b ∧ !sp.begun ∧ s.splitReady w s.args.b then
        .next (Ctx.beginClause { st := s, w := w, k := s.args.b, sp := sp })
      else .next s

/-- A trap that a lane carried home is taken when its split reaches the slot (R311). -/
def Ctx.carriedTrap (c : Ctx) : Option State :=
  (c.w.carried.find? fun x => hasLane c.sp.lanes x.lane && x.pc == c.sp.pc && x.slot == c.sp.slot).map fun x =>
    (c.st.modWarp c.w.uid fun w => { w with carried := w.carried.filter (· != x) }).takeTrap c.w.uid c.k x.cause x.info x.pc x.slot

/-- The uncorrectable-error trap with SRC 4, and its class 0x12 record (R420, R422, R430). -/
def State.logicTrap (s : State) (w : Warp) : State :=
  let fn := s.fnOf w
  let seq := ((s.fn? fn).map (·.logWrite)).getD 0
  let info := word (4 + 65536 * (seq % 65536))
  let sp := (w.splits[w.running]?).getD Split.free
  ((s.log fn 0x12 0 (s.wordOf w) info.toNat 4 0 0).1).takeTrap w.uid w.running 0x17 info sp.pc (max sp.slot 1)

/-- The trap that a warp was marked to take at its next slot, and one that a lane carried home (R311, R422). -/
def Ctx.pendingTrap (c : Ctx) : Option State :=
  if c.w.faulty then some ((c.st.modWarp c.w.uid fun w => { w with faulty := false }).logicTrap c.w) else c.carriedTrap

/-- A word that the decoder refuses fails check 3 of R58 with code 25; the profile check comes before it (R57). -/
def Ctx.badWord (c : Ctx) (w : Word) : State :=
  let opc := w.opcode
  let prof := opcodeProfile opc
  if c.guest && (prof == .main || prof == .native || prof == .notGuest) then c.st.sendHome c.w c.sp.pc c.sp.slot none false
  else if (prof == .main && c.native) || (prof == .native && !c.native) then c.trap 3 0
  else if opcodePrivileged opc && c.w.tenant then c.trap 3 1
  else c.trap 1 (illegalInfo opc 25)

/-- What an executing agent does next: the instruction of its slot, or a state that is reached without one. -/
inductive Fetched where
  | instr (s : State) (i : Instr)
  | other (s : State)
  deriving Repr

/-- The next instruction of the level-3 wavefront that moves a slab (R364): TMOVE of the line at the frontier, TSWAP after
the last, and the end of the wavefront once the slab does not move. s1 holds the slab's entry in the order table, s2 the
line, s3 takes the status. -/
def Ctx.firmware (c : Ctx) (slab : Nat × Nat) : Fetched :=
  match c.st.slab? slab.1 slab.2 with
  | none => .other (c.st.endWave c.w)
  | some (r, sl) =>
    if sl.state ≠ 1 then .other (c.st.endWave c.w)
    else
      let entry := (c.st.orderTable sl.home).idxOf slab
      let s1 := c.st.modWarp c.w.uid fun w => (w.putS 1 (word entry) false).putS 2 (word sl.frontier) false
      .instr s1 (if sl.frontier < r.desc.lines slab.2 sl.target.toNat then .tmove { x := 3, y := 1, z := 2, imm := 0 }
        else .tswap { x := 3, y := 1, z := 0, imm := 0 })

/-- The word at the executing split's slot, decoded (R39, R43). -/
def Ctx.fetch (c : Ctx) : Fetched :=
  match c.pendingTrap with
  | some s => .other s
  | none =>
    match c.w.slab with
    | some x => c.firmware x
    | none =>
      match c.st.fetchWord c.w (c.sp.pc.toNat + 4 * c.sp.slot) with
      | .error e => .other (c.fetchFault c.sp.slot e)
      | .ok (s1, w) =>
        match decode w with
        | .ok i => .instr s1 i
        | .error _ => .other ({ c with st := s1 }.badWord w)

end Sys2Proof.Machine
end

