-- ==== Sys2Proof/Machine/Start.lean ====
section
/-! DEFINITION. How an executing agent starts (R20 to R35, R126, R210, R233, R319), and the smallest machine in which a given word is the
next instruction. -/

namespace Sys2Proof.Machine

/-- The carry masks at warp start: v0 to v11 and s1 to s4 (R126). -/
def carryVStart : Word := 0x00000FFF
def carrySStart : Word := 0x0000001E

/-- An agent as it starts: registers zero, one split of the given lanes at the entry, modes at reset (R12, R20 to R25, R29, R34). -/
def startWarp (uid : Nat) (kind : Kind) (entry : Dword) (lanes : Mask) : Warp :=
  { uid := uid, kind := kind, launch := 0, block := 0, idx := 0, core := 0, slot := 0,
    v := List.replicate 32 (if kind = .main then VReg.empty else { VReg.empty with live := true }), s := List.replicate 32 0, spoison := 0,
    p := List.replicate 8 0, f := List.replicate 12 0, hazards := [], ops := [], m := List.replicate 4 modeReset,
    shadow := List.replicate 4 modeReset, ms := 0, carryV := carryVStart, carryS := carrySStart, sticky := 0, quota := 32,
    trapcause := 0, trappc := 0, trapinfo := 0,
    splits := [{ Split.free with pc := entry, lanes := lanes }, Split.free, Split.free, Split.free], running := 0, idle := false,
    handler := .none, exited := ~~~lanes, away := 0, returned := [], carried := [], resv := [], region := none, sfr := 0,
    closeReq := false, expired := false, replay := none, homes := [], parked := false, wave := none, slab := none, guest := none,
    lds := [], ldsSize := 0, gone := false, age := 0 }

/-- A block as it is placed (R162, R187, R233, R279, R379): scratchpad, objects and timelines zero. -/
def startBlock (uid launch index core : Nat) (scratchSize : Nat) (contexts : Nat) : Block :=
  { uid := uid, launch := launch, index := index, core := core, warps := [], spare := [], group := index, pos := 0, members := [uid],
    scratch := [], scratchSize := scratchSize, window := 0, counters := [], ring := none, copyIssued := 0, copyDone := 0,
    copyFinished := [], copyFailed := [], gates := [], mctx := List.replicate contexts MatCtx.fresh, dense := [], compacted := false,
    preempt := .none, deadline := false, tag := 0, moves := [], freed := false }

/-- A timeline on which nothing has been issued (R168). -/
def Timeline.start : Timeline := { issued := 0, done := 0, finished := [], failed := [] }

/-- A launch as it is consumed (R376, R381), before the memories that it finds are noted (R46). -/
def startLaunch (uid fn queue seq : Nat) (record : List Byte) (args : List Word) : Launch :=
  { uid := uid, fn := fn, queue := queue, seq := seq, record := record, args := args, next := 0, freed := 0, status := none,
    cancelled := false, complete := false, sill := Timeline.start, bank := Timeline.start, gbar := [], episodes := 0, ranks := [],
      code := { mem := [], hostMem := [] } }

/-! ### The smallest machine that runs one word -/

/-- Where the smallest machine keeps its clause. -/
def demoEntry : Nat := 0x10000

/-- A launch record of one block of 32 threads at demoEntry: QUOTA 32, one matrix context, 8 KiB of scratchpad (R376). -/
def demoRecord : List Byte :=
  leBytes 8 demoEntry ++ leBytes 2 32 ++ leBytes 1 32 ++ leBytes 1 1 ++ leBytes 4 1 ++ leBytes 1 1 ++ List.replicate 111 0

/-- A header of one valid slot, in group A under flag f0 (R40). -/
def demoHeader : Nat := 5 * 2 ^ 29 + 1 * 2 ^ 23 + 1 * 2 ^ 20 + 15 * 2 ^ 16

/-- Page tables of function 0 that map the first 1 GiB to stack 0, and a clause of one word (R39, R397, R398). -/
def demoMemory (m : Memory) (w : Word) : Memory :=
  let m1 := Memory.putBytes m 0 (leBytes 8 0x1021)
  let m2 := Memory.putBytes m1 0x1000 (leBytes 8 0x2021)
  let m3 := Memory.putBytes m2 0x2000 (leBytes 8 0x37)
  Memory.putBytes m3 demoEntry (leBytes 4 demoHeader ++ leBytes 4 w.toNat)

/-- The split that has begun the clause and stands at slot 1. -/
def demoSplit (lanes : Mask) : Split :=
  { Split.free with pc := dword demoEntry, begun := true, hdr := word demoHeader, lanes := lanes }

/-- The agent: a warp of the block, or for the bank commands (0xE0 to 0xEF) a native wavefront on stack 0. -/
def demoWarp (sill : Bool) : Warp :=
  let w := startWarp 3 (if sill then .native else .main) (dword demoEntry) (if sill then 0xFFFF else 0xFFFFFFFF)
  let v : WaveInfo := { stack := 0, core := 0, slot := 0, level := 1, dispatch := 4, index := 0, owned := none, claim := none, request := none }
  { w with launch := if sill then 0 else 1, block := if sill then 0 else 2, splits := [demoSplit (if sill then 0xFFFF else 0xFFFFFFFF), Split.free, Split.free, Split.free],
           wave := if sill then some v else none }

/-- The dispatch of that wavefront. -/
def demoDispatch : Dispatch :=
  { uid := 4, stack := 0, fn := 0, launch := 1, block := 2, number := 1, record := List.replicate 64 0, level := 1, started := 1, ended := 0,
    failed := none, done := false, entry := none, saveAt := none, code := { mem := [], hostMem := [] } }

/-- The state with the word as the instruction that its executing agent fetches next: in the clause that the running split executes, or,
where no split is about to issue, in a new agent's clause (log 1). -/
def State.placeWord (s : State) (w : Word) : State :=
  let fresh : State :=
    let code : CodeImage := { mem := demoMemory s.mem w, hostMem := s.hostMem }
    let sill := 0xE0 ≤ w.toNat / 2 ^ 24 && w.toNat / 2 ^ 24 ≤ 0xEF
    { s with
      mem := demoMemory s.mem w, tlb := [], admin := { s.admin with mode := 1, fns := Fn.fresh 0 0 0 0 :: s.admin.fns.filter (·.id != 0) },
        launches := [{ startLaunch 1 0 0 0 demoRecord [] with code := code }],
      blocks := [{ startBlock 2 1 0 0 8192 1 with warps := if sill then [] else [3] }], warps := [demoWarp sill],
      dispatches := if sill then [{ demoDispatch with code := code }] else [], cur := some 3, agenda := [], nextUid := max s.nextUid 5 }
  let put (ls : List Loc) (s : State) : State := (List.zip ls (leBytes 4 w.toNat)).foldl (fun s p => s.putByte p.1 p.2) s
  let code (ls : List Loc) (x : CodeImage) : CodeImage := (put ls (s.asOf x)).image
  match s.ctx? with
  | none => fresh
  | some c =>
    if c.sp.begun && s.splitReady c.w c.k && c.pendingTrap.isNone then
      match s.translateN c.fn (c.sp.pc.toNat + 4 * c.sp.slot) 4 false with
      | .ok (_, ls) => 
        { put ls s with agenda := [], launches := s.launches.map fun l => { l with code := code ls l.code },
                        dispatches := s.dispatches.map fun d => { d with code := code ls d.code } }
      | .error _ => fresh
    else fresh

end Sys2Proof.Machine
end

