-- ==== Sys2Proof/Machine/Launch.lean ====
section
/-! DEFINITION. Hardware queues, launches, placement, freeing, completion and cancellation (R231 to R233, R246 to R248, R372 to R383). -/

namespace Sys2Proof.Machine

/-! ### Queues (R372 to R375) -/

/-- A queue by its number. -/
def State.queue? (s : State) (n : Nat) : Option Queue := s.admin.queues.find? (·.num == n)

/-- A queue in place of the one with its number. -/
def State.setQueue (s : State) (q : Queue) : State :=
  { s with admin := { s.admin with queues := updateFirst (·.num == q.num) (fun _ => q) s.admin.queues } }

/-- Where record i of a queue lies (R372). -/
def recordAt (blk : List Byte) (i : Nat) : Nat := (fieldAt blk 0 8 + 128 * (i % blkCount blk)) % 2 ^ 64

/-- Records are written and WRITE advances in one step (R248, R375), while the queue has room and no record would take number 2^64 - 1
(R207); the answer is the state and the numbers taken. -/
def State.enqueue (s : State) (q : Queue) : List (List Byte) → State × List Nat
  | [] => (s, [])
  | r :: rest =>
    let blk := s.queueBlock q
    let n := blkWrite blk
    if !queueBlockOk blk || !blkDevfed blk || blkCount blk ≤ (n + 2 ^ 64 - blkRead blk) % 2 ^ 64 || n == 2 ^ 64 - 1 then (s, [])
    else match s.reachN q.fn 4 (recordAt blk n) 128 true with
      | .error _ => (s.touch q.fn 4 (recordAt blk n) 128 true, [])
      | .ok (s1, ls) =>
        let x := ((s1.perform (List.zip ls r)).landNum (.dev (q.cb + 16)) 8 (n + 1) none).enqueue q rest
        (x.1, n :: x.2)

/-- QUEUE_WRITE_UPDATE (R373 to R375): the host writes value to WRITE of queue a; ignored where the device feeds the queue. -/
def execQueueWriteUpdate (s : State) : Out :=
  match s.queue? s.args.a with
  | none => .next s
  | some q => .next (if blkDevfed (s.queueBlock q) then s else s.landNum (.dev (q.cb + 16)) 8 s.args.value.toNat none)

/-! ### Identifiers (R382) -/

/-- The identifier table of a queue: address and bytes of each entry. -/
def State.idTable (s : State) (q : Queue) : List (Nat × List Byte) :=
  let blk := s.queueBlock q
  let base := fieldAt blk 48 8
  if base = 0 then []
  else (List.range (fieldAt blk 56 4)).filterMap fun i => (s.readVa q.fn 4 ((base + 16 * i) % 2 ^ 64) 16).map fun e => ((base + 16 * i) % 2 ^ 64, e)

/-- The entry of an identifier at a level. -/
def State.idEntry (s : State) (q : Queue) (level ident : Nat) : Option (Nat × List Byte) :=
  if ident = 0 then none else (s.idTable q).find? fun e => fieldAt e.2 0 4 == ident && fieldAt e.2 4 1 == level

/-- Identifiers that a record names, with their levels. -/
def recordIds (r : List Byte) : List (Nat × Nat) :=
  ([1, 2, 3].map fun l => (l, fieldAt r (92 + 4 * l) 4)).filter fun x => x.2 != 0

/-! ### Records (R376 to R378) -/

/-- A launch record outside its ranges (R376, R377). -/
def recordBad (r : List Byte) : Bool :=
  let b (i : Nat) : Nat := fieldAt r i 1
  let l := startLaunch 0 0 0 0 r []
  let group := l.group
  fieldAt r 0 8 % 32 != 0 || l.threads == 0 || 1024 < l.threads || b 10 == 0 || 32 < b 10 || 4 < b 11 || l.grid == 0 || 28 < b 16 || 128 ≤ b 17 ||
    4 ≤ b 18 || !(b 19 == 0 || (10 ≤ b 19 && b 19 ≤ 16)) || 16 ≤ b 20 || 32 ≤ b 21 || 256 < l.capCount || l.capTab % 32 != 0 ||
    l.saveStride % 256 != 0 || l.handler % 32 != 0 || l.saveBase % 256 != 0 || l.argsAt % 4 != 0 || fieldAt r 108 4 != 0 || l.trapEntry % 32 != 0 ||
    fieldAt r 124 4 != 0 || ((l.fuse || l.shuttle) && !group) || (l.fuse && l.gsize != 3) ||
      (group && (l.gsize == 0 || l.grid % (l.gsize + 1) != 0)) ||
    (l.handler != 0 && l.saveStride < 0x100 + 0x1800 * l.warps)

/-- A wait condition (R378): it holds or not, or the record is malformed by it, with the address of an unreadable word. -/
inductive Wait where
  | holds
  | pending
  | bad (word : Option Nat)
  deriving DecidableEq, Repr

/-- One wait condition as it stands; lost: fault service on its word has failed. -/
def State.waitCond (s : State) (fn : Nat) (c : Nat × Nat) (lost : Bool) : Wait :=
  if c.1 = 0 then .holds
  else if c.1 % 8 ≠ 0 ∨ !canonical c.1 then .bad none
  else match s.translateN fn c.1 8 false with
    | .ok (s1, ls) => if c.2 ≤ leNat (s1.readLocs ls) then .holds else .pending
    | .error .page => if lost then .bad (some c.1) else .pending
    | .error _ => .bad (some c.1)

/-- Both wait conditions of a record. -/
def State.waits (s : State) (fn : Nat) (r : List Byte) (lost : Bool) : Wait :=
  match s.waitCond fn (fieldAt r 64 8, fieldAt r 72 8) lost with
  | .bad w => .bad w
  | x => match s.waitCond fn (fieldAt r 80 8, fieldAt r 88 8) lost with
    | .bad w => .bad w
    | y => if x = .holds ∧ y = .holds then .holds else .pending

/-- The record that a queue would consume next (R373); none where it has none or its ring does not translate. -/
def State.nextRecord (s : State) (q : Queue) : Option (Nat × List Byte) :=
  let blk := s.queueBlock q
  if !queueBlockOk blk || !blkEnable blk || blkOverrun blk || blkWrite blk ≤ blkRead blk then none
  else (s.readVa q.fn 4 (recordAt blk (blkRead blk)) 128).map fun r => (blkRead blk, r)

/-- Whether a record that is not consumed is cancelled (R383). -/
def State.recordCancelled (s : State) (q : Queue) (seq : Nat) (r : List Byte) : Bool :=
  q.cancelled.contains seq || (recordIds r).any fun x => (s.idEntry q x.1 x.2).any fun e => bitAt (fieldAt e.2 5 1) 0

/-- PRIO of a queue's next record, where it can be consumed now. -/
def State.consumable (s : State) (q : Queue) (lost : Bool) : Option Nat :=
  match s.nextRecord q with
  | none => none
  | some (seq, r) => if s.recordCancelled q seq r || s.waits q.fn r lost != .pending then some (fieldAt r 20 1 % 16) else none

/-! ### Placement (R231 to R233, R380) -/

/-- Blocks that hold reservations of a core. -/
def State.residents (s : State) (core : Nat) : List Block := s.blocks.filter fun b => b.core == core && b.preempt != .taken

/-- Warp slots of a core in use (R231, R246): those of every warp of a block that holds reservations there, one that has
exited too, its spare slots, and those of guest warps, one for all the lanes of each (R304). -/
def State.usedSlots (s : State) (core : Nat) : List Nat :=
  let held (w : Warp) : Bool := ((s.block? w.block).map (·.preempt)) != some .taken
  ((s.warps.filter fun w => w.core == core && w.kind == .main && held w).map (·.slot)) ++ (s.residents core).flatMap (·.spare) ++
    (s.warps.filterMap fun w => w.guest.bind fun g => if !g.onStack && g.site == core then g.slot else none).eraseDups

/-- What one block of a launch reserves: warp slots, registers, scratchpad bytes, contexts (R231). -/
def Launch.needs (l : Launch) : Nat × Nat × Nat × Nat :=
  (if l.compact then 2 * l.warps else l.warps, l.warps * l.quota, l.scratchBytes, l.mctx)

/-- Whether a core can make reservations now (R231). -/
def State.coreFits (s : State) (core : Nat) (n : Nat × Nat × Nat × Nat) : Bool :=
  let bs := s.residents core
  !s.admin.deadCores.contains core && (bs.filter fun b => !b.freed).length < 32 && (s.usedSlots core).length + n.1 ≤ 96 &&
    (n.2.1 : Int) ≤ s.poolFree core && bs.foldl (fun x b => x + b.scratchSize) 0 + n.2.2.1 ≤ 229376 &&
    bs.foldl (fun x b => x + b.mctx.length) 0 + n.2.2.2 ≤ 4

/-- The slot that a new warp takes: the lowest free one of the quadrant with the fewest occupied (R233, R234). -/
def takeSlot (used : List Nat) : Nat :=
  let count (q : Nat) : Nat := used.countP fun x => x % 4 == q
  let q := ([1, 2, 3].foldl (fun b q => if count q < count b then q else b) 0)
  (((List.range 24).map fun i => 4 * i + q).find? fun x => !used.contains x).getD 0

/-- Slots taken for n warps. -/
def takeSlots : Nat → List Nat → List Nat
  | 0, _ => []
  | n + 1, used => takeSlot used :: takeSlots n (takeSlot used :: used)

/-- A free window base (R251, log 6). -/
def State.newWindow (s : State) : Nat :=
  let base (k : Nat) : Nat := 0xE * 2 ^ 48 + k * 2 ^ 18
  ((((List.range (s.blocks.length + 1)).find? fun k => !(s.blocks.any fun b => b.window == base k)).map base)).getD (base 0)

/-- The lanes of warp w that hold a thread (R233). -/
def threadMask (threads w : Nat) : Mask := maskOf fun i => 32 * w + i < threads

/-- A block placed on a core (R20, R233, R379): its warps start at the entry. -/
def State.placeBlock (s : State) (l : Launch) (index core : Nat) : State :=
  let used := s.usedSlots core
  let slots := takeSlots (if l.compact then 2 * l.warps else l.warps) used
  let bu := s.nextUid
  let ws := (List.range l.warps).map fun w =>
    let x := startWarp (bu + 1 + w) .main (dword l.entry) (threadMask l.threads w)
    { x with launch := l.uid, block := bu, idx := w, core := core, slot := slots.getD w 0, quota := l.quota, age := s.nextUid + w,
             s := (List.range 32).map fun i => if i = 0 then 0 else (l.args[i - 1]?).getD 0 }
  let b := startBlock bu l.uid index core l.scratchBytes l.mctx
  let g := if l.group then l.gsize + 1 else 1
  let b1 := { b with warps := ws.map (·.uid), spare := slots.drop l.warps, window := s.newWindow, group := index / g, pos := index % g }
  { s with blocks := s.blocks ++ [b1], warps := s.warps ++ ws, nextUid := bu + 1 + l.warps }

/-- The blocks of a group know one another (R136, R232). -/
def State.linkGroup (s : State) (launch group : Nat) : State :=
  let mine (b : Block) : Bool := b.launch == launch && b.group == group
  let us := (sortBy (·.pos) (s.blocks.filter mine)).map (·.uid)
  { s with blocks := s.blocks.map fun b => if mine b then { b with members := us } else b }

/-- The die preferred by a launch (R380): the one whose stacks hold most slabs of MAINREG. -/
def State.preferredDie (s : State) (l : Launch) : Nat :=
  let dies := s.fnDies l.fn
  let slabs := if l.mainReg = 0 then [] else ((s.region? l.fn l.mainReg).map fun r => r.slabs.map fun x => dieOfStack x.home).getD []
  let count (d : Nat) : Nat := slabs.countP (· == d)
  dies.foldl (fun b d => if count b < count d then d else b) (dies.headD 0)

/-- The dies in the order in which placement tries them (R380). -/
def State.dieOrder (s : State) (l : Launch) : List Nat :=
  let p := s.preferredDie l
  (((List.range 4).map fun i => (p + i) % 4)).filter (s.fnDies l.fn).contains

/-- Where a block, or a group, whose blocks have given needs goes (R232, R380): a cluster and the cores. -/
def State.findPlace (s : State) (l : Launch) (needs : List (Nat × Nat × Nat × Nat)) : Option (Nat × List Nat) :=
  let tryCluster (c : Nat) : Option (Nat × List Nat) :=
    let cores := (List.range 4).map (4 * c + ·)
    if l.group then
      let us := cores.take (l.gsize + 1)
      if (List.zip us needs).all fun k => s.coreFits k.1 k.2 then some (c, us) else none
    else (cores.find? fun k => needs.all fun n => s.coreFits k n).map fun k => (c, [k])
  (s.dieOrder l).findSome? fun d =>
    let p := s.pointers.getD d (11 * d)
    ((List.range 11).map fun i => 11 * d + (p - 11 * d + i) % 11).findSome? tryCluster

/-- The next block, or group, of a launch placed; none where it fits nowhere. -/
def State.placeNext (s : State) (l : Launch) : Option (State × Launch) :=
  match s.findPlace l (List.replicate (l.gsize + 1) l.needs) with
  | none => none
  | some (c, cores) =>
    let d := c / 11
    let s1 : State := { s with pointers := s.pointers.set d (11 * d + (c - 11 * d + 1) % 11) }
    let s2 := cores.zipIdx.foldl (fun s k => s.placeBlock l (l.next + k.2) k.1) s1
    let l1 := { l with next := l.next + cores.length }
    some (((if l.group then s2.linkGroup l.uid (l.next / (l.gsize + 1)) else s2).setLaunch l1), l1)

/-- A co-resident launch's whole grid placed; fuel bounds the blocks. -/
def State.placeAll (s : State) (l : Launch) : Nat → Option State
  | 0 => some s
  | fuel + 1 =>
    if l.grid ≤ l.next then some s
    else match s.placeNext l with
      | none => none
      | some (s1, l1) => s1.placeAll l1 fuel

/-- Whether one block of a launch, or for CORES its whole grid, fits the empty partition (R377). -/
def State.everFits (s : State) (l : Launch) : Bool :=
  let n := l.needs
  let room (total each : Nat) : Nat := if each = 0 then 32 else total / each
  let perCore := min 32 (min (room 96 n.1) (min (room 3072 n.2.1) (min (room 229376 n.2.2.1) (room 4 n.2.2.2))))
  let alive (k : Nat) : Bool := !s.admin.deadCores.contains k
  let clusters := (s.fnDies l.fn).flatMap fun d => (List.range 11).map (11 * d + ·)
  let total := clusters.foldl (fun t c =>
    let cores := (List.range 4).map (4 * c + ·)
    if l.group then (if (cores.take (l.gsize + 1)).all alive then t + perCore * (l.gsize + 1) else t)
    else t + perCore * cores.countP alive) 0
  (if l.cores then l.grid else if l.group then l.gsize + 1 else 1) ≤ total

/-- Launches with blocks left to place, in the order in which they are served (R380). -/
def State.servedLaunches (s : State) : List Launch :=
  sortBy (fun l => 15 - l.prio) (s.launches.filter fun l => !l.cancelled && !l.complete && l.next < l.grid &&
    ((s.fn? l.fn).map (·.running)).getD false)

/-- Whether a context has taken blocks, which are placed before any new block (R380, R393). -/
def State.resumesFirst (s : State) (fn : Nat) : Bool :=
  s.blocks.any fun b => b.preempt == .taken && ((s.launch? b.launch).map (·.fn)) == some fn

/-- BLOCK_PLACEMENT (R380): the next block, group or co-resident grid of launch a is placed, where it is the launch served next and fits. -/
def execBlockPlacement (s : State) : Out :=
  match s.servedLaunches.head? with
  | none => .next s
  | some l =>
    if l.uid ≠ s.args.a ∨ s.resumesFirst l.fn then .next s
    else if l.cores then .next ((s.placeAll l l.grid).getD s)
    else .next (((s.placeNext l).map (·.1)).getD s)

/-! ### Consumption (R373, R376 to R379) -/

/-- The preloaded words (R379); words that the context cannot read are free values (log 8). -/
def State.readArgs (s : State) (fn : Nat) (r : List Byte) : List Word :=
  let l := startLaunch 0 fn 0 0 r []
  (List.range l.narg).map fun i =>
    match s.readVa fn 4 ((l.argsAt + 4 * i) % 2 ^ 64) 4 with
    | some bs => word (leNat bs)
    | none => Config.freeWord (s.free + i)

/-- The walks of the reads that a record's consumption makes (R398): its wait words, identifier table and preloaded words. -/
def State.touchNamed (s : State) (q : Queue) (r : List Byte) : State :=
  let l := startLaunch 0 q.fn q.num 0 r []
  let blk := s.queueBlock q
  let reads := [((l.wcond 0).1, if (l.wcond 0).1 = 0 then 0 else 8), ((l.wcond 1).1, if (l.wcond 1).1 = 0 then 0 else 8),
    (fieldAt blk 48 8, if (recordIds r).isEmpty then 0 else 16 * fieldAt blk 56 4), (l.argsAt, 4 * l.narg)]
  reads.foldl (fun s x => if x.2 = 0 then s else s.touch q.fn 4 x.1 x.2) s

/-- A record is consumed: READ advances, and the launch starts, or ends with a status without starting.  It notes the memories that it finds
(R46). -/
def State.consume (s : State) (q : Queue) (seq : Nat) (r : List Byte) (lost : Bool) : State :=
  let s1 := ((s.touchNamed q r).landNum (.dev (q.cb + 24)) 8 (seq + 1) none).setQueue { q with cancelled := q.cancelled.filter (· != seq) }
  let u := s1.fresh
  let args := s.readArgs q.fn r
  let l := startLaunch u.1 q.fn q.num seq r args
  let wait := s.waits q.fn r lost
  let unreadable : Option Nat := match wait with
    | .bad w => w
    | _ => none
  let bad : Bool := match wait with
    | .bad _ => true
    | _ => false
  let cancelled := s.recordCancelled q seq r
  let status : Option Nat :=
    if cancelled then some 3
    else if bad || recordBad r || (recordIds r).any (fun x => (s.idEntry q x.1 x.2).isNone) then some 1
    else if !s.everFits l then some 2 else none
  let s2 := match unreadable with
    | some a => if cancelled then u.2 else (u.2.log q.fn 0x16 a 0 0 7 0 0).1
    | none => u.2
  { s2 with launches := s2.launches ++ [{ l with status := status, cancelled := status.isSome, code := s.image }], free := s2.free + 32 }

/-- Whether a queue's record, of a priority, is the next to be consumed (R373): no queue has a consumable one of higher PRIO,
and of those of equal PRIO it is the first from the queue whose turn it is on. -/
def State.queueFirst (s : State) (q : Queue) (prio : Nat) : Bool :=
  let order (n : Nat) : Nat := (n + 8192 - s.admin.queueTurns.getD prio 0) % 8192
  s.admin.queues.all fun x => x.num == q.num || match s.consumable x false with
    | some p => p < prio || (p == prio && order q.num < order x.num)
    | none => true

/-- The wait words of a record that is not consumable are read again; a page of one that the host has not granted is asked
for (R378, R402). -/
def State.touchWaits (s : State) (q : Queue) (r : List Byte) : State :=
  [64, 80].foldl (fun s o => let a := fieldAt r o 8; if a = 0 ∨ a % 8 ≠ 0 then s else s.touch q.fn 4 a 8) s

/-- A queue without a record that can be read: where it has one, the walk that found none counts, its rejected entry logged once for each
content of the control block (R399, R402). -/
def State.unreadRecord (s : State) (q : Queue) : State :=
  let blk := s.queueBlock q
  let at' := recordAt blk (blkRead blk)
  if !blkEnable blk || blkOverrun blk || blkWrite blk ≤ blkRead blk then (if q.reported.isEmpty then s else s.setQueue { q with reported := [] })
  else if s.pageFault q.fn at' 128 false then s.touch q.fn 4 at' 128
  else if q.reported = blk then s
  else (s.touch q.fn 4 at' 128).setQueue { q with reported := blk }

/-- LAUNCH_RECORD_CONSUME (R373): queue a's next record is consumed, where its conditions hold and it is its turn; flag:
fault service on its wait word has failed. While a wipe is not complete every queue is disabled (R436). A malformed control
block is logged once for each content of it (R372). -/
def execLaunchRecordConsume (s : State) : Out :=
  match s.queue? s.args.a with
  | none => .next s
  | some q =>
    let blk := s.queueBlock q
    if s.admin.wiping then .next s
    else if !queueBlockOk blk then
      .next (if q.reported = blk then s else ((s.log q.fn 0x16 q.cb 0 0 3 0 0).1).setQueue { q with reported := blk })
    else match s.nextRecord q with
      | none => .next (s.unreadRecord q)
      | some (seq, r) =>
        let q0 := { q with reported := [] }
        let s0 := if q.reported.isEmpty then s else s.setQueue q0
        match s0.consumable q0 s0.args.flag with
        | none => .next (s0.touchWaits q0 r)
        | some p =>
          if !s0.queueFirst q0 p then .next s0
          else
            let s1 := (s0.touch q.fn 4 (recordAt blk seq) 128).consume q0 seq r s0.args.flag
            .next { s1 with admin := { s1.admin with queueTurns := s1.admin.queueTurns.set p ((q.num + 1) % 8192) } }

/-! ### Freeing (R246, R247) -/

/-- Every warp of a block has exited. -/
def State.allGone (s : State) (b : Block) : Bool := s.warps.all fun w => !b.warps.contains w.uid || w.gone

/-- The conditions of R246 for freeing a block. -/
def State.freeable (s : State) (b : Block) : Bool :=
  !b.freed && b.preempt != .taken && s.allGone b && !(s.warps.any fun w => b.warps.contains w.uid && w.someAway) &&
    b.copyDone == b.copyIssued && b.pending.1 == b.pending.2 &&
    (b.mctx.all fun x => x.done + 1 == x.open') && !(s.copies.any (·.block == b.uid))

/-- Freed allocations leave the machine, and the launch counts them. -/
def State.removeBlocks (s : State) (bs : List Block) : State :=
  let us := bs.map (·.uid)
  bs.foldl (fun s b => s.modLaunch b.launch fun l => { l with freed := l.freed + 1 })
    { s with blocks := s.blocks.filter fun b => !us.contains b.uid }

/-- BLOCK_FREE (R246, R247): block a's open batches that hold a command are closed once its last warp has exited; it is freed where the
conditions hold, in a group with its allocation kept until every block of the group meets them. -/
def execBlockFree (s : State) : Out :=
  match s.block? s.args.a with
  | none => .next s
  | some b =>
    let open' (x : MatCtx) : Bool := x.cmds.any fun c => c.batch == x.open'
    if s.allGone b && b.mctx.any open' then
      .next (s.modBlock b.uid fun b => { b with mctx := b.mctx.map fun x => if open' x then x.close else x })
    else if !s.freeable b then .next s
    else
      let s1 := s.modBlock b.uid fun b => { b with freed := true, spare := [], mctx := [], ring := none, counters := [] }
      let s2 : State := { s1 with warps := s1.warps.filter fun w => !b.warps.contains w.uid && !b.dense.contains w.uid }
      let group := s2.blocks.filter fun x => b.members.contains x.uid
      .next ((if group.all (·.freed) then s2.removeBlocks group else s2).growGrants b.core 96)

/-! ### Completion (R381, R382, R439) -/

/-- Whether a launch can complete (R381). -/
def State.completable (s : State) (l : Launch) : Bool :=
  !l.complete && (l.cancelled || l.next == l.grid) && l.freed == l.next && !(s.blocks.any (·.launch == l.uid)) &&
    l.sill.done == l.sill.issued && l.bank.done == l.bank.issued

/-- COUNT of each identifier that a completed launch names rises by one (R382). -/
def State.countIds (s : State) (q : Queue) (r : List Byte) : State :=
  (recordIds r).foldl (fun s x =>
    match s.idEntry q x.1 x.2 with
    | some e => match s.reachN q.fn 4 ((e.1 + 8) % 2 ^ 64) 8 true with
      | .ok (s1, ls) => s1.land (List.zip ls (leBytes 8 ((fieldAt e.2 8 8 + 1) % 2 ^ 64))) none
      | .error _ => s.touch q.fn 4 ((e.1 + 8) % 2 ^ 64) 8 true
    | none => s) s

/-- DONE passes every completed launch of a queue in order (R381); fuel bounds them. -/
def State.passDone (s : State) (q : Queue) : Nat → State
  | 0 => s
  | fuel + 1 =>
    let n := blkDone (s.queueBlock q)
    match s.launches.find? fun l => l.queue == q.num && l.fn == q.fn && l.seq == n && l.complete with
    | none => s
    | some l =>
      let s1 : State := { s with launches := s.launches.filter (·.uid != l.uid) }
      (s1.landNum (.dev (q.cb + 32)) 8 ((n + 1) % 2 ^ 64) none).passDone q fuel

/-- The islands that a launch balanced return to 2.4 GHz (R439); where a power limit acts, that is the clock that it gives
them back (R437). -/
def Admin.resetClocks (a : Admin) (l : Launch) : Admin :=
  let mine (i : Nat) : Bool := l.balance && l.ranks.any (·.1 == i)
  { a with clusters := a.clusters.zipIdx.map (fun x => if mine x.2 then (if a.limiting then min x.1 2400 else 2400) else x.1),
           before := a.before.zipIdx.map fun x => if mine x.2 then 2400 else x.1 }

/-- LAUNCH_COMPLETE (R381): STATUS of launch a, its identifiers' counts and DONE are written; the islands that it balanced return to 2.4 GHz
(R439). -/
def execLaunchComplete (s : State) : Out :=
  match s.launch? s.args.a with
  | none => .next s
  | some l =>
    if !s.completable l then .next s
    else
      let st := l.status.getD 0
      let s0 := s.setLaunch { l with complete := true, status := some st }
      let s1 : State := { s0 with admin := s0.admin.resetClocks l }
      match s1.queue? l.queue with
      | none => .next { s1 with launches := s1.launches.filter (·.uid != l.uid) }
      | some q =>
        let blk := s1.queueBlock q
        let s2 := s1.putVa q.fn 4 ((recordAt blk l.seq + 120) % 2 ^ 64) (leBytes 4 st)
        .next ((s2.countIds q l.record).passDone q (s2.launches.length + 1))

/-! ### Cancellation (R383) -/

/-- A running launch is cancelled (R383): its status is 3, whatever error it met before; no further block, contexts
cancelled, and engine work ends as failed; its warps end at their clause boundaries and its copies at their unit boundaries.
-/
def State.cancelLaunch (s : State) (u : Nat) : State :=
  match s.launch? u with
  | none => s
  | some l =>
    let s1 := s.setLaunch { l with cancelled := true, status := some 3 }
    let s2 := (s1.blocks.filter (·.launch == u)).foldl (fun s b =>
      (List.range b.mctx.length).foldl (fun s n => (s.dropFollows b.uid n).modCtx b.uid n MatCtx.cancel) s) s1
    { s2 with
      dispatches := s2.dispatches.map fun (d : Dispatch) => if d.launch = u ∧ d.failed.isNone ∧ !d.done then { d with failed := some (0, 0) } else d,
      bankops := s2.bankops.map fun (b : BankOp) => if b.launch = u ∧ !b.done then { b with status := if b.status = 0 then 1 else b.status } else b }

/-- The launches of a queue that an identifier names at a level (R383). -/
def State.namedLaunches (s : State) (q : Queue) (level ident : Nat) : List Launch :=
  s.launches.filter fun l => l.queue == q.num && l.fn == q.fn && !l.complete &&
    (if level = 0 then l.seq == ident else (recordIds l.record).contains (level, ident))

/-- CANCEL's effect (R208, R383): none where no such identifier is live. -/
def State.cancelIdent (s : State) (q : Queue) (level ident : Nat) : Option State :=
  let blk := s.queueBlock q
  if level = 0 then
    if ident < blkDone blk ∨ blkWrite blk ≤ ident then none
    else
      let s1 := if blkRead blk ≤ ident then s.setQueue { q with cancelled := q.cancelled.filter (· != ident) ++ [ident] } else s
      some ((s1.namedLaunches q 0 ident).foldl (fun s l => s.cancelLaunch l.uid) s1)
  else
    match if ident < 2 ^ 32 then s.idEntry q level ident else none with
    | none => none
    | some e =>
      if bitAt (fieldAt e.2 5 1) 0 then none
      else match s.translateN q.fn ((e.1 + 5) % 2 ^ 64) 1 true with
        | .error _ => none
        | .ok (s1, ls) =>
          let s2 := s1.land (List.zip ls (leBytes 1 (fieldAt e.2 5 1 + 1))) none
          some ((s2.namedLaunches q level ident).foldl (fun s l => s.cancelLaunch l.uid) s2)

end Sys2Proof.Machine
end

