-- ==== Sys2Proof/Machine/Heddle.lean ====
section
/-! DEFINITION. Heddle links (R413, R416, R417, R424): flits and their CRC, ports with their replay buffers, the routes to
other devices, and the credits of remote mailboxes. -/

namespace Sys2Proof.Machine

/-! ### Flits (R416) -/

/-- Bytes 0 to 247 of a flit. -/
def flitBody (seq ack : BitVec 16) (cls : BitVec 4) (credits : BitVec 24) (payload : List Byte) : List Byte :=
  leBytes 2 seq.toNat ++ leBytes 2 ack.toNat ++ leBytes 1 cls.toNat ++ leBytes 3 credits.toNat ++ padTo 240 (payload.take 240)

/-- Bytes 0 to 247 of a flit that has been received. -/
def bodyOf (f : Flit) : List Byte := flitBody f.seq f.ack f.cls f.credits f.payload

/-- A flit's 256 bytes. -/
def flitBytes (f : Flit) : List Byte := bodyOf f ++ leBytes 8 f.crc.toNat

/-- Whether a flit passes its CRC, whose polynomial the spec leaves open (log 67). -/
def flitIntact (f : Flit) : Bool := f.crc == Config.crc64 (bodyOf f)

/-! ### Ports (R416, R424, R427) -/

/-- Whether a port is up: 4 of its lanes work (R424). -/
def Port.up (p : Port) : Bool := 4 ≤ p.lanes

/-- A flit leaves through a port: it is kept for replay, and acknowledges the last flit accepted of the other direction (log 67). -/
def Port.send (p : Port) (cls : BitVec 4) (credits : BitVec 24) (payload : List Byte) : Port :=
  let f : Flit := { seq := p.sent, ack := p.expect - 1, cls := cls, credits := credits, payload := payload,
                    crc := Config.crc64 (flitBody p.sent (p.expect - 1) cls credits payload) }
  { p with sent := p.sent + 1, unacked := p.unacked ++ [f], line := p.line ++ [f] }

/-- A flit as a port takes it (R416): one that fails its CRC is discarded with every later one until the sender replays it;
one accepted before is discarded; the next in order is accepted, and acknowledged flits leave the replay buffer. -/
def Port.receive (p : Port) (f : Flit) : Port :=
  if !flitIntact f then { p with replay := true }
  else
    let p1 := match p.unacked.findIdx? (·.seq == f.ack) with
      | some i => { p with unacked := p.unacked.drop (i + 1) }
      | none => p
    if f.seq = p.expect then { p1 with expect := p.expect + 1, replay := false, accepted := p.accepted ++ [(f.cls, f.payload)] } else p1

/-- The flits from a sequence number on are sent again (R416). -/
def Port.resend (p : Port) (seq : BitVec 16) : Port :=
  match p.unacked.findIdx? (·.seq == seq) with
  | some i => { p with line := p.line ++ p.unacked.drop i }
  | none => p

/-- A port changed. -/
def State.setPort (s : State) (n : Nat) (p : Port) : State := { s with admin := { s.admin with ports := s.admin.ports.set n p } }

/-- A flit leaves through a heddle port that is up and keeps fewer than 256 unacknowledged ones (R416). -/
def State.sendFlit (s : State) (n : Nat) (cls : BitVec 4) (credits : BitVec 24) (payload : List Byte) : Option State :=
  match s.admin.ports[n]? with
  | none => none
  | some p => if !p.up || 256 ≤ p.unacked.length then none else some (s.setPort n (p.send cls credits payload))

/-- The port that the routing table gives for a device (R417). -/
def State.route (s : State) (device : Nat) : Option Nat := (s.admin.routes.find? (·.1 == device)).map (·.2)

/-- A port that has gone down (R424): the routes through it go to the lowest port that is up, and the flits that were not
acknowledged are sent there, in order (DESIGN CHOICE, log 67). -/
def State.reroute (s : State) (n : Nat) : State :=
  match s.admin.ports[n]?, s.admin.ports.findIdx? Port.up with
  | some p, some k =>
    let s1 : State := { s with admin := { s.admin with routes := s.admin.routes.map fun (r : Nat × Nat) => if r.2 = n then (r.1, k) else r } }
    (p.unacked.foldl (fun (s : State) (f : Flit) => (s.sendFlit k f.cls f.credits f.payload).getD s) s1).setPort n { p with unacked := [] }
  | _, _ => s

/-! ### Messages and credits of other devices (R413) -/

/-- The credits of a mailbox that an entry of the list counts. -/
def creditOf (l : List Credit) (device : Nat) (endpoint : Dword) : Option Credit := l.find? fun x => x.device == device && x.endpoint == endpoint

/-- A list of credits with one mailbox's count changed. -/
def setCredit (l : List Credit) (x : Credit) : List Credit := l.filter (fun y => !(y.device == x.device && y.endpoint == x.endpoint)) ++ [x]

/-- The credits that this device holds of a mailbox of another. -/
def State.credits (s : State) (device : Nat) (endpoint : Dword) : Nat :=
  ((creditOf s.admin.credits device endpoint).map (·.count)).getD (Config.credits device endpoint)

/-- That count changed. -/
def State.setCredits (s : State) (device : Nat) (endpoint : Dword) (n : Nat) : State :=
  { s with admin := { s.admin with credits := setCredit s.admin.credits { device := device, endpoint := endpoint, count := n } } }

/-- Payload of the control flit that returns credits (DESIGN CHOICE, log 67): the mailbox, and the device that has it. -/
def creditPayload (device : Nat) (endpoint : Dword) : List Byte := leBytes 8 endpoint.toNat ++ leBytes 2 device

/-- Credits that are owed to other devices are returned, as far as their ports take the flits (R413). -/
def State.payCredits (s : State) : State :=
  s.admin.owed.foldl (fun s x =>
    match (s.route x.device).bind fun n => s.sendFlit n 0 (BitVec.ofNat 24 x.count) (creditPayload s.admin.device x.endpoint) with
    | some s1 => { s1 with admin := { s1.admin with owed := s1.admin.owed.erase x } }
    | none => s) s

/-- HEAD has passed a slot that a message of a device took: its credit returns (R413). -/
def State.returnCredit (s : State) (device : Nat) (endpoint : Dword) : State :=
  if device = s.admin.device then s
  else
    let n := ((creditOf s.admin.owed device endpoint).map (·.count)).getD 0
    ({ s with admin := { s.admin with owed := setCredit s.admin.owed { device := device, endpoint := endpoint, count := n + 1 } } }).payCredits

/-- A slot's bytes (R413). -/
def slotBytes (m : Message) : List Byte :=
  (m.words.flatMap fun w => leBytes 4 w.toNat) ++ leBytes 1 m.count ++ List.replicate 7 0 ++ leBytes 8 m.sender.toNat ++ leBytes 2 m.source ++
    List.replicate 14 0

/-- Payload of a message flit (DESIGN CHOICE, log 67): the mailbox, the slot's bytes, and the device that has it. -/
def messagePayload (m : Message) : List Byte := leBytes 8 m.endpoint.toNat ++ slotBytes m ++ leBytes 2 m.device

/-- The message that a flit of another device carries. -/
def readMessage (p : List Byte) : Message :=
  let slot := p.drop 8
  { fn := 0, host := false, device := fieldAt p 72 2, endpoint := dword (fieldAt p 0 8), words := (List.range 8).map fun i => word (fieldAt slot (4 * i) 4),
    count := fieldAt slot 32 1 % 16, sender := dword (fieldAt slot 40 8), source := fieldAt slot 48 2, warp := 0 }

/-- What an accepted flit does (R413, R416, R417): a control flit brings credits back, a message goes on to its mailbox or,
of another device, through the port that the routing table gives. The other classes carry the traffic of peers (log 19). -/
def State.takeFlit (s : State) (f : Flit) : State :=
  if f.cls = 0 then
    let device := fieldAt f.payload 8 2
    let at' := dword (fieldAt f.payload 0 8)
    if f.credits = 0 then s else s.setCredits device at' (s.credits device at' + f.credits.toNat)
  else if f.cls = 2 then { s with msgs := s.msgs ++ [readMessage f.payload] }
  else s

/-- FLIT_RECEIVE (R416): the flit of load arrives at port a; with flag the peer asks for a replay from sequence number value. -/
def execFlitReceive (s : State) : Out :=
  match s.admin.ports[s.args.a]? with
  | none => .next s
  | some p =>
    if s.args.flag then .next (s.setPort s.args.a (p.resend (BitVec.ofNat 16 s.args.value.toNat)))
    else match s.args.load with
      | .flit f =>
        let s1 := s.setPort s.args.a (p.receive f)
        .next ((if flitIntact f && f.seq == p.expect then s1.takeFlit f else s1).payCredits)
      | _ => .next s

end Sys2Proof.Machine
end

