-- ==== Sys2Proof/Machine/Channel.lean ====
section
/-! DEFINITION. Capabilities, messages, child launches, sill dispatches, bank operations and service calls (R201 to R211,
R216, R318, R333, R413). -/

namespace Sys2Proof.Machine

/-! ### Capabilities (R201, R202) -/

/-- A capability entry as an instruction found it: the state after its translation, its bytes, whether they are poisoned, the
access that read it, and that of ALLOW where a use counts. -/
structure Cap where
  st : State
  bytes : List Byte
  poisoned : Bool
  acc : Acc
  allow : Option Acc
  deriving DecidableEq, Repr

/-- Fields of an entry (R201). -/
def Cap.kind (x : Cap) : Nat := bitsAt (fieldAt x.bytes 0 4) 3 1
def Cap.left (x : Cap) : Nat := fieldAt x.bytes 4 4
def Cap.addr (x : Cap) : Nat := fieldAt x.bytes 8 8
def Cap.param (x : Cap) : Nat := fieldAt x.bytes 16 8
def Cap.stack (x : Cap) : Nat := bitsAt x.param 3 0
def Cap.pch (x : Cap) : Nat := bitsAt x.param 9 4

/-- The launch whose capability table an agent uses: its own, or that of a wavefront's dispatch (R204). -/
def Ctx.capLaunch (c : Ctx) : Option Launch :=
  match c.w.wave with
  | some v => (c.st.dispatch? v.dispatch).bind fun d => c.st.launch? d.launch
  | none => c.launch?

/-- The capability fault (R202). -/
def capTrap (idx reason : Nat) : Act := .trap 0xE (word (idx % 256 + 256 * reason))

/-- What stops an access to the table (R201, R268, R329): it waits for a pseudo-channel or a page, or it conflicts. -/
def Ctx.tableStop (c : Ctx) (write strong : Bool) (s : State) (a : Acc) : Option Act :=
  let c1 : Ctx := { c with st := s }
  match s.bankWait c.w.uid c.sp.queued [a], s.pageBehind c.sp.queued with
  | some p, _ => some (.wait (c1.queueFor c.sp.asks (.pch p.1 p.2)) (.wait (.stripe p.1 p.2)))
  | none, some page => some (.wait (c1.keep c.sp.asks) (.wait (.migrating (dword page))))
  | none, none =>
    match s.conflictOf (s.agentOf c.w) write [a] with
    | some x => some (c1.conflictTrap x write strong)
    | none => if strong then (s.mixedOf (s.agentOf c.w) write [a]).map fun x => c1.mixedTrap x write else none

/-- Entry idx as it stands (R201, R206): only an index beyond the table faults. -/
def Ctx.capRead (c : Ctx) (idx : Nat) : Except Act Cap :=
  match c.capLaunch with
  | none => .error (capTrap idx 4)
  | some l =>
    if l.capCount ≤ idx then .error (capTrap idx 4)
    else match c.linear false false false 32 c.st c.uniLane ((l.capTab + 32 * idx) % 2 ^ 64) with
      | .error e => .error (e.act c)
      | .ok (s, a) =>
        match c.tableStop false false s a with
        | some x => .error x
        | none => .ok { st := s, bytes := s.readLocs a.locs, poisoned := s.poisoned a.locs, acc := a, allow := none }

/-- Entry idx, checked for a use that needs a permission bit and a kind (R202); spends: the use consumes allowance, by a strong access for
which the word has to be writable. -/
def Ctx.cap (c : Ctx) (idx perm : Nat) (suits : Cap → Bool) (spends : Bool) : Except Act Cap :=
  match c.capRead idx with
  | .error a => .error a
  | .ok x =>
    let w0 := fieldAt x.bytes 0 4
    if !bitAt w0 0 then .error (capTrap idx 1)
    else if !bitAt w0 (8 + perm) then .error (capTrap idx 2)
    else if !suits x || ((x.kind == 3 || x.kind == 4) && 12 ≤ x.stack) then .error (capTrap idx 3)
    else if !spends || x.left = 0 || x.left = 0xFFFFFFFF then .ok x
    else
      let va := (((c.capLaunch).map (·.capTab)).getD 0 + 32 * idx + 4) % 2 ^ 64
      match c.linear true false false 4 x.st c.uniLane va with
      | .error e => .error (e.act c)
      | .ok (s, a) =>
        match c.tableStop true true s a with
        | some y => .error y
        | none => .ok { x with st := s, allow := some a }

/-- ALLOW decremented by n in the table (R201), a strong access (R258). -/
def State.spend (s : State) (c : Ctx) (x : Cap) (n : Nat) : State :=
  match x.allow with
  | none => s
  | some a => if n = 0 then s else (s.land (List.zip a.locs (leBytes 4 (x.left - n))) c.w.writer).addStrongs c.w true [a]

/-- An agent's context in another state. -/
def Ctx.within (c : Ctx) (s : State) : Ctx := { c with st := s }

/-- Scalar writes of what a load of poisoned bytes brings (R419). -/
def poisonAll (poisoned : Bool) (ws : List LaneWrite) : List LaneWrite := if poisoned then ws.map fun x => { x with poison := 1 } else ws

/-- CAPRD (R206): a plain read of the table, with the poison of its bytes (R258, R419). -/
def execCaprd (o : X) (s : State) : Out :=
  issue 0xD3 s (fun _ => [sdst o.x 8, ssrc o.y 1]) noCheck fun c =>
    match c.capRead (c.s o.y.toNat).toNat with
    | .error a => a
    | .ok x =>
      .done (x.st.addRecords c.w false [x.acc])
        (poisonAll x.poisoned ((List.range 8).flatMap fun j => swrite (o.x.toNat + j) (fieldAt x.bytes (4 * j) 4))) 0

/-! ### Messages (R204, R205, R413) -/

/-- The place of an endpoint's control block. -/
def endpoint (host : Bool) (a : Nat) : Loc := if host then .host a else .dev a

/-- Free slots of an endpoint, messages on their way counted. -/
def State.freeSlots (s : State) (host : Bool) (addr : Nat) : Int :=
  let blk := s.readLocs ((endpoint host addr).span 64)
  let moving := s.msgs.countP fun m => m.host == host && m.endpoint.toNat == addr && (host || m.device == s.admin.device)
  (fieldAt blk 8 4 : Int) - ((fieldAt blk 16 8 : Int) - (fieldAt blk 24 8 : Int)) - (moving : Int)

/-- Whether an endpoint has no free slot: of another device, the credits that this one holds decide (R413). -/
def State.endpointFull (s : State) (host : Bool) (device addr : Nat) : Bool :=
  if host || device == s.admin.device then s.freeSlots host addr ≤ 0 else s.credits device (dword addr) == 0

/-- A message leaves for its endpoint; one for another device takes a credit (R413). -/
def State.post (s : State) (c : Ctx) (x : Cap) (words : List Word) (count : Nat) : State :=
  let m : Message :=
    { fn := c.fn, host := x.kind == 0, device := x.param % 65536, endpoint := dword x.addr, words := (List.range 8).map fun i => words.getD i 0,
      count := count, sender := dword (s.wordOf c.w), source := s.admin.device, warp := (c.w.guest.map (·.home)).getD c.w.uid }
  let s1 : State := { s with msgs := s.msgs ++ [m] }
  if m.host || m.device == s.admin.device then s1 else s1.setCredits m.device m.endpoint (s.credits m.device m.endpoint - 1)

/-- SEND (R204): for an away lane once where the lane is active. -/
def execSend (o : X) (s : State) : Out :=
  let n := o.imm.toNat % 8 + 1
  issue 0xD1 s (fun _ => [sdst o.x 1, ssrc o.y 1, ssrc o.z 8]) noCheck fun c =>
    if c.guest && c.act == 0 then .done c.st [] 0
    else match c.cap (c.s o.y.toNat).toNat 0 (fun x => x.kind == 0 || x.kind == 2) true with
      | .error a => a
      | .ok x =>
        let s1 := (c.within x.st).fenced
        if x.left = 0 then .done s1 (swrite o.x.toNat 1) 0
        else if s1.endpointFull (x.kind == 0) (x.param % 65536) x.addr then .done s1 (swrite o.x.toNat 2) 0
        else .done ((s1.post c x ((List.range n).map fun i => c.s (o.z.toNat + i)) n).spend c x 1) (swrite o.x.toNat 0) 0

/-- RECV (R205): the oldest unread message of a local mailbox, with the poison of its slot (R419); the blocking form waits
for one. A message of another device gives its credit back (R413). -/
def execRecv (o : X) (s : State) : Out :=
  issue 0xD2 s (fun _ => [sdst o.x 1, ssrc o.y 1, sdst o.z 8]) noCheck fun c =>
    match c.cap (c.s o.y.toNat).toNat 1 (fun x => x.kind == 2 && x.param % 65536 == c.st.admin.device) false with
    | .error a => a
    | .ok x =>
      let s1 := (c.within x.st).fenced
      let blk := s1.readLocs ((Loc.dev x.addr).span 64)
      let head := fieldAt blk 24 8
      if fieldAt blk 16 8 ≤ head then
        (if bitAt o.imm.toNat 0 then .wait s1 (.wait (.recv (dword x.addr))) else .done s1 (swrite o.x.toNat 0) 0)
      else
        let ls := (Loc.dev (fieldAt blk 0 8 + 64 * (head % fieldAt blk 8 4))).span 64
        let m := s1.readLocs ls
        .done ((s1.landNum (.dev (x.addr + 24)) 8 (head + 1) c.w.writer).returnCredit (fieldAt m 48 2) (dword x.addr))
          (poisonAll (s1.poisoned ls) (swrite o.x.toNat (fieldAt m 32 1 % 16) ++ (List.range 8).flatMap fun j =>
            swrite (o.z.toNat + j) (fieldAt m (4 * j) 4))) 0

/-- MESSAGE_DELIVERY (R204, R413, R416, R417): message a is delivered where no earlier one of its warp, or of its device,
goes to its endpoint and a slot is free; one for another device leaves this one through the port that Aderic's routing table
names. -/
def execMessageDelivery (s : State) : Out :=
  match s.msgs[s.args.a]? with
  | none => .next s
  | some m =>
    let s1 : State := { s with msgs := s.msgs.eraseIdx s.args.a }
    let earlier := (s.msgs.take s.args.a).any fun x => x.source == m.source && x.warp == m.warp && x.endpoint == m.endpoint &&
      x.host == m.host && x.device == m.device
    let local' := m.host || m.device == s.admin.device
    if earlier || (local' && s1.freeSlots m.host m.endpoint.toNat ≤ 0) then .next s
    else if !local' then .next (((s.route m.device).bind fun n => s1.sendFlit n 2 0 (messagePayload m)).getD s)
    else
      let at0 := endpoint m.host m.endpoint.toNat
      let blk := s1.readLocs (at0.span 64)
      let tail := fieldAt blk 16 8
      let slot := endpoint m.host (fieldAt blk 0 8 + 64 * (tail % fieldAt blk 8 4))
      let s2 := (s1.land (List.zip (slot.span 64) (slotBytes m)) none).landNum (at0.add 16) 8 ((tail + 1) % 2 ^ 64) none
      let int := fieldAt blk 12 4
      .next (if m.host && bitAt int 31 then s2.interrupt m.fn (int % 2048) else s2)

/-! ### Child launches (R207, R208) -/

/-- Child records enqueued in the queue of an entry, as far as allowance and room go; the numbers taken. -/
def Ctx.children (c : Ctx) (s : State) (x : Cap) (records : List (List Byte)) : State × List Nat :=
  match s.queue? (x.param % 8192) with
  | none => (s, [])
  | some q =>
    let n := if x.left = 0xFFFFFFFF then records.length else min x.left records.length
    let r := s.enqueue q (records.take n)
    (r.1.spend c x r.2.length, r.2)

/-- The number that a child which was not enqueued gets (R207). -/
def noChild : Nat := 2 ^ 64 - 1

/-- LAUNCH (R207, R248). -/
def execLaunch (o : X) (s : State) : Out :=
  issue 0xD4 s (fun _ => [vdst o.x 2, ssrc o.y 1, vsrc o.z 0 false 2]) noCheck fun c =>
    match c.cap (c.s o.y.toNat).toNat 2 (fun x => x.kind == 1) true with
    | .error a => a
    | .ok x =>
      (c.within x.st).access { write := false, ends := true } (lanesOf c.act) (fun _ => none)
        (fun s i => c.linear false true false 128 s i (c.val true o.z.toNat i)) fun s as =>
        let r := c.children (s.completeOps c.w.uid (·.memory)) x (as.map fun a => s.readLocs a.locs)
        (r.1, laneWrites o.x.toNat 2 (as.zipIdx.map fun p => (p.1.lane, r.2.getD p.2 noChild, false)), 0)

/-- LAUNCHU (R207): one child from the chosen lane's record; with no chosen lane it does nothing. -/
def execLaunchu (o : X) (s : State) : Out :=
  issue 0xD5 s (fun _ => [vdst o.x 2, ssrc o.y 1, vsrc o.z 0 false 2]) noCheck fun c =>
    if c.act = 0 then .done c.st [] 0
    else match c.cap (c.s o.y.toNat).toNat 2 (fun x => x.kind == 1) true with
      | .error a => a
      | .ok x =>
        (c.within x.st).access { write := false, ends := true } [lowLane c.act] (fun _ => none)
          (fun s i => c.linear false true false 128 s i (c.val true o.z.toNat i)) fun s as =>
          let r := c.children (s.completeOps c.w.uid (·.memory)) x (as.map fun a => s.readLocs a.locs)
          (r.1, vwrite o.x.toNat true c.act fun _ => r.2.headD noChild, 0)

/-- CANCEL (R208, R383). -/
def execCancel (o : X) (s : State) : Out :=
  issue 0xD6 s (fun _ => [sdst o.x 1, ssrc o.y 2, ssrc o.z 1]) noCheck fun c =>
    match c.cap (c.s o.z.toNat).toNat 5 (fun x => x.kind == 1) false with
    | .error a => a
    | .ok x =>
      let s1 := (c.within x.st).fenced
      match (s1.queue? (x.param % 8192)).bind fun q => s1.cancelIdent q (o.imm.toNat % 4) (c.s2 o.y.toNat) with
      | some s2 => .done s2 (swrite o.x.toNat 0) 0
      | none => .done s1 (swrite o.x.toNat 1) 0

/-! ### Sill dispatches (R209, R318) -/

/-- Whether a logical pseudo-channel is missing (R218, R426). -/
def State.pchMissing (s : State) (stack idx : Nat) : Bool := 62 ≤ idx || (s.pch stack idx).missing

/-- A malformed dispatch record (R209), over its first 56 bytes. -/
def dispatchBad (r : List Byte) : Bool :=
  fieldAt r 0 8 % 32 != 0 || fieldAt r 8 2 == 0 || 128 < fieldAt r 8 2 || 8 < fieldAt r 10 2 || 128 ≤ fieldAt r 12 4 || fieldAt r 48 8 % 8 != 0

/-- The pseudo-channel that a record names. -/
def dispatchPch (r : List Byte) : Option Nat := if bitAt (fieldAt r 12 4) 6 then some (bitsAt (fieldAt r 12 4) 5 0) else none

/-- A record that names a missing pseudo-channel. -/
def State.dispatchMissing (s : State) (stack : Nat) (r : List Byte) : Bool := (dispatchPch r).any fun p => s.pchMissing stack p

/-- The control block of a function's ring at a stack (R315, R316); none where it has none, or where the stack lies in another partition
(R404). -/
def State.ringBlock (s : State) (stack fn : Nat) : Option (Nat × List Byte) :=
  match (s.frontEnds[stack]?).bind fun f => f.rings.find? (·.1 == fn) with
  | none => none
  | some r => if r.2 = 0 ∨ !s.stackIn fn stack then none else some (r.2, s.readLocs ((Loc.dev r.2).span 64))

/-- Whether a ring's control block is within its limits (R316). -/
def ringBlockOk (blk : List Byte) : Bool :=
  fieldAt blk 0 8 % 4096 == 0 && (List.range 13).any fun i => 4 ≤ i && 2 ^ i == fieldAt blk 8 4

/-- Where entry i of a ring lies (R317). -/
def ringEntry (blk : List Byte) (i : Nat) : Nat := (fieldAt blk 0 8 + 64 * (i % fieldAt blk 8 4)) % 2 ^ 64

/-- A record produced into a ring from a die (R318): the state after it, and the claimed index where the ring has room. -/
def State.produce (s : State) (die stack fn : Nat) (r : List Byte) : State × Option Nat :=
  match s.ringBlock stack fn with
  | none => (s, none)
  | some (cb, blk) =>
    let i := fieldAt blk 16 8
    if !ringBlockOk blk || fieldAt blk 8 4 ≤ (i + 2 ^ 64 - fieldAt blk 24 8) % 2 ^ 64 then (s, none)
    else match s.reachN fn die (ringEntry blk i) 64 true with
      | .error _ => (s.touch fn die (ringEntry blk i) 64 true, none)
      | .ok (s1, ls) =>
        ((s1.perform (List.zip ls (r.take 56 ++ leBytes 4 i ++ leBytes 4 (2 ^ 31)))).landNum (.dev (cb + 16)) 8 ((i + 1) % 2 ^ 64) none, some i)

/-- The 64-byte record of a STKDISP or BANKOP in the scratchpad (R136, R209, R211): 8-byte aligned, whole in the group's allocations. -/
def Ctx.recordAcc (c : Ctx) (b : Block) (off : Nat) (s : State) (lane : Nat) : Except AFault (State × Acc) :=
  match c.scratch 8 s lane off with
  | .error e => .error e
  | .ok (s1, _) =>
    match s1.rangeBad b off 64 with
    | some r => .error (.trap 0xB (reasonInfo lane r))
    | none => .ok (s1, { lane := lane, va := off, locs := (List.range 64).flatMap fun i => s1.scrLoc b (off + i) })

/-- STKDISP waits for the pseudo-channel in which the ring entry that it would claim lies (R329). -/
def Ctx.ringWait (c : Ctx) (stack : Nat) : Option Act :=
  (c.st.ringBlock stack c.fn).bind fun x =>
    let va := ringEntry x.2 (fieldAt x.2 16 8)
    match c.st.reachN c.fn c.w.die va 64 true with
    | .ok (s1, ls) => (s1.bankWait c.w.uid c.sp.queued [{ lane := 0, va := va, locs := ls }]).map fun p =>
        .wait (c.queueFor c.sp.asks (.pch p.1 p.2)) (.wait (.stripe p.1 p.2))
    | .error _ => none

/-- STKDISP (R209, R318). -/
def execStkdisp (o : X) (s : State) : Out :=
  let answer (st num : Nat) : List LaneWrite := swrite o.x.toNat st ++ swrite (o.x.toNat + 1) num
  issue 0xDC s (fun _ => [sdst o.x 2, ssrc o.y 1, ssrc o.z 1]) noCheck fun c =>
    match c.cap (c.s o.y.toNat).toNat 3 (fun x => x.kind == 3) true, c.block?, c.launch? with
    | .error a, _, _ => a
    | .ok x, some b, some l =>
      match (c.within x.st).ringWait x.stack with
      | some a => a
      | none =>
      (c.within x.st).access { write := false, ends := true } [c.uniLane] (fun _ => none) (c.recordAcc b (c.s o.z.toNat).toNat) fun s as =>
        let s1 := s.completeOps c.w.uid (·.memory)
        let rec' := s1.readLocs (as.flatMap (·.locs))
        if dispatchBad rec' || fieldAt rec' 56 8 != 0 then (s1, answer 4 0, 0)
        else if s1.dispatchMissing x.stack rec' then (s1, answer 2 0, 0)
        else if x.left = 0 then (s1, answer 1 0, 0)
        else match s1.produce c.w.die x.stack c.fn rec' with
          | (s2, none) => (s2, answer 3 0, 0)
          | (s2, some i) =>
            let u := s2.fresh
            let d : Dispatch := { uid := u.1, stack := x.stack, fn := c.fn, launch := l.uid, block := b.uid, number := l.sill.issued + 1, record := rec',
                                  level := 1, started := 0, ended := 0, failed := none, done := false, entry := some i, saveAt := none,
                                    code := l.code, window := b.window }
            let s3 : State := { u.2 with dispatches := u.2.dispatches ++ [d] }
            ((s3.modLaunch l.uid fun l => { l with sill := { l.sill with issued := l.sill.issued + 1 } }).spend c x 1, answer 0
              (l.sill.issued + 1), 0)
    | .ok _, _, _ => .done c.st [] 0

/-! ### Bank operations (R211, R333) -/

/-- Fields of a descriptor (R211). -/
def opFirst (d : List Byte) : Nat := fieldAt d 4 4
def opRows (d : List Byte) : Nat := fieldAt d 8 4
def opK (d : List Byte) : Nat := fieldAt d 12 4
def opW (d : List Byte) : Nat := fieldAt d 16 8
def opX (d : List Byte) : Nat := fieldAt d 24 8
def opDst (d : List Byte) : Nat := fieldAt d 32 4

/-- The bank-striped allocation that an address of a function lies in. -/
def State.stripeAt (s : State) (fn va : Nat) : Option Stripe :=
  match s.translate fn va false with
  | .ok (_, .stripe k _) => s.stripes.find? (·.frame == k)
  | _ => none

/-- Status 3 of BANKOP (R211, R333). -/
def State.bankopBad (s : State) (fn : Nat) (d : List Byte) : Bool :=
  let shape := match s.stripeAt fn (opW d) with
    | some t => t.bytes < 2 * opK d || t.rows < opFirst d + opRows d
    | none => false
  (fieldAt d 0 4 != 1 && fieldAt d 0 4 != 2) || opRows d == 0 || 4096 < opRows d || opK d % 16 != 0 || opK d < 16 || 1024 < opK d ||
    opDst d % 64 != 0 || leNat (d.drop 36) != 0 || shape

/-- BANKOP (R211, R333): the walk for W counts (R398, R399); with no chosen lane it does nothing but write status 5 (R178);
an accepted operation waits for the pseudo-channel in arrival order. -/
def execBankop (o : X) (s : State) : Out :=
  let answer (st num : Nat) : List LaneWrite := swrite o.x.toNat st ++ swrite (o.x.toNat + 1) num
  issue 0xDB s (fun _ => [sdst o.x 2, ssrc o.y 1, vsrc o.z 0 false 1]) noCheck fun c =>
    if c.act = 0 then .done c.st (answer 5 0) 0
    else match c.cap (c.s o.y.toNat).toNat 4 (fun x => x.kind == 4) true, c.block?, c.launch? with
    | .error a, _, _ => a
    | .ok x, some b, some l =>
      let lane := lowLane c.act
      (c.within x.st).access { write := false, ends := true } [lane] (fun _ => none) (c.recordAcc b (c.lane o.z.toNat lane).toNat) fun s as =>
        let s0 := s.completeOps c.w.uid (·.memory)
        let d := s0.readLocs (as.flatMap (·.locs))
        let s1 := s0.touch c.fn c.w.die (opW d) 1
        if s1.bankopBad c.fn d then (s1, answer 3 0, 0)
        else if s1.pchMissing x.stack x.pch then (s1, answer 2 0, 0)
        else if !((s1.stripeAt c.fn (opW d)).any fun t => t.stack == x.stack && t.pch == x.pch) then (s1, answer 4 0, 0)
        else if x.left = 0 then (s1, answer 1 0, 0)
        else
          let u := s1.fresh
          let op : BankOp := { uid := u.1, launch := l.uid, block := b.uid, fn := c.fn, stack := x.stack, pch := x.pch, number := l.bank.issued + 1,
                               desc := d, rows := [], groups := 0, poisoned := [], ran := false, landed := 0, status := 0, done := false }
          let p := u.2.pch x.stack x.pch
          let s2 := ({ u.2 with bankops := u.2.bankops ++ [op] } : State).setPch { p with waiters := p.waiters ++ [u.1] }
          ((s2.modLaunch l.uid fun l => { l with bank := { l.bank with issued := l.bank.issued + 1 } }).spend c x 1, answer 0 (l.bank.issued + 1), 0)
    | .ok _, _, _ => .done c.st [] 0

/-! ### Service calls (R216) -/

/-- SVC (R216): the reply word is zeroed, a plain write (R258), the call is sent, and the split waits for the reply; with a
full queue it waits for a slot (R413). An away lane calls where it is active. -/
def execSvc (o : X) (s : State) : Out :=
  issue 0xDF s (fun _ => [sdst o.x 2, ssrc o.y 4, ssrc o.z 2]) noCheck fun c =>
    if c.guest && c.act == 0 then .done c.st [] 0
    else match c.cap 0 0 (fun x => x.kind == 0) false with
      | .error a => a
      | .ok x =>
        let va := c.s2 o.z.toNat
        let words := word (o.imm.toNat % 256) :: ((List.range 4).map fun i => c.s (o.y.toNat + i)) ++ [word va, word (va / 2 ^ 32)]
        let a := (c.within x.st).access { write := true, ends := true } [c.uniLane] (fun _ => none)
          (fun s i => c.linear true true false 8 s i va) fun s as =>
            let s1 := s.completeOps c.w.uid (·.memory)
            (s1.land (List.zip (as.flatMap (·.locs)) (leBytes 8 0)) c.w.writer, [], 0)
        match a with
        | .done s1 _ _ => if s1.endpointFull true 0 x.addr then .wait s1 (.wait (.svcSlot (dword x.addr))) else .wait
          (s1.post c x words 7) (.svc (dword va))
        | a => a

end Sys2Proof.Machine
end

