-- ==== Sys2Proof/Machine/Search.lean ====
section
/-! DEFINITION. Distances, top-k lists, and the migration query and request (R212 to R215). -/

namespace Sys2Proof.Machine

/-! ### DIST (R212) -/

/-- Elements of a candidate (R212). -/
def distDim (o : X) : Nat := 16 * 2 ^ bitsAt o.imm.toNat 2 0

/-- The element type of DIST (R212). -/
def distTy (o : X) : Ty := if bitAt o.imm.toNat 3 then .bf16 else .f16

/-- The 16-bit elements of a run of bytes. -/
def halves (n : Nat) (bs : List Byte) : List Nat := (List.range n).map fun i => fieldAt bs (2 * i) 2

/-- One term of a distance: q x c, or (q - c)^2 (R212). -/
def distTerm (l2 : Bool) (q c : Fp) : Fp × BitVec 8 :=
  if l2 then
    let d := fpAdd .rne q c.neg
    let p := fpMul d.1 d.1
    (p.1, d.2 ||| p.2)
  else fpMul q c

/-- Terms added exactly, from the first on. -/
def sumTerms (ts : List (Fp × BitVec 8)) : Fp × BitVec 8 :=
  match ts with
  | [] => (.fin false 0 0, 0)
  | t :: rest => rest.foldl (fun a x => let y := fpAdd .rne a.1 x.1; (y.1, a.2 ||| x.2 ||| y.2)) t

/-- The distance of a candidate from the query: the exact sum, rounded once to f32 with rne (R212). -/
def distance (l2 : Bool) (t : Ty) (q c : List Nat) : Res :=
  let s := sumTerms (List.zipWith (fun x y => distTerm l2 (t.fmt.unpack false x) (t.fmt.unpack false y)) q c)
  let y := Ty.f32.fmt.ofFp .rne false s.1
  (y.1, y.2 ||| s.2)

/-- The query's access (R136, R212): 4-byte aligned, whole in the scratchpad. -/
def Ctx.distQuery (c : Ctx) (o : X) (s : State) : Except AFault (State × Acc) :=
  let off := (c.s o.z.toNat).toNat
  let n := 2 * distDim o
  match c.scratch 4 s c.uniLane off, c.block? with
  | .error e, _ => .error e
  | .ok _, none => .error (.trap 0xB (reasonInfo c.uniLane 2))
  | .ok (s1, _), some b =>
    match s1.rangeBad b off n with
    | some r => .error (.trap 0xB (reasonInfo c.uniLane r))
    | none => .ok (s1, { lane := c.uniLane, va := off, locs := (List.range n).flatMap fun i => s1.scrLoc b (off + i) })

/-- A lane's candidate (R139, R212): 2-byte aligned. -/
def Ctx.distCandidate (c : Ctx) (o : X) (s : State) (lane : Nat) : Except AFault (State × Acc) :=
  let va := c.val true o.y.toNat lane
  if va % 2 ≠ 0 then .error (.trap 0xA (alignInfo lane 2)) else c.linear false false false (2 * distDim o) s lane va

/-- The instruction's own check (R179, R212). -/
def distCheck (o : X) (_ : Ctx) : Option (Nat × Word) := if 5 ≤ bitsAt o.imm.toNat 2 0 then ownCode 21 else none

/-- DIST over the active lanes; number 32 stands for the query, which is resolved first. -/
def distOf (opc : Nat) (l2 : Bool) (o : X) (s : State) : Out :=
  issue opc s (fun _ => [vdst o.x 1, vsrc o.y 0 false 2, ssrc o.z 1]) (distCheck o) fun c =>
    if c.act = 0 then .done c.st [] 0
    else c.access { write := false } (32 :: lanesOf c.act) (fun _ => none)
      (fun s i => if i = 32 then c.distQuery o s else c.distCandidate o s i) fun s as =>
        let v := s.overlay c.w.uid
        match as with
        | [] => (s, [], 0)
        | q :: cs =>
          let query := halves (distDim o) (v.readLocs q.locs)
          let rs := cs.map fun a => (a, distance l2 (distTy o) query (halves (distDim o) (v.readLocs a.locs)))
          (s, laneWrites o.x.toNat 1 (rs.map fun r => (r.1.lane, r.2.1, v.poisoned q.locs || v.poisoned r.1.locs)), rs.foldl
            (fun b r => b ||| r.2.2) 0)

/-- DIST.L2 (R212). -/
def execDistL2 (o : X) (s : State) : Out := distOf 0xD7 true o s
/-- DIST.IP (R212). -/
def execDistIp (o : X) (s : State) : Out := distOf 0xD8 false o s

/-! ### TOPK (R213) -/

/-- A score and an id. -/
abbrev Scored := Nat × Nat

/-- Whether x comes before y in the merged order: by score, ascending unless max, then by lower id.  R213 does not name FTZ, and R67 does
not name TOPK: the scores are compared and returned as they are (DEDUCED, log 63). -/
def topBefore (max : Bool) (x y : Scored) : Bool :=
  let a := Ty.f32.fmt.unpack false x.1
  let b := Ty.f32.fmt.unpack false y.1
  (if max then fpLess b a else fpLess a b) || (fpEqual a b && x.2 < y.2)

/-- An entry put behind every entry that it does not precede. -/
def topInsert (max : Bool) (x : Scored) : List Scored → List Scored
  | [] => [x]
  | y :: ys => if topBefore max x y then x :: y :: ys else y :: topInsert max x ys

/-- The list's entries merged with the candidates (R213). -/
def topMerge (max : Bool) (list cands : List Scored) : List Scored :=
  cands.foldl (fun l x => topInsert max x l) (list.foldl (fun l x => topInsert max x l) [])

/-- Whether a score is a NaN. -/
def scoreNan (x : Nat) : Bool := (Ty.f32.fmt.unpack false x).isNan

/-- The checks of TOPK (R179, R213). -/
def topCheck (c : Ctx) : Option (Nat × Word) :=
  if c.dense then ownCode 11 else if c.w.liveCount != 1 || c.w.someAway then ownCode 18 else none

/-- TOPK: entries whose place in the order a NaN in the list leaves open are free values (log 8).  A signalling NaN among the candidates is
excluded as any NaN is and sets no NV: R213 names no flag (DEDUCED, log 63). -/
def topk (opc : Nat) (max : Bool) (o : X) (s : State) : Out :=
  let k := bitsAt o.imm.toNat 4 0 + 1
  let list : Use := { cls := 0, reg := o.x.toNat, cnt := 2, align := 2, rd := true, wr := true, all := true }
  issue opc s (fun _ => [list, vsrc o.y 0 false 1, vsrc o.z 0 false 1]) topCheck fun c =>
    let entry (r i : Nat) : Scored := ((c.lane r i).toNat, (c.lane (r + 1) i).toNat)
    let held := (List.range k).map (entry o.x.toNat)
    let cands := ((lanesOf c.act).map fun i => ((c.lane o.y.toNat i).toNat, (c.lane o.z.toNat i).toNat)).filter fun x => !scoreNan x.1
    let open' := held.any fun x => scoreNan x.1
    let out := topMerge max held cands
    let sentinel : Scored := (Ty.f32.fmt.inf max, 0xFFFFFFFF)
    let at' (i : Nat) : Scored :=
      if k ≤ i then sentinel
      else if open' then ((Config.freeWord (c.st.free + i)).toNat, (Config.freeWord (c.st.free + 32 + i)).toNat) else out.getD i sentinel
    let write (j : Nat) (f : Nat → Nat) : LaneWrite :=
      { cls := 0, reg := o.x.toNat + j, mask := 0xFFFFFFFF, vals := perLane fun i => word (f i), poison := 0 }
    .done (if open' then { c.st with free := c.st.free + 64 } else c.st) [write 0 fun i => (at' i).1, write 1 fun i => (at' i).2] 0

/-- TOPK.MIN (R213). -/
def execTopkMin (o : X) (s : State) : Out := topk 0xD9 false o s
/-- TOPK.MAX (R213). -/
def execTopkMax (o : X) (s : State) : Out := topk 0xDA true o s

/-! ### MIGQRY and MIGR (R214, R215) -/

/-- The stack that is the home of a linear address, whatever its partition; none in the host tier and in the peer aperture. -/
def State.homeStack (s : State) (fn va : Nat) : Option Nat :=
  match s.peekLeaf fn va with
  | none => none
  | some l =>
    let pa := ptePa l.pte + va % 2 ^ l.size
    let attr := pteAttr l.pte
    if 4 ≤ attr then
      match s.locIn fn l va with
      | .ok (.view key b) => (s.regionOf key).map fun r => r.stackOf b
      | _ => none
    else if bitAt l.pte 7 || isPeer pa then none
    else if bitAt l.pte 54 then (s.stripes.find? fun t => t.fn == fn && t.frame ≤ pa && pa < t.frame + t.rows * t.bytes).map (·.stack)
    else stackOf pa

/-- Whether a stack is the one on which the agent executes (R214). -/
def Ctx.onStack (c : Ctx) (n : Nat) : Bool :=
  match c.w.wave, c.w.guest with
  | some v, _ => v.stack == n
  | _, some g => g.onStack && g.site == n
  | _, _ => false

/-- The word that MIGQRY writes for a lane (R214); a wavefront's lanes never depart, so REFUSE is 0 for them. -/
def Ctx.migWord (c : Ctx) (va : Nat) : Nat :=
  let hops := (c.w.guest.map (·.hops)).getD 0
  match c.st.homeStack c.fn va with
  | none => hops * 4
  | some n =>
    let target := (c.st.linearTarget c.fn va).isSome
    let here := c.onStack n
    let d : Dest := .stack n
    let refuse := if !target || here || c.native then 0
      else if c.refusal [] d != 0 then c.refusal [] d else if c.st.shedFree d = 0 then 1 else 0
    refuse * 64 + hops * 4 + (if here then 2 else 0) + (if target then 1 else 0)

/-- MIGQRY (R214): it never faults. -/
def execMigqry (o : X) (s : State) : Out :=
  issue 0xDD s (fun _ => [vdst o.x 1, vsrc o.y 0 false 2]) noCheck fun c =>
    .done c.st (vwrite o.x.toNat false c.act fun i => c.migWord (c.val true o.y.toNat i)) 0

/-- MIGR (R215): the lanes leave with their place at the slot that follows; the SFR ends whether or not a lane departs (R230). -/
def execMigr (o : X) (s : State) : Out :=
  issue 0xDE s (fun _ => [vsrc o.y 0 false 2]) noCheck fun c =>
    match c.plan [] (fun i => c.st.linearTarget c.fn (c.val true o.y.toNat i)) true with
    | .refuse lane reason => .trap 0xF (word (reason + lane * 16))
    | .ask asks => .wait (c.keep asks) .shed
    | .team s => .jump s
    | .go go _ =>
      let next := c.sp.advance
      if go.isEmpty then .done (c.st.endSfr c.w.uid) [] 0
      else .done (c.st.depart c.w.uid c.k go next.pc next.slot) [] 0

end Sys2Proof.Machine
end

