-- ==== Sys2Proof/Machine/Bank.lean ====
section
/-! DEFINITION. The bank instructions of the sill profile: all-bank mode, bank commands, error counts, owners, and slab moves (R217 to R227,
R326, R329 to R332). -/

namespace Sys2Proof.Machine

/-! ### All-bank mode (R218, R219, R329) -/

/-- The pseudo-channel that the wavefront owns, and its expired claim (R218). -/
def Ctx.owned (c : Ctx) : Option Nat := c.w.wave.bind (·.owned)
def Ctx.claim (c : Ctx) : Option Nat := c.w.wave.bind (·.claim)
/-- The stack on which a wavefront executes. -/
def Ctx.stack (c : Ctx) : Nat := (c.w.wave.map (·.stack)).getD 0

/-- What a wavefront owns and claims, changed. -/
def State.setOwned (s : State) (u : Nat) (owned claim : Option Nat) : State :=
  s.modWarp u fun w => { w with wave := w.wave.map fun v => { v with owned := owned, claim := claim } }

/-- Whether ordinary accesses wait in a pseudo-channel's queue (R329). -/
def State.pchQueued (s : State) (stack idx : Nat) : Bool := !(s.queuedAt (.pch stack idx)).isEmpty

/-- Whether an entry can be made: no owner, an empty queue, no change of split under way (R218, R326, R329). -/
def State.pchFree (s : State) (stack idx : Nat) : Bool :=
  let p := s.pch stack idx
  p.owner.isNone && !p.quiesce && !s.pchQueued stack idx

/-- A pseudo-channel entered by an owner of a function (R218, R219): no open row; accumulators and broadcast store read zero to another
context than the last owner's. -/
def State.enterPch (s : State) (stack idx u fn : Nat) : State :=
  let p := s.pch stack idx
  let z := Pch.fresh stack idx
  let p1 := { p with owner := some u, rows := z.rows, since := s.turns, waiters := p.waiters.filter (· != u) }
  s.setPch (if p.lastFn = some fn then p1 else { p1 with accs := z.accs, accPoison := [], bcast := z.bcast, bcastPoison := [] })

/-- The checks of ABMODE (R179, R220). -/
def abmodeCheck (o : X) (c : Ctx) : Option (Nat × Word) :=
  let y := (c.s o.y.toNat).toNat
  if bitAt o.imm.toNat 0 then (if c.owned.isSome then ownCode 20 else none)
  else if c.owned = some y ∨ c.claim = some y then none else some (0x16, 3)

/-- ABMODE (R218): an entry that ABMODE_BLOCKED_ENTRY has made already completes; a blocking one waits in arrival order, and the other kind
returns status 1 where an owner, a queue or an earlier entry is in the way. -/
def execAbmode (o : X) (s : State) : Out :=
  issue 0xE0 s (fun _ => [sdst o.x 1, ssrc o.y 1]) (abmodeCheck o) fun c =>
    let y := (c.s o.y.toNat).toNat
    let st := c.stack
    let s1 := c.st.endSfr c.w.uid
    if !(bitAt o.imm.toNat 0) then
      if c.owned = some y then .done ((s1.leavePch st y c.fn).setOwned c.w.uid none none) (swrite o.x.toNat 0) 0
      else .done (s1.setOwned c.w.uid none none) (swrite o.x.toNat 0) 0
    else
      let s2 := s1.setOwned c.w.uid none none
      let p := s2.pch st y
      if s2.pchMissing st y then .done s2 (swrite o.x.toNat 2) 0
      else if p.owner = some c.w.uid then .done (s2.setOwned c.w.uid (some y) none) (swrite o.x.toNat 0) 0
      else if s2.pchFree st y && p.waiters.isEmpty then
        .done ((s2.enterPch st y c.w.uid c.fn).setOwned c.w.uid (some y) none) (swrite o.x.toNat 0) 0
      else if bitAt o.imm.toNat 1 then
        .wait (s2.setPch { p with waiters := if p.waiters.contains c.w.uid then p.waiters else p.waiters ++ [c.w.uid] }) (.wait (.abmode st y))
      else .done s2 (swrite o.x.toNat 1) 0

/-- ABMODE_BLOCKED_ENTRY (R218, R329): the oldest blocked entry of pseudo-channel b of stack a is made, and its ABMODE completes; with a
pseudo-channel that has gone missing it ends there (R426). -/
def execAbmodeBlockedEntry (s : State) : Out :=
  let p := s.pch s.args.a s.args.b
  match p.waiters.head? with
  | none => .next s
  | some u =>
    match s.warp? u with
    | none => .next (if (s.bankop? u).isSome then s else s.setPch { p with waiters := p.waiters.tail })
    | some w =>
      let go (s : State) : State := s.modWarp u fun w =>
        { w with splits := w.splits.map fun (sp : Split) => if sp.status = .wait (.abmode s.args.a s.args.b) then { sp with status := .ready } else sp }
      if s.pchMissing s.args.a s.args.b then .next (go (s.setPch { p with waiters := p.waiters.tail }))
      else .next (if s.pchFree s.args.a s.args.b then go (s.enterPch s.args.a s.args.b u (s.fnOf w)) else s)

/-- ALL_BANK_MODE_EXPIRY (R218): the mode of pseudo-channel b of stack a ends after 64 us; the wavefront keeps an expired claim. -/
def execAllBankModeExpiry (s : State) : Out :=
  match (s.pch s.args.a s.args.b).owner with
  | none => .next s
  | some u =>
    match s.warp? u with
    | none => .next s
    | some w => .next ((s.leavePch s.args.a s.args.b (s.fnOf w)).setOwned u none (some s.args.b))

/-- SPLIT_QUIESCE_END (R326): the change of split of pseudo-channel b of stack a is over. -/
def execSplitQuiesceEnd (s : State) : Out := .next (s.setPch { s.pch s.args.a s.args.b with quiesce := false })

/-! ### Bank commands -/

/-- The owned pseudo-channel of a bank command. -/
def Ctx.bank (c : Ctx) : Pch := c.st.pch c.stack (c.owned.getD 0)

/-- The checks of every bank command: ownership first (R220), then its own. -/
def bankCheck (more : Ctx → Option (Nat × Word)) (c : Ctx) : Option (Nat × Word) :=
  if c.owned.isSome then more c else some (0x16, if c.claim.isSome then 2 else 1)

/-- Code 23 where an operand is above its limit, then code 20 where an acting bank has no open row (R179, R223). -/
def Ctx.columnCheck (c : Ctx) (col seg : Nat) : Option (Nat × Word) :=
  if 31 < col ∨ 63 < seg then ownCode 23
  else if (lanesOf c.act).any fun b => (c.bank.rows.getD b none).isNone then ownCode 20 else none

/-- The bank-striped allocation that holds a DRAM row of a pseudo-channel (R332). -/
def State.stripeRow (s : State) (stack idx row : Nat) : Option Stripe :=
  s.stripes.find? fun t => t.stack == stack && t.pch == idx && t.row0 ≤ row && row < t.row0 + t.words / 32

/-- Column word col of a row in a bank: its bytes and its linear address (R332); a row of no allocation has no location (log 6). -/
def State.columnAcc (s : State) (stack idx row col bank : Nat) : Acc :=
  match s.stripeRow stack idx row with
  | none => { lane := bank, va := 0, locs := [] }
  | some t =>
    let g := (row - t.row0) * 32 + col
    let cw := t.bytes / 32
    { lane := bank, va := t.va + (g / cw * 16 + bank) * t.bytes + g % cw * 32, locs := (Loc.stripe t.frame ((g * 16 + bank) * 32)).span 32 }

/-- The column word of an acting bank's open row. -/
def Ctx.column (c : Ctx) (col : Nat) (s : State) (b : Nat) : Except AFault (State × Acc) :=
  .ok (s, s.columnAcc c.stack c.bank.idx ((c.bank.rows.getD b none).getD 0) col b)

/-- The DRAM row, column and bank of a lane's column word. -/
def Ctx.rawKey (c : Ctx) (col b : Nat) : Nat × Nat × Nat := (b, (c.bank.rows.getD b none).getD 0, col)

/-- The bytes of a column word: of a row in no allocation what a COLWR has left there, or free values (R225, R331; log 8). -/
def Ctx.columnBytes (c : Ctx) (col : Nat) (s : State) (a : Acc) : List Byte :=
  if !a.locs.isEmpty then s.readLocs a.locs
  else match (s.pch c.stack (c.owned.getD 0)).raw.find? (·.1 == c.rawKey col a.lane) with
    | some r => r.2
    | none => (List.range 8).flatMap fun i => leBytes 4 (Config.freeWord (s.free + 8 * a.lane + i)).toNat

/-- The free values that reads of column words of no allocation may have used are spent. -/
def State.spendColumns (s : State) (as : List Acc) : State := if as.any (·.locs.isEmpty) then { s with free := s.free + 128 } else s

/-- The owned pseudo-channel changed. -/
def Ctx.putBank (c : Ctx) (s : State) (f : Pch → Pch) : State := s.setPch (f (s.pch c.stack (c.owned.getD 0)))

/-- VBCAST (R221). -/
def execVbcast (o : X) (s : State) : Out :=
  issue 0xE1 s (fun _ => [vsrc o.x 0 false 1, ssrc o.y 1])
    (bankCheck fun c => if 63 < (c.s o.y.toNat).toNat then ownCode 23 else none) fun c =>
    let seg := (c.s o.y.toNat).toNat
    let put (b : List (BitVec 16)) (l : Nat) : List (BitVec 16) := b.set (16 * seg + l) (BitVec.ofNat 16 (c.lane o.x.toNat l).toNat)
    let hit (x : Nat) : Bool := x / 16 == seg && hasLane c.act (x % 16)
    .done (c.putBank c.st fun p => { p with bcast := (lanesOf c.act).foldl put p.bcast, bcastPoison := p.bcastPoison.filter fun x => !hit x }) [] 0

/-- ROWACT (R222, R331): Aderic's wavefronts may open any row. -/
def execRowact (o : X) (s : State) : Out :=
  let row (c : Ctx) : Nat := (c.s o.y.toNat).toNat
  let foreign (c : Ctx) : Bool := c.act != 0 && c.w.tenant && !((c.st.stripeRow c.stack c.bank.idx (row c)).any fun t => t.fn == c.fn)
  issue 0xE6 s (fun _ => [ssrc o.y 1])
    (bankCheck fun c =>
      if 65535 < row c then ownCode 23 else if foreign c then some (0xD, reasonInfo (lowLane c.act) 1) else none) fun c =>
    .done (c.putBank c.st fun p => { p with rows := (lanesOf c.act).foldl (fun r b => r.set b (some (row c))) p.rows }) [] 0

/-- Element l of a column word as a weight: f16, or an element of a dsb8 block of 16, any other header giving a NaN (R82, R223). -/
def weight (dsb : Bool) (bs : List Byte) (l : Nat) : Fp :=
  if dsb then
    let h := fieldAt bs 0 4
    if dsbValid h ∧ dsbLen h = 16 ∧ ((dsbOfCode (h % 256)).map Ty.width) = some 8 then dsbBlockElem bs l else .nan false
  else Ty.f16.fmt.unpack false (fieldAt bs (2 * l) 2)

/-- One multiply-accumulate (R82). -/
def bankMac (acc : Word) (w : Fp) (b : BitVec 16) : Word := stepElem acc [w] [Ty.f16.fmt.unpack false b.toNat]

/-- A bank's accumulator register after a multiply-accumulate, with its poisoned elements (R223, R419). -/
def Pch.mac (p : Pch) (dsb : Bool) (reg seg bank : Nat) (bs : List Byte) (poisoned : Bool) : Pch :=
  let old := p.accs.getD bank []
  let new := (List.range 16).foldl (fun a l =>
    a.set (16 * reg + l) (bankMac (old.getD (16 * reg + l) 0) (weight dsb bs l) (p.bcast.getD (16 * seg + l) 0))) old
  let marks := ((List.range 16).filter fun l => poisoned || p.bcastPoison.contains (16 * seg + l)).map fun l => 128 * bank + 16 * reg + l
  { p with accs := p.accs.set bank new, accPoison := p.accPoison ++ marks.filter fun x => !p.accPoison.contains x }

/-- BMAC and BMACX: accesses of the dispatch agent to the column words (R330). -/
def bankMul (opc : Nat) (dsb : Bool) (o : X) (s : State) : Out :=
  issue opc s (fun _ => [ssrc o.y 1, ssrc o.z 1])
    (bankCheck fun c => c.columnCheck (c.s o.y.toNat).toNat (c.s o.z.toNat).toNat) fun c =>
    let seg := (c.s o.z.toNat).toNat
    c.access { write := false } (lanesOf c.act) (fun _ => none) (c.column (c.s o.y.toNat).toNat) fun s as =>
      let mac (s : State) (a : Acc) : State :=
        c.putBank s fun p => p.mac dsb (o.imm.toNat % 8) seg a.lane (c.columnBytes (c.s o.y.toNat).toNat s a) (s.poisoned a.locs)
      ((as.foldl mac s).spendColumns as, [], 0)

/-- BMAC (R223). -/
def execBmac (o : X) (s : State) : Out := bankMul 0xE2 false o s
/-- BMACX (R223). -/
def execBmacx (o : X) (s : State) : Out := bankMul 0xE3 true o s

/-- BMACRD (R224): the registers of the acting banks are written, in all 16 lanes. -/
def execBmacrd (o : X) (s : State) : Out :=
  let uses (c : Ctx) : List Use := { cls := 0, reg := o.x.toNat, cnt := 16, align := 16 } :: (lanesOf c.act).map fun b =>
    { cls := 0, reg := o.x.toNat + b, wr := true }
  issue 0xE4 s uses (bankCheck fun _ => none) fun c =>
    let p := c.bank
    let reg := o.imm.toNat % 8
    .done c.st ((lanesOf c.act).map fun b =>
      { cls := 0, reg := o.x.toNat + b, mask := 0xFFFF, vals := perLane fun l => if l < 16 then (p.accs.getD b []).getD (16 * reg + l) 0 else 0,
        poison := maskOf fun l => l < 16 && p.accPoison.contains (128 * b + 16 * reg + l) }) 0

/-- BMACZ (R224). -/
def execBmacz (o : X) (s : State) : Out :=
  issue 0xE5 s (fun _ => []) (bankCheck fun _ => none) fun c =>
    let regs := if bitAt o.imm.toNat 3 then List.range 8 else [o.imm.toNat % 8]
    let elems := regs.flatMap fun r => (List.range 16).map fun l => 16 * r + l
    let clear (p : Pch) (b : Nat) : Pch :=
      { p with accs := p.accs.modify b fun a => elems.foldl (fun a i => a.set i 0) a,
               accPoison := p.accPoison.filter fun x => !(x / 128 == b && elems.contains (x % 128)) }
    .done (c.putBank c.st fun p => (lanesOf c.act).foldl clear p) [] 0

/-- COLRD (R225). -/
def execColrd (o : X) (s : State) : Out :=
  issue 0xE7 s (fun _ => [vdst o.x 8, ssrc o.y 1]) (bankCheck fun c => c.columnCheck (c.s o.y.toNat).toNat 0) fun c =>
    c.access { write := false } (lanesOf c.act) (fun _ => none) (c.column (c.s o.y.toNat).toNat) fun s as =>
      (s.spendColumns as, laneWrites o.x.toNat 8 (as.map fun a => (a.lane, leNat (c.columnBytes (c.s o.y.toNat).toNat s a), s.poisoned a.locs)), 0)

/-- A column word of a row in no allocation written (R225, R331). -/
def Pch.putRaw (p : Pch) (k : Nat × Nat × Nat) (bs : List Byte) : Pch := { p with raw := p.raw.filter (·.1 != k) ++ [(k, bs)] }

/-- COLWR (R225). -/
def execColwr (o : X) (s : State) : Out :=
  issue 0xE8 s (fun _ => [vsrc o.x 0 false 8, ssrc o.y 1]) (bankCheck fun c => c.columnCheck (c.s o.y.toNat).toNat 0) fun c =>
    let bytes (i : Nat) : List Byte := (List.range 8).flatMap fun j => leBytes 4 (c.lane (o.x.toNat + j) i).toNat
    c.access { write := true } (lanesOf c.act) (fun _ => none) (c.column (c.s o.y.toNat).toNat) fun s as =>
      let raw (s : State) (a : Acc) : State := c.putBank s fun p => p.putRaw (c.rawKey (c.s o.y.toNat).toNat a.lane) (bytes a.lane)
      c.storeNowFrom (fun i => leNat (bytes i)) ((as.filter (·.locs.isEmpty)).foldl raw s) as

/-! ### Counts and owners (R226, R426) -/

/-- The word of ECSRD for a bank (R226): each count saturates. -/
def Pch.counts (p : Pch) (b : Nat) : Nat :=
  min 65535 (p.corrected.getD b 0) + min 255 (p.uncorrectable.getD b 0) * 2 ^ 16 + min 255 (p.repaired.getD b 0) * 2 ^ 24

/-- ECSRD (R226, R426). -/
def execEcsrd (o : X) (s : State) : Out :=
  issue 0xE9 s (fun _ => [vdst o.x 1, ssrc o.y 1]) noCheck fun c =>
    let y := (c.s o.y.toNat).toNat
    .done c.st (vwrite o.x.toNat false c.act fun b => if c.st.pchMissing c.stack y then 0 else (c.st.pch c.stack y).counts b) 0

/-- ECSCLR (R226): privileged. -/
def execEcsclr (o : X) (s : State) : Out :=
  issue 0xEA s (fun _ => [ssrc o.y 1]) noCheck fun c =>
    let y := (c.s o.y.toNat).toNat
    let z := Pch.fresh c.stack y
    .done (if c.st.pchMissing c.stack y then c.st
      else c.st.setPch { c.st.pch c.stack y with corrected := z.corrected, uncorrectable := z.uncorrectable, repaired := z.repaired }) [] 0

/-- The word of PCHOWN (R226); the front end that runs a bank operation has no sill core. -/
def State.pchOwner (s : State) (fn stack idx : Nat) : Nat :=
  match (s.pch stack idx).owner with
  | none => 0
  | some u =>
    match s.warp? u with
    | some w =>
      match w.wave with
      | some v => if s.fnOf w = fn then 3 + v.core * 4 + v.slot * 64 else 1
      | none => 1
    | none => if ((s.bankop? u).map (·.fn)) = some fn then 3 else 1

/-- PCHOWN (R226, R426). -/
def execPchown (o : X) (s : State) : Out :=
  issue 0xEF s (fun _ => [sdst o.x 1, ssrc o.y 1]) noCheck fun c =>
    let y := (c.s o.y.toNat).toNat
    .done c.st (swrite o.x.toNat (if c.st.pchMissing c.stack y then 0xFFFFFFFF else c.st.pchOwner c.fn c.stack y)) 0

/-! ### Slab moves (R227) -/

/-- The slab of an order-table entry of a stack. -/
def State.entrySlab (s : State) (stack n : Nat) : Option (Nat × Nat) := (s.orderTable stack)[n]?

/-- A pseudo-channel of a stack for which a line move waits (R329, R364): the layout of plain pages is open (log 6), so any
of them may hold the line. -/
def State.moveWait (s : State) (me : Nat) (queued : Option Queued) (stack : Nat) : Option (Nat × Nat) :=
  ((s.pchs.filter fun p => p.stack == stack).map fun p => (p.stack, p.idx)).find? fun p =>
    s.pchBusy me (sinceAt queued (.pch p.1 p.2)) p.1 p.2

/-- TMOVE (R227, R329): privileged; it queues while a pseudo-channel of its stack is in all-bank mode for another owner. -/
def execTmove (o : X) (s : State) : Out :=
  issue 0xEB s (fun _ => [sdst o.x 1, ssrc o.y 1, ssrc o.z 1]) noCheck fun c =>
    match c.st.entrySlab c.stack (c.s o.y.toNat).toNat with
    | none => .done c.st (swrite o.x.toNat 1) 0
    | some e =>
      match c.st.moveWait c.w.uid c.sp.queued c.stack with
      | some p => .wait (c.queueFor [] (.pch p.1 p.2)) (.wait (.stripe p.1 p.2))
      | none => let r := c.st.tmove e.1 e.2 (c.s o.z.toNat).toNat; .done r.1 (swrite o.x.toNat r.2) 0

/-- TSWAP (R227): privileged. -/
def execTswap (o : X) (s : State) : Out :=
  issue 0xEC s (fun _ => [sdst o.x 1, ssrc o.y 1]) noCheck fun c =>
    match c.st.entrySlab c.stack (c.s o.y.toNat).toNat with
    | none => .done c.st (swrite o.x.toNat 1) 0
    | some e => let r := c.st.tswap e.1 e.2; .done r.1 (swrite o.x.toNat r.2) 0

end Sys2Proof.Machine
end

