-- ==== Sys2Proof/Machine/Sill.lean ====
section
/-! DEFINITION. The front ends of the stacks: rings, wavefronts, saving and resuming, the end of a dispatch, and bank
operations (R211, R228, R229, R315 to R323, R333, R334, R448). -/

namespace Sys2Proof.Machine

/-! ### Timelines -/

/-- Number n of a timeline is done, with a failure (cause and TRAPINFO) that is not yet reported (R168). -/
def Timeline.finish (t : Timeline) (n : Nat) (failure : Option (Nat × Word)) : Timeline :=
  let fin := n :: t.finished
  let d := advanceDone t.done fin fin.length
  { t with done := d, finished := fin.filter (d < ·),
           failed := match failure with
             | some f => t.failed ++ [(n, f.1, f.2)]
             | none => t.failed }

/-! ### Rings (R315 to R318) -/

/-- A front end changed. -/
def State.modFront (s : State) (stack : Nat) (f : Stack → Stack) : State := { s with frontEnds := s.frontEnds.modify stack f }

/-- A dispatch by its ring entry: one that STKDISP produced and that is not consumed. -/
def State.pendingEntry (s : State) (stack fn i : Nat) : Option Dispatch :=
  s.dispatches.find? fun d => d.stack == stack && d.fn == fn && d.entry == some i

/-- A record that is refused as it is consumed (R317): its stamp with bit 63 set, where it can be written, and a log record; none while the
stamp's pseudo-channel is in all-bank mode (R329). -/
def State.refuseEntry (s : State) (stack fn i code : Nat) (r : List Byte) : Option State :=
  let stamp := fieldAt r 48 8
  let s1 := if stamp = 0 then some s else (s.stampWrite fn (dieOfStack stack) 0 stamp (i + 1 + 2 ^ 63) true).map fun x =>
    if s.pageFault fn stamp 8 true then s.touch fn (dieOfStack stack) stamp 8 true else x.1
  s1.map fun s => (s.log fn 0x11 0 (agentBits 3 0 (i + 1) 0 false 0) code 2 ((i + 1) % 2 ^ 32) 0).1

/-- A dispatch that starts: it goes behind those that have started before it (R318, R319). -/
def State.startDispatch (s : State) (d : Dispatch) : State := { s with dispatches := s.dispatches.filter (·.uid != d.uid) ++ [d] }

/-- A consumed entry starts its dispatch, or is refused (R317, R318); one that STKDISP made then ends as failed, its stamp
written (log 47). -/
def State.startEntry (s : State) (stack fn i : Nat) (r : List Byte) : Option State :=
  let bad := if dispatchBad r then 4 else if s.dispatchMissing stack r then 2 else 0
  match s.pendingEntry stack fn i with
  | some d =>
    if bad = 0 then some (s.startDispatch { d with entry := none, record := r.take 56 ++ List.replicate 8 0 })
    else (s.refuseEntry stack fn i bad r).map fun s =>
      s.startDispatch { d with entry := none, record := List.replicate 64 0, failed := some (0, 0) }
  | none =>
    if bad ≠ 0 then s.refuseEntry stack fn i bad r
    else
      let u := s.fresh
      let d : Dispatch :=
        { uid := u.1, stack := stack, fn := fn, launch := 0, block := 0, number := i + 1, record := r.take 56 ++ List.replicate 8 0, level := 1,
          started := 0, ended := 0, failed := none, done := false, entry := none, saveAt := none, code := s.image }
      some (u.2.startDispatch d)

/-- The control block of a ring that is to be consumed: within its limits, and ENABLE set without OVERRUN (R316). -/
def State.ringOpen (s : State) (stack fn : Nat) : Option (Nat × List Byte) :=
  (s.ringBlock stack fn).bind fun x => if !ringBlockOk x.2 || bitsAt (fieldAt x.2 12 4) 1 0 != 1 then none else some x

/-- Whether bytes of a function that a front end reads or writes lie in a pseudo-channel that it waits for (R329). -/
def State.frontWaits (s : State) (fn stack va n : Nat) (write : Bool) : Bool :=
  match s.reachN fn (dieOfStack stack) va n write with
  | .ok (s1, ls) => (s1.bankWait 0 none [{ lane := 0, va := va, locs := ls }]).isSome
  | .error _ => false

/-- The entry that a ring would consume next, with the block's address: none where the ring does not run or its entry is not readable. -/
def State.ringNext (s : State) (stack fn : Nat) : Option (Nat × Nat × List Byte) :=
  (s.ringOpen stack fn).bind fun x =>
    let i := fieldAt x.2 24 8
    let va := ringEntry x.2 i
    if s.frontWaits fn stack va 64 true then none
    else (s.readVa fn (dieOfStack stack) va 64).bind fun r => if bitAt (fieldAt r 60 4) 31 then some (x.1, i, r) else none

/-- A control block as a front end has reported it (R316). -/
def State.ringReported (s : State) (stack fn : Nat) (blk : List Byte) : Bool :=
  ((s.frontEnds[stack]?).map fun f => f.reported.contains (fn, blk)).getD true

/-- It is reported once per change. -/
def State.reportRing (s : State) (stack fn : Nat) (blk : List Byte) : State :=
  s.modFront stack fun f => { f with reported := f.reported.filter (·.1 != fn) ++ [(fn, blk)] }

/-- A claimed entry that the front end cannot read: the walk for it asks the host, or logs what it rejects, once per change
of the block (R399, R402). -/
def State.ringUnread (s : State) (stack fn : Nat) : Option (List Byte × Nat) :=
  (s.ringOpen stack fn).bind fun x =>
    let i := fieldAt x.2 24 8
    let va := ringEntry x.2 i
    if i = fieldAt x.2 16 8 ∨ (s.readVa fn (dieOfStack stack) va 64).isSome ∨ s.ringReported stack fn x.2 then none else some (x.2, va)

/-- The front end's turn at a ring (R315 to R317): a malformed block is logged once per change; a valid entry is consumed, or stops the ring
where its sequence number is not the index read. -/
def State.serveRing (s : State) (stack fn : Nat) : State :=
  match s.ringBlock stack fn with
  | none => s
  | some (cb, blk) =>
    if !ringBlockOk blk then
      if s.ringReported stack fn blk then s else ((s.log fn 0x16 cb 0 0 1 0 0).1).reportRing stack fn blk
    else match s.ringNext stack fn with
      | none =>
        match s.ringUnread stack fn with
        | some x => (s.touch fn (dieOfStack stack) x.2 64).reportRing stack fn x.1
        | none => s
      | some (_, i, r) =>
        if fieldAt r 56 4 ≠ i % 2 ^ 32 then
          (s.landNum (.dev (cb + 12)) 4 (fieldAt blk 12 4 + 2) none).log fn 0x16 cb 0 (i % 2 ^ 32) 2 0 0 |>.1
        else
          let s1 := (s.touch fn (dieOfStack stack) (ringEntry blk i) 64).putVa fn (dieOfStack stack) ((ringEntry blk i + 60) % 2 ^ 64) (leBytes 4 0)
          ((s1.landNum (.dev (cb + 24)) 8 ((i + 1) % 2 ^ 64) none).startEntry stack fn i r).getD s

/-- Whether a ring has something for its front end: an entry, or a malformed block that is not logged. -/
def State.ringDue (s : State) (stack fn : Nat) : Bool :=
  (s.ringNext stack fn).isSome || (s.ringUnread stack fn).isSome ||
    (s.ringBlock stack fn).any fun x => !ringBlockOk x.2 && !s.ringReported stack fn x.2

/-- The ring that a stack's front end serves next (R315: round-robin, one entry per ring per turn). -/
def State.ringTurn (s : State) (stack : Nat) : Option Nat :=
  (s.frontEnds[stack]?).bind fun f =>
    let rings := sortBy id (f.rings.map (·.1))
    (rings.filter (f.turn ≤ ·) ++ rings.filter (· < f.turn)).find? (s.ringDue stack)

/-- The front end of a stack reads a ring: it is served where it is its turn. -/
def State.pollRing (s : State) (stack fn : Nat) : State :=
  if !s.admin.wiping && s.ringTurn stack = some fn then (s.serveRing stack fn).modFront stack fun f => { f with turn := fn + 1 } else s

/-- RING_DOORBELL (R315): the front end of stack a reads the ring of function b at once. -/
def execRingDoorbell (s : State) : Out := .next (s.pollRing s.args.a s.args.b)

/-- SILL_RING_POLL (R315): the front end of stack a reads the ring of function b. -/
def execSillRingPoll (s : State) : Out := .next (s.pollRing s.args.a s.args.b)

/-! ### Wavefronts (R210, R319 to R322) -/

/-- Wavefronts on a sill core. -/
def State.coreWaves (s : State) (stack core : Nat) : List Warp := s.warps.filter fun w => w.wave.any fun v => v.stack == stack && v.core == core

/-- Free native slots of a sill core (R320). -/
def State.freeNative (s : State) (stack core : Nat) : List Nat :=
  let used := (s.coreWaves stack core).filterMap fun w => w.wave.map (·.slot)
  (List.range 8).filter fun k => !used.contains k

/-- The slots of a sill core that level-3 wavefronts have given up to dispatches other than one (R321), while those wait. -/
def State.keptSlots (s : State) (stack core : Nat) (me : Option Nat) : Nat :=
  ((s.frontEnds[stack]?).map fun f => f.kept.countP fun k => k.1 == core && some k.2 != me &&
    s.dispatches.any fun d => d.uid == k.2 && d.failed.isNone && d.started < fieldAt d.record 8 2).getD 0

/-- Native slots of a sill core that a dispatch, or a wavefront of none, may take. -/
def State.slotsFor (s : State) (stack core : Nat) (me : Option Nat) : Nat := (s.freeNative stack core).length - s.keptSlots stack core me

/-- Whether a sill core has a free native slot and local store (R1: 64 KiB). -/
def State.sillFits (s : State) (stack core bytes : Nat) (me : Option Nat) : Bool :=
  !((s.frontEnds[stack]?).map fun f => f.deadCores.contains core).getD true && s.slotsFor stack core me != 0 &&
    (s.coreWaves stack core).foldl (fun n w => n + w.ldsSize) 0 + bytes ≤ 65536

/-- The sill core that takes the next wavefront: the one with the most free native slots, ties to the lower (R319). -/
def State.sillCore (s : State) (stack bytes : Nat) (me : Option Nat) : Option Nat :=
  ((List.range 16).filter fun k => s.sillFits stack k bytes me).foldl (fun b k => match b with
    | none => some k
    | some x => if s.slotsFor stack x me < s.slotsFor stack k me then some k else some x) none

/-- Fields of a dispatch record (R209). -/
def Dispatch.count (d : Dispatch) : Nat := fieldAt d.record 8 2
def Dispatch.local' (d : Dispatch) : Nat := 1024 * fieldAt d.record 10 2
def Dispatch.stamp (d : Dispatch) : Nat := fieldAt d.record 48 8

/-- The registers of a wavefront as it starts (R210). -/
def Dispatch.regs (d : Dispatch) (index : Nat) : List Word :=
  let base := if d.block = 0 then 0 else 0xFD * 2 ^ 56 + d.window
  (List.range 32).map fun i =>
    if 1 ≤ i ∧ i ≤ 8 then word (fieldAt d.record (12 + 4 * i) 4)
    else if i = 9 then word index
    else if i = 10 then word d.count
    else if i = 12 then word base
    else if i = 13 then word (base / 2 ^ 32) else 0

/-- The dispatch of a ring whose wavefronts start next (R319): the first that has some left. -/
def State.startsNext (s : State) (d : Dispatch) : Bool :=
  ((s.dispatches.find? fun x => x.stack == d.stack && x.fn == d.fn && x.entry.isNone && x.failed.isNone && x.started < x.count).map (·.uid)) ==
    some d.uid && ((s.fn? d.fn).map (·.running)).getD false

/-- WAVEFRONT_START (R319): the next wavefront of dispatch a starts, where it has a slot. -/
def execWavefrontStart (s : State) : Out :=
  match s.dispatch? s.args.a with
  | none => .next s
  | some d =>
    if !s.startsNext d then .next s
    else match s.sillCore d.stack d.local' (some d.uid) with
      | none => .next s
      | some core =>
        let u := s.fresh
        let slot := (s.freeNative d.stack core).headD 0
        let v : WaveInfo :=
          { stack := d.stack, core := core, slot := slot, level := d.level, dispatch := d.uid, index := d.started, owned := none, claim := none,
            request := none }
        let w := { startWarp u.1 .native (dword (fieldAt d.record 0 8)) 0xFFFF with
          s := d.regs d.started, wave := some v, slot := slot, ldsSize := d.local', age := u.1 }
        let s1 := ({ u.2 with warps := u.2.warps ++ [w] } : State).setDispatch { d with started := d.started + 1 }
        .next (s1.modFront d.stack fun f => { f with kept := match f.kept.find? (·.2 == d.uid) with
          | some k => f.kept.erase k
          | none => f.kept })

/-! ### Saving and resuming (R228, R321, R322) -/

/-- Bytes of a save record (R228). -/
def Warp.saveSize (w : Warp) : Nat := 2432 + w.ldsSize + if (w.wave.bind (·.owned)).isSome then 10240 else 0

/-- The bank state of a record: accumulators and broadcast store (R219), with poison marks. -/
def Pch.saved (p : Pch) : List (Byte × Bool) :=
  ((List.range 16).flatMap fun b => (List.range 128).flatMap fun i =>
    (leBytes 4 ((p.accs.getD b []).getD i 0).toNat).map fun x => (x, p.accPoison.contains (128 * b + i))) ++
    p.bcast.zipIdx.flatMap fun x => (leBytes 2 x.1.toNat).map fun y => (y, p.bcastPoison.contains x.2)

/-- A wavefront's save record (R228), its control state in the layout of log 28, with the poison marks of its registers and local store. -/
def State.saveRecord (s : State) (w : Warp) (next : Split) : List (Byte × Bool) :=
  let plain (l : List Byte) : List (Byte × Bool) := l.map fun x => (x, false)
  let owned := w.wave.bind (·.owned)
  let num := ((w.wave.bind fun v => s.dispatch? v.dispatch).map (·.number)).getD 0
  let ctl := leBytes 8 (trapPc next.pc next.slot).toNat ++ leBytes 4 next.lanes.toNat ++ leBytes 4 next.stack.length ++
    padTo 48 (next.stack.flatMap MaskEntry.bytes) ++ (w.p.flatMap fun x => leBytes 4 x.toNat) ++ (w.m.flatMap fun x => leBytes 4 x.toNat) ++
    leBytes 4 w.carryV.toNat ++ leBytes 4 w.carryS.toNat ++ leBytes 8 num ++ leBytes 1 (owned.getD 0xFF)
  plain (padTo 256 ctl) ++
    ((List.range 32).flatMap fun r => (leBytes 4 (w.sreg r).toNat).map fun x => (x, hasLane w.spoison r)) ++
    ((List.range 32).flatMap fun r => (List.range 16).flatMap fun l =>
      (leBytes 4 ((w.reg r).val.getD l 0).toNat).map fun x => (x, hasLane (w.reg r).poison l)) ++
    ((List.range w.ldsSize).map fun i => (Memory.get w.lds i, s.poisoned [.lds w.uid i])) ++
    match w.wave, owned with
    | some v, some p => (s.pch v.stack p).saved
    | _, _ => []

/-- The wavefront leaves its slot in the saved state (R228): what it owned is given up, and its operations have completed. -/
def State.parkWave (s : State) (w : Warp) (addr : Nat) (next : Split) (own : Bool) (bank : Option Pch) : State :=
  let s1 := (s.dropOwned w).endSfr w.uid
  let w1 := { w with splits := [next, Split.free, Split.free, Split.free], ops := [], hazards := [], f := List.replicate 12 0,
                     wave := w.wave.map fun v => { v with claim := none, request := none }, resv := [] }
  { s1 with warps := s1.warps.filter (fun x => x.uid != w.uid), saved := s1.saved ++ [{ addr := dword addr, own := own, warp := w1, bank := bank }],
            cur := if s1.cur = some w.uid then none else s1.cur,
            pchs := s1.pchs.map fun p => { p with waiters := p.waiters.filter (· != w.uid) } }

/-- A record written at its locations, with its marks. -/
def State.putRecord (s : State) (ls : List Loc) (r : List (Byte × Bool)) : State :=
  (s.land (List.zip ls (r.map (·.1))) none).mark (((List.zip ls r).filter (·.2.2)).map (·.1))

/-- STKSAVE (R228). -/
def execStksave (o : X) (s : State) : Out :=
  issue 0xED s (fun _ => [ssrc o.x 2]) noCheck fun c =>
    let va := c.s2 o.x.toNat
    let s0 := c.st.completeOps c.w.uid fun _ => true
    let w := (s0.warp? c.w.uid).getD c.w
    let next : Split := { c.sp.advance with status := .ready }
    let place (s : State) (i : Nat) : Except AFault (State × Acc) :=
      if va % 256 ≠ 0 then .error (.trap 0xA (alignInfo i 256)) else c.linear true false false w.saveSize s i va
    match (c.within s0).access { write := true, ends := true } [c.uniLane] (fun _ => none) place
        fun s as => (s.putRecord (as.flatMap (·.locs)) (s.saveRecord w next), [], 0) with
    | .done s1 _ _ => .jump (s1.parkWave ((s1.warp? w.uid).getD w) va next false none)
    | a => a

/-- Bytes of a slot of a dispatch in its ring's save area: a record with bank state, in whole 256-byte pieces (log 28). -/
def Dispatch.saveStride (d : Dispatch) : Nat := roundUp (2432 + d.local' + 10240) 256

/-- Where a dispatch's slots lie in its ring's save area: the first place that no other dispatch's slots cover (log 28). -/
def State.savePlace (s : State) (d : Dispatch) : Nat :=
  let used := (s.dispatches.filter fun x => x.uid != d.uid && x.stack == d.stack && x.fn == d.fn).filterMap fun x =>
    x.saveAt.map fun a => (a, a + x.count * x.saveStride)
  let starts := sortBy id (0 :: used.map (·.2))
  d.saveAt.getD ((starts.find? fun a => used.all fun u => u.2 ≤ a || a + d.count * d.saveStride ≤ u.1).getD 0)

/-- The address of a wavefront's save record (R322): its slot is given by its dispatch and its index; none where the area is too small. -/
def State.saveSlot (s : State) (d : Dispatch) (index n : Nat) : Option Nat :=
  (s.ringBlock d.stack d.fn).bind fun x =>
    let at0 := s.savePlace d + index * d.saveStride
    if at0 + n ≤ fieldAt x.2 40 8 then some (fieldAt x.2 32 8 + at0) else none

/-- The front end saves a tenant wavefront at a place in its code (R322): with too small an area, or one that it cannot
reach, the dispatch ends as failed; it waits for a page, or for a pseudo-channel (R131, R329). -/
def Ctx.preempt (c : Ctx) (next : Split) : Act :=
  let s0 := c.st.completeOps c.w.uid fun _ => true
  let w := (s0.warp? c.w.uid).getD c.w
  let fn := s0.fnOf w
  let n := w.saveSize
  let failed (s : State) : Act := .jump (({ s with free := s.free + 1 } : State).failWave w ((Config.freeWord s.free).toNat % 256) 0
    (trapPc next.pc next.slot))
  match w.wave.bind fun v => (s0.dispatch? v.dispatch).bind fun d => (s0.saveSlot d v.index n).map fun a => (d, a) with
  | none => failed s0
  | some (d, a) =>
    match s0.reachN fn w.die a n true with
    | .error .page => .replayIn s0 (s0.faultAt fn a n true) (word 32)
    | .error (.viol _ _) => failed (s0.touch fn w.die a n true)
    | .ok (s1, ls) =>
      match s1.bankWait w.uid c.sp.queued [{ lane := 0, va := a, locs := ls }] with
      | some p => .wait (({ c with st := s1 } : Ctx).queueFor [] (.pch p.1 p.2)) (.wait (.stripe p.1 p.2))
      | none => .jump (((s1.setDispatch { d with saveAt := some (s1.savePlace d) }).putRecord ls (s1.saveRecord w next)).parkWave w a next false none)

/-- SKYIELD (R229): the SFR ends; a posted request is taken here; otherwise the wavefront does not go on before another ready one of its
core has issued. -/
def execSkyield (s : State) : Out :=
  issue 0xEE s (fun _ => []) noCheck fun c =>
    let s1 := c.st.endSfr c.w.uid
    let next : Split := { c.sp.advance with status := .ready }
    if (c.w.wave.bind (·.request)).isSome then (c.within s1).preempt next
    else .jump { (c.turnState s1 Split.advance).modWarp c.w.uid fun w => { w with wave := w.wave.map fun v => { v with yielded := true } } with cur := none }

/-- Agents of which a split may issue (R236). -/
def State.readyAgents (s : State) : List Warp := s.warps.filter fun w => (List.range 4).any (s.splitReady w)

/-- Whether some sill cycles have passed since a turn, at 8 for each clause that every ready agent has been given since (log 14). -/
def State.passed (s : State) (since cycles : Nat) : Bool := cycles * max 1 s.readyAgents.length ≤ (s.turns - since) * 8

/-- SILL_PREEMPT_TIMEOUT (R322): the request posted for wavefront a is taken at its clause boundary, 25,600 sill cycles after
it was posted. -/
def execSillPreemptTimeout (s : State) : Out :=
  match s.warp? s.args.a with
  | none => .next s
  | some w =>
    match w.splits[0]?, w.wave.bind (·.request) with
    | some sp, some t =>
      if s.passed t 25600 ∧ sp.status = .ready ∧ !sp.begun ∧ w.replay.isNone then
        let c : Ctx := { st := s, w := w, k := 0, sp := sp }
        .next (c.finish 0xEE [] (c.preempt { sp with slot := (s.resumeSlot w sp).getD 7 }))
      else .next s
    | _, _ => .next s

/-- Whether a dispatch waits for a native slot that the end of a level-3 wavefront would give it (R321). -/
def State.wantsSlot (s : State) (w : Warp) (d : Dispatch) : Bool :=
  let without : State := { s with warps := s.warps.filter (·.uid != w.uid) }
  w.wave.any fun v => d.stack == v.stack && d.level == 1 && s.startsNext d && (s.sillCore v.stack d.local' (some d.uid)).isNone &&
    without.sillFits v.stack v.core d.local' (some d.uid)

/-- LEVEL3_SAVE (R321): level-3 wavefront a gives its slot to a tenant wavefront that waits; its record lies in Aderic's own area. -/
def execLevel3Save (s : State) : Out :=
  match s.warp? s.args.a with
  | none => .next s
  | some w0 =>
    match w0.wave, w0.splits[0]?, s.dispatches.find? (s.wantsSlot w0) with
    | some v, some sp, some d =>
      if v.level ≠ 3 ∨ sp.status ≠ .ready then .next s
      else
        let s1 := s.completeOps w0.uid fun _ => true
        let w := (s1.warp? w0.uid).getD w0
        .next ((s1.parkWave w 0 sp true (v.owned.map (s1.pch v.stack))).modFront v.stack fun f => { f with kept := f.kept ++ [(v.core, d.uid)] })
    | _, _, _ => .next s

/-- The pseudo-channel that a save record names as owned (R228); 0xFF, and a number that no pseudo-channel has, name none. -/
def recordOwned (bs : List Byte) : Option Nat := if fieldAt bs 128 1 < 62 then some (fieldAt bs 128 1) else none

/-- The dispatch that a save record names by its number (R228): the wavefront's own, or another one of its stack and function. -/
def State.recordDispatch (s : State) (v : WaveInfo) (bs : List Byte) : Nat :=
  let n := fieldAt bs 120 8
  let mine := s.dispatch? v.dispatch
  if mine.any (·.number == n) then v.dispatch
  else ((s.dispatches.find? fun d => d.number == n && mine.any fun e => e.stack == d.stack && e.fn == d.fn).map (·.uid)).getD v.dispatch

/-- A wavefront read back from its record (R228, R322); the reserved bit of the mode registers stays 0 (R6, R25). -/
def readWave (w : Warp) (r : List (Byte × Bool)) : Warp :=
  let bs := r.map (·.1)
  let bad (o n : Nat) : Bool := ((r.drop o).take n).any (·.2)
  let f (o n : Nat) : Nat := fieldAt bs o n
  let tpc := dword (f 0 8)
  let entry (i : Nat) : MaskEntry :=
    { parked := bitAt (f (16 + 12 * i) 8) 0, pc := dword (f (16 + 12 * i) 8 / 32 * 32), mask := BitVec.ofNat 32 (f (24 + 12 * i) 4) }
  let sp : Split := { Split.free with
    pc := dword (bitsAt tpc.toNat 56 5 * 32), slot := trapSlot tpc, lanes := BitVec.ofNat 32 (f 8 4 % 65536),
    stack := (List.range (min 4 (f 12 4))).map entry }
  let reg (i : Nat) : VReg :=
    { VReg.empty with
      live := true, val := perLane fun l => if l < 16 then word (f (384 + 64 * i + 4 * l) 4) else 0,
      poison := maskOf fun l => l < 16 && bad (384 + 64 * i + 4 * l) 4 }
  let lds := (List.range w.ldsSize).foldl (fun m i => Memory.put m i (bs.getD (2432 + i) 0)) []
  { w with
    splits := [sp, Split.free, Split.free, Split.free], p := (List.range 8).map fun i => BitVec.ofNat 32 (f (64 + 4 * i) 4),
    m := (List.range 4).map fun i => BitVec.ofNat 22 (f (96 + 4 * i) 4 % 2 ^ 21), carryV := word (f 112 4), carryS := word (f 116 4),
    s := (List.range 32).map fun i => if i = 0 then 0 else word (f (256 + 4 * i) 4), spoison := maskOf fun i => i != 0 && bad (256 + 4 * i) 4,
    v := (List.range 32).map reg, lds := lds }

/-- The bank state of a record put back (R219). -/
def Pch.restored (p : Pch) (r : List (Byte × Bool)) : Pch :=
  let bs := r.map (·.1)
  { p with
    accs := (List.range 16).map fun b => (List.range 128).map fun i => word (fieldAt bs (512 * b + 4 * i) 4),
    accPoison := (List.range 2048).filter fun i => ((r.drop (4 * i)).take 4).any (·.2),
    bcast := (List.range 1024).map fun i => BitVec.ofNat 16 (fieldAt bs (8192 + 2 * i) 2),
    bcastPoison := (List.range 1024).filter fun i => ((r.drop (8192 + 2 * i)).take 2).any (·.2) }

/-- n bytes of a save record with their marks; none where they are not readable now. -/
def State.readRecord (s : State) (fn die va n : Nat) : Option (State × List (Byte × Bool)) :=
  match s.reachN fn die va n false with
  | .ok (s1, ls) =>
    if (s1.bankWait 0 none [{ lane := 0, va := va, locs := ls }]).isSome then none else some (s1, ls.map fun l => (s1.readByte l, s1.poisoned [l]))
  | .error _ => none

/-- The record of a saved wavefront (R228): its bank state lies in it where the record says that it owned a pseudo-channel. -/
def State.loadRecord (s : State) (x : SavedWave) (stack : Nat) : Option (State × List (Byte × Bool)) :=
  let fn := s.fnOf x.warp
  let n := 2432 + x.warp.ldsSize
  match s.readRecord fn (dieOfStack stack) x.addr.toNat n with
  | none => none
  | some (s1, r) =>
    if (recordOwned (r.map (·.1))).isNone then some (s1, r)
    else (s1.readRecord fn (dieOfStack stack) ((x.addr.toNat + n) % 2 ^ 64) 10240).map fun y => (y.1, r ++ y.2)

/-- A saved wavefront takes a slot again (R228, R321, R322) as its record has it: all-bank mode is re-entered where it was owned. -/
def State.resumeWave (s : State) (x : SavedWave) (v : WaveInfo) (core : Nat) (r : List (Byte × Bool)) : State :=
  let slot := (s.freeNative v.stack core).headD 0
  let w0 := if x.own then x.warp else readWave x.warp r
  let w := { w0 with wave := some { v with core := core, slot := slot }, slot := slot, age := s.nextUid }
  let s1 : State := { s with saved := s.saved.erase x, warps := s.warps ++ [w] }
  let marks := (List.range w.ldsSize).filter fun i => ((r.drop (2432 + i)).headD (0, false)).2
  let s2 := s1.mark (marks.map fun i => .lds w.uid i)
  match v.owned with
  | none => s2
  | some p =>
    let s3 := s2.enterPch v.stack p w.uid (s.fnOf w)
    s3.setPch (match x.bank with
      | some k => { s3.pch v.stack p with accs := k.accs, accPoison := k.accPoison, bcast := k.bcast, bcastPoison := k.bcastPoison }
      | none => (s3.pch v.stack p).restored (r.drop (2432 + w.ldsSize)))

/-- WAVEFRONT_RESUME (R219, R228, R321, R322): saved wavefront a is resumed on any sill core of its stack, where a slot is
free, its function runs, its record is readable and the pseudo-channel that it owned is free. -/
def execWavefrontResume (s : State) : Out :=
  match s.saved[s.args.a]? with
  | none => .next s
  | some x =>
    match x.warp.wave with
    | none => .next s
    | some v0 =>
      let running := v0.level == 3 || ((s.fn? (s.fnOf x.warp)).map (·.running)).getD false
      match s.sillCore v0.stack x.warp.ldsSize none, if x.own then some (s, []) else s.loadRecord x v0.stack with
      | some core, some (s1, r) =>
        let bs := r.map (·.1)
        let v := if x.own then v0 else { v0 with owned := recordOwned bs, dispatch := s.recordDispatch v0 bs }
        .next (if running && v.owned.all fun p => s.pchFree v.stack p then s1.resumeWave x v core r else s)
      | some _, none => .next (if s.pageFault (s.fnOf x.warp) x.addr.toNat (2432 + x.warp.ldsSize) false then
          s.touch (s.fnOf x.warp) (dieOfStack v0.stack) x.addr.toNat (2432 + x.warp.ldsSize) else s)
      | _, _ => .next s

/-- Whether a wavefront has not issued for 65,536 sill cycles (R320), at 8 for each clause that has issued since (log 14). -/
def State.starved (s : State) (w : Warp) : Bool := 65536 ≤ (s.nextUid - w.age) * 8

/-- WAVEFRONT_STARVATION (R320): ready wavefront or guest a, which has not issued for 65,536 sill cycles, issues next. -/
def execWavefrontStarvation (s : State) : Out :=
  match s.warp? s.args.a with
  | none => .next s
  | some w =>
    .next (if (w.kind == .native || w.kind == .guest) && s.splitReady w w.running && s.starved w then { s with cur := some w.uid } else s)

/-! ### The end of a dispatch (R209, R323, R448) -/

/-- A dispatch all of whose wavefronts have ended. -/
def State.dispatchOver (s : State) (d : Dispatch) : Bool :=
  d.entry.isNone && !(s.warps.any fun w => (w.wave.map (·.dispatch)) == some d.uid) &&
    (d.failed.isSome || (d.started == d.count && d.ended == d.count))

/-- TRAPINFO of the sill-dispatch fault (R323). -/
def dispatchInfo (cause wave num : Nat) : Word := word (cause % 256 + wave % 128 * 256 + num % 65536 * 65536)

/-- A dispatch completes (R209, R323, R448): its stamp is written, and its timeline advances; noStamp: fault service on the stamp failed. -/
def State.finishDispatch (s : State) (u : Nat) (noStamp : Bool) : State :=
  match s.dispatch? u with
  | none => s
  | some d =>
    if !s.dispatchOver d then s
    else match if d.stamp = 0 then some (s, false) else s.stampWrite d.fn (dieOfStack d.stack) 0 d.stamp
      (d.number + if d.failed.isSome then 2 ^ 63 else 0) noStamp with
      | none => s.touch d.fn (dieOfStack d.stack) d.stamp 8 true
      | some (s1, lost) =>
        let s2 := if lost then
            ({ s1 with free := s1.free + 1 } : State).log d.fn 0x11 d.stamp (s.agentWord (.dispatch u) false) (Config.freeWord s1.free).toNat 2
              (d.number % 2 ^ 32) 0 |>.1
          else s1
        let failure := if lost && d.failed.isNone then some (0x0D, 0) else d.failed
        let s3 : State := { s2 with dispatches := s2.dispatches.filter (·.uid != u),
                                    saved := s2.saved.filter fun x => (x.warp.wave.map (·.dispatch)) != some u }
        s3.modLaunch d.launch fun l => { l with sill := l.sill.finish d.number (failure.map fun f => (0x15, dispatchInfo f.1 f.2 d.number)) }

/-- SILL_DISPATCH_DONE (R209): dispatch a is done, where it can be. -/
def execSillDispatchDone (s : State) : Out := .next (s.finishDispatch s.args.a false)

/-! ### Bank operations (R211, R333, R334) -/

/-- A bank operation ends (R168, R334): its records close and its timeline advances, failed where its status is not 0. -/
def State.bankopEnd (s : State) (u status addr : Nat) : State :=
  match s.bankop? u with
  | none => s
  | some o =>
    let p := s.pch o.stack o.pch
    let s1 := (s.setPch { p with waiters := p.waiters.filter (· != u) }).closeRecords u
    let s2 := if status = 0 then s1 else (s1.log o.fn 0x11 addr (s.agentWord (.bankop u) false) status 3 (o.number % 2 ^ 32) 0).1
    let s3 : State := { s2 with bankops := s2.bankops.filter (·.uid != u) }
    s3.modLaunch o.launch fun l =>
      { l with bank := l.bank.finish o.number (if status = 0 then none else some (0x13, copyInfo status o.number)) }

/-- A bank operation meets another agent's open record (R278, R334). -/
def State.bankopConflict (s : State) (o : BankOp) (x : Acc × LineKey × Nat × SfrRecord) (write : Bool) : State :=
  let (a, k, bit, r) := x
  let addr := s.conflictAddr a k bit
  ((s.logConflict o.fn 8 addr (s.agentWord (.bankop o.uid) false) (s.agentWord r.agent r.away) (s.conflictHandle k) false
    (r.wr.getLsbD bit) write k.space3).1).bankopEnd o.uid 8 addr

/-- A result row: the products of row f + q accumulated lane by lane (R211), and whether an input is poisoned (R419). -/
def State.bankopRow (s : State) (d : List Byte) (xs : List (BitVec 16)) (ls : List Loc) : List Word :=
  let bs := s.readLocs ls
  (List.range 16).map fun l =>
    (List.range (opK d / 16)).foldl (fun acc w =>
      bankMac acc (weight (fieldAt d 0 4 == 2) ((bs.drop (32 * w)).take 32) l) (xs.getD (16 * w + l) 0)) 0

/-- Destination bytes of result row q (R211). -/
def State.bankopDst (s : State) (b : Block) (o : BankOp) (q : Nat) : Acc :=
  let at0 := opDst o.desc + 64 * q
  { lane := 0, va := at0, locs := (List.range 64).flatMap fun i => s.scrLoc b (at0 + i) }

/-- Sill cycles of a row group (R248, R333): BMACZ, the row activations, the products and BMACRD. -/
def opGroupTime (d : List Byte) : Nat := 65 + 72 * (opK d / 512 + 1) + 5 * (opK d / 16)

/-- Row groups that one entry can hold within 64 us: 102,400 sill cycles, of which the entry and the broadcasts take some
(R218, R248, R333). -/
def opPiece (d : List Byte) : Nat := max 1 ((102400 - 400 - 20 * (opK d / 16)) / opGroupTime d)

/-- The result rows of the row groups that the operation runs in its next entry (R333). -/
def BankOp.piece (o : BankOp) : List Nat :=
  let g := opFirst o.desc / 16 + o.groups
  (List.range (opRows o.desc)).filter fun q => g ≤ (opFirst o.desc + q) / 16 && (opFirst o.desc + q) / 16 < g + opPiece o.desc

/-- The address of x, or of row f + q of W. -/
def State.opVa (s : State) (o : BankOp) (q : Option Nat) : Nat :=
  match q with
  | none => opX o.desc
  | some q => (opW o.desc + (opFirst o.desc + q) * ((s.stripeAt o.fn (opW o.desc)).map (·.bytes)).getD 0) % 2 ^ 64

/-- The bytes of x, or of row f + q of W. -/
def State.opRead (s : State) (o : BankOp) (q : Option Nat) : Except XFault (State × Acc) :=
  if q.isSome && (s.stripeAt o.fn (opW o.desc)).isNone then .error (.viol 1 none)
  else match s.translateN o.fn (s.opVa o q) (2 * opK o.desc) false with
    | .ok (s1, ls) => .ok (s1, { lane := 0, va := s.opVa o q, locs := ls })
    | .error e => .error e

/-- What a bank operation's entry reads, by the rows of W, x first. -/
def BankOp.parts (o : BankOp) : List (Option Nat) := none :: o.piece.map some

/-- The first part of an entry whose translation fails in a given way. -/
def State.opFails (s : State) (o : BankOp) (p : XFault → Bool) : Option (Option Nat) :=
  o.parts.find? fun q => match s.opRead o q with
    | .error e => p e
    | .ok _ => false

/-- The page that an entry of a bank operation waits for. -/
def State.bankopWaitsOn (s : State) (o : BankOp) : Option Nat :=
  (s.opFails o (· == .page)).map fun q => s.faultAt o.fn (s.opVa o q) (2 * opK o.desc) false

/-- What an entry of a bank operation reads: x, then the rows of W (R333). -/
def State.opReads (s : State) (o : BankOp) : Except XFault (State × List Acc) :=
  o.parts.foldl (fun r q => match r with
    | .error e => .error e
    | .ok (s, as) => match s.opRead o q with
      | .ok (s1, a) => .ok (s1, as ++ [a])
      | .error e => .error e) (.ok (s, []))

/-- A line with no room for the records of a bank operation's entry (R269). -/
def State.bankopStall (s : State) (o : BankOp) (b : Block) : Option Loc :=
  match s.opReads o with
  | .ok (s1, as) => s1.fullLine o.uid (as ++ o.piece.map (s1.bankopDst b o))
  | .error _ => none

/-- The mode held for one entry (R219, R333): the products of its row groups are formed; the accumulators of the acting banks, of which the
operation may use any register, are free values to a next owner of the same context (log 8, log 50). -/
def State.bankopEntry (s : State) (o : BankOp) (b : Block) (as : List Acc) : State :=
  let d := o.desc
  let rows := o.piece
  let xl := ((as.head?).map (·.locs)).getD []
  let xs := (List.range (opK d)).map fun i => BitVec.ofNat 16 (fieldAt (s.readLocs xl) (2 * i) 2)
  let ws := List.zip rows ((as.drop 1).map (·.locs))
  let acting := (rows.map fun q => (opFirst d + q) % 16).eraseDups
  let p := (s.enterPch o.stack o.pch o.uid o.fn).pch o.stack o.pch
  let accs := p.accs.zipIdx.map fun x => if acting.contains x.2 then (List.range 128).map fun i => Config.freeWord (s.free + 128 * x.2 + i) else x.1
  let xMarks := (List.range (opK d)).filter fun i => s.poisoned ((xl.drop (2 * i)).take 2)
  let left := { p with accs := accs, accPoison := p.accPoison.filter (fun x => !acting.contains (x / 128)), bcast := xs ++ p.bcast.drop (opK d),
                       bcastPoison := xMarks ++ p.bcastPoison.filter (opK d ≤ ·) }
  let s1 := (({ s with free := s.free + 2048 } : State).setPch left).leavePch o.stack o.pch o.fn
  let groups := o.groups + opPiece d
  let last := (opFirst d + opRows d - 1) / 16 < opFirst d / 16 + groups
  let again (p : Pch) : Pch := if last then p else { p with waiters := p.waiters ++ [o.uid] }
  let s2 := s1.setPch (again (s1.pch o.stack o.pch))
  let bad := (ws.filter fun x => s.poisoned (xl ++ x.2)).map (·.1)
  let s3 := s2.setBankop { o with rows := o.rows ++ ws.map (fun x => (x.1, s.bankopRow d xs x.2)), poisoned := o.poisoned ++ bad, groups := groups, ran := last }
  rows.foldl (fun s q => (s.granules (s.bankopDst b o q)).foldl (fun s g => s.addGranule (.bankop o.uid) o.uid false false true g) s) s3

/-- The operation as owner (R333): it reads, is checked, and holds the mode; it stalls at a full line (R269), and waits for a
page and for another pseudo-channel that x lies in (R329). -/
def State.runBankop (s : State) (o : BankOp) (b : Block) : State :=
  match s.opReads o with
  | .error .page => ((s.bankopWaitsOn o).map (s.askHost o.fn)).getD s
  | .error (.viol _ entry) => (s.logEntry o.fn entry).bankopEnd o.uid 4 (((s.opFails o (· != .page)).map (s.opVa o)).getD 0)
  | .ok (s1, as) =>
    match as.find? fun a => (s1.shutOut (dieOfStack o.stack) a.locs).isSome with
    | some a => ((s1.log o.fn 0x15 a.va (s.agentWord (.bankop o.uid) false) 0 2 0 0).1).bankopEnd o.uid 4 a.va
    | none =>
      match s1.conflictOf (.bankop o.uid) false as with
      | some c => s1.bankopConflict o c false
      | none => if (s1.bankopStall o b).isSome ∨ (s1.bankWait o.uid none as).isSome then s else s1.bankopEntry o b as

/-- BANKOP_RUN (R333): bank operation a holds the mode for its next row groups, where it is first in arrival order, the
pseudo-channel is free and its function runs (R392). -/
def execBankopRun (s : State) : Out :=
  match s.bankop? s.args.a with
  | none => .next s
  | some o =>
    match s.block? o.block with
    | none => .next (s.bankopEnd o.uid 4 0)
    | some b =>
      let running := ((s.fn? o.fn).map (·.running)).getD false
      if o.status ≠ 0 then .next (s.bankopEnd o.uid o.status 0)
      else if o.ran ∨ !running ∨ (s.pch o.stack o.pch).waiters.head? ≠ some o.uid ∨ !s.pchFree o.stack o.pch then .next s
      else .next (s.runBankop o b)

/-- The next result row of a bank operation lands (R169, R211, R293, R334). -/
def State.landRow (s : State) (o : BankOp) (b : Block) (r : Nat × List Word) : State :=
  let a := s.bankopDst b o r.1
  if a.locs.length ≠ 64 then s.bankopEnd o.uid 4 (s.windowAddr b.uid (opDst o.desc + 64 * r.1))
  else if (s.shutOut (dieOfStack o.stack) a.locs).isSome then
    ((s.log o.fn 0x15 a.va (s.agentWord (.bankop o.uid) false) 0 2 0 0).1).bankopEnd o.uid 4 a.va
  else match s.conflictOf (.bankop o.uid) true [a] with
    | some c => s.bankopConflict o c true
    | none =>
      match s.heldLoc a.locs fun _ _ => true with
      | some h =>
        ((s.logConflict o.fn 2 (s.windowAddr h.block (h.off / 4 * 4)) (s.agentWord (.bankop o.uid) false) (s.agentWord h.holder false) 0 false false
          true 2).1).bankopEnd o.uid 3 (s.windowAddr h.block h.off)
      | none =>
        let s1 := s.land (List.zip a.locs (r.2.flatMap fun w => leBytes 4 w.toNat)) none
        let s2 := if o.poisoned.contains r.1 then s1.mark a.locs else s1
        (s2.closeGranules o.uid true (s2.granules a)).setBankop { o with landed := o.landed + 1 }

/-- BANKOP_RESULT_LAND (R211, R334): the next row of bank operation a lands; with every row landed it is done; rows wait while the block is
pre-empted (R392). -/
def execBankopResultLand (s : State) : Out :=
  match s.bankop? s.args.a with
  | none => .next s
  | some o =>
    if o.status ≠ 0 then .next (s.bankopEnd o.uid o.status 0)
    else match s.block? o.block with
      | none => .next (s.bankopEnd o.uid 4 0)
      | some b =>
        match o.rows[o.landed]? with
        | none => .next (if o.ran then s.bankopEnd o.uid 0 0 else s)
        | some r => .next (if b.preempt = .none then s.landRow o b r else s)

end Sys2Proof.Machine
end

