-- ==== Sys2Proof/Machine/Shuttles.lean ====
section
/-! DEFINITION. Shuttles on their way (R35, R299 to R314): asking a shed again, landing, guest wavefronts and warps, coming
home, and recall. -/

namespace Sys2Proof.Machine

/-! ### Departure asked again -/

/-- A split that a full shed has turned away makes its next attempt at every destination that it asks (R302). -/
def Split.askAgain (sp : Split) : Split :=
  if sp.status = .shed then { sp with status := .ready, asks := sp.asks.map fun (a : ShedAsk) => { a with tries := a.tries + 1 } } else sp

/-- SHED_RETRY (R302): the splits of agent a that asked a full shed ask again, 256 cycles later. -/
def execShedRetry (s : State) : Out := .next (s.modWarp s.args.a fun w => { w with splits := w.splits.map Split.askAgain })

/-! ### The shuttle (R300) -/

/-- A clause address and slot as a shuttle holds them. -/
def Shuttle.place (h : Shuttle) : Nat := (trapPc h.pc h.slot).toNat

/-- The 128 bytes of a shuttle (R300). -/
def Shuttle.bytes (h : Shuttle) : List Byte :=
  let flags := (if h.fault.isSome then 64 else 0) + (if h.modew then 32 else 0) + (if h.homeward then 16 else 0) + h.hops
  let words (n : Nat) (l : List Word) : List Byte := (List.range n).flatMap fun i => leBytes 4 (l.getD i 0).toNat
  leBytes 1 h.hcore ++ leBytes 1 h.hslot ++ leBytes 1 h.lane ++ leBytes 1 h.vf ++ leBytes 4 h.blockId ++ leBytes 2 h.queue ++ leBytes 1 h.part ++
    leBytes 1 flags ++ leBytes 4 h.epoch ++ leBytes 8 h.place ++ ((List.range 4).flatMap fun i => leBytes 4 (h.modes.getD i 0).toNat) ++
    leBytes 1 h.pred.toNat ++ leBytes 1 h.sticky.toNat ++ leBytes 2 0 ++ leBytes 4 h.vmask.toNat ++ leBytes 4 h.smask.toNat ++
    leBytes 4 ((h.fault.map (·.2.toNat)).getD 0) ++ leBytes 1 ((h.fault.map (·.1)).getD 0) ++ leBytes 7 0 ++ words 12 h.vslots ++ words 4 h.sslots

/-! ### Landing -/

/-- The value that a carry list gives a register (R300). -/
def carried (m : Word) (slots : List Word) (r : Nat) : Option Word :=
  if hasLane m r then slots[(carryList m).idxOf r]? else none

/-- The away lane that a shuttle is where it has landed (R35, R300, R303): carried registers, all others zero, docked. -/
def Shuttle.guest (h : Shuttle) (uid : Nat) (home : Warp) : Warp :=
  let w := startWarp uid .guest h.pc (oneLane h.lane)
  let reg (r : Nat) : VReg :=
    { VReg.empty with
      live := true, val := perLane fun i => if i = h.lane then (carried h.vmask h.vslots r).getD 0 else 0,
      poison := if hasLane h.vmask r && hasLane h.vpois r then oneLane h.lane else 0 }
  { w with
    launch := home.launch, block := home.block, idx := home.idx, core := home.core,
    v := (List.range 32).map reg, s := (List.range 32).map fun r => (carried h.smask h.sslots r).getD 0, spoison := h.spois &&& h.smask,
    p := (List.range 8).map fun n => if h.pred.getLsbD n then oneLane h.lane else 0, m := h.modes, carryV := h.vmask, carryS := h.smask,
    sticky := h.sticky, splits := [{ Split.free with pc := h.pc, slot := h.slot, lanes := oneLane h.lane }, Split.free, Split.free, Split.free],
    parked := true, age := uid,
    guest := some { home := h.home, lane := h.lane, hops := h.hops, epoch := h.epoch, modew := h.modew, onStack := h.toStack, site := h.site,
                    sillCore := 0, slot := none, group := 0, age := uid } }

/-- Whether a warp's shuttles are recalled: its block is being pre-empted, its launch is cancelled, or an error has ended it (R312, R314,
R383). -/
def State.recalls (s : State) (home : Warp) : Bool :=
  home.gone || (s.block? home.block).any fun b => (b.preempt == .requested) || ((s.launch? b.launch).map (·.cancelled)).getD false

/-- A docked or running away lane goes home where it stands (R312); one in a service call goes once the call is over. -/
def State.recallGuest (s : State) (w : Warp) : State :=
  match w.splits[0]? with
  | none => s
  | some sp =>
    match sp.status with
    | .svc _ => s
    | _ => s.sendHome { w with replay := none } sp.pc sp.slot none false

/-- Every away lane of a block that can goes home (R312). -/
def State.recallBlock (s : State) (block : Nat) : State :=
  (s.warps.filter fun w => w.kind == .guest && w.block == block).foldl State.recallGuest s

/-- SHUTTLE_LANDING (R302, R305, R312): outward shuttle a lands and docks; one of a recalled block then returns. -/
def execShuttleLanding (s : State) : Out :=
  match s.shuttles[s.args.a]? with
  | none => .next s
  | some h =>
    match s.warp? h.home with
    | none => .next { s with shuttles := s.shuttles.eraseIdx s.args.a }
    | some home =>
      if h.homeward then .next s
      else
        let u := s.fresh
        let g := h.guest u.1 home
        let s1 : State := { u.2 with shuttles := s.shuttles.eraseIdx s.args.a, warps := u.2.warps ++ [g] }
        .next (if s.recalls home then s1.recallGuest g else s1)

/-! ### Guest wavefronts and guest warps (R303, R304, R313) -/

/-- Docked lanes at a place, oldest first. -/
def State.docked (s : State) (onStack : Bool) (site : Nat) : List Warp :=
  sortBy (fun w => (w.guest.map (·.age)).getD 0)
    (s.warps.filter fun w => w.parked && w.replay.isNone && w.guest.any fun g => g.onStack == onStack && g.site == site && g.slot.isNone)

/-- What the lanes of one guest wavefront share: QUEUE, BLOCK, PC and MODES (R303). -/
def State.guestKey (s : State) (w : Warp) : Nat × Nat × Dword × Nat × List (BitVec 22) :=
  let sp := (w.splits[0]?).getD Split.free
  let h := s.homeAddr ((w.guest.map (·.home)).getD 0)
  (h.queue, h.blockId, sp.pc, max sp.slot 1, w.m)

/-- The oldest docked lane with the docked lanes that match it, up to n, by ascending LANEID and home warp (R303). -/
def State.formation (s : State) (onStack : Bool) (site n : Nat) : List Warp :=
  match s.docked onStack site with
  | [] => []
  | w :: rest =>
    sortBy Warp.position ((w :: rest.filter fun x => s.guestKey x == s.guestKey w).take n)

/-- A formed wavefront or warp takes a slot; its flags start clear, as its lanes' operations have completed (R303, R313), and
its lanes start in step. -/
def State.form (s : State) (ws : List Warp) (core slot : Nat) : State :=
  let u := s.fresh
  ws.zipIdx.foldl (fun s x => s.modWarp x.1.uid fun w =>
    { w with parked := false, f := List.replicate 12 0, age := u.1 + x.2,
             splits := w.splits.map fun (sp : Split) => { sp with steps := 0, vote := none, asks := [] },
             guest := w.guest.map fun g => { g with sillCore := core, slot := some slot, group := u.1 } })
    { u.2 with nextUid := u.1 + 33 }

/-- GUEST_WAVEFRONT_FORMATION (R303, R320): a guest slot of sill core b of stack a is free, and docked lanes take it. -/
def execGuestWavefrontFormation (s : State) : Out :=
  let used := s.warps.filterMap fun w => w.guest.bind fun g => if g.onStack && g.site == s.args.a && g.sillCore == s.args.b then g.slot else none
  let alive := s.args.b < 16 && !((s.frontEnds[s.args.a]?).map fun f => f.deadCores.contains s.args.b).getD true
  match (List.range 8).find? fun k => !used.contains k, s.formation true s.args.a 16 with
  | some k, w :: ws => .next (if alive then s.form (w :: ws) s.args.b k else s)
  | _, _ => .next s

/-- GUEST_WARP_FORMATION (R304): a warp slot of core a is free, and docked lanes take it. -/
def execGuestWarpFormation (s : State) : Out :=
  let used := s.usedSlots s.args.a
  match (List.range 96).find? fun k => !used.contains k, s.formation false s.args.a 32 with
  | some k, w :: ws => .next (s.form (w :: ws) s.args.a k)
  | _, _ => .next s

/-- An away lane docks again where it stands, its operations complete (R303, R313). -/
def State.dockAgain (s : State) (u : Nat) : State :=
  (s.completeOps u fun _ => true).modWarp u fun w =>
    { w with parked := true, splits := w.splits.map fun (sp : Split) => { sp with vote := none, asks := [] },
             guest := w.guest.map fun g => { g with slot := none, group := 0 } }

/-- A lane whose PC has come to differ from that of its wavefront's lowest position leaves it and docks again (R303). -/
def State.regroup (s : State) (w : Warp) : State :=
  match w.guest with
  | none => s
  | some g =>
    if g.group = 0 then s
    else
      let team := sortBy Warp.position (s.warps.filter fun x => x.guest.any (·.group == g.group))
      let place (x : Warp) : Dword × Nat := let sp := (x.splits[0]?).getD Split.free; (sp.pc, max sp.slot 1)
      if team.all (fun x => x.stepCount == w.stepCount) && (team.head?).any fun x => place x != place w then s.dockAgain w.uid else s

/-- GUEST_PREEMPTION (R313): the lanes in guest slot c of sill core b of stack a, or with flag in warp slot c of core a, dock again. -/
def execGuestPreemption (s : State) : Out :=
  let hit (w : Warp) : Bool := w.guest.any fun g =>
    g.slot == some s.args.c && g.site == s.args.a && (if s.args.flag then !g.onStack else g.onStack && g.sillCore == s.args.b)
  .next (((s.warps.filter hit).map (·.uid)).foldl State.dockAgain s)

/-! ### Coming home (R309, R310, R311) -/

/-- A return applied to its home warp (R309): every register that the lane's own CARRY names comes home, though R300 has 12
and 4 slots, since R309 refuses no return (DEDUCED, log 63); an exiting lane comes without registers (R91), and one of a warp
that an error has ended is only back (R314). A return never allocates (R301): the value of a name that is unallocated at home
is lost. -/
def Warp.comeHome (w : Warp) (h : Shuttle) : Warp :=
  let m := oneLane h.lane
  let away := w.away &&& ~~~m
  if w.gone then { w with away := away }
  else if h.exits then { w.missBack m with away := away, exited := w.exited ||| m, sticky := w.sticky ||| h.sticky }
  else
    let w1 := (carryList h.vmask).zipIdx.foldl (fun w x =>
      if (w.reg x.1).live then w.putV x.1 m (List.replicate 32 (h.vslots.getD x.2 0)) (if hasLane h.vpois x.1 then m else 0) else w) w
    let w2 := (List.range 8).foldl (fun w n => w.putP n m (if h.pred.getLsbD n then m else 0)) w1
    let w3 := (carryList h.smask).zipIdx.foldl (fun w x => w.putS x.1 (h.sslots.getD x.2 0) (hasLane h.spois x.1)) w2
    let trap : List Carried := match h.fault with
      | some f => [{ lane := h.lane, pc := h.pc, slot := h.slot, cause := f.1, info := f.2 }]
      | none => []
    { w3 with away := away, sticky := w3.sticky ||| h.sticky, m := if h.modew then h.modes else w3.m, carried := w3.carried ++ trap,
              returned := w3.returned ++ [{ lane := h.lane, pc := h.pc, slot := h.slot, group := h.group, left := h.left }] }

/-- The place of a split or of a returned lane, slot 0 standing for slot 1 (R33). -/
def samePlace (pc : Dword) (slot : Nat) (pc' : Dword) (slot' : Nat) : Bool := pc == pc' && max slot 1 == max slot' 1

/-- Rule 1 of R310: the returned lanes whose place is the slot after a HOME at which a split is blocked join that split. -/
def Warp.joinHome (w : Warp) : Warp :=
  (List.range w.splits.length).foldl (fun w k =>
    match w.splits[k]? with
    | none => w
    | some sp =>
      if sp.live && sp.status == .home then
        let next := sp.advance
        let here (r : Returned) : Bool := samePlace r.pc r.slot next.pc next.slot
        let m := maskOf fun i => w.returned.any fun r => r.lane == i && here r
        let join (x : Split) : Split := { x with lanes := x.lanes ||| m, missed := (x.missed ++ w.missedBy m).eraseDups }
        let again (x : Split) : Split := if x.status = .home ∧ x.pc = sp.pc ∧ x.slot = sp.slot then join x else x
        { (w.missBack m).setSplit k (join sp) with
          returned := w.returned.filter fun r => !here r,
          region := w.region.map fun r => { r with splits := r.splits.modify k again } }
      else w) w

/-- An open region restarts a split that lanes form when they return where they do so (DEDUCED, log 65). -/
def OpenRegion.join (r : OpenRegion) (sp : Split) : OpenRegion :=
  match r.splits.findIdx? fun x => !x.live with
  | some k => { r with splits := r.splits.set k sp }
  | none => { r with splits := r.splits ++ [sp] }

/-- Rule 2 of R310: the first returned lane with those of its group at its place forms a split, where the warp has fewer than four. -/
def Warp.formSplit (w : Warp) : Warp :=
  match w.returned, w.freeSplit with
  | r :: _, some k =>
    let mine (x : Returned) : Bool := x.group == r.group && x.left == r.left && samePlace x.pc x.slot r.pc r.slot &&
      (r.group != 0 || x.lane == r.lane)
    let m := maskOf fun i => w.returned.any fun x => x.lane == i && mine x
    let sp : Split := { Split.free with pc := r.pc, slot := r.slot, lanes := m, held := w.handler != .none, missed := w.missedBy m }
    { (w.missBack m).addSplit k sp with
      returned := w.returned.filter fun x => !mine x, region := w.region.map fun r => r.join { sp with held := false } }
  | _, _ => w

/-- Returned lanes placed as far as R310 allows now. -/
def Warp.placeReturned (w : Warp) : Warp := (List.range 4).foldl (fun w _ => w.formSplit) w.joinHome

/-- Returned lanes of a warp are placed; deferred frees take effect (R13); a warp left with no lane exits (R91). -/
def State.settleHome (s : State) (u : Nat) : State :=
  let s1 := s.modWarp u fun w => w.placeReturned.settle
  if (s1.warp? u).any fun w => w.kind == .main && !w.gone && !w.parked && w.allLanes == 0 then (s1.exitWarp u)
  else s1

/-- Whether a lane of the same guest wavefront has yet to execute the instruction at which a returning lane left (R309: they
return together). -/
def State.othersComing (s : State) (h : Shuttle) : Bool :=
  h.group != 0 && s.warps.any fun w =>
    (w.guest.any fun g => g.group == h.group && g.home == h.home) && !w.parked && w.replay.isNone && w.stepCount == h.left &&
      w.splits.any fun sp => sp.live && sp.status == .ready

/-- SHUTTLE_RETURN (R309 to R311): homeward shuttle a arrives, with the lanes of its warp that return with it from one guest wavefront. -/
def execShuttleReturn (s : State) : Out :=
  match s.shuttles[s.args.a]? with
  | none => .next s
  | some h =>
    if !h.homeward || s.othersComing h then .next s
    else
      let mine (x : Shuttle) : Bool := x == h || (x.homeward && h.group != 0 && x.home == h.home && x.group == h.group && x.left == h.left)
      let hs := sortBy (·.lane) (s.shuttles.filter mine)
      let s1 : State := { s with shuttles := s.shuttles.filter fun x => !mine x }
      .next ((s1.modWarp h.home fun w => hs.foldl Warp.comeHome w).settleHome h.home)

end Sys2Proof.Machine
end

