-- ==== Sys2Proof/Machine/Slice.lean ====
section
/-! DEFINITION. What ends a wait (R18, R41, R45, R167 to R170, R189, R216, R237 to R240, R269), replay after a page fault
(R131, R244), bandwidth shares (R408), and time slices: pre-emption and resumption of blocks (R386 to R396, R406). -/

namespace Sys2Proof.Machine

/-! ### Completion and replay -/

/-- LONG_LATENCY_COMPLETION (R22, R23, R41, R237): outstanding operation b of agent a completes. -/
def execLongLatencyCompletion (s : State) : Out :=
  match s.warp? s.args.a with
  | none => .next s
  | some w => match w.ops[s.args.b]? with
    | some o => .next (s.completeOp w.uid o)
    | none => .next s

/-- Barrier episodes of a block that a warp's return to the arrived ones may complete (R163, R244). -/
def State.barrierSteps (s : State) (block : Nat) : State := (List.range 16).foldl (fun s o => s.barrierStep block o) s

/-- PAGE_FAULT_REPLAY (R131, R244, R396): the page that agent a waits for has been made present, and its faulting slot is
executed again; its warp counts as arrived again where it had arrived. A page that migrates is waited for until the switch
(R403). -/
def execPageFaultReplay (s : State) : Out :=
  match s.warp? s.args.a with
  | none => .next s
  | some w => match w.replay with
    | none => .next s
    | some r => match s.translateN (s.fnOf w) r.1.toNat 1 false with
      | .error .page => .next s
      | _ => .next (if s.migrating (s.fnOf w) r.1.toNat then s else (s.setWarp { w with replay := none }).barrierSteps w.block)

/-- An agent's page fault cannot be resolved: it takes the access-violation trap with reason 1 (R131). -/
def State.failReplay (s : State) (w : Warp) : State :=
  match w.replay with
  | none => s
  | some r =>
    let sp := (w.splits[w.running]?).getD Split.free
    ((s.setWarp { w with replay := none }).takeTrap w.uid w.running 0xD r.2 sp.pc sp.slot).barrierSteps w.block

/-- FAULT_SERVICE_FAILURE (R131, R286, R289, R323, R334, R448): the fault service cannot resolve the fault that agent, copy command, bank
operation, block or dispatch a waits for.  An agent takes the access-violation trap with reason 1; a copy or bank operation fails with
status 4; a stamp is not written. -/
def execFaultServiceFailure (s : State) : Out :=
  match s.warp? s.args.a, s.copy? s.args.a, s.bankop? s.args.a with
  | some w, _, _ => .next (s.failReplay w)
  | _, some c, _ => .next (match (s.block? c.block).bind fun b => s.copyWaitsOn b c with
      | some va => s.copyFail c.uid 4 va
      | none => s.copyDone c.uid true)
  | _, _, some o => .next (match s.bankopWaitsOn o with
      | some va => if o.ran then s else s.bankopEnd o.uid 4 va
      | none => s)
  | _, _, _ => .next (if (s.block? s.args.a).isSome then s.consumeEntry s.args.a true else s.finishDispatch s.args.a true)

/-! ### GROW (R18, R19) -/

/-- GROW_GRANT (R18, R19): the oldest blocked requests of core a are granted while its pool covers them. -/
def execGrowGrant (s : State) : Out := .next (s.growGrants s.args.a 96)

/-- A core is in GROW deadlock (R18): its oldest request cannot be granted and every other resident warp is blocked in GROW
too. A warp one of whose splits waits in GROW counts as blocked in it, whatever its other splits do, and guest warps of the core (R304) do
not count as resident: the model's choices (DEDUCED, log 57, log 63). -/
def State.growDeadlock (s : State) (core : Nat) : Option GrowReq :=
  match s.growQ.find? fun q => ((s.warp? q.warp).map (·.core)) == some core with
  | none => none
  | some q =>
    let stuck (w : Warp) : Bool := w.splits.any fun sp => sp.live && sp.status == .wait .grow
    let resident (w : Warp) : Bool := w.kind == .main && w.core == core && !w.gone && ((s.block? w.block).map (·.preempt)) != some .taken
    let quota := ((s.warp? q.warp).map (·.quota)).getD 0
    if (q.want : Int) - (quota : Int) ≤ s.poolFree core then none
    else if s.warps.all fun w => !resident w || stuck w then some q else none

/-- GROW_DEADLOCK (R18): the oldest request of core a fails with status 1, and granting resumes. -/
def execGrowDeadlock (s : State) : Out :=
  match s.growDeadlock s.args.a with
  | none => .next s
  | some q =>
    let fail (w : Warp) : Warp := (w.setSplit q.split { ((w.splits[q.split]?).getD Split.free).advance with status := .ready }).putS q.dst 1 false
    .next (({ s.modWarp q.warp fail with growQ := s.growQ.filter (· != q) } : State).growGrants s.args.a 96)

/-! ### Selection (R235, R238 to R240) -/

/-- WARP_AGE_PROMOTION (R235): agent a, which has waited longest among the ready ones, issues next. -/
def execWarpAgePromotion (s : State) : Out :=
  match s.warp? s.args.a with
  | none => .next s
  | some w => .next (if s.splitReady w w.running then { s with cur := some w.uid } else s)

/-- FAIRNESS_TIMER_EXPIRY (R238, R239): F cycles have passed for the running split of agent a, those that its waiting time
holds included; the others are added to its other ready splits' waits, and the forced switch takes effect at the clause
boundary, after an LR's hold (R152). -/
def execFairnessTimerExpiry (s : State) : Out :=
  match s.warp? s.args.a with
  | none => .next s
  | some w =>
    let f := s.fairness w - ((w.splits[w.running]?).map (·.waited)).getD 0
    let tick (x : Split × Nat) : Split := if x.2 != w.running && s.splitCan w x.2 then { x.1 with waited := x.1.waited + f } else x.1
    .next ((s.setWarp { w with splits := w.splits.zipIdx.map tick, expired := true }).after w.uid)

/-- JOIN_FAIRNESS_LIMIT (R240): split b of agent a has waited F cycles at its JOIN: the splits that wait there merge, and
those that arrive later merge with nothing.  Of an agent that has nothing to issue c cycles more have passed. -/
def execJoinFairnessLimit (s : State) : Out :=
  match s.warp? s.args.a with
  | none => .next s
  | some w =>
    match w.splits[s.args.b]? with
    | none => .next s
    | some sp =>
      let waited := sp.waited + if (List.range 4).any (s.splitCan w) then 0 else s.args.c
      .next (if !sp.live || sp.status != .join then s
        else if s.fairness w ≤ waited then (s.modWarp w.uid fun w => w.missJoin sp.pc).joinDone w.uid sp.pc
        else s.setSplit w.uid s.args.b { sp with waited := waited })

/-! ### Waits that are executed again (R45, R167 to R170, R189) -/

/-- Whether what a blocked split waits for holds, so that its instruction is executed again. -/
def State.condHolds (s : State) (w : Warp) (k : Nat) (cond : Cond) : Bool :=
  let c : Ctx := { st := s, w := w, k := k, sp := (w.splits[k]?).getD Split.free }
  let word8 (va : Dword) (p : Nat → Bool) : Bool := match s.reachN c.fn w.die va.toNat 8 false with
    | .ok (s1, ls) => (s1.bankWait w.uid c.sp.queued [{ lane := 0, va := va.toNat, locs := ls }]).isNone && p (leNat (s1.readLocs ls))
    | .error _ => true
  let reached (code : Nat) (v : Dword) : Bool := ((s.line w code).map fun l => decide (v.toNat ≤ l.done)).getD true
  let blk (p : Block → Bool) : Bool := ((s.block? w.block).map p).getD true
  match cond with
  | .memGe va v => word8 va fun x => v.toNat ≤ x
  | .memNe va v => word8 va fun x => x != v.toNat
  | .timeline code v => reached code v
  | .batch v => reached 1 v
  | .counter off v => match c.scratch 8 s 0 off with
    | .ok (s1, a) => v.toNat ≤ leNat (s1.readLocs a.locs)
    | .error _ => true
  | .barw obj p => blk fun b => (b.barrier obj).2 != p
  | .recv addr =>
    let m := s.readLocs ((Loc.dev addr.toNat).span 64)
    fieldAt m 24 8 < fieldAt m 16 8
  | .svcSlot addr => 0 < s.freeSlots true addr.toNat
  | .commit => blk fun b => !(((s.ctxNum w).map fun n => s.followPending b n).getD false)
  | .contextFull => ((((s.ctxNum w).bind fun n => s.mctx? w.block n).map fun x => decide (x.2.cmds.length < 16))).getD true
  | .copyRing => blk fun b => b.pending.2 ≤ b.pending.1
  | .record l => !s.lineFull w.uid l
  | .stripe st i => !s.pchBusy w.uid (sinceAt c.sp.queued (.pch st i)) st i
  | .migrating va => !s.migrating c.fn va.toNat && (s.pageBehind c.sp.queued).isNone
  | .window b => !((s.block? b).any (·.preempt != .none))
  | .away => !w.someAway
  | .arrive _ _ | .grow | .abmode _ _ => false

/-- A poll of a word in memory, where it can be read: its walk counts (R398). -/
def State.poll (s : State) (w : Warp) (c : Cond) : State :=
  match c with
  | .memGe va _ | .memNe va _ => if (s.readVa (s.fnOf w) w.die va.toNat 8).isSome then s.touch (s.fnOf w) w.die va.toNat 8 else s
  | _ => s

/-- A split whose wait is over executes its instruction again. -/
def State.wakeSplit (s : State) (u k : Nat) (p : Cond → Bool) : State :=
  match s.warp? u with
  | none => s
  | some w =>
    match w.splits[k]? with
    | none => s
    | some sp =>
      match sp.status with
      | .wait c =>
        if !sp.live || !p c then s
        else if s.condHolds w k c then (s.poll w c).setSplit u k { sp with status := .ready } else s.poll w c
      | _ => s

/-- MEMORY_WAIT_WAKE (R167): the word that split b of agent a waits on meets its condition. -/
def execMemoryWaitWake (s : State) : Out :=
  .next (s.wakeSplit s.args.a s.args.b fun c => match c with | .memGe _ _ | .memNe _ _ => true | _ => false)

/-- TIMELINE_WAIT_WAKE (R168): the timeline has reached the threshold of split b of agent a. -/
def execTimelineWaitWake (s : State) : Out :=
  .next (s.wakeSplit s.args.a s.args.b fun c => match c with | .timeline _ _ => true | _ => false)

/-- COUNTER_WAIT_WAKE (R170): the arrival counter has reached the value of split b of agent a. -/
def execCounterWaitWake (s : State) : Out :=
  .next (s.wakeSplit s.args.a s.args.b fun c => match c with | .counter _ _ => true | _ => false)

/-- BATCH_WAIT_WAKE (R189): the batches that split b of agent a waits for are complete. -/
def execBatchWaitWake (s : State) : Out :=
  .next (s.wakeSplit s.args.a s.args.b fun c => match c with | .batch _ => true | _ => false)

/-- SVC_SLOT_FREE (R413): the host's queue has a slot for the call of split b of agent a. -/
def execSvcSlotFree (s : State) : Out :=
  .next (s.wakeSplit s.args.a s.args.b fun c => match c with | .svcSlot _ => true | _ => false)

/-- SVC_REPLY_WAKE (R216): bit 63 of the reply word is set; the split acquires, its pair takes the reply, and it goes on. -/
def execSvcReplyWake (s : State) : Out :=
  match s.warp? s.args.a with
  | none => .next s
  | some w =>
    match w.splits[s.args.b]? with
    | none => .next s
    | some sp =>
      match sp.status with
      | .svc va =>
        match s.readVa (s.fnOf w) w.die va.toNat 8, s.fetchWord w (sp.pc.toNat + 4 * sp.slot) with
        | some bs, .ok (_, i) =>
          if bitAt (leNat bs) 63 then
            let s1 := ((s.touch (s.fnOf w) w.die va.toNat 8).completeOps w.uid (·.memory)).endSfr w.uid
            let s2 := s1.applyWrites w (swrite2 (bitsAt i.toNat 23 19) (leNat bs % 2 ^ 63))
            .next (s2.setSplit w.uid s.args.b { sp.advance with status := .ready })
          else .next s
        | _, _ => .next s
      | _ => .next s

/-- An agent closes its SFR without waiting for a clause boundary (R269): its running split is blocked at a wait point (R45),
or every split is blocked or held. -/
def Warp.closesNow (w : Warp) : Bool :=
  (w.splits[w.running]?).any (fun sp => sp.live && sp.status != .ready && !sp.status.stalls) ||
    w.splits.all fun sp => !sp.live || sp.held || sp.status != .ready

/-- The location at whose full line an access stalls (R269): that of split b of an agent, or the next of a copy command or
bank operation. -/
def State.stallAt (s : State) (u k : Nat) : Option Loc :=
  match s.warp? u, s.copy? u, s.bankop? u with
  | some w, _, _ => (w.splits[k]?).bind fun sp => match sp.status with
    | .wait (.record l) => some l
    | _ => none
  | _, some c, _ => (s.block? c.block).bind fun b => s.copyStall b c
  | _, _, some o => (s.block? o.block).bind fun b => if o.ran then none else s.bankopStall o b
  | _, _, _ => none

/-- RECORD_CLOSE_REQUEST (R269): split b of agent a, or copy command or bank operation a, has stalled at a full line; the
agent of the oldest record that can be closed on request is asked. -/
def execRecordCloseRequest (s : State) : Out :=
  match (s.stallAt s.args.a s.args.b).bind fun l => (s.lineRecords l).find? (·.closable) with
  | none => .next s
  | some r =>
    match s.warp? r.owner with
    | none => .next (s.closeRecords r.owner)
    | some x => .next (if x.closesNow then s.endSfr x.uid else s.setWarp { x with closeReq := true })

/-! ### Bandwidth shares (R408) -/

/-- Bytes of a bucket's depth (R407): DEPTH in KiB, 0 taken as 1. -/
def Bucket.size (b : Bucket) : Nat := 1024 * max 1 b.depth.toNat

/-- The depth of a partition's pool at a stack (R408): a quarter of the depths of its contexts' limited buckets there. -/
def State.poolDepth (s : State) (part stack : Nat) : Nat :=
  ((s.admin.buckets.filter fun b => b.stack == stack && b.rate != 0xFFFF && ((s.fn? b.fn).map (·.partition)) == some part).foldl
    (fun n b => n + b.size) 0) / 4

/-- Tokens that a bucket holds after some more have come, and those that overflow to the pool (R408). -/
def Bucket.accrue (b : Bucket) (n : Nat) : Bucket × Nat := ({ b with level := min b.size (b.level + n) }, b.level + n - b.size)

/-- BUCKET_ADMISSION (R408): tokens accrue for c microseconds in the bucket of function a at stack b, and overflow to the
pool; then its oldest waiting request is admitted, where its bucket, or its bucket and the pool, hold the charge. -/
def execBucketAdmission (s : State) : Out :=
  match s.admin.buckets.find? fun b => b.fn == s.args.a && b.stack == s.args.b with
  | none => .next s
  | some b0 =>
    let part := ((s.fn? b0.fn).map (·.partition)).getD 0
    let pool0 := ((s.admin.pools.find? fun p => p.1 == part && p.2.1 == b0.stack).map (·.2.2)).getD 0
    let tokens := if b0.rate = 0xFFFF then 0 else 128 * b0.rate.toNat * s.args.c
    let b := (b0.accrue tokens).1
    let pool := min (max pool0 (s.poolDepth part b0.stack)) (pool0 + (b0.accrue tokens).2)
    let set (x : Bucket) (pool : Nat) : State :=
      { s with admin := { s.admin with
          buckets := updateFirst (fun y => y.fn == b.fn && y.stack == b.stack) (fun _ => x) s.admin.buckets,
          pools := s.admin.pools.filter (fun p => !(p.1 == part && p.2.1 == b.stack)) ++ if pool = 0 then [] else [(part, b.stack, pool)] } }
    match b.waiting with
    | [] => .next (if tokens = 0 then s else set b pool)
    | n :: rest =>
      .next (if b.rate = 0xFFFF then set { b with waiting := rest } pool
        else if n ≤ b.level then set { b with level := b.level - n, waiting := rest } pool
        else if n ≤ b.level + pool then set { b with level := 0, waiting := rest } (pool - (n - b.level))
        else if tokens = 0 then s else set b pool)

/-! ### The end of a slice (R312, R313, R322, R386, R406) -/

/-- The function of a block. -/
def State.fnOfBlock (s : State) (b : Block) : Nat := ((s.launch? b.launch).map (·.fn)).getD 0

/-- A block is asked to give up its core (R386, R387): not where its launch has no handler. -/
def State.requestBlock (s : State) (b : Block) : State :=
  let handler := ((s.launch? b.launch).map (·.handler)).getD 0
  if b.preempt = .none ∧ handler ≠ 0 ∧ (s.liveWarps b).length ≠ 0 then
    (s.modBlock b.uid fun b => { b with preempt := .requested, tag := 0 }).recallBlock b.uid
  else s

/-- Whether a function's slice can begin: it does not run, its partition has no running function, and none of its blocks is being taken. -/
def State.sliceMayBegin (s : State) (f : Fn) : Bool :=
  !f.running && !(s.admin.fns.any fun x => x.partition == f.partition && x.running) &&
    !(s.blocks.any fun b => b.preempt == .requested && s.fnOfBlock b == f.id)

/-- Whether a function has work that a slice serves (R406). -/
def State.hasWork (s : State) (fn : Nat) : Bool :=
  (s.launches.any fun l => l.fn == fn && !l.cancelled && l.next < l.grid) || (s.blocks.any fun b => s.fnOfBlock b == fn) ||
    (s.dispatches.any fun d => d.fn == fn && d.entry.isNone && d.failed.isNone && d.started < d.count) ||
      (s.bankops.any fun o => o.fn == fn && !o.ran) ||
    (s.warps.any fun w => w.kind == .native && w.tenant && s.fnOf w == fn) || s.saved.any fun x => x.warp.tenant && s.fnOf x.warp == fn

/-- A function's slice begins. -/
def State.beginSlice (s : State) (fn : Nat) : State := s.modFn fn fun f => { f with running := true }

/-- The function of the partition whose slice comes after (R406, round robin): another one with work, in ascending order of
number from the last. The weights of R406 are the lengths of the slices (log 52). -/
def State.nextSlice (s : State) (f : Fn) : Option Fn :=
  let others := sortBy (·.id) (s.admin.fns.filter fun x => x.partition == f.partition && x.id != f.id)
  ((others.filter fun x => f.id < x.id) ++ others.filter fun x => x.id < f.id).find? fun x => s.sliceMayBegin x && s.hasWork x.id

/-- SLICE_END (R386, R406): function a's slice ends. Its blocks are asked to give up their cores and their shuttles are
recalled (R312); its tenant wavefronts get a request (R322) and its guest wavefronts dock (R313); the next function's slice
begins. -/
def execSliceEnd (s : State) : Out :=
  match s.fn? s.args.a with
  | none => .next s
  | some f =>
    if !f.running then .next s
    else
      let s1 := s.modFn f.id fun f => { f with running := false }
      let s2 := (s1.blocks.filter fun b => s1.fnOfBlock b == f.id).foldl State.requestBlock s1
      let mine := s2.warps.filter fun w => s2.fnOf w == f.id
      let guests := (mine.filter fun w => w.guest.any fun g => g.onStack && g.slot.isSome).map (·.uid)
      let asked := (mine.filter Warp.tenant).map (·.uid)
      let ask (s : State) (u : Nat) : State := s.modWarp u
        fun w => { w with wave := w.wave.map fun v => { v with request := some (v.request.getD s.turns) } }
      let s3 := asked.foldl ask (guests.foldl State.dockAgain s2)
      .next (((s3.nextSlice f).map fun x => s3.beginSlice x.id).getD s3)

/-! ### Taking warps (R386 to R390) -/

/-- Opcodes at which a warp that is asked is taken (R386): REGION, the wait points and EXIT. -/
def takePoint (op : Nat) : Bool := [0x06, 0x07, 0x09, 0xAC, 0xAD, 0xAE, 0xAF, 0xB0, 0xB1, 0xB2, 0xB3, 0xB6, 0xB7, 0xB8, 0xBD, 0xC5, 0xD2,
  0xDF].contains op

/-- Whether the running split of a warp that is asked stands where it is taken (R386, R387). -/
def State.atTakePoint (s : State) (w : Warp) (deadline : Bool) : Bool :=
  match w.splits[w.running]? with
  | none => false
  | some sp =>
    (deadline && !sp.begun) || match s.resumeSlot w sp with
      | none => false
      | some k => match s.fetchWord w (sp.pc.toNat + 4 * k) with
        | .ok (_, i) => takePoint (i.toNat / 2 ^ 24)
        | .error _ => false

/-- WARP_TAKEN (R386 to R390): warp a, which is asked, is taken where it can be; with the block's last warp the block header is written. -/
def execWarpTaken (s : State) : Out :=
  match s.warp? s.args.a with
  | none => .next s
  | some w =>
    let deadline := (s.block? w.block).any (·.deadline)
    .next (if w.takable (s.atTakePoint w deadline) then s.takeNow w.uid else s)

/-- PREEMPTION_DEADLINE (R387): block a has not been taken within 100 us; its warps are drained at clause boundaries, and the log names the
excess, b us. -/
def execPreemptionDeadline (s : State) : Out :=
  match s.block? s.args.a with
  | none => .next s
  | some b =>
    if b.preempt ≠ .requested ∨ b.deadline then .next s
    else .next ((s.modBlock b.uid fun b => { b with deadline := true }).log (s.fnOfBlock b) 0x17 0 (s.agentWord (.block b.uid) false)
      s.args.b 0 0 0).1

/-! ### Resumption (R393 to R395) -/

/-- The quota that a warp's prologue holds (R389); none where it is not readable now. -/
def State.savedQuota (s : State) (w : Warp) : Option Nat :=
  (s.readVa (s.fnOf w) w.die ((s.warpSlot w + 4) % 2 ^ 64) 4).map fun bs => min 32 (max 1 (leNat bs))

/-- What a taken block, or one of its group that has only its allocation left, needs of a core (R231, R393). -/
def State.resumeNeeds (s : State) (l : Launch) (b : Block) : Option (Nat × Nat × Nat × Nat) :=
  let ws := s.liveWarps b
  let qs := ws.map s.savedQuota
  if b.preempt ≠ .taken then some (0, 0, b.scratchSize, 0)
  else if qs.all (·.isSome) then some (l.needs.1, qs.foldl (fun n q => n + q.getD 0) 0, b.scratchSize, b.mctx.length) else none

/-- Whether a forwarding entry is over (R395): every timeline of the block has passed what it issued before; its matrix timelines had passed
when it was taken (R391). -/
def State.moveOver (s : State) (b : Block) (m : Move) : Bool :=
  m.issued ≤ b.copyDone && !(s.bankops.any fun o => o.block == b.uid && o.uid < m.mark) &&
    !(s.dispatches.any fun d => d.block == b.uid && d.uid < m.mark)

/-- The forwarding entries of a block that are in use; one that is taken gets that of its last core when it resumes (R393). -/
def State.entriesInUse (s : State) (b : Block) : List Move :=
  (if b.preempt = .taken then b.moves.dropLast else b.moves).filter fun m => !s.moveOver b m

/-- Forwarding entries in use at a core (R393, R395). -/
def State.forwards (s : State) (core : Nat) : Nat := s.blocks.foldl (fun n b => n + (s.entriesInUse b).countP (·.core == core)) 0

/-- The core that a taken block has left last. -/
def Block.leftCore (b : Block) : Nat := ((b.moves.getLast?).map (·.core)).getD b.core

/-- A taken block enters the resume handler on a core (R393): its scalars and predicates other than those of R388 are free
values (log 8). -/
def State.resumeOn (s : State) (l : Launch) (b : Block) (core : Nat) : State :=
  if b.preempt ≠ .taken then s.modBlock b.uid fun b => { b with core := core }
  else
    let slots := takeSlots l.needs.1 (s.usedSlots core)
    let place (s : State) (w : Warp) : State := s.modWarp w.uid fun w => { w with core := core, slot := slots.getD w.idx 0 }
    let s0 := (s.warps.filter fun w => w.kind == .main && b.warps.contains w.uid && w.gone).foldl place s
    let s1 := s0.modBlock b.uid fun b =>
      { b with core := core, preempt := .resuming, spare := slots.drop l.warps, moves := s.entriesInUse b ++ b.moves.drop (b.moves.length - 1) }
    (s.liveWarps b).foldl (fun s w =>
      let w1 := { w with
        core := core, slot := slots.getD w.idx 0, parked := false, quota := (s.savedQuota w).getD w.quota, spoison := 0, age := s.nextUid,
        s := (List.range 32).map fun i => if i = 0 then 0 else Config.freeWord (s.free + i),
        p := (List.range 8).map fun i => Config.freeWord (s.free + 32 + i) }
      ({ s with free := s.free + 40, nextUid := s.nextUid + 1 } : State).enterHandler w1 false) s1

/-- BLOCK_RESUMPTION (R380, R393): taken block a, the first of its context in the order in which they were taken, is placed
again, in a group with the other blocks of the group; the context's slice begins with it. -/
def execBlockResumption (s0 : State) : Out :=
  match s0.block? s0.args.a with
  | none => .next s0
  | some b =>
    match s0.launch? b.launch, s0.fn? (s0.fnOfBlock b) with
    | some l, some f =>
      let s := if s0.sliceMayBegin f then s0.beginSlice f.id else s0
      let first := (sortBy (·.tag) (s.blocks.filter fun x => x.preempt == .taken && s.fnOfBlock x == f.id)).head?
      let group := if l.group then sortBy (·.pos) (s.blocks.filter fun x => b.members.contains x.uid) else [b]
      let ready := group.all fun x => x.preempt == .taken || (s.liveWarps x).isEmpty
      let entries := group.all fun x => s.forwards x.leftCore < 16
      let needs := group.map (s.resumeNeeds l)
      if first.map (·.uid) ≠ some b.uid ∨ !(s.fn? f.id).any (·.running) ∨ !ready ∨ !entries ∨ !(needs.all (·.isSome)) then .next s0
      else match s.findPlace l (needs.filterMap id) with
        | none => .next s0
        | some (c, cores) =>
          let d := c / 11
          let s1 : State := { s with pointers := s.pointers.set d (11 * d + (c - 11 * d + 1) % 11) }
          .next ((List.zip group cores).foldl (fun s x => s.resumeOn l x.1 x.2) s1)
    | _, _ => .next s0

/-- A split of a saved record (R389): the split, its STATE and the object byte. -/
def savedSplit (r : List Byte) : Split × Nat × Nat :=
  let tpc := dword (fieldAt r 0 8)
  let entry (i : Nat) : MaskEntry :=
    { parked := bitAt (fieldAt r (24 + 12 * i) 8) 0, pc := dword (fieldAt r (24 + 12 * i) 8 / 2 * 2), mask := BitVec.ofNat 32 (fieldAt r (32 + 12 * i) 4) }
  ({ Split.free with
     pc := dword (bitsAt tpc.toNat 56 5 * 32), slot := trapSlot tpc, lanes := BitVec.ofNat 32 (fieldAt r 8 4), overflow := BitVec.ofNat 32
       (fieldAt r 12 4),
     stack := ((List.range 4).map entry).takeWhile fun e => e.mask != 0 }, fieldAt r 16 1, fieldAt r 17 1)

/-- A warp's registers as its prologue restores them (R394); the reserved bits of the mode registers and of ms stay 0 (R6, R25, R27). -/
def Warp.restored (w : Warp) (bs : List Byte) (bad : Nat → Bool) : Warp :=
  let live := fieldAt bs 0 4
  let back (w : Warp) (r o : Nat) : Warp :=
    if bitAt live r then
      (w.alloc r).putV r 0xFFFFFFFF ((List.range 32).map fun i => word (fieldAt bs (o + 4 * i) 4)) (maskOf fun i => bad (o + 4 * i))
    else w.free r
  let w1 := { w with
    m := (List.range 4).map fun i => BitVec.ofNat 22 (fieldAt bs (0x18 + 4 * i) 4 % 2 ^ 21), ms := BitVec.ofNat 24 (fieldAt bs 0x28 4 % 2 ^ 23),
    carryV := word (fieldAt bs 0x2C 4), carryS := word (fieldAt bs 0x30 4), trappc := dword (fieldAt bs 8 8), trapinfo := word (fieldAt bs 0x10 4),
    sticky := BitVec.ofNat 8 (fieldAt bs 0x14 1) }
  let w2 := (List.range 4).foldl (fun (w : Warp) i => w.putS (28 + i) (word (fieldAt bs (0x38 + 4 * i) 4)) (bad (0x38 + 4 * i))) w1
  back (back w2 30 0x200) 31 0x280

/-- A split goes on as its STATE says (R394): a wait executed again, or one that continues at its instruction; none where its clause is not
readable now.  w holds the registers restored. -/
def State.resumeSplit (s : State) (w : Warp) (x : Split × Nat × Nat) : Option Split :=
  let (sp, st, obj) := x
  if !sp.live then some Split.free
  else if st ≤ 1 ∨ st = 6 ∨ 8 ≤ st then some sp
  else match s.fetchWord w sp.pc.toNat, s.fetchWord w (sp.pc.toNat + 4 * sp.slot) with
    | .ok (_, h), .ok (_, i) =>
      let reply := (w.sreg (bitsAt i.toNat 13 9)).toNat + 2 ^ 32 * (w.sreg (bitsAt i.toNat 13 9 + 1)).toNat
      let status : Status := match st with
        | 2 => .join
        | 3 => .barrier obj
        | 4 => .bblk (sp.pc + 32 * (BitVec.ofNat 24 i.toNat).signExtend 64)
        | 5 => .home
        | _ => .svc (dword reply)
      some { sp with begun := true, hdr := h, mode := w.m.getD (hdrMsel h) 0, status := status }
    | _, _ => none

/-- A warp as its prologue restores it; none where what it needs is not readable now. -/
def State.restoreWarp (s : State) (w : Warp) : Option Warp :=
  match s.reachN (s.fnOf w) w.die (s.warpSlot w) 1024 false with
  | .error _ => none
  | .ok (s1, ls) =>
    let bs := s1.readLocs ls
    let w1 := w.restored bs fun o => s1.poisoned ((ls.drop o).take 4)
    let sps := (List.range 4).map fun k => s.resumeSplit w1 (savedSplit ((bs.drop (0x50 + 80 * k)).take 80))
    if sps.all (·.isSome) then
      let splits := sps.map (·.getD Split.free)
      some { w1 with splits := splits, running := (splits.findIdx? Split.live).getD 0, handler := .none }
    else none

/-- A block's ring binding and armed counters as its header restores them (R390, R394); what the notify word publishes is
consumed, unless an overrun has stopped the ring (R281). -/
def Block.restored (b : Block) (h : List Byte) : Block :=
  let ring : Ring := { off := fieldAt h 0x10 4, count := fieldAt h 0x14 4, notify := fieldAt h 0x18 4, consumed := fieldAt h 0x20 8, base := b.copyIssued,
                       from0 := fieldAt h 0x20 8, published := fieldAt h 0x20 8, pubs := [], stopped := b.ring.any (·.stopped) }
  let counter (i : Nat) : Counter := { off := fieldAt h (0x80 + 16 * i) 4, start := fieldAt h (0x84 + 16 * i) 4, len := fieldAt h (0x88 + 16 * i) 4 }
  { b with ring := if ring.count = 0 then none else some ring, counters := ((List.range 8).map counter).filter (·.len != 0), preempt := .none }

/-- Published entries that were published before the block was taken keep what they had then: batches and publisher (R188, R440). -/
def Block.withPubs (b : Block) (old : List Published) : Block :=
  { b with ring := b.ring.map fun r => { r with pubs := r.pubs.map fun p => (old.find? (·.index == p.index)).getD p } }

/-- Every warp of a block that has not exited waits at its resume TRET. -/
def State.allResumed (s : State) (b : Block) : Bool :=
  b.preempt == .resuming && !(s.liveWarps b).isEmpty &&
    s.blockAll b fun w => w.handler != .none && w.splits.all fun sp => !sp.live || sp.status == .resume

/-- RESUME_EPISODE (R394): the warps of block a have all executed their resume TRETs; a release and an acquire, then
registers, splits, ring and counters are restored and the waits go on. A slice that has ended meanwhile asks again (R386). -/
def execResumeEpisode (s : State) : Out :=
  match s.block? s.args.a with
  | none => .next s
  | some b =>
    let ws := s.liveWarps b
    let acquired := ws.foldl (fun s w => (s.completeOps w.uid fun _ => true).endSfr w.uid) s
    let die := s.blockDie b.uid
    let fenced := ws.foldl (fun s w => s.touch (s.fnOf w) die (s.warpSlot w) 1024) (acquired.touch (s.fnOfBlock b) die (s.blockSlot b) 256)
    let back := (fenced.liveWarps b).map fenced.restoreWarp
    match fenced.readVa (s.fnOfBlock b) die (s.blockSlot b) 256 with
    | none => .next s
    | some h =>
      if !s.allResumed b ∨ !(back.all (·.isSome)) then .next s
      else
        let s1 := (back.filterMap id).foldl (fun s w => s.setWarp w) fenced
        let s2 := s1.modBlock b.uid fun b => b.restored h
        let s3 := match (s2.block? b.uid).bind (·.ring) with
          | some r => (s2.publishRing b.uid (s2.readNum (.scr b.uid r.notify) 8) none).modBlock b.uid fun x => x.withPubs b.pubs
          | none => s2
        let s4 := (s3.gbarStep b.launch).barrierSteps b.uid
        let s5 := ws.foldl (fun s w => s.reselect w.uid false) s4
        let runs := ((s5.fn? (s5.fnOfBlock b)).map (·.running)).getD true
        .next (if runs then s5 else ((s5.block? b.uid).map s5.requestBlock).getD s5)

end Sys2Proof.Machine
end

