-- ==== Sys2Proof/Machine/Host.lean ====
section
/-! DEFINITION. What the host and the peers do to the package: CXL.mem accesses (R274, R368, R410), address translation
services (R402), watch registers and the other registers that software writes (R5, R405, R407, R411, R412), heddle flits
(R416) and lane repair (R424, R427). -/

namespace Sys2Proof.Machine

/-! ### CXL.mem (R274, R275, R410) -/

/-- Whether an access of the host to some bytes waits (R329, R403): for the queue of a pseudo-channel, or as a write to a
page that migrates, or behind an access that stalled there before it. -/
def State.hostWaits (s : State) (ls : List Loc) : Bool :=
  let since := if s.args.since = 0 then none else some s.args.since
  let at' := s.pageQueue s.args.a s.args.value.toNat
  ((ls.filterMap s.pchOf).any fun p => s.pchBusy 0 since p.1 p.2) ||
    (s.args.flag && s.args.c == 1 && since.any fun n => (s.queuedAt at').any (· < n)) ||
    (s.args.flag && s.migrations.any fun m => ls.any fun l => match l with
      | .dev a => m.toHost && m.old ≤ a && a < m.old + 2 ^ m.size
      | .host a => !m.toHost && m.old ≤ a && a < m.old + 2 ^ m.size
      | _ => false)

/-- The bytes that a host write performs: those at WRITE of a device-fed queue are ignored (R375). -/
def State.hostStores (s : State) (ws : List (Loc × Byte)) : List (Loc × Byte) :=
  ws.filter fun x => !(s.admin.queues.any fun q => touches [x.1] (.dev (q.cb + 16)) 8 && blkDevfed (s.queueBlock q))

/-- HOST_CXL_ACCESS (R274, R329, R368, R410, R419): a host thread reads b bytes at value, or with flag writes bytes there,
for function a; c says what the address names. It leaves no record and raises no exception, and waits while its bytes'
pseudo-channel does not take it; an access that is not granted, a read of a poisoned granule, and any access while a wipe is not complete
(R436), completes with poison (an empty answer); a write to a view is discarded and logged. -/
def execHostCxlAccess (s : State) : Out :=
  let at0 := s.args.value.toNat
  let answer (t : State) (bs : List Byte) : State :=
    if s.args.flag then t.unhold else { t.unhold with admin := { t.admin with hostReads := t.admin.hostReads ++ [bs] } }
  if s.admin.wiping then .next (answer s [])
  else match s.hostLocs s.args.a s.args.c at0 (hostBytes s.args) with
  | none => .next (answer (s.log s.args.a 0x15 at0 0 0 3 0 0).1 [])
  | some ls =>
    let view := ls.any fun l => match l with | .view _ _ => true | _ => false
    if s.hostWaits ls then .next (s.hold .hostCxlAccess)
    else if s.args.flag then
      .next (answer (if view then (s.log s.args.a 0x15 at0 0 0 1 0 0).1 else s.land (s.hostStores (List.zip ls s.args.bytes)) none) [])
    else .next (answer s (if s.poisoned ls then [] else s.readLocs ls))

/-! ### Address translation services (R402) -/

/-- The page of host memory that an address of a function lies in. -/
def State.hostPage (s : State) (fn va : Nat) : Option Nat :=
  match (s.fn? fn).map fun f => s.walk fn va false true 4 f.root with
  | some (.ok l) => if bitAt l.pte 7 && pteAttr l.pte < 4 then some ((ptePa l.pte + va % 2 ^ l.size) / 4096) else none
  | _ => none

/-- The host grants no translation of a page: the launch records whose wait word lies there are consumed, and their launches end (R378). -/
def State.refuseWaits (s : State) (fn : Nat) (hits : Nat → Bool) : State :=
  (s.admin.queues.filter (·.fn == fn)).foldl (fun s q =>
    match s.nextRecord q with
    | none => s
    | some (seq, r) =>
      let waiting := [64, 80].any fun o => let a := fieldAt r o 8; a != 0 && hits a && s.pageFault fn a 8 false
      if waiting && s.waits fn r false == .pending then s.consume q seq r true else s) s

/-- The stamps that wait for the page are not written (R289, R448). -/
def State.refuseStamps (s : State) (fn : Nat) (hits : Nat → Bool) : State :=
  let stamped (e : List Byte) : Bool := entryFlag e 8 && hits (entryAux e)
  let s1 := ((s.copies.filter fun c => c.fn == fn && stamped c.entry).map (·.uid)).foldl (fun s u => s.copyDone u true) s
  let next (b : Block) : Bool := s.fnOfBlock b == fn && b.ring.any fun r => stamped (b.entry r r.consumed)
  let s2 := ((s1.blocks.filter next).map (·.uid)).foldl (fun s u => s.consumeEntry u true) s1
  ((s2.dispatches.filter fun d => d.fn == fn && hits d.stamp).map (·.uid)).foldl (fun s u => s.finishDispatch u true) s2

/-- The host grants no translation of page b of function a (R131, R286, R289, R334, R378, R402, R448): the agents, copies, bank operations,
launch records and stamps that wait for it fail. -/
def State.hostRefuses (s : State) (fn page : Nat) : State :=
  let hits (va : Nat) : Bool := s.hostPage fn va == some page
  let warps := s.warps.filter fun w => s.fnOf w == fn && w.replay.any fun r => hits r.1.toNat
  let copies := (s.copies.filter (·.fn == fn)).filterMap fun c => ((s.block? c.block).bind fun b => s.copyWaitsOn b c).bind fun va =>
    if hits va then some (c.uid, va) else none
  let ops := (s.bankops.filter fun o => o.fn == fn && !o.ran).filterMap fun o => (s.bankopWaitsOn o).bind fun va => if hits va then some
    (o.uid, va) else none
  let s1 := warps.foldl State.failReplay s
  let s2 := copies.foldl (fun s c => s.copyFail c.1 4 c.2) s1
  ((ops.foldl (fun s o => s.bankopEnd o.1 4 o.2) s2).refuseStamps fn hits).refuseWaits fn hits

/-- PRI_RESPONSE (R402): the host answers for page b of function a: with flag the translation is granted; a failure makes each wait an
access-violation trap with reason 1. -/
def execPriResponse (s : State) : Out :=
  let x := (s.args.a, s.args.b)
  let s1 : State := { s with pri := s.pri.filter (· != x) }
  .next (if s.args.flag then { s1 with ats := s.ats.filter (· != x) ++ [x] } else s1.hostRefuses s.args.a s.args.b)

/-- Whether a function has an access that used a translation and is not performed yet (R400, log 3): a piece for linear
memory in a region store buffer, or an NVMe Read whose data is on the way to linear memory (R415). -/
def State.buffered (s : State) (fn : Nat) : Bool :=
  let linear (x : Side) : Bool := match x with | .lin _ => true | _ => false
  (s.copies.any fun c => c.fn == fn && linear c.dst && c.drive.any fun d => !d.done) || s.warps.any fun w => s.fnOf w == fn &&
    w.region.any fun r => r.buf.any fun x => match x.1 with
    | .dev _ | .host _ | .stripe _ _ => true
    | .scr _ _ | .lds _ _ | .view _ _ => false

/-- The armed watches of a function follow their words when its translations change (R400, R403, R412). -/
def State.followWatches (s : State) (fn : Nat) : State :=
  let follow (w : Watch) : Watch :=
    match bitAt w.ctl.toNat 0, s.translateN fn w.addr.toNat 8 false with
    | true, .ok (_, ls) => { w with place := ls }
    | _, _ => w
  s.modFn fn fun f => { f with watch := f.watch.map follow }

/-- ATS_INVALIDATION (R402): the host's translations of function a for c bytes from address b are dropped; it completes when
every access that used one has been performed. -/
def execAtsInvalidation (s : State) : Out :=
  let hit (x : Nat × Nat) : Bool := x.1 == s.args.a && s.args.b < x.2 * 4096 + 4096 && x.2 * 4096 < s.args.b + s.args.c
  let s1 := ({ s with ats := s.ats.filter fun x => !hit x } : State).followWatches s.args.a
  .next (if s1.buffered s.args.a then s1.hold .atsInvalidation else s1.unhold)

/-! ### Registers (R5, R405, R407, R411, R412) -/

/-- A watch register changed. -/
def State.modWatch (s : State) (fn n : Nat) (f : Watch → Watch) : State := s.modFn fn fun x => { x with watch := x.watch.modify n f }

/-- ARM is written to 1 (R412): the word is read once, at its home; an arming whose address is misaligned or does not translate, or whose
MODE is 3, leaves ARM at 0 and is logged. -/
def State.armWatch (s : State) (fn n : Nat) : State :=
  match (s.fn? fn).bind fun f => f.watch[n]? with
  | none => s
  | some w =>
    let refused (s : State) : State := ((s.modWatch fn n fun w => { w with ctl := w.ctl &&& ~~~1 }).log fn 0x16 w.addr.toNat 0 0 4 0 0).1
    if w.addr.toNat % 8 != 0 || bitsAt w.ctl.toNat 2 1 == 3 then refused s
    else match s.translateN fn w.addr.toNat 8 false with
      | .ok (s1, ls) => (s1.modWatch fn n fun w => { w with ctl := w.ctl ||| 1, place := ls }).checkWatch fn n
      | .error _ => refused (s.touch fn 4 w.addr.toNat 8)

/-- WATCH_ARM (R412): ARM of watch register b of function a is written to 1. -/
def execWatchArm (s : State) : Out := .next (s.armWatch s.args.a s.args.b)

/-- WATCH_FIRE (R412): an armed watch register whose word meets its condition clears ARM, sets FIRED and sends its vector. -/
def execWatchFire (s : State) : Out := .next (s.checkWatch s.args.a s.args.b)

/-- A write to CTL of a watch register (R5, R411): VEC, MODE and ARM are set, a 1 at FIRED clears it, reserved bits stay 0. -/
def Watch.writeCtl (w : Watch) (v : Word) : Watch := { w with ctl := (v &&& 0x07FF0007) ||| (w.ctl &&& ~~~v &&& 8) }

/-- A write to a firewall register (R405): ignored once LOCK is set; reserved bits read 0. -/
def firewallWrite (old v : Word) : Word := if old.getLsbD 3 then old else v &&& 0xE

/-- A context's bucket at a stack's port written (R407). -/
def State.setBucket (s : State) (fn stack : Nat) (v : Word) : State :=
  let old := s.admin.buckets.find? fun b => b.fn == fn && b.stack == stack
  let b : Bucket := { fn := fn, stack := stack, rate := BitVec.ofNat 16 v.toNat, depth := BitVec.ofNat 16 (v.toNat / 65536),
                      level := (old.map (·.level)).getD 0, waiting := (old.map (·.waiting)).getD [] }
  { s with admin := { s.admin with buckets := s.admin.buckets.filter (fun b => !(b.fn == fn && b.stack == stack)) ++ [b] } }

/-- The register at an offset of a function's BAR 0 (R411): watch register n at 0x1000 + 32 n. -/
def bar0Reg (fn off : Nat) : DevReg :=
  let n := (off - 0x1000) / 32
  if off < 0x1000 ∨ 0x1200 ≤ off then .bar0 fn off
  else match (off - 0x1000) % 32 with
    | 0 => .watchAddr fn n
    | 8 => .watchThresh fn n
    | 16 => .watchCtl fn n
    | _ => .bar0 fn off

/-- REGISTER_WRITE (R5): the register of load takes value under its fields' access codes; another place of BAR 0 takes nothing. -/
def execRegisterWrite (s : State) : Out :=
  let v := word s.args.value.toNat
  let load : Payload := match s.args.load with
    | .reg (.bar0 fn off) => .reg (bar0Reg fn off)
    | x => x
  match load with
  | .reg (.watchAddr fn n) => .next (s.modWatch fn n fun w => { w with addr := s.args.value })
  | .reg (.watchThresh fn n) => .next (s.modWatch fn n fun w => { w with thresh := s.args.value })
  | .reg (.watchCtl fn n) =>
    let s1 := s.modWatch fn n fun w => w.writeCtl v
    .next (if v.getLsbD 0 then s1.armWatch fn n else s1)
  | .reg (.bucket fn stack) => .next (s.setBucket fn stack v)
  | .reg (.firewall b) => .next { s with admin := { s.admin with firewall := s.admin.firewall.modify b fun o => firewallWrite o v } }
  | _ => .next s

/-! ### Lane repair (R424, R427) -/

/-- Lanes that a link with w working ones, spares included, runs on (R424). -/
def linkWidth (l : LinkId) (w : Nat) : Nat :=
  match l with
  | .stack _ _ => if 24 ≤ w then min w 32 else 0
  | .bridge _ _ => if 64 ≤ w then 64 else if 32 ≤ w then 32 else 0
  | .heddle _ => if 8 ≤ w then 8 else if 4 ≤ w then 4 else 0
  | .host => if 16 ≤ w then 16 else if 8 ≤ w then 8 else if 4 ≤ w then 4 else 0

/-- LANE_REPAIR (R424, R427): a lanes of the link of load fail. Unacknowledged flits of a heddle port drain over the old map;
after 8 failed replays in a row (b) the link retrains and reissues from the oldest instead; sequence numbers are kept. A
stack interface with fewer than 24 lanes is to be retired (R425), a group of a bridge below 32 is off, and a heddle port
below 4 is down: its routes change. -/
def execLaneRepair (s : State) : Out :=
  match s.args.load with
  | .link l =>
    let s1 : State := { s with admin := { s.admin with devlog := s.admin.devlog ++ [.laneRepair l] } }
    match l with
    | .stack st p =>
      let n := (s1.pch st p).lanes - s.args.a
      .next (s1.setPch { s1.pch st p with lanes := n, retiring := (s1.pch st p).retiring || n < 24 })
    | .bridge b g =>
      let old := ((s.admin.bridgeLanes.find? fun x => x.1 == b && x.2.1 == g).map (·.2.2)).getD 66
      let left := if old - s.args.a < 32 then 0 else old - s.args.a
      .next { s1 with admin := { s1.admin with bridgeLanes := s1.admin.bridgeLanes.filter (fun x => !(x.1 == b && x.2.1 == g)) ++ [(b, g, left)] } }
    | .heddle n =>
      match s1.admin.ports[n]? with
      | none => .next s1
      | some p =>
        let p1 := { p with lanes := p.lanes - s.args.a }
        .next (if !p1.up then (s1.setPort n p1).reroute n
          else if 8 ≤ s.args.b then s1.setPort n { p1 with line := p.line ++ p.unacked }
          else s1.setPort n { p1 with unacked := [], replay := false })
    | .host => .next { s1 with admin := { s1.admin with hostLanes := linkWidth l (s1.admin.hostLanes - s.args.a) } }
  | _ => .next s

end Sys2Proof.Machine
end

