-- ==== Sys2Proof/Machine/Repair.lean ====
section
/-! DEFINITION. Scrubbing, row repair, core transfers, retirement and loss of pseudo-channels (R421 to R426), power limiting
(R437) and package reset (R433, R436). -/

namespace Sys2Proof.Machine

/-! ### Scrub and row repair (R421) -/

/-- The device's own state changed. -/
def State.modAdmin (s : State) (f : Admin → Admin) : State := { s with admin := f s.admin }

/-- A device-wide event (R430). -/
def State.devEvent (s : State) (e : DevEvent) : State := s.modAdmin fun a => { a with devlog := a.devlog ++ [e] }

/-- The granule that a scrub period names: a column word of a bank-striped row, or another granule of device memory, which
the event numbers by its device-physical address (log 6). -/
def State.scrubLoc (s : State) (x : ScrubFind) : Loc :=
  match s.stripes.find? fun t => t.stack == x.stack && t.pch == x.pch && t.row0 ≤ x.row && x.row < t.row0 + t.words / 32 with
  | some t => .stripe t.frame ((((x.row - t.row0) * 32 + x.granule) * 16 + x.bank) * 32)
  | none => .dev (32 * x.granule)

/-- The contexts that a granule belongs to: their logs record that it is poisoned (R430). -/
def State.holders (s : State) (l : Loc) : List Nat :=
  match l with
  | .stripe k _ => (s.stripes.filter (·.frame == k)).map (·.fn)
  | .dev pa => (s.admin.fns.filter fun f => f.frames.any fun g => g.1 ≤ pa && pa < g.1 + g.2).map (·.id)
  | _ => []

/-- A poison mark made in memory, with a class 0x12 record in each context's log (R418, R430): SRC 3. -/
def State.poisonMade (s : State) (l : Loc) : State :=
  let addr := match l with
    | .stripe k i => k + i
    | .dev pa => pa
    | _ => 0
  (s.holders l).foldl (fun s f => (s.log f 0x12 addr 0 0 3 0 0).1) ((s.mark (l.span 32)).markMade 3)

/-- A row. -/
def RowErrors.isRow (r : RowErrors) (stack pch bank row : Nat) : Bool := r.stack == stack && r.pch == pch && r.bank == bank && r.row == row

/-- An error counted for its row (R421). -/
def Admin.countRow (a : Admin) (x : ScrubFind) : Admin :=
  let same (r : RowErrors) : Bool := r.isRow x.stack x.pch x.bank x.row
  let old := (a.rowErrors.find? same).getD { stack := x.stack, pch := x.pch, bank := x.bank, row := x.row, corrected := 0, uncorrectable := false }
  let new : RowErrors := if x.uncorrectable then { old with uncorrectable := true } else { old with corrected := old.corrected + 1 }
  { a with rowErrors := a.rowErrors.filter (fun r => !same r) ++ [new] }

/-- One error that scrub or an ordinary read finds (R226, R421): counted for its bank and its row; a corrected one is logged
by the device, an uncorrectable granule poisoned. -/
def State.scrubFind (s : State) (x : ScrubFind) : State :=
  let p := s.pch x.stack x.pch
  let up (l : List Nat) : List Nat := l.modify x.bank (· + 1)
  let s1 := if x.uncorrectable then (s.setPch { p with uncorrectable := up p.uncorrectable }).poisonMade (s.scrubLoc x)
    else (s.setPch { p with corrected := up p.corrected }).devEvent (.corrected x.stack x.pch x.bank)
  s1.modAdmin fun a => a.countRow x

/-- SCRUB_PERIOD (R421): one scrub period over every row, with the errors that load names, after which the counts of the
period begin anew; rows that wait for repair stay listed. With flag the errors are those that ordinary reads find in a
period. -/
def execScrubPeriod (s : State) : Out :=
  match s.args.load with
  | .scrub found =>
    .next (found.foldl State.scrubFind (if s.args.flag then s else s.modAdmin fun a => { a with rowErrors := a.rowErrors.filter RowErrors.due }))
  | _ => .next s

/-- ROW_REPAIR (R421): row value of bank c of pseudo-channel b of stack a, where one of the two cases holds, is copied to a
spare row, poison kept; it waits while the pseudo-channel is in all-bank mode. A bank whose 8 spare rows are used needs a
retirement instead (R425). -/
def execRowRepair (s : State) : Out :=
  let p := s.pch s.args.a s.args.b
  let row := s.args.value.toNat
  let same (r : RowErrors) : Bool := r.isRow s.args.a s.args.b s.args.c row
  let n := p.repaired.getD s.args.c 0
  if p.owner.isSome || !(s.admin.rowErrors.any fun r => same r && r.due) then .next s
  else if 8 ≤ n then .next (s.setPch { p with retiring := true })
  else
    let s1 := s.modAdmin fun a => { a with rowErrors := a.rowErrors.filter fun r => !same r }
    .next ((s1.setPch { p with repaired := p.repaired.set s.args.c (n + 1) }).devEvent (.rowRepair s.args.a s.args.b s.args.c row))

/-! ### Uncorrectable errors of the other arrays (R418) -/

/-- A mark that an array makes (R418), with its class 0x12 record (R430): function, address, agent and code of SRC. -/
def State.madeIn (s : State) (fn addr agent src : Nat) : State := ((s.log fn 0x12 addr agent 0 src 0 0).1).markMade src

/-- A warp's function and agent word. -/
def State.nameOf (s : State) (w : Warp) : Nat × Nat := (s.fnOf w, s.wordOf w)

/-- A shuttle in a shed entry that cannot be corrected (R418): its lane goes home with the uncorrectable-error trap, whose
SRC the spec does not give (a free value, log 64). A lane in a guest slot has left its entry's contents behind. -/
def State.shedError (s : State) (w : Warp) : State :=
  match w.guest, w.splits[0]? with
  | some g, some sp =>
    if g.slot.isSome then s
    else
      let fn := s.fnOf w
      let src := (Config.freeWord s.free).toNat % 16
      let info := word (src + 16 * g.lane + 65536 * (((s.fn? fn).map (·.logWrite)).getD 0 % 65536))
      ({ (s.log fn 0x12 0 (s.wordOf w) info.toNat src 0 0).1 with free := s.free + 1 } : State).sendHome w sp.pc sp.slot (some (0x17, info)) false
  | _, _ => s

/-- An uncorrectable error in an array (R418): what it holds is poisoned. -/
def State.arrayError (s : State) (e : ArrayError) : State :=
  let ofWarp (s : State) (u src : Nat) : State := ((s.warp? u).map fun w => s.madeIn (s.nameOf w).1 0 (s.nameOf w).2 src).getD s
  match e with
  | .vector u r lane =>
    ofWarp (s.modWarp u fun w => { w with v := w.v.modify r fun x => { x with poison := x.poison ||| oneLane lane } }) u 1
  | .scalar u r => ofWarp (s.modWarp u fun w => { w with spoison := w.spoison ||| oneLane r }) u 1
  | .scratch b off => (s.mark [.scr b off]).madeIn (((s.block? b).map s.fnOfBlock).getD 0) off 0 2
  | .local' u off => ofWarp (s.mark [.lds u off]) u 2
  | .line pa => (List.range 8).foldl (fun s i => s.poisonMade (.dev (pa / 256 * 256 + 32 * i))) s
  | .tile b n x =>
    (s.modCtx b n fun c => { c with poison := withEntry c.poison x }).madeIn (((s.block? b).map s.fnOfBlock).getD 0) 0 0 5
  | .bankAcc st p x => (s.setPch { s.pch st p with accPoison := withEntry (s.pch st p).accPoison x }).markMade 5
  | .broadcast st p x => (s.setPch { s.pch st p with bcastPoison := withEntry (s.pch st p).bcastPoison x }).markMade 5
  | .shed u => ((s.warp? u).map s.shedError).getD s

/-! ### Core-logic errors (R422, R423) -/

/-- A flagged warp (R422): an open region is abandoned and replayed, with a class 0x13 record; outside a region the warp
takes the trap at its next slot. -/
def State.flagged (s : State) (w : Warp) : State :=
  match w.region with
  | none => s.modWarp w.uid fun w => { w with faulty := true }
  | some r =>
    let start := (r.splits[r.opener]?).getD Split.free
    let s1 := ((s.rewindWarp w.uid).closeRecords w.uid).modWarp w.uid
      fun w => { w with sfr := w.sfr + 1, ops := [], hazards := [], f := List.replicate 12 0 }
    (s1.log (s.fnOf w) 0x13 (trapPc start.pc start.slot).toNat (s.wordOf w) w.core 0 0 0).1

/-- A sill core with a core-logic error (R423): its native wavefronts end, its guest lanes go home with the trap, and it leaves service. -/
def State.loseSillCore (s : State) (stack core : Nat) : State :=
  let natives := s.coreWaves stack core
  let guests := s.warps.filter fun w => w.guest.any fun g => g.onStack && g.site == stack && g.sillCore == core && g.slot.isSome
  let s1 := (natives ++ guests).foldl (fun s w => s.logicTrap w) s
  s1.modFront stack fun f => { f with deadCores := f.deadCores ++ [core] }

/-- The engines of a block that its core takes with it (R423): its copies end, its ring and its batches. -/
def State.endEngines (s : State) (b : Block) : State :=
  let mine := (s.copies.filter (·.block == b.uid)).map (·.uid)
  let s1 : State := { mine.foldl State.closeRecords s with copies := s.copies.filter (·.block != b.uid) }
  s1.modBlock b.uid fun b => { b with copyDone := b.copyIssued, copyFinished := [], ring := none, gates := [], mctx := b.mctx.map MatCtx.cancel }

/-- A core without a spare (R423): its blocks are not transferred, their launches end with status 4, and placement never uses it again. -/
def State.loseCore (s : State) (core : Nat) : State :=
  let blocks := s.blocks.filter fun b => b.core == core && b.preempt != .taken && !b.freed
  let one (s : State) (b : Block) : State :=
    let ws := s.warps.filter fun w => w.block == b.uid && !w.gone && (w.kind == .main || w.kind == .dense)
    ((ws.map (·.uid)).foldl State.exitWarp (s.launchStatus b.launch 4)).endEngines b
  let s1 := blocks.foldl one s
  let guests := s1.warps.filter fun w => w.guest.any fun g => !g.onStack && g.site == core
  (guests.foldl State.recallGuest s1).modAdmin fun a => { a with deadCores := a.deadCores ++ [core] }

/-- Whether a warp runs in one of some slots of a core: its own warps, and the guest warps there (R304). -/
def Warp.inSlot (w : Warp) (core : Nat) (slots : List Nat) : Bool :=
  match w.kind with
  | .main | .dense => w.core == core && !w.gone && !w.parked && slots.contains w.slot
  | .guest => w.guest.any fun g => !g.onStack && g.site == core && g.slot.any slots.contains
  | .native => false

/-- CORE_LOGIC_ERROR (R418, R422, R423): core a fails, with the warps in the slots that bytes lists flagged; its blocks go to
a spare core of the die, which takes its logical number. c of the die's failed cores have passed Aderic's test since and are
spare again. With flag, sill core b of stack a fails; with an array in load, that array has the error instead (log 64). -/
def execCoreLogicError (s : State) : Out :=
  match s.args.load with
  | .array e => .next (s.arrayError e)
  | _ =>
    if s.args.flag then .next (s.loseSillCore s.args.a s.args.b)
    else
      let core := s.args.a
      let die := dieOfCore core
      let hit := s.warps.filter fun w => w.inSlot core (s.args.bytes.map (·.toNat))
      let s1 := hit.foldl State.flagged s
      let used := s.admin.sparesUsed.getD die 0 - s.args.c
      if used < 4 then
        .next ((s1.modAdmin fun a => { a with sparesUsed := a.sparesUsed.set die (used + 1) }).devEvent (.coreTransfer core))
      else .next (s1.loseCore core)

/-! ### Retirement and loss of a pseudo-channel (R425, R426) -/

/-- The page-table entries of a page of a function. -/
def State.entriesOf (s : State) (fn va : Nat) : List Nat :=
  match (s.fn? fn).map fun f => s.walk fn va false false 4 f.root with
  | some (.ok l) => l.entries
  | _ => []

/-- SILL, BSTRIPE and VIEW of entries as Aderic writes them (R398), noted with the rest of what it wrote, and the
translations of the function dropped. -/
def State.setAttr (s : State) (fn : Nat) (entries : List Nat) (attr : Nat) : State :=
  let put (s : State) (e : Nat) : State :=
    let p := s.readNum (.dev e) 8
    let s1 := s.writeNum (.dev e) 8 (p - pteAttr p * 2 ^ 53 + attr * 2 ^ 53)
    s1.modAdmin fun a => { a with attrs := a.attrs.filter (·.entry != e) ++
      (if attr = 0 then [] else [{ fn := fn, entry := e, value := pteFixed (s1.readNum (.dev e) 8) }]) }
  let s1 := entries.foldl put s
  { s1 with tlb := s1.tlb.filter (·.fn != fn) }

/-- Pages of a bank-striped allocation (R332). -/
def Stripe.pages (t : Stripe) : Nat := roundUp (t.rows * t.bytes) 4096 / 4096

/-- A bank-striped allocation becomes plain memory at its frames (R426): its view keeps its values and their poison, its
pages lose BSTRIPE. -/
def State.unstripe (s : State) (t : Stripe) : State :=
  let offs := List.range (t.rows * t.bytes)
  let marks := offs.filter fun j => s.poisoned [.stripe t.frame (t.index j)]
  let s1 : State := { s with stripes := s.stripes.erase t, mem := offs.foldl (fun m j => Memory.put m (t.frame + j) (Memory.get t.data (t.index j))) s.mem }
  let s2 := s1.mark (marks.map fun j => .dev (t.frame + j))
  (List.range t.pages).foldl (fun s i => let es := s.entriesOf t.fn (t.va + 4096 * i)
    es.foldl (fun s e => s.setAttr t.fn [e] (pteAttr (s.readNum (.dev e) 8) % 2)) s) s2

/-- Memory of a stack that is granted to no function, in 64 KiB units: what the reserve and dropped pseudo-channels have taken is not. -/
def State.unallocated (s : State) (stack : Nat) : Nat :=
  let used := s.admin.fns.foldl (fun n f => f.frames.foldl (fun n g => if stackOf g.1 = some stack then n + g.2 else n) n) 0
  62 * 16384 - roundUp used 65536 / 65536 - ((s.frontEnds[stack]?).map fun f => f.reserve + f.taken).getD 0

/-- A logical pseudo-channel is dropped (R426): 1 GiB is freed from the reserve and then from unallocated memory, its
allocations keep their values as plain memory, and each context that had one gets a class 0x18 record.  Where that much cannot be freed it
stays in service. -/
def State.dropPch (s : State) (stack p : Nat) : State :=
  let reserve := ((s.frontEnds[stack]?).map (·.reserve)).getD 0
  if reserve + s.unallocated stack < 16384 then s
  else
    let part := min reserve 16384
    let mine := s.stripes.filter fun t => t.stack == stack && t.pch == p
    let s1 := mine.foldl State.unstripe (s.modFront stack fun f => { f with reserve := reserve - part, taken := f.taken + (16384 - part) })
    let s2 := (s.admin.fns.map (·.id)).foldl (fun s f =>
      let n := ((mine.filter (·.fn == f)).map Stripe.pages).foldl (· + ·) 0
      if mine.any (·.fn == f) then (s.log f 0x18 (stack + 16 * p) 0 n 0 0 0).1 else s) s1
    s2.setPch { s2.pch stack p with missing := true, retiring := false }

/-- PSEUDO_CHANNEL_RETIREMENT (R425, R426): the physical pseudo-channel under logical number b of stack a, where it is to be
retired (fewer than 24 of its lanes work, or a bank needs a ninth row repair) or, with flag, as a bank of it has failed, is
retired onto one of the stack's 2 spares, with bank state and poison; without a spare the logical number is dropped. It waits
for all-bank mode to end. -/
def execPseudoChannelRetirement (s : State) : Out :=
  let p := s.pch s.args.a s.args.b
  match s.frontEnds[s.args.a]? with
  | none => .next s
  | some f =>
    if p.missing || 62 ≤ s.args.b || !(p.retiring || s.args.flag) then .next s
    else if p.owner.isSome then .next (s.setPch { p with retiring := true })
    else if f.sparesUsed < 2 then
      let z := Pch.fresh s.args.a s.args.b
      let s1 := s.setPch { p with
        phys := 62 + f.sparesUsed, lanes := z.lanes, corrected := z.corrected, uncorrectable := z.uncorrectable, repaired := z.repaired,
          retiring := false }
      let s2 := s1.modAdmin fun a => { a with rowErrors := a.rowErrors.filter fun r => !(r.stack == s.args.a && r.pch == s.args.b) }
      .next ((s2.modFront s.args.a fun f => { f with sparesUsed := f.sparesUsed + 1 }).devEvent (.retirement s.args.a s.args.b))
    else .next (s.dropPch s.args.a s.args.b)

/-! ### Power limiting (R437) -/

/-- One 50 MHz step down to a floor, or up to a ceiling. -/
def stepDown (floor x : Nat) : Nat := if floor + 50 ≤ x then x - 50 else if floor < x then floor else x
def stepUp (top x : Nat) : Nat := if x + 50 ≤ top then x + 50 else if x < top then top else x

/-- Nearer to a limit than it may be, the package is slowed by one step (R437): the cluster islands down to 1.2 GHz, then
issue is held and the sill islands step down to 0.8 GHz. What the clusters ran at is kept. -/
def Admin.slower (a : Admin) : Admin :=
  let a1 : Admin := if a.limiting then a else { a with limiting := true, before := a.clusters }
  if a1.clusters.any (1200 < ·) then { a1 with clusters := a1.clusters.map (stepDown 1200) }
  else { a1 with hold := min 15 (a1.hold + 1), sill := a1.sill.map (stepDown 800) }

/-- Back inside the limits, the measures are relaxed by one step, in reverse order (R437): the sill islands, the issue hold,
and the cluster islands up to what they ran at before. -/
def Admin.faster (a : Admin) : Admin :=
  if !a.limiting then a
  else if a.sill.any (· < 1600) then { a with sill := a.sill.map (stepUp 1600) }
  else if a.hold ≠ 0 then { a with hold := a.hold - 1 }
  else
    let cs := (List.zip a.before a.clusters).map fun x => stepUp x.1 x.2
    if cs = a.before then { a with clusters := cs, limiting := false, before := [] } else { a with clusters := cs }

/-- POWER_LIMIT_STEP (R437): one step near a limit (flag), or back inside it. -/
def execPowerLimitStep (s : State) : Out := .next (s.modAdmin fun a => if s.args.flag then a.slower else a.faster)

/-! ### Package reset (R433, R436) -/

/-- PACKAGE_RESET (R433, R436): every memory is wiped, no owner, TIMEBASE 0; the fused life-cycle state, the host's memory
and that of peers stay. With flag the wipe of a reset or a life-cycle change is complete. -/
def execPackageReset (s : State) : Out :=
  if s.args.flag then .next (s.modAdmin fun a => { a with wiping := false })
  else .next { State.reset with
    mem := s.mem.peers, hostMem := s.hostMem, poison := s.poison.filter Loc.outside,
    admin := { Admin.reset with lifecycle := s.admin.lifecycle, wiping := true }, free := s.free, turns := s.turns,
      nextUid := s.nextUid, agenda := s.agenda }

end Sys2Proof.Machine
end

