-- ==== Sys2Proof/Machine/Aderic.lean ====
section
/-! DEFINITION. The commands of Aderic (R431 to R440): who may issue each, what it changes, and what it answers. -/

namespace Sys2Proof.Machine

/-! ### Scopes and answers (R431 to R433, R435) -/

/-- Who a command is accepted from (R432). -/
inductive Scope where
  | any
  | device
  | function (fn : Nat)
  deriving DecidableEq, Repr

/-- Whether a requester is a Bexfort test requester (R435). -/
def isBexfort (r : Requester) : Bool := match r with | .bexfort _ => true | _ => false

/-- Whether a command's header is well-formed (R431, R432): at most 4,032 payload bytes, zero in bytes 12 to 15, and a code of the table. -/
def headerOk (c : Cmd) : Bool := c.code.isNone && c.len ≤ 4032 && c.zero == 0

/-- Whether a requester is a function's own driver, through its own mailbox (R432). -/
def ofDriver (c : Cmd) (fn : Nat) : Bool := c.req == .function fn && c.via == .mailbox fn

/-- The status of a command that is turned away before it acts (R431 to R433, R435), in this order (DEDUCED, log 53): 2 for a
malformed header, 4 in a life-cycle state that does not take it, 1 from a requester that may not issue it; always: the
commands that state 3 still takes. -/
def State.refusal (s : State) (scope : Scope) (always : Bool) : Option Nat :=
  let c := s.args.cmd
  let owned := s.admin.owner == some c.req
  if !headerOk c then some 2
  else if s.admin.lifecycle = 3 ∧ !always then some 4
  else match scope with
    | .any => none
    | .device => if s.admin.lifecycle = 0 ∧ !isBexfort c.req then some 4 else if owned then none else some 1
    | .function fn => if owned || ofDriver c fn then none else some 1

/-- The answer to a command (R431): the requester, over its transport, with its TAG, STATUS and payload. -/
def State.respond (s : State) (c : Cmd) (status : Nat) (payload : List Byte) : State :=
  s.modAdmin fun a => { a with responses := a.responses ++ [{ req := c.req, via := c.via, tag := c.tag, status := status, payload := payload }] }

/-- A command other than STATUS before a wipe is complete is not accepted (R436); the status of that answer is not stated (a
free value, log 53). -/
def State.wipeRefusal (s : State) : State :=
  ({ s with free := s.free + 1 } : State).respond s.args.cmd (1 + (Config.freeWord s.free).toNat % 5) []

/-- What the body of a command answers: a status alone, or the state it leaves with a payload. -/
abbrev Done := Except Nat (State × List Byte)

/-- Whether the request that is performed waits behind an earlier command that is not answered yet (R431). -/
def State.commandWaits (s : State) : Bool :=
  s.held.any fun h => h.row != .hostCxlAccess && h.row != .atsInvalidation && (s.args.since == 0 || h.args.since < s.args.since)

/-- A command as Aderic executes it, one at a time in the order of arrival (R431): it waits for the earlier ones, is turned
away, refused with a status, done with status 0, or, with no payload yet, answered later, when its effect has completed. -/
def State.execute (s : State) (row : Instr) (scope : Scope) (always : Bool) (body : Except Nat (State × Option (List Byte))) : State :=
  if s.admin.wiping && row != .cmdStatus then s.wipeRefusal.unhold
  else if s.commandWaits then s.hold row
  else match s.refusal scope always with
    | some st => (s.respond s.args.cmd st []).unhold
    | none =>
      match body with
      | .error st => (s.respond s.args.cmd st []).unhold
      | .ok (s1, some p) => (s1.respond s.args.cmd 0 p).unhold
      | .ok (s1, none) => s1.hold row

/-- A command whose effect does not wait. -/
def State.command (s : State) (row : Instr) (scope : Scope) (always : Bool) (body : Done) : State :=
  s.execute row scope always (body.map fun x => (x.1, some x.2))

/-- A body that is malformed (status 2) where a condition fails. -/
def wellFormedIf (ok : Bool) (s : State) : Done := if ok then .ok (s, []) else .error 2

/-! ### Ownership (R433) -/

/-- CLAIM (R433): the requester becomes the owner of a device without one. -/
def execCmdClaim (s : State) : Out :=
  .next (s.command .cmdClaim .any false (if s.admin.owner.isSome then .error 1 else .ok
    (s.modAdmin fun a => { a with owner := some s.args.cmd.req }, [])))

/-- HANDOVER (R433): the requester of load becomes the owner. -/
def execCmdHandover (s : State) : Out :=
  .next (s.command .cmdHandover .device false (match s.args.load with
    | .requester r => .ok (s.modAdmin fun a => { a with owner := some r }, [])
    | _ => .error 2))

/-- RELEASE (R433): the device has no owner. -/
def execCmdRelease (s : State) : Out := .next (s.command .cmdRelease .device false (.ok (s.modAdmin fun a => { a with owner := none }, [])))

/-! ### Attestation and state (R432, R434) -/

/-- A function as the function table holds it (R432, R434): partition, page-table root, PASID, rings and queues. -/
def State.functionRow (s : State) (f : Fn) : List Nat :=
  let rings := s.frontEnds.zipIdx.flatMap fun x => (x.1.rings.filter (·.1 == f.id)).flatMap fun r => [x.2, r.2]
  let queues := (s.admin.queues.filter (·.fn == f.id)).flatMap fun q => [q.num, q.cb]
  [f.id, f.partition, f.root, f.pasid, rings.length] ++ rings ++ [queues.length] ++ queues

/-- What an attestation report measures beside the nonce (R434), 64 bytes each: mask ROM, patch table, fuse map, life-cycle
state, which is held in fuses too (R435), partition mode and function table. -/
def State.measures (s : State) : List Byte :=
  let items : List (List Nat) := [[], [], [s.admin.lifecycle], [s.admin.lifecycle], [s.admin.mode], s.admin.fns.flatMap s.functionRow]
  items.zipIdx.flatMap fun x => leBytes 64 (Config.digest x.2 x.1).toNat

/-- MEASURE (R434): a report over the 64-byte nonce of bytes, signed. -/
def execCmdMeasure (s : State) : Out :=
  let report := s.args.bytes ++ s.measures
  .next (s.command .cmdMeasure .any true (if s.args.bytes.length ≠ 64 then .error 2 else .ok (s, report ++ Config.signature report)))

/-- GETCERT (R434). -/
def execCmdGetcert (s : State) : Out := .next (s.command .cmdGetcert .any true (.ok (s, Config.certificate)))

/-- STATUS (R432): the device state, in a layout that the spec leaves open. -/
def execCmdStatus (s : State) : Out :=
  .next (s.command .cmdStatus .any true (.ok
    (s, Config.layout 0x12 [s.admin.lifecycle, s.admin.mode, s.admin.powerLimit, s.admin.scrubHours, s.admin.budget])))

/-- A device event as numbers (R430). -/
def DevEvent.numbers (e : DevEvent) : List Nat :=
  let link (l : LinkId) : List Nat := match l with
    | .stack a b => [0, a, b]
    | .bridge a b => [1, a, b]
    | .heddle a => [2, a, 0]
    | .host => [3, 0, 0]
  match e with
  | .corrected a b c => [0, a, b, c]
  | .rowRepair a b c d => [1, a, b, c, d]
  | .retirement a b => [2, a, b]
  | .coreTransfer a => [3, a]
  | .laneRepair l => 4 :: link l

/-- READLOG (R430, R432): the device log, in a layout that the spec leaves open (log 17). -/
def execCmdReadlog (s : State) : Out :=
  .next (s.command .cmdReadlog .any false (.ok (s, Config.layout 0x13 (s.admin.devlog.flatMap DevEvent.numbers))))

/-! ### Wiping (R404, R436) -/

/-- Words that read zero. -/
def zeros (l : List Word) : List Word := l.map fun _ => 0

/-- What a wipe leaves of an agent (R436): registers, predicates and local store zero, with those that its operations have
still to write. -/
def Warp.wiped (w : Warp) : Warp :=
  { w with
    v := w.v.map (fun (r : VReg) => { r with val := zeros r.val, poison := 0 }), s := zeros w.s, spoison := 0, p := w.p.map fun _ => 0, lds := [],
    ops := w.ops.map (fun (o : LongOp) => { o with writes := o.writes.map fun (x : LaneWrite) => { x with vals := zeros x.vals, poison := 0 } }),
    resv := [], region := w.region.map fun (r : OpenRegion) => { r with buf := [] } }

/-- What a wipe leaves of a matrix context. -/
def MatCtx.wiped (x : MatCtx) : MatCtx :=
  { x with tiles := x.tiles.map zeros, poison := [], cmds := x.cmds.map fun (c : MatCmd) => { c with regs := c.regs.map zeros } }

/-- What a wipe leaves of a pseudo-channel. -/
def Pch.wiped (p : Pch) : Pch :=
  { p with accs := p.accs.map zeros, accPoison := [], bcast := p.bcast.map (fun _ => 0), bcastPoison := [], raw := [] }

/-- A launch's or dispatch's view of the memories after a wipe. -/
def CodeImage.wiped (x : CodeImage) : CodeImage := { x with mem := x.mem.peers }

/-- Every memory of the package wiped (R436): each location reads zero and carries no poison mark. The host's memory and that of peers stay
(log 19). -/
def State.wipe (s : State) : State :=
  let shuttle (h : Shuttle) : Shuttle := { h with vslots := zeros h.vslots, sslots := zeros h.sslots, vpois := 0, spois := 0 }
  let slab (x : Slab) : Slab := { x with old := [], new := [], oldMarks := [], newMarks := [] }
  let op (o : BankOp) : BankOp := { o with rows := o.rows.map (fun r => (r.1, zeros r.2)), poisoned := [] }
  let copy (c : CopyCmd) : CopyCmd := { c with staged := c.staged.map fun l => l.map fun _ => (0, false) }
  { s with
    mem := s.mem.peers, poison := s.poison.filter Loc.outside, origins := [], tlb := [], ats := [], admin := { s.admin with attrs := [] },
    launches := s.launches.map (fun (l : Launch) => { l with code := l.code.wiped }),
    dispatches := s.dispatches.map (fun (d : Dispatch) => { d with code := d.code.wiped }), warps := s.warps.map Warp.wiped,
    blocks := s.blocks.map (fun (b : Block) => { b with scratch := [], mctx := b.mctx.map MatCtx.wiped }), shuttles := s.shuttles.map shuttle,
    stripes := s.stripes.map (fun (t : Stripe) => { t with data := [] }), copies := s.copies.map copy, bankops := s.bankops.map op,
    saved := s.saved.map (fun (x : SavedWave) => { x with warp := x.warp.wiped, bank := x.bank.map Pch.wiped }),
    regions := s.regions.map (fun (r : Region) => { r with slabs := r.slabs.map slab }), pchs := s.pchs.map Pch.wiped }

/-- Whether nothing runs in any partition (R404). -/
def State.idle (s : State) : Bool :=
  s.warps.isEmpty && s.blocks.isEmpty && s.launches.isEmpty && s.dispatches.isEmpty && s.copies.isEmpty && s.bankops.isEmpty && s.saved.isEmpty &&
    s.shuttles.isEmpty && s.msgs.isEmpty

/-- The bridges as Aderic sets them for a partition mode (R405): open within a partition, closed between partitions, locked. -/
def Admin.setBridges (a : Admin) (mode : Nat) : Admin :=
  let inside (e : Nat × Nat) : Bool := (List.range 4).any fun p => (diesOf mode p).contains e.1 && (diesOf mode p).contains e.2
  { a with firewall := (List.zip a.firewall bridgeEnds).map fun x => firewallWrite x.1 (if inside x.2 then 0xC else 0xE) }

/-- PARTITION (R404, R405, R423): the mode becomes a while every affected partition is idle; the memories of those dies are
wiped, their queues reset and their placement starts afresh (R380); the bridges are set for the mode (log 16). -/
def execCmdPartition (s : State) : Out :=
  let m := s.args.a
  .next (s.command .cmdPartition .device false (
    if m ≠ 1 ∧ m ≠ 2 ∧ m ≠ 4 then .error 2
    else if m = s.admin.mode then .ok (s.modAdmin fun a => a.setBridges m, [])
    else if !s.idle then .error 3
    else .ok (({ s.wipe with pointers := [0, 11, 22, 33] } : State).modAdmin fun a =>
      { a.setBridges m with mode := m, deadCores := [], queues := a.queues.map fun (q : Queue) => { q with reported := [], cancelled := [] } }, [])))

/-- LIFECYCLE (R435, R436): the fused state moves on, and every memory is wiped; the wipe is complete when PACKAGE_RESET says so. -/
def execCmdLifecycle (s : State) : Out :=
  let from' := s.admin.lifecycle
  let ok := (from' = 0 ∧ s.args.a = 1) ∨ (from' = 1 ∧ s.args.a = 2) ∨ (from' = 2 ∧ s.args.a = 3) ∨ (from' = 3 ∧ s.args.a = 1)
  .next (s.command .cmdLifecycle .device true
    (if ok then .ok (s.wipe.modAdmin fun a => { a with lifecycle := s.args.a, wiping := true }, []) else .error 4))

/-! ### Functions and grants (R315, R372, R397, R414, R417, R432) -/

/-- Whether FUNCTION may create a function with its tables (R315, R316, R372, R397) and its PASID of 20 bits (R409). -/
def State.functionOk (s : State) (fn partition root pasid : Nat) (rings queues : List (Nat × Nat)) : Bool :=
  fn < 64 && partition < s.admin.mode && pasid < 2 ^ 20 && root % 4096 == 0 &&
    ((stackOf root).any fun k => (diesOf s.admin.mode partition).contains (dieOfStack k)) &&
    (rings.all fun r => r.1 < 12 && (diesOf s.admin.mode partition).contains (dieOfStack r.1) &&
      (r.2 == 0 || (r.2 % 64 == 0 && stackOf r.2 == some r.1))) &&
    queues.all fun q => q.1 < 8192 && q.2 % 64 == 0 && (stackOf q.2).isSome

/-- A context's bucket at a port as FUNCTION leaves it (R407): unlimited. -/
def Bucket.reset (fn stack : Nat) : Bucket := { fn := fn, stack := stack, rate := 0xFFFF, depth := 0x0040, level := 65536, waiting := [] }

/-- A function comes into being; its slice begins at once where its partition runs no other (R406), its buckets are as reset
leaves them, and the bridges are set for the partition mode (R405, log 16). -/
def State.createFunction (s : State) (fn partition root pasid : Nat) (rings queues : List (Nat × Nat)) : State :=
  let f := { Fn.fresh fn partition root pasid with running := !(s.admin.fns.any fun x => x.partition == partition && x.running) }
  let s1 := s.modAdmin fun a => { a.setBridges a.mode with
    fns := a.fns ++ [f], buckets := a.buckets ++ (List.range 12).map (Bucket.reset fn),
    queues := a.queues ++ queues.map fun q => { num := q.1, fn := fn, cb := q.2, reported := [], cancelled := [] } }
  rings.foldl (fun s r => if r.2 = 0 then s else s.modFront r.1 fun x => { x with rings := x.rings ++ [(fn, r.2)] }) s1

/-- Regions leave, with the poison, the records and the buffered stores of their elements (R350). -/
def State.dropRegions (s : State) (p : Region → Bool) : State :=
  let keys := (s.regions.filter p).map fun r => regionKey r.fn r.index
  let gone (l : Loc) : Bool := match l with | .view k _ => keys.contains k | _ => false
  let warp (w : Warp) : Warp := { w with region := w.region.map fun (r : OpenRegion) => { r with buf := r.buf.filter fun x => !gone x.1 } }
  { s with
    regions := s.regions.filter (fun r => !p r), poison := s.poison.filter (fun l => !gone l), strongs := s.strongs.filter (fun x => !gone x.loc),
    records := s.records.filter (fun r => !(r.key.space == 1 && keys.contains r.key.obj)), warps := s.warps.map warp }

/-- A function leaves the device with its tables, regions and allocations. -/
def State.destroyFunction (s : State) (fn : Nat) : State :=
  let s1 := s.modAdmin fun a => { a with
    fns := a.fns.filter (·.id != fn), queues := a.queues.filter (·.fn != fn), buckets := a.buckets.filter (·.fn != fn),
    attrs := a.attrs.filter (·.fn != fn), nvme := a.nvme.filter (·.fn != fn) }
  { s1.dropRegions (·.fn == fn) with
    tlb := s1.tlb.filter (·.fn != fn), ats := s1.ats.filter (·.1 != fn), pri := s1.pri.filter (·.1 != fn),
    stripes := s1.stripes.filter (·.fn != fn),
    frontEnds := s1.frontEnds.map fun (x : Stack) => { x with rings := x.rings.filter (·.1 != fn), reported := x.reported.filter (·.1 != fn) } }

/-- Whether a function has work in the machine. -/
def State.fnBusy (s : State) (fn : Nat) : Bool :=
  s.launches.any (·.fn == fn) || s.dispatches.any (·.fn == fn) || s.copies.any (·.fn == fn) || s.bankops.any (·.fn == fn) || s.msgs.any (·.fn == fn)

/-- FUNCTION (R432): creates or destroys a function. -/
def execCmdFunction (s : State) : Out :=
  .next (s.command .cmdFunction .device false (match s.args.load with
    | .function (.create fn partition root pasid rings queues) =>
      if !s.functionOk fn partition root pasid rings queues then .error 2
      else if (s.fn? fn).isSome || queues.any (fun q => s.admin.queues.any (·.num == q.1)) then .error 5
      else .ok (s.createFunction fn partition root pasid rings queues, [])
    | .function (.destroy fn) =>
      if (s.fn? fn).isNone then .error 2 else if s.fnBusy fn then .error 3 else .ok (s.destroyFunction fn, [])
    | _ => .error 2))

/-- A storage grant within its ranges (R414). -/
def grantOk (r : List Byte) : Bool :=
  r.length == 64 && 2 ≤ fieldAt r 32 2 && fieldAt r 32 2 ≤ 4096 && (fieldAt r 34 1 == 9 || fieldAt r 34 1 == 12) && fieldAt r 35 1 == 0 &&
    1 ≤ fieldAt r 44 4 && fieldAt r 44 4 ≤ 60000 && leNat (r.drop 48) == 0

/-- GRANT (R414, R417, R432): frames, a storage grant, whose queue pair starts afresh, a heddle window, the port of a route
or the device's number (log 67). -/
def execCmdGrant (s : State) : Out :=
  .next (s.command .cmdGrant .device false (match s.args.load with
    | .grant (.frames fn base len) =>
      if (s.fn? fn).isNone ∨ base % 4096 ≠ 0 ∨ len % 4096 ≠ 0 ∨ !((stackOf base).any (s.stackIn fn)) ∨
        (len ≠ 0 ∧ stackOf (base + len - 1) ≠ stackOf base) then
        .error 2
      else .ok (s.modFn fn fun f => { f with frames := f.frames ++ [(base, len)] }, [])
    | .grant (.storage fn i r) =>
      if (s.fn? fn).isNone ∨ 256 ≤ i ∨ !grantOk r then .error 2
      else .ok ((s.modFn fn fun f => { f with grants := f.grants.filter (·.1 != i) ++ [(i, r)] }).modAdmin fun a =>
        { a with nvme := a.nvme.filter fun x => !(x.fn == fn && x.grant == i) }, [])
    | .grant (.heddle peer len) =>
      if 256 ≤ peer ∨ 2 ^ 40 < len then .error 2
      else .ok (s.modAdmin fun a => { a with windows := a.windows.filter (·.1 != peer) ++ [(peer, len)] }, [])
    | .grant (.route device port) =>
      if 256 ≤ device ∨ 16 ≤ port then .error 2
      else .ok (s.modAdmin fun a => { a with routes := a.routes.filter (·.1 != device) ++ [(device, port)] }, [])
    | .grant (.device n) => if 256 ≤ n then .error 2 else .ok (s.modAdmin fun a => { a with device := n }, [])
    | _ => .error 2))

/-! ### Translation (R400, R403) -/

/-- The pages of host memory that a range of a function maps, by its cached translations and by its tables. -/
def State.hostPages (s : State) (fn va len : Nat) : List Nat :=
  let hit (t : TlbEntry) : Bool := t.fn == fn && t.page < va + len && va < t.page + 2 ^ t.size
  let cached := (s.tlb.filter fun t => hit t && bitAt t.pte.toNat 7 && pteAttr t.pte.toNat < 4).flatMap fun t =>
    (List.range (2 ^ t.size / 4096)).map (ptePa t.pte.toNat / 4096 + ·)
  cached ++ (List.range ((va % 4096 + len + 4095) / 4096)).filterMap fun i => s.hostPage fn (va / 4096 * 4096 + 4096 * i)

/-- Translations of a range are dropped, in the TLBs and in the ATS cache (R400); the function's armed watches follow their words (R412). -/
def State.invalidate (s : State) (fn va len : Nat) : State :=
  let hit (t : TlbEntry) : Bool := t.fn == fn && t.page < va + len && va < t.page + 2 ^ t.size
  let pages := if s.ats.isEmpty then [] else s.hostPages fn va len
  ({ s with tlb := s.tlb.filter (fun t => !hit t), ats := s.ats.filter fun x => !(x.1 == fn && pages.contains x.2) } : State).followWatches fn

/-- INVAL (R400): the range of b bytes from value of function a; it is answered when every access that used a dropped translation has been
performed. -/
def execCmdInval (s : State) : Out :=
  let s1 := s.invalidate s.args.a s.args.value.toNat s.args.b
  .next (s.execute .cmdInval (.function s.args.a) false (
    if (s.fn? s.args.a).isNone then .error 2 else .ok (s1, if s1.buffered s.args.a then none else some [])))

/-- The bytes of a page moved from one memory to another (R403): the target holds them and nothing else. -/
def moveCells (src dst : Memory) (old new n : Nat) : Memory :=
  (src.filter fun c => old ≤ c.1 && c.1 < old + n).foldl (fun m c => Memory.put m (c.1 - old + new) c.2) (Memory.wipe dst new (new + n))

/-- A location of a migrated page at its new home. -/
def moveLoc (old new n : Nat) (toHost : Bool) (l : Loc) : Loc :=
  match l with
  | .dev a => if toHost ∧ old ≤ a ∧ a < old + n then .host (a - old + new) else l
  | .host a => if !toHost ∧ old ≤ a ∧ a < old + n then .dev (a - old + new) else l
  | _ => l

/-- An SFR record of a migrated page at its new home (R277, R403). -/
def moveRecord (old new n : Nat) (toHost : Bool) (r : SfrRecord) : SfrRecord :=
  let space := if toHost then 0 else 3
  if r.key.space = space ∧ r.key.obj = 0 ∧ old ≤ 256 * r.key.line ∧ 256 * r.key.line < old + n then
    { r with key := { space := 3 - space, obj := 0, line := r.key.line - old / 256 + new / 256 } }
  else r

/-- The bytes of a migrated page at their new home in a pair of memories. -/
def Migration.cells (m : Migration) (x : CodeImage) : CodeImage :=
  if m.toHost then { x with hostMem := moveCells x.mem x.hostMem m.old m.frame (2 ^ m.size) }
  else { x with mem := moveCells x.hostMem x.mem m.old m.frame (2 ^ m.size) }

/-- Step 1 of a migration (R403): MIGR is set in the page's entries and its translations are dropped, so that stores and atomics wait. -/
def State.startMigration (s : State) (fn : Nat) (l : Leaf) (toHost : Bool) (frame : Nat) : State :=
  let set (s : State) (e : Nat) : State := s.writeNum (.dev e) 8 (Nat.lor (s.readNum (.dev e) 8) 64)
  let m : Migration := { fn := fn, page := l.page, size := l.size, entries := l.entries, old := ptePa l.pte, toHost := toHost, frame := frame }
  { (l.entries.foldl set s).invalidate fn l.page (2 ^ l.size) with migrations := s.migrations ++ [m] }

/-- Whether a location lies in the new frame of a page that migrates. -/
def Migration.onto (m : Migration) (l : Loc) : Bool :=
  match l with
  | .dev a => !m.toHost && m.frame ≤ a && a < m.frame + 2 ^ m.size
  | .host a => m.toHost && m.frame ≤ a && a < m.frame + 2 ^ m.size
  | _ => false

/-- The switch (R277, R403): bytes, poison, records, reservations and the pieces that region buffers hold move, and the entries name the new
frame. -/
def State.migrate (s : State) (m : Migration) : State :=
  let n := 2 ^ m.size
  let loc := moveLoc m.old m.frame n m.toHost
  let img := m.cells s.image
  let warp (w : Warp) : Warp :=
    { w with resv := w.resv.map (fun (r : Resv) => { r with granule := loc r.granule }),
             region := w.region.map fun (r : OpenRegion) => { r with buf := r.buf.map fun x => (loc x.1, x.2) } }
  let s1 : State := { s with
    mem := img.mem, hostMem := img.hostMem, poison := (s.poison.filter fun l => !m.onto l).map loc, records := s.records.map
      (moveRecord m.old m.frame n m.toHost),
    strongs := s.strongs.map (fun (x : StrongAcc) => { x with loc := loc x.loc }), warps := s.warps.map warp,
    launches := s.launches.map (fun (l : Launch) => { l with code := m.cells l.code }),
    dispatches := s.dispatches.map (fun (d : Dispatch) => { d with code := m.cells d.code }), migrations := s.migrations.erase m }
  let entry (s : State) (x : Nat × Nat) : State :=
    let p := s.readNum (.dev x.1) 8
    s.writeNum (.dev x.1) 8 (p - bitsAt p 51 12 * 4096 - bitsAt p 7 7 * 128 - bitsAt p 6 6 * 64 +
      (m.frame + 4096 * x.2) + if m.toHost then 128 else 0)
  (m.entries.zipIdx.foldl entry s1).invalidate m.fn m.page n

/-- MIGRATE (R403): the page at value of function a moves to the host tier (flag) or the device tier, to frame b; a page with
SILL, BSTRIPE or VIEW, or in its tier already, is refused with status 2, one that is migrating with status 3 (log 33). The
switch comes in a later step, and the command is answered then. -/
def execCmdMigrate (s : State) : Out :=
  let fn := s.args.a
  let va := s.args.value.toNat
  let frame := s.args.b
  .next (s.execute .cmdMigrate (.function fn) false (
    match s.migrations.find? fun m => m.fn == fn && m.page ≤ va && va < m.page + 2 ^ m.size with
    | some m => .ok (s.migrate m, some [])
    | none =>
      match (s.fn? fn).map fun f => s.walk fn va false true 4 f.root with
      | some (.ok l) =>
        if bitAt l.pte 6 then .error 3
        else if pteAttr l.pte ≠ 0 ∨ bitAt l.pte 7 = s.args.flag ∨ isPeer (ptePa l.pte) ∨ frame % 2 ^ l.size ≠ 0 ∨ 2 ^ 52 ≤ frame ∨
            (!s.args.flag ∧ !s.granted fn frame (2 ^ l.size)) then .error 2
        else .ok (s.startMigration fn l s.args.flag frame, none)
      | _ => .error 2))

/-! ### Regions (R347, R348) -/

/-- A descriptor's fields (R347). -/
def RegionDesc.parse (b : List Byte) : RegionDesc :=
  let b2 := fieldAt b 2 1
  let b3 := fieldAt b 3 1
  { gen := fieldAt b 0 2, wlog := b2 / 8, view := bitAt b2 2, target := bitAt b2 1, etype := bitsAt b3 6 3, rank := bitsAt b3 2 0,
    blen := fieldAt b 4 1 % 4, shape := (List.range 5).map fun i => fieldAt b (8 + 4 * i) 4, stride := (List.range 5).map
      fun i => fieldAt b (28 + 8 * i) 8,
    slabRows := fieldAt b 68 4, place := (List.range (fieldAt b 5 1)).map fun j => bitsAt (fieldAt b 72 6) (4 * j + 3) (4 * j),
    viewBase := fieldAt b 80 8, initOrd := BitVec.ofNat 16 (fieldAt b 88 4) }

/-- The default of SLABROWS (R348): the largest value whose slab needs at most 64 MiB under straight order, at least 1; in a
dsb region of rank 1 a multiple of L, at least L. -/
def RegionDesc.defaultRows (d : RegionDesc) : Nat :=
  let units := 262144 * d.perLine
  if d.rank = 1 then min (units * d.blockLen) (d.shape.headD 1)
  else
    let each := ((d.extents 0).drop 1).foldl (· * ·) 1
    max 1 (min (units / each) (d.shape.headD 1))

/-- The descriptor that a region has: its SLABROWS filled in. -/
def RegionDesc.filled (d : RegionDesc) : RegionDesc := if d.slabRows = 0 then { d with slabRows := { d with slabRows := 1 }.defaultRows } else d

/-- Whether a descriptor's bytes are acceptable for a context (R348). -/
def State.descriptorOk (s : State) (fn : Nat) (b : List Byte) : Bool :=
  let d := RegionDesc.parse b
  let b2 := fieldAt b 2 1
  let pcount := fieldAt b 5 1
  let dsb := dsbWidth d.etype != 0
  let sh (q : Nat) : Nat := d.shape.getD q 0
  let st (q : Nat) : Nat := d.stride.getD q 0
  let dims := List.range d.rank
  let zeros := fieldAt b 3 1 / 128 == 0 && fieldAt b 4 1 / 4 == 0 && fieldAt b 6 2 == 0 && fieldAt b 78 2 == 0 && fieldAt b 90 2 == 0 &&
    leNat (b.drop 92) == 0
  let ranges := b.length == 128 && bitAt b2 0 && 1 ≤ d.rank && d.rank ≤ 5 && 6 ≤ d.wlog && d.wlog ≤ 24 && (dsb || d.blen == 0) &&
    1 ≤ pcount && pcount ≤ 12 && d.place.all (· < 12) && fieldAt b 72 6 / 2 ^ (4 * pcount) == 0 &&
    (List.range 5).all (fun q => 1 ≤ sh q && (q < d.rank || (sh q == 1 && st q == 0))) && (if d.view then d.viewBase % 4096 == 0 else d.viewBase == 0)
  let nest := 1 ≤ st (d.rank - 1) && (List.range (d.rank - 1)).all fun q => st (q + 1) * sh (q + 1) ≤ st q
  let small := dims.foldl (fun n q => n + (sh q - 1) * st q) 0 < 2 ^ 48
  let blocks := !dsb || (st (d.rank - 1) == 1 && sh (d.rank - 1) % d.blockLen == 0 &&
    (List.range (d.rank - 1)).all (fun q => st q % d.blockLen == 0) &&
    (d.rank != 1 || d.slabRows % d.blockLen == 0))
  zeros && ranges && nest && small && blocks && codeValid d.rank d.blockLen d.initOrd.toNat && d.place.all (s.stackIn fn)

/-- A slab as its region is created (R354): stable in INITORD; its storage reads zero (R348). -/
def RegionDesc.slab (d : RegionDesc) (k : Nat) : Slab :=
  { home := d.place.getD (k % d.place.length) 0, cur := d.initOrd, target := d.initOrd, frontier := 0, ver := 0, state := 0, pin := none, pinnedMove := false,
    adv := none, cool := 0, win := 0, closed := 0, history := [], run := none, decided := none, seen := 0, strides := [], prev := [],
      old := [], new := [],
    firstUnits := d.slabUnits k d.initOrd.toNat }

/-- REGION (R347, R348, R350): creates the region of a descriptor in an entry that names none, or destroys the one of a handle. -/
def execCmdRegion (s : State) : Out :=
  let fn := s.args.a
  .next (s.command .cmdRegion (.function fn) false (match s.args.load with
    | .region (.create i b) =>
      if (s.fn? fn).isNone ∨ 65536 ≤ i ∨ !s.descriptorOk fn b then .error 2
      else if s.regions.any fun r => r.fn == fn && r.index == i then .error 5
      else
        let d := (RegionDesc.parse b).filled
        let n := roundUp (d.shape.headD 1) d.slabRows / d.slabRows
        let r : Region := { fn := fn, index := i, desc := d, slabs := (List.range n).map d.slab }
        .ok ({ s with regions := s.regions ++ [r] }, leBytes 4 (d.gen * 65536 + i))
    | .region (.destroy h) =>
      match s.region? fn h.toNat with
      | none => .error 2
      | some r =>
        .ok (s.dropRegions fun x => x.fn == fn && x.index == r.index, [])
    | _ => .error 2))

/-! ### Allocations (R332, R368, R398) -/

/-- The level-1 entry of a page (R397), where the tables above it stand. -/
def State.entryFrom (s : State) (va : Nat) : Nat → Nat → Option Nat
  | 0, tbl => some (tbl + va / 4096 % 512 * 8)
  | level + 1, tbl =>
    let pte := s.readNum (.dev (tbl + va / 2 ^ (12 + 9 * (level + 1)) % 512 * 8)) 8
    if bitAt pte 0 && !bitAt pte 1 then s.entryFrom va level (ptePa pte) else none

/-- The level-1 entries of n pages from an address on; none where a table is missing. -/
def State.entriesFrom (s : State) (fn va n : Nat) : Option (List Nat) :=
  match s.fn? fn with
  | none => none
  | some f =>
    let es := (List.range n).map fun i => s.entryFrom (va + 4096 * i) 4 f.root
    if es.all (·.isSome) then some (es.filterMap id) else none

/-- Entries written by Aderic (R398): frame or handle bits of each page, flags, and the attribute. -/
def State.mapPages (s : State) (fn : Nat) (entries : List Nat) (bits : Nat → Nat) (attr : Nat) : State :=
  let s1 := entries.zipIdx.foldl (fun s e => s.writeNum (.dev e.1) 8 (bits e.2)) s
  s1.setAttr fn entries attr

/-- DRAM rows that two bank-striped allocations share. -/
def Stripe.meets (t u : Stripe) : Bool :=
  t.stack == u.stack && t.pch == u.pch && t.row0 < u.row0 + u.words / 32 && u.row0 < t.row0 + t.words / 32

/-- ALLOC (R332, R368, R398): sill-homed pages, a bank-striped allocation (sill-homed too), or the pages of a region's view. -/
def execCmdAlloc (s : State) : Out :=
  let fn := s.args.a
  .next (s.command .cmdAlloc (.function fn) false (match s.args.load with
    | .alloc (.sill va len frame) =>
      if va % 4096 ≠ 0 ∨ len % 4096 ≠ 0 ∨ frame % 4096 ≠ 0 ∨ !canonical va ∨ !s.granted fn frame len then .error 2
      else match s.entriesFrom fn va (len / 4096) with
        | none => .error 5
        | some es => .ok (s.mapPages fn es (fun i => frame + 4096 * i + 5) 1, [])
    | .alloc (.stripe va frame stack pch row0 rows bytes) =>
      let t : Stripe := { fn := fn, va := va, frame := frame, stack := stack, pch := pch, row0 := row0, rows := rows, bytes := bytes, data := [] }
      if va % 4096 ≠ 0 ∨ frame % 4096 ≠ 0 ∨ !canonical va ∨ rows = 0 ∨ bytes % 32 ≠ 0 ∨ bytes < 32 ∨ 65536 < bytes ∨ 62 ≤ pch ∨
        (s.pch stack pch).missing ∨
          stackOf frame ≠ some stack ∨ !s.granted fn frame (4096 * t.pages) then .error 2
      else if s.stripes.any fun u => u.meets t then .error 5
      else match s.entriesFrom fn va t.pages with
        | none => .error 5
        | some es =>
          .ok (({ s with stripes := s.stripes ++ [t] } : State).mapPages fn es (fun i => frame + 4096 * i + 5) 3, leBytes 8 va ++ leBytes 4 row0)
    | .alloc (.view va len h) =>
      if va % 4096 ≠ 0 ∨ len % 4096 ≠ 0 ∨ !canonical va ∨ !((s.region? fn h.toNat).any (·.desc.view)) then .error 2
      else match s.entriesFrom fn va (len / 4096) with
        | none => .error 5
        | some es => .ok (s.mapPages fn es (fun _ => h.toNat * 4096 + 1) 4, [])
    | _ => .error 2))

/-! ### Settings (R325, R326, R364, R383, R406, R407, R421, R429, R438, R440) -/

/-- RESERVE (R364, R432): the re-tile reserve of stack a is b units of 64 KiB, up to 8 GiB. -/
def execCmdReserve (s : State) : Out :=
  .next (s.command .cmdReserve .device false (
    if 12 ≤ s.args.a ∨ 131072 < s.args.b then .error 2 else .ok (s.modFront s.args.a fun f => { f with reserve := s.args.b }, [])))

/-- The split code of a pseudo-channel (R325, R326): its accesses queue meanwhile; in all-bank mode it takes effect when the mode ends. -/
def Pch.setSplit (p : Pch) (code : Nat) : Pch :=
  if p.owner.isSome then { p with pendingSplit := some code } else { p with split := code, quiesce := true }

/-- SPLIT (R325): code c for pseudo-channel b of stack a, or with flag for all of the stack's. -/
def execCmdSplit (s : State) : Out :=
  let which := if s.args.flag then List.range 62 else [s.args.b]
  .next (s.command .cmdSplit .device false (
    if 12 ≤ s.args.a ∨ 62 ≤ s.args.b ∨ s.args.c = 0 ∨ 8 ≤ s.args.c then .error 2
    else .ok (which.foldl (fun s p => s.setPch ((s.pch s.args.a p).setSplit s.args.c)) s, [])))

/-- SCRUB (R421): a period of a hours, 1 to 168. -/
def execCmdScrub (s : State) : Out :=
  .next (s.command .cmdScrub .device false (wellFormedIf (1 ≤ s.args.a && s.args.a ≤ 168) (s.modAdmin fun a => { a with scrubHours := s.args.a })))

/-- SLICE (R406): slices of b microseconds for function a, 100 us to 100 ms. -/
def execCmdSlice (s : State) : Out :=
  .next (s.command .cmdSlice .device false (wellFormedIf ((s.fn? s.args.a).isSome && 100 ≤ s.args.b && s.args.b ≤ 100000)
    (s.modFn s.args.a fun f => { f with slice := s.args.b })))

/-- BUCKET (R407): the register of function a at stack b takes value. -/
def execCmdBucket (s : State) : Out :=
  .next (s.command .cmdBucket .device false
    (wellFormedIf ((s.fn? s.args.a).isSome && s.args.b < 12) (s.setBucket s.args.a s.args.b (word s.args.value.toNat))))

/-- LOGCTL (R429, R430): the error log of function a has its control block at value; one that breaks its limits is reported
to the log before. -/
def execCmdLogctl (s : State) : Out :=
  let cb := s.args.value
  let ok := logBlockOk (s.readLocs ((Loc.dev cb.toNat).span 64))
  let s1 := if ok then s else (s.log s.args.a 0x16 cb.toNat 0 0 6 0 0).1
  .next (s.command .cmdLogctl (.function s.args.a) false (
    wellFormedIf ((s.fn? s.args.a).isSome && cb.toNat % 64 == 0) (s1.modFn s.args.a fun f => { f with log := some cb })))

/-- CANCEL (R383): the launches of function a's queue b that identifier value names at level c. -/
def execCmdCancel (s : State) : Out :=
  .next (s.command .cmdCancel (.function s.args.a) false (match s.queue? s.args.b with
    | some q => if q.fn ≠ s.args.a ∨ 4 ≤ s.args.c then .error 2 else
      match s.cancelIdent q s.args.c s.args.value.toNat with
      | some s1 => .ok (s1, [])
      | none => .error 2
    | none => .error 2))

/-- POWER (R438): the package limit becomes a watts, 1,200 to 2,400; the answer holds each island's frequency, in a layout
that the spec leaves open. -/
def execCmdPower (s : State) : Out :=
  .next (s.command .cmdPower .device false (
    if s.args.a < 1200 ∨ 2400 < s.args.a then .error 2
    else .ok (s.modAdmin fun a => { a with powerLimit := s.args.a }, Config.layout 0x40 (s.admin.clusters ++ s.admin.uncore ++ s.admin.sill))))

/-- BUDGET (R440): each quadrant's matrix budget becomes a units per microsecond, 0 to 19,200. -/
def execCmdBudget (s : State) : Out :=
  .next (s.command .cmdBudget .device false (wellFormedIf (s.args.a ≤ 19200) (s.modAdmin fun a => { a with budget := s.args.a })))

end Sys2Proof.Machine
end

