-- ==== Sys2Proof/Machine/Atomic.lean ====
section
/-! DEFINITION. Atomics and reservations (R52, R143 to R152), and the release and acquire accesses (R174). -/

namespace Sys2Proof.Machine

/-- The operations of the atomics, in the order of R52. -/
inductive AtomOp where
  | add | min | max | and | or | xor | exch | fadd
  deriving DecidableEq, Repr

/-- The operation a 3-bit field names (R52). -/
def AtomOp.ofCode (x : Nat) : AtomOp :=
  match x with
  | 0 => .add | 1 => .min | 2 => .max | 3 => .and | 4 => .or | 5 => .xor | 6 => .exch | _ => .fadd

/-- TYPEs of 32 or 64 bits that are not dsb (R143). -/
def Ty.wide (t : Ty) : Bool := t.width == 32 || t.width == 64

/-- The TYPEs an operation accepts (R144). -/
def AtomOp.accepts (a : AtomOp) (t : Ty) : Bool :=
  match a with
  | .add | .min | .max => t.isInt && t.wide
  | .and | .or | .xor | .exch => t.wide
  | .fadd => t == .f32

/-- The new value (R143, R144): sums wrap, MIN and MAX follow the signedness, FADD rounds with rne and keeps subnormals. -/
def AtomOp.apply (a : AtomOp) (t : Ty) (old x : Nat) : Nat :=
  match a with
  | .add => (old + x) % 2 ^ t.width
  | .min => if t.read old ≤ t.read x then old else x
  | .max => if t.read x ≤ t.read old then old else x
  | .and => Nat.land old x
  | .or => Nat.lor old x
  | .xor => Nat.xor old x
  | .exch => x
  | .fadd => (floatAdd .f32 .rne false old x).1

/-- Read-modify-writes of lanes in ascending order at their homes (R129): each lane's old value, and the write its function asks for. -/
def Ctx.rmw (c : Ctx) (f : Nat → Nat → Option Nat) : List Acc → State → State × List (Nat × Nat × Bool)
  | [], s => (s, [])
  | a :: as, s =>
    let old := leNat (s.readLocs a.locs)
    let s1 := match f a.lane old with
      | some x => s.land (List.zip a.locs (leBytes a.locs.length x)) c.w.writer
      | none => s
    let r := c.rmw f as s1
    (r.1, (a.lane, old, s.poisoned a.locs) :: r.2)

/-- An atomic access (R143, R176): strong, ends the SFR; names: the vector names that it writes. -/
def atomKind (migrates : Bool) (names : List Nat) : MemKind :=
  { write := true, strong := true, migrates := migrates, ends := true, names := names }

/-- The address of an MA instruction with an even v pair (R143). -/
def Ctx.maAddr (c : Ctx) (o : MA) (i : Nat) : Nat := c.val true o.a.toNat i

/-- An atomic over linear addresses; d: where old values go, if anywhere. -/
def Ctx.linearAtomic (c : Ctx) (o : MA) (migrates : Bool) (size : Nat) (d : Option Nat) (f : Nat → Nat → Option Nat) : Act :=
  let names := match d with | some d => regsFrom d (pairs (size == 8)) | none => []
  c.access (atomKind migrates names) (lanesOf c.act) (fun i => c.st.linearTarget c.fn (c.maAddr o i))
    (fun s i => c.linear true true true size s i (c.maAddr o i)) fun s as =>
      let r := c.rmw f as s
      (r.1, (match d with | some d => laneWrites d (pairs (size == 8)) r.2 | none => []), 0)

/-- The address pair and operand of an atomic. -/
def atomUses (o : MA) (n : Nat) : List Use := [vsrc o.a 0 o.la 2, vsrc o.o 0 o.lo n]

/-- ATOM.* (R144). -/
def atom (opc : Nat) (a : AtomOp) (o : MA) (s : State) : Out :=
  issue opc s (fun c => vdst o.d (pairs c.ty.pair) :: atomUses o (pairs c.ty.pair)) (tyCheck opc a.accepts) fun c =>
    let t := c.ty
    c.linearAtomic o true t.bytes (some o.d.toNat) fun i old => some (a.apply t old (c.val t.pair o.o.toNat i))

/-- ATOMRF.* (R146). -/
def atomrf (opc : Nat) (a : AtomOp) (o : MA) (s : State) : Out :=
  issue opc s (fun c => atomUses o (pairs c.ty.pair)) (tyCheck opc a.accepts) fun c =>
    let t := c.ty
    c.linearAtomic o true t.bytes none fun i old => some (a.apply t old (c.val t.pair o.o.toNat i))

/-- ATOM.ADD (R144). -/
def execAtomAdd (o : MA) (s : State) : Out := atom 0x8E .add o s
/-- ATOM.MIN (R144). -/
def execAtomMin (o : MA) (s : State) : Out := atom 0x8F .min o s
/-- ATOM.MAX (R144). -/
def execAtomMax (o : MA) (s : State) : Out := atom 0x90 .max o s
/-- ATOM.AND (R144). -/
def execAtomAnd (o : MA) (s : State) : Out := atom 0x91 .and o s
/-- ATOM.OR (R144). -/
def execAtomOr (o : MA) (s : State) : Out := atom 0x92 .or o s
/-- ATOM.XOR (R144). -/
def execAtomXor (o : MA) (s : State) : Out := atom 0x93 .xor o s
/-- ATOM.EXCH (R144). -/
def execAtomExch (o : MA) (s : State) : Out := atom 0x94 .exch o s
/-- ATOM.FADD (R144). -/
def execAtomFadd (o : MA) (s : State) : Out := atom 0x95 .fadd o s

/-- CAS (R145): d supplies the compare value and receives the old one. -/
def execCas (o : MA) (s : State) : Out :=
  issue 0x96 s (fun c => vacc o.d (pairs c.ty.pair) :: atomUses o (pairs c.ty.pair)) (tyCheck 0x96 Ty.wide) fun c =>
    let p := c.ty.pair
    c.linearAtomic o true c.ty.bytes (some o.d.toNat) fun i old =>
      if old = c.val p o.d.toNat i then some (c.val p o.o.toNat i) else none

/-- ATOMRF.ADD (R146). -/
def execAtomrfAdd (o : MA) (s : State) : Out := atomrf 0x97 .add o s
/-- ATOMRF.FADD (R146). -/
def execAtomrfFadd (o : MA) (s : State) : Out := atomrf 0x98 .fadd o s
/-- ATOMRF.MAX (R146). -/
def execAtomrfMax (o : MA) (s : State) : Out := atomrf 0x99 .max o s
/-- ATOMRF.MIN (R146). -/
def execAtomrfMin (o : MA) (s : State) : Out := atomrf 0x9A .min o s

/-- fx128 additions of lanes in ascending order (R75, R147): each that saturates writes a class 0x14 record. -/
def Ctx.fxAtomics (c : Ctx) (x : Nat → Nat) : List Acc → State → State
  | [], s => s
  | a :: as, s =>
    let r := fxAdd (toSigned 128 (leNat (s.readLocs a.locs))) (x a.lane)
    let s1 := s.land (List.zip a.locs (leBytes 16 (wrapTo 128 r.1))) c.w.writer
    let s2 := if r.2 &&& stFXOV = 0 then s1 else (s1.log c.fn 0x14 a.va (s1.wordOf c.w) 0 0 0 0).1
    c.fxAtomics x as s2

/-- ATOMX (R147). -/
def execAtomx (o : MA) (s : State) : Out :=
  issue 0x9B s (fun _ => atomUses o 1) (tyCheck 0x9B fun t => t == .f32) fun c =>
    c.access (atomKind false []) (lanesOf c.act) (fun _ => none) (fun s i => c.linear true true true 16 s i (c.maAddr o i)) fun s as =>
      (c.fxAtomics (fun i => c.val false o.o.toNat i) as s, [], 0)

/-! ### Coordinate and scratchpad atomics -/

/-- Whether an operation is defined for an element type (R148). -/
def AtomOp.suits (a : AtomOp) (etype : Nat) : Bool :=
  match a with
  | .fadd => etype == 8
  | .exch => elemBytes etype == 4 || elemBytes etype == 8
  | _ => etype == 0 || etype == 1 || etype == 6 || etype == 7

/-- A coordinate atomic (R148): d is the operand; old values are returned to it or not. With no active lane it still ends the
SFR (R176). -/
def Ctx.coordAtomic (c : Ctx) (o : MC) (a : AtomOp) (returns : Bool) : Act :=
  if c.act = 0 then .done (c.st.endSfr c.w.uid) [] 0
  else match c.st.region? c.fn (c.s o.h.toNat).toNat with
    | none => regionTrap 1
    | some r =>
      if dsbWidth r.desc.etype ≠ 0 then regionTrap 3
      else if !a.suits r.desc.etype then regionTrap 4
      else
        let n := elemRegs r.desc.etype
        let t := Ty.ofCode r.desc.etype
        let at' (i : Nat) : List Int := c.coords r.desc.rank o.c.toNat (toSigned 5 (o.imm.toNat % 32)) i
        c.access (atomKind true (if returns then regsFrom o.d.toNat n else [])) (lanesOf c.act) (fun i => r.target (at' i))
          (fun s i => c.element r s i (at' i)) fun s as =>
          let s1 := s.observe c.w (regionKey r.fn r.index) (as.map fun x => at' x.lane)
          let z := c.rmw (fun i old => some (a.apply t old (c.val (n == 2) o.d.toNat i))) as s1
          (z.1, (if returns then laneWrites o.d.toNat n z.2 else []), 0)

/-- ATOMC (R52, R148). -/
def execAtomc (o : MC) (s : State) : Out :=
  issue 0x9C s (fun c => [vacc o.d (elemRegs (c.etypeOf o.h)), ssrc o.h 1, c.coordUse o]) noCheck fun c =>
    c.coordAtomic o (AtomOp.ofCode (o.imm.toNat / 32)) true

/-- The operation of ATOMCRF (R52): 0 ADD, 1 FADD, 2 MAX, 3 MIN. -/
def rfCode (x : Nat) : AtomOp :=
  match x with
  | 0 => .add | 1 => .fadd | 2 => .max | _ => .min

/-- ATOMCRF (R52, R148): codes 4 to 7 are illegal. -/
def execAtomcrf (o : MC) (s : State) : Out :=
  issue 0x9D s (fun c => [vsrc o.d 0 false (elemRegs (c.etypeOf o.h)), ssrc o.h 1, c.coordUse o])
    (fun _ => if 4 ≤ o.imm.toNat / 32 then some (1, illegalInfo 0x9D 30) else none) fun c =>
    c.coordAtomic o (rfCode (o.imm.toNat / 32)) false

/-- The operation of ATOMS (R52). -/
def atomsOp (o : MA) : AtomOp := AtomOp.ofCode (bitsAt o.z.toNat 6 4)

/-- ATOMS (R149): the scratchpad atomic; 64-bit TYPEs are illegal. -/
def execAtoms (o : MA) (s : State) : Out :=
  issue 0x9E s (fun _ => [vdst o.d 1, vsrc o.a 0 o.la 1, vsrc o.o 0 o.lo 1])
    (tyCheck 0x9E fun t => t.width == 32 && (atomsOp o).accepts t) fun c =>
    let t := c.ty
    let addr (i : Nat) : Nat := (c.lane o.a.toNat i).toNat
    c.access (atomKind true [o.d.toNat]) (lanesOf c.act) (fun i => c.scratchTarget (addr i)) (fun s i => c.scratch 4 s i (addr i)) fun s as =>
      let r := c.rmw (fun i old => some ((atomsOp o).apply t old (c.val false o.o.toNat i))) as s
      (r.1, laneWrites o.d.toNat 1 r.2, 0)

/-! ### Reservations -/

/-- A split's hold of the fairness timer (R152). -/
def State.holdTimer (s : State) (u k n : Nat) : State :=
  s.modWarp u fun w => w.setSplit k { ((w.splits[k]?).getD Split.free) with lrHold := n }

/-- LR (R150): the hold lasts for the 16 instructions after it (R152). -/
def execLr (o : MA) (s : State) : Out :=
  issue 0x9F s (fun c => [vdst o.d (pairs c.ty.pair), vsrc o.a 0 o.la 2]) (tyCheck 0x9F Ty.wide) fun c =>
    c.access { write := false, strong := true, ends := true } (lanesOf c.act) (fun _ => none)
      (fun s i => c.linear false true true c.ty.bytes s i (c.maAddr o i)) fun s as =>
        let set (w : Warp) (a : Acc) : Warp :=
          match a.locs with
          | [] => w
          | l :: _ => { w with resv := w.resv.filter (fun r => r.lane != a.lane) ++ [{ lane := a.lane, granule := l.align 32 }] }
        let s1 := s.modWarp c.w.uid fun w => as.foldl set w
        ((c.loadTo o.d.toNat (pairs c.ty.pair) leNat s1 as).1.holdTimer c.w.uid c.k 17,
         (c.loadTo o.d.toNat (pairs c.ty.pair) leNat s1 as).2.1, 0)

/-- Whether a lane holds a live reservation on the granule of a location (R151). -/
def Warp.reserved (w : Warp) (lane : Nat) (ls : List Loc) : Bool :=
  w.resv.any fun r => r.lane == lane && ls.head?.map (·.align 32) == some r.granule

/-- SC over lanes in ascending order (R151): the status of each. -/
def Ctx.condStores (c : Ctx) (x : Nat → Nat) : List Acc → State → State × List (Nat × Nat × Bool)
  | [], s => (s, [])
  | a :: as, s =>
    let ok := (s.warp? c.w.uid).any fun w => w.reserved a.lane a.locs
    let s1 := if ok then s.land (List.zip a.locs (leBytes a.locs.length (x a.lane))) c.w.writer else s
    let s2 := s1.modWarp c.w.uid fun w => { w with resv := w.resv.filter fun r => r.lane != a.lane }
    let r := c.condStores x as s2
    (r.1, (a.lane, if ok then 0 else 1, false) :: r.2)

/-- SC (R151). -/
def execSc (o : MA) (s : State) : Out :=
  issue 0xA0 s (fun c => vdst o.d 1 :: atomUses o (pairs c.ty.pair)) (tyCheck 0xA0 Ty.wide) fun c =>
    c.access { write := true, strong := true, ends := true } (lanesOf c.act) (fun _ => none)
      (fun s i => c.linear true true true c.ty.bytes s i (c.maAddr o i)) fun s as =>
        let r := c.condStores (fun i => c.val c.ty.pair o.o.toNat i) as s
        (r.1.holdTimer c.w.uid c.k 0, laneWrites o.d.toNat 1 r.2, 0)

/-! ### Release and acquire accesses -/

/-- Bit SP of STREL and LDACQ (R174). -/
def spForm (o : M) : Bool := bitAt o.imm.toNat 12

/-- The base register or pair of STREL and LDACQ. -/
def spBase (o : M) : Use := vsrc o.base 0 o.lb (if spForm o then 1 else 2)

/-- Where a lane of STREL or LDACQ accesses (R174): linear or scratchpad; the access must be aligned. -/
def Ctx.spAccess (c : Ctx) (o : M) (write : Bool) (s : State) (i : Nat) : Except AFault (State × Acc) :=
  let ofs := toSigned 12 (o.imm.toNat % 4096)
  if spForm o then c.scratch c.ty.bytes s i (wrapTo 32 ((c.lane o.base.toNat i).toNat + ofs))
  else c.linear write true true c.ty.bytes s i (wrap64 (c.val true o.base.toNat i + ofs))

/-- What a write to a bound notify word would publish into held bytes (R281): the held byte. -/
def State.publishBar (s : State) (ws : List (Loc × Byte)) : Option HeldByte :=
  let ls := ws.map (·.1)
  s.blocks.findSome? fun b =>
    match b.ring with
    | some r =>
      if touches ls (.scr b.uid r.notify) 8 then s.publishHeld b ((s.perform ws).readNum (.scr b.uid r.notify) 8) else none
    | none => none

/-- The first lane of a STREL that would publish into held bytes (R281). -/
def Ctx.strelBar (c : Ctx) (o : M) : Option (Nat × HeldByte) :=
  match resolve (c.spAccess o true) (lanesOf c.act) c.st with
  | .error _ => none
  | .ok (s, as) => as.findSome? fun a =>
      (s.publishBar (List.zip a.locs (leBytes a.locs.length (c.val c.ty.pair o.d.toNat a.lane)))).map fun p => (a.lane, p)

/-- STREL (R174): every earlier access of the warp is complete before the store is performed; one that would publish a copy into held bytes
is refused (R281). -/
def execStrel (o : M) (s : State) : Out :=
  issue 0xBB s (fun c => [vsrc o.d 0 false (pairs c.ty.pair), spBase o]) (tyCheck 0xBB Ty.wide) fun c =>
    match c.strelBar o with
    | some h => c.heldTrap h.1 h.2 true
    | none =>
      c.access { write := true, strong := true, ends := true } (lanesOf c.act) (fun _ => none) (c.spAccess o true) fun s as =>
        c.storeNowFrom (fun i => c.val c.ty.pair o.d.toNat i) (s.completeOps c.w.uid (·.memory)) as

/-- LDACQ (R174): the load has written d before a later access issues, which Ctx.retire sees to. -/
def execLdacq (o : M) (s : State) : Out :=
  issue 0xBC s (fun c => [vdst o.d (pairs c.ty.pair), spBase o]) (tyCheck 0xBC Ty.wide) fun c =>
    c.access { write := false, strong := true, ends := true } (lanesOf c.act) (fun _ => none) (c.spAccess o false)
      (c.loadTo o.d.toNat (pairs c.ty.pair) leNat)

end Sys2Proof.Machine
end

