-- ==== Sys2Proof/Machine/Integer.lean ====
section
/-! DEFINITION. The integer and address arithmetic of R101 to R106. -/

namespace Sys2Proof.Machine

/-- Pair counts of the clause's TYPE (R86). -/
def Ctx.tyPairs (c : Ctx) : Nat := pairs c.ty.pair
/-- Pair counts of an instruction that acts on 64 bits for i64 and n64 only (R101). -/
def Ctx.intPairs (c : Ctx) : Nat := pairs c.ty.intPair

/-- A binary integer operation on every element of every active lane (R101). -/
def Ctx.intOp (c : Ctx) (o : V3) (f : Ty → Bool → Nat → Nat → Res) : Act :=
  let t := c.ty
  c.vresult o.d.toNat t.pair fun i =>
    perElem t.width t.count fun e => f t (modeSat c.m) (elemAt t.width e (c.aval o t.pair i)) (elemAt t.width e (c.bval o t.pair i))

/-- The V3 integer family: operands, the TYPE check, the operation (R101). -/
def issueInt (opc : Nat) (o : V3) (s : State) (f : Ty → Bool → Nat → Nat → Res) : Out :=
  issue opc s (fun c => v3Uses o c.tyPairs c.tyPairs c.tyPairs) (tyCheck opc Ty.isInt) fun c => c.intOp o f

/-- A bitwise operation on 32 bits, or on pairs for i64 and n64 (R101). -/
def issueBits (opc : Nat) (o : V3) (s : State) (f : Nat → Nat → Nat) : Out :=
  issue opc s (fun c => v3Uses o c.intPairs c.intPairs c.intPairs) noCheck fun c =>
    let p := c.ty.intPair
    c.vresult o.d.toNat p fun i => (f (c.aval o p i) (c.bval o p i), 0)

/-- a AND NOT b on 64 bits. -/
def andNot (a b : Nat) : Nat := Nat.land a (Nat.xor b (2 ^ 64 - 1))

/-- IADD (R101). -/
def execIadd (o : V3) (s : State) : Out := issueInt 0x10 o s intAdd
/-- ISUB (R101). -/
def execIsub (o : V3) (s : State) : Out := issueInt 0x11 o s intSub
/-- IMUL (R101). -/
def execImul (o : V3) (s : State) : Out := issueInt 0x12 o s intMul
/-- IMULH (R101). -/
def execImulh (o : V3) (s : State) : Out := issueInt 0x13 o s fun t _ => intMulh t
/-- IMAD (R101): d is the third source. -/
def execImad (o : V3) (s : State) : Out :=
  issue 0x14 s (fun c => v3AccUses o c.tyPairs c.tyPairs c.tyPairs) (tyCheck 0x14 Ty.isInt) fun c =>
    let t := c.ty
    c.vresult o.d.toNat t.pair fun i =>
      perElem t.width t.count fun e =>
        intMad t (modeSat c.m) (elemAt t.width e (c.aval o t.pair i)) (elemAt t.width e (c.bval o t.pair i))
          (elemAt t.width e (c.dval o.d t.pair i))
/-- IMIN (R101). -/
def execImin (o : V3) (s : State) : Out := issueInt 0x15 o s fun t _ => intMin t
/-- IMAX (R101). -/
def execImax (o : V3) (s : State) : Out := issueInt 0x16 o s fun t _ => intMax t
/-- AND (R101). -/
def execAnd (o : V3) (s : State) : Out := issueBits 0x17 o s Nat.land
/-- OR (R101). -/
def execOr (o : V3) (s : State) : Out := issueBits 0x18 o s Nat.lor
/-- XOR (R101). -/
def execXor (o : V3) (s : State) : Out := issueBits 0x19 o s Nat.xor
/-- ANDN (R101). -/
def execAndn (o : V3) (s : State) : Out := issueBits 0x1A o s andNot
/-- SHL (R101). -/
def execShl (o : V3) (s : State) : Out := issueInt 0x1B o s fun t sat a b => intShl t sat a (shiftCount t.width b)
/-- SHR (R101). -/
def execShr (o : V3) (s : State) : Out := issueInt 0x1C o s fun t _ a b => intShr a (shiftCount t.width b)
/-- SAR (R101). -/
def execSar (o : V3) (s : State) : Out := issueInt 0x1D o s fun t _ a b => intSar t a (shiftCount t.width b)
/-- SEL (R101): a where the guard is true, else b, in every lane of the split. -/
def execSel (o : V3) (s : State) : Out :=
  issue 0x1E s (fun c => (v3Uses o c.intPairs c.intPairs c.intPairs).map fun u => { u with all := true }) noCheck fun c =>
    let p := c.ty.intPair
    .done c.st (vwrite o.d.toNat p c.sp.lanes fun i => if c.guard i then c.aval o p i else c.bval o p i) 0

/-- A unary integer operation (R102). -/
def issueUn (opc : Nat) (o : V3) (s : State) (f : Ty → Bool → Nat → Res) : Out :=
  issue opc s (fun c => unUses o c.tyPairs c.tyPairs) (tyCheck opc Ty.isInt) fun c =>
    let t := c.ty
    c.vresult o.d.toNat t.pair fun i => perElem t.width t.count fun e => f t (modeSat c.m) (elemAt t.width e (c.aval o t.pair i))

/-- IABS (R102). -/
def execIabs (o : V3) (s : State) : Out := issueUn 0x1F o s intAbs
/-- POPC (R102): for 64-bit types the count goes to the even register and zero to the odd one. -/
def execPopc (o : V3) (s : State) : Out := issueUn 0x20 o s fun t _ a => (intPopc t a, 0)
/-- CLZ (R102). -/
def execClz (o : V3) (s : State) : Out := issueUn 0x21 o s fun t _ a => (intClz t a, 0)
/-- BREV (R102). -/
def execBrev (o : V3) (s : State) : Out := issueUn 0x22 o s fun t _ a => (revBits t.width a, 0)

/-- The integer comparisons (R103): element 0 of each operand for packed types. -/
def issueCmp (opc : Nat) (o : V3) (s : State) (k : Cmp) : Out :=
  issue opc s (fun c => cmpUses o c.tyPairs) (tyCheck opc Ty.isInt) fun c =>
    let t := c.ty
    c.presult (bitsAt o.d.toNat 2 0) fun i =>
      (k.holds (t.read (elemAt t.width 0 (c.aval o t.pair i))) (t.read (elemAt t.width 0 (c.bval o t.pair i))), 0)

/-- ISETP.EQ (R103). -/
def execIsetpEq (o : V3) (s : State) : Out := issueCmp 0x23 o s .eq
/-- ISETP.NE (R103). -/
def execIsetpNe (o : V3) (s : State) : Out := issueCmp 0x24 o s .ne
/-- ISETP.LT (R103). -/
def execIsetpLt (o : V3) (s : State) : Out := issueCmp 0x25 o s .lt
/-- ISETP.LE (R103). -/
def execIsetpLe (o : V3) (s : State) : Out := issueCmp 0x26 o s .le
/-- ISETP.GT (R103). -/
def execIsetpGt (o : V3) (s : State) : Out := issueCmp 0x27 o s .gt
/-- ISETP.GE (R103). -/
def execIsetpGe (o : V3) (s : State) : Out := issueCmp 0x28 o s .ge

/-- The value of a VI source. -/
def Ctx.viVal (c : Ctx) (o : VI) (pair : Bool) (i : Nat) : Nat := c.src pair o.a.toNat o.pa.toNat i

/-- An immediate sign-extended and cut to the element width (R86). -/
def cutImm (w : Nat) (imm : BitVec 10) : Nat := wrapTo w imm.toInt

/-- IADDI (R104).  The immediate is one more operand of TYPE, so in an n type a negative one stands for its unsigned pattern, under SAT too
(DEDUCED, log 30). -/
def execIaddi (o : VI) (s : State) : Out :=
  issue 0x29 s (fun c => viUses o c.tyPairs c.tyPairs) (tyCheck 0x29 Ty.isInt) fun c =>
    let t := c.ty
    c.vresult o.d.toNat t.pair fun i =>
      perElem t.width t.count fun e => intAdd t (modeSat c.m) (elemAt t.width e (c.viVal o t.pair i)) (cutImm t.width o.imm)

/-- The bitwise immediate forms (R104): the immediate sign-extended to 32 or 64 bits. -/
def issueBitsImm (opc : Nat) (o : VI) (s : State) (f : Nat → Nat → Nat) : Out :=
  issue opc s (fun c => viUses o c.intPairs c.intPairs) noCheck fun c =>
    let p := c.ty.intPair
    c.vresult o.d.toNat p fun i => (f (c.viVal o p i) (wrapTo (if p then 64 else 32) o.imm.toInt), 0)

/-- ANDI (R104). -/
def execAndi (o : VI) (s : State) : Out := issueBitsImm 0x2A o s Nat.land
/-- ORI (R104). -/
def execOri (o : VI) (s : State) : Out := issueBitsImm 0x2B o s Nat.lor
/-- XORI (R104). -/
def execXori (o : VI) (s : State) : Out := issueBitsImm 0x2C o s Nat.xor

/-- The shift immediate forms (R104): imm10[9:6] must be zero, which the decoder checks (R58 check 3). -/
def issueShiftImm (opc : Nat) (o : VI) (s : State) (f : Ty → Bool → Nat → Nat → Res) : Out :=
  issue opc s (fun c => viUses o c.tyPairs c.tyPairs) (tyCheck opc Ty.isInt) fun c =>
    let t := c.ty
    c.vresult o.d.toNat t.pair fun i =>
      perElem t.width t.count fun e => f t (modeSat c.m) (elemAt t.width e (c.viVal o t.pair i)) (shiftCount t.width o.imm.toNat)

/-- SHLI (R104). -/
def execShli (o : VI) (s : State) : Out := issueShiftImm 0x2D o s intShl
/-- SHRI (R104). -/
def execShri (o : VI) (s : State) : Out := issueShiftImm 0x2E o s fun _ _ a n => intShr a n
/-- SARI (R104). -/
def execSari (o : VI) (s : State) : Out := issueShiftImm 0x2F o s fun t _ a n => intSar t a n

/-- MOVI (R105). -/
def execMovi (o : SL) (s : State) : Out :=
  issue 0x30 s (fun _ => [vdst o.d 1]) noCheck fun c => c.vresult o.d.toNat false fun _ => (wrapTo 32 o.imm.toInt, 0)

/-- MOVHI (R105): d is a source. -/
def execMovhi (o : SL) (s : State) : Out :=
  issue 0x31 s (fun _ => [vacc o.d 1]) noCheck fun c =>
    c.vresult o.d.toNat false fun i => (bitsAt o.imm.toNat 12 0 * 2 ^ 19 + (c.lane o.d.toNat i).toNat % 2 ^ 19, 0)

/-- A scalar operation: once per issue, whatever the guard (R106). -/
def issueS3 (opc : Nat) (o : S3) (s : State) (f : Nat → Nat → Int) : Out :=
  issue opc s (fun _ => [sdst o.d 1, ssrc o.a 1, ssrc o.b 1]) noCheck fun c =>
    .done c.st (swrite o.d.toNat (wrapTo 32 (f (c.s o.a.toNat).toNat (c.s o.b.toNat).toNat))) 0

/-- SADD (R106). -/
def execSadd (o : S3) (s : State) : Out := issueS3 0x32 o s fun a b => (a : Int) + b
/-- SSUB (R106). -/
def execSsub (o : S3) (s : State) : Out := issueS3 0x33 o s fun a b => (a : Int) - b
/-- SMUL (R106). -/
def execSmul (o : S3) (s : State) : Out := issueS3 0x34 o s fun a b => (a : Int) * b
/-- SAND (R106). -/
def execSand (o : S3) (s : State) : Out := issueS3 0x35 o s fun a b => (Nat.land a b : Nat)
/-- SOR (R106). -/
def execSor (o : S3) (s : State) : Out := issueS3 0x36 o s fun a b => (Nat.lor a b : Nat)
/-- SXOR (R106). -/
def execSxor (o : S3) (s : State) : Out := issueS3 0x37 o s fun a b => (Nat.xor a b : Nat)
/-- SSHL (R106). -/
def execSshl (o : S3) (s : State) : Out := issueS3 0x38 o s fun a b => (a * 2 ^ (b % 32) : Nat)
/-- SSHR (R106). -/
def execSshr (o : S3) (s : State) : Out := issueS3 0x39 o s fun a b => (a / 2 ^ (b % 32) : Nat)
/-- SADDI (R106). -/
def execSaddi (o : SI) (s : State) : Out :=
  issue 0x3A s (fun _ => [sdst o.d 1, ssrc o.a 1]) noCheck fun c =>
    .done c.st (swrite o.d.toNat (wrapTo 32 ((c.s o.a.toNat).toNat + o.imm.toInt))) 0
/-- SMOVI (R106). -/
def execSmovi (o : SL) (s : State) : Out :=
  issue 0x3B s (fun _ => [sdst o.d 1]) noCheck fun c => .done c.st (swrite o.d.toNat (wrapTo 32 o.imm.toInt)) 0

end Sys2Proof.Machine
end

