-- ==== Sys2Proof/Machine/Dispatch.lean ====
section
/-! DEFINITION. One meaning for every constructor of Instr. -/

namespace Sys2Proof.Machine

/-- What one instruction or one event does to the machine. -/
def exec (i : Instr) (s : State) : Host.Outcome State Fault Refusal :=
  match i with
  | .nop => Sys2Proof.Machine.execNop s
  | .bra o => Sys2Proof.Machine.execBra o s
  | .brau o => Sys2Proof.Machine.execBrau o s
  | .brx o => Sys2Proof.Machine.execBrx o s
  | .call o => Sys2Proof.Machine.execCall o s
  | .ret o => Sys2Proof.Machine.execRet o s
  | .join => Sys2Proof.Machine.execJoin s
  | .bblk o => Sys2Proof.Machine.execBblk o s
  | .bjoin => Sys2Proof.Machine.execBjoin s
  | .exit => Sys2Proof.Machine.execExit s
  | .trap imm => Sys2Proof.Machine.execTrap imm s
  | .tret => Sys2Proof.Machine.execTret s
  | .sysrd o => Sys2Proof.Machine.execSysrd o s
  | .syswr o => Sys2Proof.Machine.execSyswr o s
  | .iadd o => Sys2Proof.Machine.execIadd o s
  | .isub o => Sys2Proof.Machine.execIsub o s
  | .imul o => Sys2Proof.Machine.execImul o s
  | .imulh o => Sys2Proof.Machine.execImulh o s
  | .imad o => Sys2Proof.Machine.execImad o s
  | .imin o => Sys2Proof.Machine.execImin o s
  | .imax o => Sys2Proof.Machine.execImax o s
  | .and o => Sys2Proof.Machine.execAnd o s
  | .or o => Sys2Proof.Machine.execOr o s
  | .xor o => Sys2Proof.Machine.execXor o s
  | .andn o => Sys2Proof.Machine.execAndn o s
  | .shl o => Sys2Proof.Machine.execShl o s
  | .shr o => Sys2Proof.Machine.execShr o s
  | .sar o => Sys2Proof.Machine.execSar o s
  | .sel o => Sys2Proof.Machine.execSel o s
  | .iabs o => Sys2Proof.Machine.execIabs o s
  | .popc o => Sys2Proof.Machine.execPopc o s
  | .clz o => Sys2Proof.Machine.execClz o s
  | .brev o => Sys2Proof.Machine.execBrev o s
  | .isetpEq o => Sys2Proof.Machine.execIsetpEq o s
  | .isetpNe o => Sys2Proof.Machine.execIsetpNe o s
  | .isetpLt o => Sys2Proof.Machine.execIsetpLt o s
  | .isetpLe o => Sys2Proof.Machine.execIsetpLe o s
  | .isetpGt o => Sys2Proof.Machine.execIsetpGt o s
  | .isetpGe o => Sys2Proof.Machine.execIsetpGe o s
  | .iaddi o => Sys2Proof.Machine.execIaddi o s
  | .andi o => Sys2Proof.Machine.execAndi o s
  | .ori o => Sys2Proof.Machine.execOri o s
  | .xori o => Sys2Proof.Machine.execXori o s
  | .shli o => Sys2Proof.Machine.execShli o s
  | .shri o => Sys2Proof.Machine.execShri o s
  | .sari o => Sys2Proof.Machine.execSari o s
  | .movi o => Sys2Proof.Machine.execMovi o s
  | .movhi o => Sys2Proof.Machine.execMovhi o s
  | .sadd o => Sys2Proof.Machine.execSadd o s
  | .ssub o => Sys2Proof.Machine.execSsub o s
  | .smul o => Sys2Proof.Machine.execSmul o s
  | .sand o => Sys2Proof.Machine.execSand o s
  | .sor o => Sys2Proof.Machine.execSor o s
  | .sxor o => Sys2Proof.Machine.execSxor o s
  | .sshl o => Sys2Proof.Machine.execSshl o s
  | .sshr o => Sys2Proof.Machine.execSshr o s
  | .saddi o => Sys2Proof.Machine.execSaddi o s
  | .smovi o => Sys2Proof.Machine.execSmovi o s
  | .fadd o => Sys2Proof.Machine.execFadd o s
  | .fsub o => Sys2Proof.Machine.execFsub o s
  | .fmul o => Sys2Proof.Machine.execFmul o s
  | .ffma o => Sys2Proof.Machine.execFfma o s
  | .ffms o => Sys2Proof.Machine.execFfms o s
  | .fnma o => Sys2Proof.Machine.execFnma o s
  | .fmin o => Sys2Proof.Machine.execFmin o s
  | .fmax o => Sys2Proof.Machine.execFmax o s
  | .fabsd o => Sys2Proof.Machine.execFabsd o s
  | .fdot2 o => Sys2Proof.Machine.execFdot2 o s
  | .fabs o => Sys2Proof.Machine.execFabs o s
  | .fneg o => Sys2Proof.Machine.execFneg o s
  | .frnd o => Sys2Proof.Machine.execFrnd o s
  | .fclass o => Sys2Proof.Machine.execFclass o s
  | .fldexp o => Sys2Proof.Machine.execFldexp o s
  | .fexpt o => Sys2Proof.Machine.execFexpt o s
  | .fcpys o => Sys2Proof.Machine.execFcpys o s
  | .fsat o => Sys2Proof.Machine.execFsat o s
  | .frcp o => Sys2Proof.Machine.execFrcp o s
  | .frsq o => Sys2Proof.Machine.execFrsq o s
  | .fsqrt o => Sys2Proof.Machine.execFsqrt o s
  | .fexp2 o => Sys2Proof.Machine.execFexp2 o s
  | .flog2 o => Sys2Proof.Machine.execFlog2 o s
  | .fsin o => Sys2Proof.Machine.execFsin o s
  | .fcos o => Sys2Proof.Machine.execFcos o s
  | .ftanh o => Sys2Proof.Machine.execFtanh o s
  | .fdiv o => Sys2Proof.Machine.execFdiv o s
  | .fsetpEq o => Sys2Proof.Machine.execFsetpEq o s
  | .fsetpNe o => Sys2Proof.Machine.execFsetpNe o s
  | .fsetpLt o => Sys2Proof.Machine.execFsetpLt o s
  | .fsetpLe o => Sys2Proof.Machine.execFsetpLe o s
  | .fsetpGt o => Sys2Proof.Machine.execFsetpGt o s
  | .fsetpGe o => Sys2Proof.Machine.execFsetpGe o s
  | .fsetpUn o => Sys2Proof.Machine.execFsetpUn o s
  | .fredAdd o => Sys2Proof.Machine.execFredAdd o s
  | .fredMax o => Sys2Proof.Machine.execFredMax o s
  | .fredMin o => Sys2Proof.Machine.execFredMin o s
  | .fredAmax o => Sys2Proof.Machine.execFredAmax o s
  | .fscanAdd o => Sys2Proof.Machine.execFscanAdd o s
  | .fscanMax o => Sys2Proof.Machine.execFscanMax o s
  | .fxacc o => Sys2Proof.Machine.execFxacc o s
  | .fxcvt o => Sys2Proof.Machine.execFxcvt o s
  | .fpack o => Sys2Proof.Machine.execFpack o s
  | .funpk o => Sys2Proof.Machine.execFunpk o s
  | .cvt o => Sys2Proof.Machine.execCvt o s
  | .dsbscal o => Sys2Proof.Machine.execDsbscal o s
  | .dsbenc o => Sys2Proof.Machine.execDsbenc o s
  | .dsbdec o => Sys2Proof.Machine.execDsbdec o s
  | .matchV o => Sys2Proof.Machine.execMatchV o s
  | .vote o => Sys2Proof.Machine.execVote o s
  | .plop o => Sys2Proof.Machine.execPlop o s
  | .pmov o => Sys2Proof.Machine.execPmov o s
  | .shuf o => Sys2Proof.Machine.execShuf o s
  | .ired o => Sys2Proof.Machine.execIred o s
  | .iscan o => Sys2Proof.Machine.execIscan o s
  | .mode imm => Sys2Proof.Machine.execMode imm s
  | .mshape imm => Sys2Proof.Machine.execMshape imm s
  | .carry o => Sys2Proof.Machine.execCarry o s
  | .ld o => Sys2Proof.Machine.execLd o s
  | .ld4 o => Sys2Proof.Machine.execLd4 o s
  | .st o => Sys2Proof.Machine.execSt o s
  | .st4 o => Sys2Proof.Machine.execSt4 o s
  | .sld o => Sys2Proof.Machine.execSld o s
  | .sst o => Sys2Proof.Machine.execSst o s
  | .lds o => Sys2Proof.Machine.execLds o s
  | .sts o => Sys2Proof.Machine.execSts o s
  | .gather o => Sys2Proof.Machine.execGather o s
  | .scatter o => Sys2Proof.Machine.execScatter o s
  | .spill o => Sys2Proof.Machine.execSpill o s
  | .fill o => Sys2Proof.Machine.execFill o s
  | .ldc o => Sys2Proof.Machine.execLdc o s
  | .stc o => Sys2Proof.Machine.execStc o s
  | .atomAdd o => Sys2Proof.Machine.execAtomAdd o s
  | .atomMin o => Sys2Proof.Machine.execAtomMin o s
  | .atomMax o => Sys2Proof.Machine.execAtomMax o s
  | .atomAnd o => Sys2Proof.Machine.execAtomAnd o s
  | .atomOr o => Sys2Proof.Machine.execAtomOr o s
  | .atomXor o => Sys2Proof.Machine.execAtomXor o s
  | .atomExch o => Sys2Proof.Machine.execAtomExch o s
  | .atomFadd o => Sys2Proof.Machine.execAtomFadd o s
  | .cas o => Sys2Proof.Machine.execCas o s
  | .atomrfAdd o => Sys2Proof.Machine.execAtomrfAdd o s
  | .atomrfFadd o => Sys2Proof.Machine.execAtomrfFadd o s
  | .atomrfMax o => Sys2Proof.Machine.execAtomrfMax o s
  | .atomrfMin o => Sys2Proof.Machine.execAtomrfMin o s
  | .atomx o => Sys2Proof.Machine.execAtomx o s
  | .atomc o => Sys2Proof.Machine.execAtomc o s
  | .atomcrf o => Sys2Proof.Machine.execAtomcrf o s
  | .atoms o => Sys2Proof.Machine.execAtoms o s
  | .lr o => Sys2Proof.Machine.execLr o s
  | .sc o => Sys2Proof.Machine.execSc o s
  | .rdord o => Sys2Proof.Machine.execRdord o s
  | .pinord o => Sys2Proof.Machine.execPinord o s
  | .advord o => Sys2Proof.Machine.execAdvord o s
  | .pref o => Sys2Proof.Machine.execPref o s
  | .probe o => Sys2Proof.Machine.execProbe o s
  | .fenceAcq o => Sys2Proof.Machine.execFenceAcq o s
  | .fenceRel o => Sys2Proof.Machine.execFenceRel o s
  | .fenceAr o => Sys2Proof.Machine.execFenceAr o s
  | .fenceRf o => Sys2Proof.Machine.execFenceRf o s
  | .bar o => Sys2Proof.Machine.execBar o s
  | .bara o => Sys2Proof.Machine.execBara o s
  | .barw o => Sys2Proof.Machine.execBarw o s
  | .clbar o => Sys2Proof.Machine.execClbar o s
  | .gbar => Sys2Proof.Machine.execGbar s
  | .waitge o => Sys2Proof.Machine.execWaitge o s
  | .waitne o => Sys2Proof.Machine.execWaitne o s
  | .tlwait o => Sys2Proof.Machine.execTlwait o s
  | .tlread o => Sys2Proof.Machine.execTlread o s
  | .ctrarm o => Sys2Proof.Machine.execCtrarm o s
  | .ctrwait o => Sys2Proof.Machine.execCtrwait o s
  | .region => Sys2Proof.Machine.execRegion s
  | .grow o => Sys2Proof.Machine.execGrow o s
  | .shrink o => Sys2Proof.Machine.execShrink o s
  | .yield => Sys2Proof.Machine.execYield s
  | .strel o => Sys2Proof.Machine.execStrel o s
  | .ldacq o => Sys2Proof.Machine.execLdacq o s
  | .home => Sys2Proof.Machine.execHome s
  | .mmat o => Sys2Proof.Machine.execMmat o s
  | .mmatz o => Sys2Proof.Machine.execMmatz o s
  | .mmatar o => Sys2Proof.Machine.execMmatar o s
  | .mmatbr o => Sys2Proof.Machine.execMmatbr o s
  | .commit o => Sys2Proof.Machine.execCommit o s
  | .waitb o => Sys2Proof.Machine.execWaitb o s
  | .accz o => Sys2Proof.Machine.execAccz o s
  | .accrd o => Sys2Proof.Machine.execAccrd o s
  | .accwr o => Sys2Proof.Machine.execAccwr o s
  | .accst o => Sys2Proof.Machine.execAccst o s
  | .accld o => Sys2Proof.Machine.execAccld o s
  | .mqry o => Sys2Proof.Machine.execMqry o s
  | .msave o => Sys2Proof.Machine.execMsave o s
  | .mrest o => Sys2Proof.Machine.execMrest o s
  | .mcancel o => Sys2Proof.Machine.execMcancel o s
  | .mbudg o => Sys2Proof.Machine.execMbudg o s
  | .cring o => Sys2Proof.Machine.execCring o s
  | .send o => Sys2Proof.Machine.execSend o s
  | .recv o => Sys2Proof.Machine.execRecv o s
  | .caprd o => Sys2Proof.Machine.execCaprd o s
  | .launch o => Sys2Proof.Machine.execLaunch o s
  | .launchu o => Sys2Proof.Machine.execLaunchu o s
  | .cancel o => Sys2Proof.Machine.execCancel o s
  | .distL2 o => Sys2Proof.Machine.execDistL2 o s
  | .distIp o => Sys2Proof.Machine.execDistIp o s
  | .topkMin o => Sys2Proof.Machine.execTopkMin o s
  | .topkMax o => Sys2Proof.Machine.execTopkMax o s
  | .bankop o => Sys2Proof.Machine.execBankop o s
  | .stkdisp o => Sys2Proof.Machine.execStkdisp o s
  | .migqry o => Sys2Proof.Machine.execMigqry o s
  | .migr o => Sys2Proof.Machine.execMigr o s
  | .svc o => Sys2Proof.Machine.execSvc o s
  | .abmode o => Sys2Proof.Machine.execAbmode o s
  | .vbcast o => Sys2Proof.Machine.execVbcast o s
  | .bmac o => Sys2Proof.Machine.execBmac o s
  | .bmacx o => Sys2Proof.Machine.execBmacx o s
  | .bmacrd o => Sys2Proof.Machine.execBmacrd o s
  | .bmacz o => Sys2Proof.Machine.execBmacz o s
  | .rowact o => Sys2Proof.Machine.execRowact o s
  | .colrd o => Sys2Proof.Machine.execColrd o s
  | .colwr o => Sys2Proof.Machine.execColwr o s
  | .ecsrd o => Sys2Proof.Machine.execEcsrd o s
  | .ecsclr o => Sys2Proof.Machine.execEcsclr o s
  | .tmove o => Sys2Proof.Machine.execTmove o s
  | .tswap o => Sys2Proof.Machine.execTswap o s
  | .stksave o => Sys2Proof.Machine.execStksave o s
  | .skyield => Sys2Proof.Machine.execSkyield s
  | .pchown o => Sys2Proof.Machine.execPchown o s
  | .clauseBegin => Sys2Proof.Machine.execClauseBegin s
  | .longLatencyCompletion => Sys2Proof.Machine.execLongLatencyCompletion s
  | .pageFaultReplay => Sys2Proof.Machine.execPageFaultReplay s
  | .faultServiceFailure => Sys2Proof.Machine.execFaultServiceFailure s
  | .shedRetry => Sys2Proof.Machine.execShedRetry s
  | .shuttleLanding => Sys2Proof.Machine.execShuttleLanding s
  | .guestWavefrontFormation => Sys2Proof.Machine.execGuestWavefrontFormation s
  | .guestWarpFormation => Sys2Proof.Machine.execGuestWarpFormation s
  | .shuttleReturn => Sys2Proof.Machine.execShuttleReturn s
  | .guestPreemption => Sys2Proof.Machine.execGuestPreemption s
  | .growGrant => Sys2Proof.Machine.execGrowGrant s
  | .growDeadlock => Sys2Proof.Machine.execGrowDeadlock s
  | .warpAgePromotion => Sys2Proof.Machine.execWarpAgePromotion s
  | .fairnessTimerExpiry => Sys2Proof.Machine.execFairnessTimerExpiry s
  | .joinFairnessLimit => Sys2Proof.Machine.execJoinFairnessLimit s
  | .memoryWaitWake => Sys2Proof.Machine.execMemoryWaitWake s
  | .timelineWaitWake => Sys2Proof.Machine.execTimelineWaitWake s
  | .counterWaitWake => Sys2Proof.Machine.execCounterWaitWake s
  | .batchWaitWake => Sys2Proof.Machine.execBatchWaitWake s
  | .svcReplyWake => Sys2Proof.Machine.execSvcReplyWake s
  | .recordCloseRequest => Sys2Proof.Machine.execRecordCloseRequest s
  | .blockPlacement => Sys2Proof.Machine.execBlockPlacement s
  | .blockFree => Sys2Proof.Machine.execBlockFree s
  | .queueWriteUpdate => Sys2Proof.Machine.execQueueWriteUpdate s
  | .launchRecordConsume => Sys2Proof.Machine.execLaunchRecordConsume s
  | .launchComplete => Sys2Proof.Machine.execLaunchComplete s
  | .copyRingNotify => Sys2Proof.Machine.execCopyRingNotify s
  | .copyEntryConsume => Sys2Proof.Machine.execCopyEntryConsume s
  | .copyUnitLand => Sys2Proof.Machine.execCopyUnitLand s
  | .copyCommandDone => Sys2Proof.Machine.execCopyCommandDone s
  | .gateReevaluate => Sys2Proof.Machine.execGateReevaluate s
  | .followOnIssue => Sys2Proof.Machine.execFollowOnIssue s
  | .engineStep => Sys2Proof.Machine.execEngineStep s
  | .batchComplete => Sys2Proof.Machine.execBatchComplete s
  | .matrixBudgetPeriod => Sys2Proof.Machine.execMatrixBudgetPeriod s
  | .ringDoorbell => Sys2Proof.Machine.execRingDoorbell s
  | .sillRingPoll => Sys2Proof.Machine.execSillRingPoll s
  | .wavefrontStart => Sys2Proof.Machine.execWavefrontStart s
  | .level3Save => Sys2Proof.Machine.execLevel3Save s
  | .wavefrontResume => Sys2Proof.Machine.execWavefrontResume s
  | .wavefrontStarvation => Sys2Proof.Machine.execWavefrontStarvation s
  | .sillPreemptTimeout => Sys2Proof.Machine.execSillPreemptTimeout s
  | .sillDispatchDone => Sys2Proof.Machine.execSillDispatchDone s
  | .allBankModeExpiry => Sys2Proof.Machine.execAllBankModeExpiry s
  | .abmodeBlockedEntry => Sys2Proof.Machine.execAbmodeBlockedEntry s
  | .bankopRun => Sys2Proof.Machine.execBankopRun s
  | .bankopResultLand => Sys2Proof.Machine.execBankopResultLand s
  | .splitQuiesceEnd => Sys2Proof.Machine.execSplitQuiesceEnd s
  | .monitorWindowClose => Sys2Proof.Machine.execMonitorWindowClose s
  | .moveStart => Sys2Proof.Machine.execMoveStart s
  | .bucketAdmission => Sys2Proof.Machine.execBucketAdmission s
  | .sliceEnd => Sys2Proof.Machine.execSliceEnd s
  | .warpTaken => Sys2Proof.Machine.execWarpTaken s
  | .preemptionDeadline => Sys2Proof.Machine.execPreemptionDeadline s
  | .blockResumption => Sys2Proof.Machine.execBlockResumption s
  | .resumeEpisode => Sys2Proof.Machine.execResumeEpisode s
  | .hostCxlAccess => Sys2Proof.Machine.execHostCxlAccess s
  | .priResponse => Sys2Proof.Machine.execPriResponse s
  | .atsInvalidation => Sys2Proof.Machine.execAtsInvalidation s
  | .watchArm => Sys2Proof.Machine.execWatchArm s
  | .watchFire => Sys2Proof.Machine.execWatchFire s
  | .registerWrite => Sys2Proof.Machine.execRegisterWrite s
  | .messageDelivery => Sys2Proof.Machine.execMessageDelivery s
  | .nvmeCompletion => Sys2Proof.Machine.execNvmeCompletion s
  | .nvmeTimeout => Sys2Proof.Machine.execNvmeTimeout s
  | .driveWrite => Sys2Proof.Machine.execDriveWrite s
  | .flitReceive => Sys2Proof.Machine.execFlitReceive s
  | .laneRepair => Sys2Proof.Machine.execLaneRepair s
  | .scrubPeriod => Sys2Proof.Machine.execScrubPeriod s
  | .rowRepair => Sys2Proof.Machine.execRowRepair s
  | .coreLogicError => Sys2Proof.Machine.execCoreLogicError s
  | .pseudoChannelRetirement => Sys2Proof.Machine.execPseudoChannelRetirement s
  | .powerLimitStep => Sys2Proof.Machine.execPowerLimitStep s
  | .packageReset => Sys2Proof.Machine.execPackageReset s
  | .cmdClaim => Sys2Proof.Machine.execCmdClaim s
  | .cmdHandover => Sys2Proof.Machine.execCmdHandover s
  | .cmdRelease => Sys2Proof.Machine.execCmdRelease s
  | .cmdMeasure => Sys2Proof.Machine.execCmdMeasure s
  | .cmdGetcert => Sys2Proof.Machine.execCmdGetcert s
  | .cmdStatus => Sys2Proof.Machine.execCmdStatus s
  | .cmdReadlog => Sys2Proof.Machine.execCmdReadlog s
  | .cmdPartition => Sys2Proof.Machine.execCmdPartition s
  | .cmdFunction => Sys2Proof.Machine.execCmdFunction s
  | .cmdGrant => Sys2Proof.Machine.execCmdGrant s
  | .cmdInval => Sys2Proof.Machine.execCmdInval s
  | .cmdMigrate => Sys2Proof.Machine.execCmdMigrate s
  | .cmdRegion => Sys2Proof.Machine.execCmdRegion s
  | .cmdAlloc => Sys2Proof.Machine.execCmdAlloc s
  | .cmdReserve => Sys2Proof.Machine.execCmdReserve s
  | .cmdSplit => Sys2Proof.Machine.execCmdSplit s
  | .cmdScrub => Sys2Proof.Machine.execCmdScrub s
  | .cmdSlice => Sys2Proof.Machine.execCmdSlice s
  | .cmdBucket => Sys2Proof.Machine.execCmdBucket s
  | .cmdLogctl => Sys2Proof.Machine.execCmdLogctl s
  | .cmdCancel => Sys2Proof.Machine.execCmdCancel s
  | .cmdPower => Sys2Proof.Machine.execCmdPower s
  | .cmdBudget => Sys2Proof.Machine.execCmdBudget s
  | .cmdLifecycle => Sys2Proof.Machine.execCmdLifecycle s
  | .reservedOpcode w => Sys2Proof.Machine.execReservedOpcode w s
  | .svcSlotFree => Sys2Proof.Machine.execSvcSlotFree s

end Sys2Proof.Machine
end

