-- ==== Sys2Proof/Machine/Schedule.lean ====
section
/-! DEFINITION. What moves where nothing else says so (R234 to R241, R249, R320): waits that end by themselves, the machine's
own events, and the agent that issues next. The choice among what may move affects timing, never values (R235). -/

namespace Sys2Proof.Machine

/-! ### Waits that end without an event of their own -/

/-- The waits that no event of the table names: the instruction is executed again once the condition holds (R45). -/
def Cond.quiet : Cond → Bool
  | .barw _ _ | .recv _ | .commit | .contextFull | .copyRing | .record _ | .stripe _ _ | .window _ | .migrating _ => true
  | .memGe _ _ | .memNe _ _ | .timeline _ _ | .counter _ _ | .batch _ | .svcSlot _ | .arrive _ _ | .grow | .abmode _ _ | .away => false

/-- A split whose lanes have all departed goes on with its stacked lanes once none of the warp is away (log 24), as after EXIT (R91). -/
def Split.pop (sp : Split) : Split :=
  match sp.stack with
  | e :: es => { (sp.enter e.pc) with lanes := e.mask, stack := es, slot := if e.parked then 8 else 1, status := .ready }
  | [] => sp

/-- Waits of agent u that are over: the quiet ones, a HOME whose lanes are back (R310; the split acquires, R175), and
departed lanes; a split that goes on so is at a clause boundary, or past its HOME, and deferred frees may take effect (R13).
-/
def State.wakeAgent (s : State) (u : Nat) : State :=
  (List.range 4).foldl (fun s k =>
    match s.warp? u with
    | none => s
    | some w =>
      match w.splits[k]? with
      | none => s
      | some sp =>
        if !sp.live then s
        else match sp.status with
          | .home => if w.someAway then s else ((s.endSfr u).setSplit u k { sp.advance with status := .ready }).modWarp u Warp.settle
          | .wait .away => if w.someAway then s else (s.setSplit u k sp.pop).modWarp u Warp.settle
          | _ => s.wakeSplit u k Cond.quiet) s

/-! ### Lanes, warps and wavefronts that are called back or ended -/

/-- A warp of a cancelled launch ends at its clause boundary, or where it waits, with its region dropped (R259, R383); its
away lanes come home first (R312). -/
def State.cancelWarp (s : State) (w : Warp) : State :=
  let boundary := w.splits.all fun sp => !sp.live || !sp.begun || sp.held || sp.status != .ready
  let dead := ((s.launch? w.launch).map (·.cancelled)).getD false
  if !dead || w.gone || w.parked || w.someAway || !(boundary || w.replay.isSome) then s
  else match w.kind with
    | .main => ((s.dropRegion w.uid).exitWarp w.uid).bblkStep w.block
    | .dense => (((s.dropRegion w.uid).exitHomes w w.allLanes).exitWarp w.uid).bjoinStep w.block
    | _ => s

/-- A wavefront of a failed dispatch ends at its clause boundary, or where it is blocked (R323 step 3). -/
def State.cancelWave (s : State) (w : Warp) : State :=
  let failed := (w.wave.bind fun v => s.dispatch? v.dispatch).any fun d => d.failed.isSome
  if failed && (w.blockedMid || w.splits.all fun sp => !sp.begun) then s.endWave w else s

/-- An away lane whose block calls it back starts home (R312). -/
def State.callBack (s : State) (w : Warp) : State :=
  if (w.guest.bind fun g => s.warp? g.home).any s.recalls then s.recallGuest w else s

/-- Returned lanes are placed where R310 allows it now. -/
def State.placeHome (s : State) (w : Warp) : State := if w.returned.isEmpty then s else s.settleHome w.uid

/-- An SFR that another agent has asked to close ends where it can (R269). -/
def State.closeAsked (s : State) (w : Warp) : State := if w.closeReq && w.closesNow then s.endSfr w.uid else s

/-- What an agent does without executing an instruction. -/
def State.agentMoves (s : State) (u : Nat) : State :=
  let on (f : State → Warp → State) (s : State) : State := ((s.warp? u).map (f s)).getD s
  (on State.regroup ∘ on State.closeAsked ∘ on State.placeHome ∘ on State.cancelWave ∘ on State.cancelWarp ∘ on State.callBack ∘
    fun s => ((s.arriveWarp u).wakeAgent u).joinStep u) s

/-- What a block does without executing an instruction: compaction and its end (R94, R95), barrier episodes that a store into
their object has completed (R162), its header once its last warp is taken or gone (R390), and leaving its core (R391). -/
def State.blockMoves (s : State) (b : Block) : State :=
  let s1 := ((s.bblkStep b.uid).bjoinStep b.uid).barrierSteps b.uid
  if b.preempt == .requested && !(s1.liveWarps b).isEmpty then (s1.headerStep b.uid).blockTaken b.uid else s1

/-! ### The movers (R227, R320, R356, R364, R366) -/

/-- A level-3 wavefront of Aderic takes up a moving slab that none works on, on a sill core of its home stack with a free native slot (R320,
R364). -/
def State.startMover (s : State) (key k : Nat) : State :=
  match s.slab? key k with
  | none => s
  | some (_, sl) =>
    if sl.state ≠ 1 ∨ (s.warps.any (·.slab == some (key, k))) ∨ s.saved.any (·.warp.slab == some (key, k)) then s
    else match s.sillCore sl.home 0 none with
      | none => s
      | some core =>
        let u := s.fresh
        let slot := (s.freeNative sl.home core).headD 0
        let v : WaveInfo :=
          { stack := sl.home, core := core, slot := slot, level := 3, dispatch := 0, index := 0, owned := none, claim := none, request := none }
        { u.2 with warps := u.2.warps ++ [{ startWarp u.1 .native 0 0xFFFF with wave := some v, slab := some (key, k), slot := slot, age := u.1 }] }

/-- What a level-3 wavefront does when it issues: it moves the next line of its slab, or swaps the slab once every line has
moved, and then ends (R227, R356); a line waits for the pseudo-channels of its stack (R329). Its instructions are Aderic's
firmware and are not fetched. -/
def State.moverStep (s : State) (w : Warp) : State :=
  match w.slab, w.splits[0]? with
  | some (key, k), some sp =>
    match s.slab? key k with
    | none => s.endWave w
    | some (r, sl) =>
      if sl.state ≠ 1 then s.endWave w
      else
        let c : Ctx := { st := s, w := w, k := 0, sp := sp }
        match s.moveWait w.uid sp.queued sl.home with
        | some p => (c.queueFor [] (.pch p.1 p.2)).modWarp w.uid
          fun w => w.setSplit 0 { ((w.splits[0]?).getD Split.free) with status := .wait (.stripe p.1 p.2) }
        | none =>
          let s1 := s.setSplit w.uid 0 sp.stepped
          if sl.frontier < r.desc.lines k sl.target.toNat then (s1.tmove key k sl.frontier).1 else ((s1.tswap key k).1).endWave w
  | _, _ => s.endWave w

/-- A partition none of whose functions runs begins the slice of its next one with work (R406). -/
def State.startSlices (s : State) : State :=
  s.admin.fns.foldl (fun s f => if s.sliceMayBegin f && s.hasWork f.id then s.beginSlice f.id else s) s

/-- Everything that moves by itself, agent by agent and block by block. -/
def State.settleAll (s : State) : State :=
  let s1 := (s.warps.map (·.uid)).foldl State.agentMoves s
  let s2 := s1.blocks.foldl State.blockMoves s1
  let s3 := s2.regions.foldl (fun s r => (List.range r.slabs.length).foldl (fun s k => s.startMover (regionKey r.fn r.index) k) s) s2
  s3.startSlices

/-! ### The machine's own events -/

/-- An event on one or two numbers. -/
def event (i : Instr) (a b : Nat) : Event := { row := i, args := { a := a, b := b } }

/-- Events of one agent: completion, replay, ends of waits (R41, R131, R167 to R170, R189, R216, R413), pre-emption (R322,
R386), and the place that a level-3 wavefront gives up (R321). -/
def State.agentEvents (s : State) (w : Warp) : List Event :=
  let splits := w.splits.zipIdx.filterMap fun (x : Split × Nat) =>
    match x.1.status with
    | .wait (.memGe _ _) | .wait (.memNe _ _) => some (event .memoryWaitWake w.uid x.2)
    | .wait (.timeline _ _) => some (event .timelineWaitWake w.uid x.2)
    | .wait (.counter _ _) => some (event .counterWaitWake w.uid x.2)
    | .wait (.batch _) => some (event .batchWaitWake w.uid x.2)
    | .wait (.svcSlot _) => some (event .svcSlotFree w.uid x.2)
    | .svc _ => some (event .svcReplyWake w.uid x.2)
    | _ => none
  (if w.ops.isEmpty then [] else [event .longLatencyCompletion w.uid 0]) ++
    (if w.replay.isSome then [event .pageFaultReplay w.uid 0] else []) ++ splits ++
    (if (s.block? w.block).any (·.preempt == .requested) then [event .warpTaken w.uid 0] else []) ++
    match w.wave with
    | some v => (if v.request.isSome then [event .sillPreemptTimeout w.uid 0] else []) ++ if v.level = 3 then [event .level3Save w.uid 0] else []
    | none => []

/-- Events of one block: its engines (R183, R187, R279, R281), freeing (R246), and resumption (R393, R394). -/
def Block.events (b : Block) : List Event :=
  (b.mctx.zipIdx.flatMap fun x => [event .engineStep b.uid x.2, event .batchComplete b.uid x.2]) ++
    (if b.ring.isSome then [event .copyRingNotify b.uid 0, event .copyEntryConsume b.uid 0] else []) ++
    [event .blockFree b.uid 0] ++
    match b.preempt with
    | .taken => [event .blockResumption b.uid 0]
    | .resuming => [event .resumeEpisode b.uid 0]
    | _ => []

/-- Events of the stacks: rings, wavefronts, bank operations, all-bank mode and guests (R209, R218, R303, R315, R319, R326, R333). -/
def State.stackEvents (s : State) : List Event :=
  (s.frontEnds.zipIdx.flatMap fun x => x.1.rings.map fun r => event .sillRingPoll x.2 r.1) ++
    (s.dispatches.flatMap fun d => [event .wavefrontStart d.uid 0, event .sillDispatchDone d.uid 0]) ++
    (s.saved.zipIdx.map fun x => event .wavefrontResume x.2 0) ++
    (s.bankops.flatMap fun o => [event .bankopRun o.uid 0, event .bankopResultLand o.uid 0]) ++
    (s.pchs.flatMap fun p => (if p.waiters.isEmpty then [] else [event .abmodeBlockedEntry p.stack p.idx]) ++
      if p.quiesce then [event .splitQuiesceEnd p.stack p.idx] else []) ++
    (s.shuttles.zipIdx.map fun x => event (if x.1.homeward then .shuttleReturn else .shuttleLanding) x.2 0) ++
    s.warps.flatMap fun w => match w.guest with
      | some g => if g.slot.isSome then []
        else if g.onStack then (List.range 16).map fun k => event .guestWavefrontFormation g.site k else [event .guestWarpFormation g.site 0]
      | none => []

/-- Events of the host's side of the device and of repair: queues, messages, watches, buckets, rows, retirements, and the
end of a wipe (R373, R408, R412, R413, R421, R425, R436). -/
def State.deviceEvents (s : State) : List Event :=
  (s.admin.queues.map fun q => event .launchRecordConsume q.num 0) ++
    (s.launches.flatMap fun l => [event .blockPlacement l.uid 0, event .launchComplete l.uid 0]) ++
    (s.msgs.zipIdx.map fun x => event .messageDelivery x.2 0) ++
    (s.admin.fns.flatMap fun f => (f.watch.zipIdx.filter fun x => bitAt x.1.ctl.toNat 0).map fun x => event .watchFire f.id x.2) ++
    ((s.admin.buckets.filter fun b => !b.waiting.isEmpty).map fun b => event .bucketAdmission b.fn b.stack) ++
    ((s.admin.rowErrors.filter RowErrors.due).map fun r =>
      { row := .rowRepair, args := { a := r.stack, b := r.pch, c := r.bank, value := dword r.row } }) ++
    ((s.pchs.filter (·.retiring)).map fun p => event .pseudoChannelRetirement p.stack p.idx) ++
    (if s.admin.wiping then [{ row := .packageReset, args := { flag := true } }] else []) ++
    s.regions.flatMap fun r => ((List.range r.slabs.length).filter fun k => (r.slabs[k]?).any (·.decided.isSome)).map fun k =>
      event .moveStart (regionKey r.fn r.index) k

/-- The events of the agents, which move as soon as their conditions hold. -/
def State.prompt (s : State) : List Event := s.warps.flatMap s.agentEvents

/-- The events of everything else: blocks and their engines, copies, stacks, the device, and the requests that wait (R329, R400, R403). -/
def State.engines (s : State) : List Event :=
  s.blocks.flatMap Block.events ++
    (s.copies.flatMap fun c => [event .gateReevaluate c.uid 0, event .copyUnitLand c.uid 0, event .followOnIssue c.uid 0,
      event .copyCommandDone c.uid 0]) ++
    s.stackEvents ++ s.held ++ (s.growQ.filterMap fun q => (s.warp? q.warp).map fun w => event .growGrant w.core 0) ++ s.deviceEvents

/-- Whether the engines move before the next clause begins: every sixteenth clause, so that none waits for ever (R241). -/
def State.enginesTurn (s : State) : Bool := s.turns % 16 == 0

/-- Whether what time brings comes before the next clause begins: every 256th clause (R240, R241, R269, R302). -/
def State.timeTurn (s : State) : Bool := s.turns % 256 == 0

/-- Whether a function that does not run has work (R406). -/
def State.waitsForSlice (s : State) (f : Fn) : Bool := !f.running && s.hasWork f.id

/-- The ends of slices for which another function waits (R406). -/
def State.sliceEvents (s : State) : List Event :=
  (s.admin.fns.filter fun f => f.running && s.admin.fns.any fun x => x.partition == f.partition && s.waitsForSlice x).map
    fun f => event .sliceEnd f.id 0

/-- Whether all-bank mode has lasted its 64 us, 102,400 sill cycles (R218; log 14). -/
def State.modeOver (s : State) (p : Pch) : Bool := s.passed p.since 102400

/-- The expiries of all-bank mode that something waits for: what time brings where nothing else moves (R218). -/
def State.expiries (s : State) : List Event :=
  (s.pchs.filter fun p => p.owner.isSome && (!p.waiters.isEmpty || s.pchQueued p.stack p.idx)).map fun p => event .allBankModeExpiry p.stack p.idx

/-- The events that time brings, with the agents ready or not (log 14): the limits of R18, R218, R240, R269, R302 and R440. -/
def State.timed (s : State) : List Event :=
  (s.warps.flatMap fun w => w.splits.zipIdx.filterMap fun (x : Split × Nat) => match x.1.status with
    | .wait (.record _) => some (event .recordCloseRequest w.uid x.2)
    | .shed => some (event .shedRetry w.uid 0)
    | .join => some { row := .joinFairnessLimit, args := { a := w.uid, b := x.2, c := 2048 } }
    | _ => none) ++
    ((s.copies.map (·.uid) ++ s.bankops.map (·.uid)).filterMap fun u => if (s.stallAt u 0).isSome then some
      (event .recordCloseRequest u 0) else none) ++
    (s.growQ.filterMap fun q => (s.warp? q.warp).map fun w => event .growDeadlock w.core 0) ++
    ((s.pchs.filter fun p => p.owner.isSome && s.modeOver p).map fun p => event .allBankModeExpiry p.stack p.idx) ++
    if s.admin.spent.isEmpty then [] else [event .matrixBudgetPeriod 0 0]

/-- A list from its nth place on, round to its start: no event of a list comes first every time. -/
def rotate {α : Type} (n : Nat) (l : List α) : List α := l.drop (n % max 1 l.length) ++ l.take (n % max 1 l.length)

/-! ### The agent that issues next (R235, R238, R239, R241, R249, R320) -/

/-- Where an agent executes on a sill core, with its level (R320): native wavefronts at 1 or 3, guest wavefronts at 2. -/
def Warp.sillPlace (w : Warp) : Option ((Nat × Nat) × Nat) :=
  match w.wave, w.guest with
  | some v, _ => some ((v.stack, v.core), v.level)
  | none, some g => if g.onStack then some ((g.site, g.sillCore), 2) else none
  | none, none => none

/-- What comes first among the ready wavefronts of a sill core (R249, R320): one that starves, then by level, then the
oldest; one that has yielded comes after every other until one of them has issued (R229). -/
def State.sillKey (s : State) (w : Warp) (level : Nat) : Nat × Nat :=
  (if w.wave.any (·.yielded) then 4 else if s.starved w then 0 else level, w.uid)

/-- Whether an agent may issue among the ready ones: on a sill core only the first one does. -/
def State.sillFirst (s : State) (ready : List Warp) (w : Warp) : Bool :=
  match w.sillPlace with
  | none => true
  | some (place, level) => ready.all fun x => match x.sillPlace with
    | none => true
    | some (p, l) => p != place || (let a := s.sillKey w level; let b := s.sillKey x l; a.1 < b.1 || (a.1 == b.1 && a.2 ≤ b.2))

/-- The agent that issues next: of those that may, the one that has waited longest since it was last chosen; a mover at every
64th clause, since a line takes 900 cycles (R248), or where no other is ready. -/
def State.nextAgent (s : State) : Option Warp :=
  let ready := s.readyAgents
  let first := ready.filter (s.sillFirst ready)
  let others := first.filter (·.slab.isNone)
  (if others.isEmpty || s.turns % 64 == 0 then first else others).foldl
    (fun b w => match b with | none => some w | some x => if w.age < x.age then some w else some x) none

/-- Cycles for which a clause counts (log 14). -/
def clauseCycles : Nat := 8

/-- A clause's time passes for the splits of the agent that executes it (R238 to R240): its running split, those that are
ready, and those at a JOIN. -/
def State.pass (s : State) (w : Warp) : Warp :=
  let counts (x : Split × Nat) : Bool := x.2 == w.running || s.splitCan w x.2 || (x.1.live && x.1.status == .join)
  { w with splits := w.splits.zipIdx.map fun x => if counts x then { x.1 with waited := x.1.waited + clauseCycles } else x.1 }

/-- A wavefront of a sill core is chosen: those of the core that had yielded wait no longer (R229). -/
def State.endYields (s : State) (w : Warp) : State :=
  let here (x : Warp) : Bool := x.wave.any (·.yielded) && (x.sillPlace.map (·.1)) == (w.sillPlace.map (·.1))
  { s with warps := s.warps.map fun x => if here x then { x with wave := x.wave.map fun v => { v with yielded := false } } else x }

/-- The agent becomes the executing one, with a split that can issue running: it selects afresh where no split of it was
ready since it selected last (R238). -/
def State.choose (s0 : State) (w : Warp) : State :=
  let s := s0.endYields w
  let s1 := if !w.idle && s.splitReady w w.running then s else s.reselect w.uid false
  { (s1.modWarp w.uid fun w => { s1.pass w with age := s.nextUid }) with cur := some w.uid, turns := s.turns + 1, nextUid := s.nextUid + 1 }

/-- The timers of an agent that have run out (R239, R240). -/
def State.timers (s : State) (w : Warp) : List Event :=
  let f := s.fairness w
  let late (sp : Split) : Bool := sp.live && f ≤ sp.waited
  (if !w.expired && (w.splits[w.running]?).any late then [event .fairnessTimerExpiry w.uid 0] else []) ++
    w.splits.zipIdx.filterMap fun (x : Split × Nat) => if x.1.status == .join && late x.1 then some (event .joinFairnessLimit w.uid x.2) else none

end Sys2Proof.Machine
end

