-- ==== Sys2Proof/Machine/Step.lean ====
section
/-! DEFINITION. One step of the machine. -/

namespace Sys2Proof.Machine

/-- An event is performed with what it is given. -/
def perform (e : Event) (s : State) : Host.Outcome State Fault Refusal := exec e.row { s with args := e.args }

/-- The first of some events that changes the machine, performed. -/
def firstMove (s : State) : List Event → Option (Host.Outcome State Fault Refusal)
  | [] => none
  | e :: rest =>
    match perform e s with
    | .next t => if { t with args := s.args } = s then firstMove s rest else some (.next t)
    | o => some o

/-- The chosen agent's timers come first; then its split begins its clause, or goes on in it; a level-3 wavefront does its work at once. -/
def turnTo (w : Warp) (s : State) : Host.Outcome State Fault Refusal :=
  match firstMove s (s.timers w) with
  | some o => o
  | none =>
    let s1 := s.choose w
    match s1.ctx? with
    | none => .next s1
    | some c =>
      if c.w.slab.isSome then .next { s1.moverStep c.w with cur := none }
      else if c.sp.begun then .next s1
      else perform (event .clauseBegin w.uid c.k) s1

/-- What time brings, with an agent ready: the next of its events that changes something, now and then. -/
def timeMove (s : State) : Option (Host.Outcome State Fault Refusal) :=
  let t : State := { s with turns := s.turns + 1 }
  if s.turns % 2 ^ 19 == 0 then firstMove t (rotate (s.turns / 256) s.timed ++ s.sliceEvents)
  else if s.timeTurn then firstMove t (rotate (s.turns / 256) s.timed)
  else none

/-- With nothing to issue: what moves by itself, and the ends of waits; the engines and time where no agent is ready, and now
and then where one is; the agent that has waited longest; or an idle machine. -/
def turn (s : State) : Host.Outcome State Fault Refusal :=
  let t := s.settleAll
  if t ≠ s then .next t
  else match firstMove s s.prompt with
    | some o => o
    | none =>
      match s.nextAgent with
      | some w =>
        match if s.enginesTurn then firstMove s s.engines else none with
        | some o => o
        | none => (timeMove s).getD (turnTo w s)
      | none => (firstMove s (s.engines ++ s.timed ++ s.expiries ++ s.sliceEvents)).getD (.next s)

/-- A warp of a block that is asked for its core is taken before its next slot, where it can be (R386). -/
def takeFirst (s : State) (c : Ctx) : Option (Host.Outcome State Fault Refusal) :=
  if (s.block? c.w.block).any (·.preempt == .requested) then firstMove s [event .warpTaken c.w.uid 0] else none

/-- One step: the events of the agenda come first; then the executing agent issues the instruction of its slot; at a clause boundary,
or where it is not ready, the turn passes. -/
def step (s : State) : Host.Outcome State Fault Refusal :=
  match s.agenda with
  | e :: rest => perform e { s with agenda := rest }
  | [] =>
    match s.ctx? with
    | none => turn s
    | some c =>
      if c.sp.begun && s.splitReady c.w c.k then
        match takeFirst s c with
        | some o => o
        | none =>
          match c.fetch with
          | .instr s1 i => exec i s1
          | .other s1 => .next s1
      else turn s

/-- The state in which an instruction of the opcode table is the next one that step fetches: every instruction is one 32-bit word. -/
def State.withFetchWord (s : State) (nbits w : Nat) : State := s.placeWord (BitVec.ofNat 32 (w % 2 ^ nbits))

end Sys2Proof.Machine
end

