-- ==== Sys2Proof/Safety.lean ====
section
/-! DEFINITION. The terms in which claims are stated: when a step continues, when nothing that precedes an instruction's
effect stops it (R58), when an access meets no obstacle, and what an instruction leaves as it was. -/

namespace Sys2Proof.Machine

/-- The step answers a next state: the machine stops with neither a fault nor a refusal. -/
def Continues (s : State) : Prop := ∃ t, step s = .next t

/-! ### Instructions that are admitted -/

/-- Nothing that precedes an instruction's effect stops it (R58): its profile fits the agent (R57), its operands are legal
(R48, R51), no operand is hazarded (R23), none that it reads is poisoned (R420), none is unallocated where debug mode reports
that (R12), and the quota covers the names that it allocates (R17). -/
abbrev Admitted (c : Ctx) (opc : Nat) (uses : List Use) : Prop :=
  (c.guest = true → opcodeProfile opc = .all) ∧ opcodeReserved opc = false ∧
  (opcodeProfile opc = .main → c.native = false) ∧ (opcodeProfile opc = .native → c.native = true) ∧
  (opcodePrivileged opc = true → c.w.tenant = false) ∧
  (∀ u ∈ uses, u.bad = none) ∧ (∀ u ∈ uses, c.w.hazardOf u = none) ∧ (∀ u ∈ uses, c.poisonLane u = none) ∧
  (c.st.debugOf c.w = true → ∀ u ∈ uses, c.unallocated u = []) ∧
  (c.w.renames = true → ∀ h ∈ c.st.owners c.w (c.written uses), h.quotaFail (writtenNames uses) = none)

/-- An admitted instruction, where its own conditions hold, answers the next state that a function of its context gives. -/
def Completes (i : Instr) (opc : Nat) (uses : Ctx → List Use) (ok : Ctx → Prop) (out : Ctx → State) : Prop :=
  ∀ s c, s.ctx? = some c → Admitted c opc (uses c) → ok c → exec i s = .next (out c)

/-- An admitted instruction retires with register writes and sticky bits, in the state that its effect leaves. -/
def Retires (i : Instr) (opc : Nat) (uses : Ctx → List Use) (ok : Ctx → Prop) (out : Ctx → State) (ws : Ctx → List LaneWrite)
    (fl : Ctx → BitVec 8) : Prop :=
  Completes i opc uses ok fun c => c.retire opc (uses c) (out c) (ws c) (fl c)

/-- The sticky bits that the active lanes raise. -/
def Ctx.stickyOf (c : Ctx) (f : Nat → Res) : BitVec 8 := (lanesOf c.act).foldl (fun a i => a ||| (f i).2) 0

/-- A vector instruction retires: register d, or the pair d and d + 1, takes a value in every active lane. -/
def Lanes (i : Instr) (opc : Nat) (uses : Ctx → List Use) (ok : Ctx → Prop) (d : Nat) (pair : Ctx → Bool) (f : Ctx → Nat → Res) : Prop :=
  Retires i opc uses ok (fun c => c.st) (fun c => vwrite d (pair c) c.act fun l => (f c l).1) fun c => c.stickyOf (f c)

/-- A comparison retires: predicate p takes a bit in every active lane. -/
def Preds (i : Instr) (opc : Nat) (uses : Ctx → List Use) (ok : Ctx → Prop) (p : Nat) (f : Ctx → Nat → Bool × BitVec 8) : Prop :=
  Retires i opc uses ok (fun c => c.st) (fun c => pwriteAct p c.act (maskOf fun l => hasLane c.act l && (f c l).1))
    fun c => c.stickyOf fun l => (0, (f c l).2)

/-- A scalar instruction retires: scalar d takes a value. -/
def Scalar (i : Instr) (opc : Nat) (uses : Ctx → List Use) (ok : Ctx → Prop) (d : Nat) (f : Ctx → Nat) : Prop :=
  Retires i opc uses ok (fun c => c.st) (fun c => swrite d (f c)) fun _ => 0

/-- Every state and agent. -/
abbrev always (_ : Ctx) : Prop := True

/-! ### Accesses that nothing holds back -/

/-- The lanes of an access are resolved (R127), none departs (R298), and nothing holds the access back: all-bank mode (R218),
a pre-empted block (R392), an earlier
stall at a page that migrated (R403), the matrix engine (R191, R293), another agent's record (R268), an overlap of another size in debug
mode (R258), a full line (R269). -/
abbrev Unhindered (c : Ctx) (kind : MemKind) (lanes : List Nat) (target : Nat → Option Dest)
    (address : State → Nat → Except AFault (State × Acc)) (s1 : State) (as : List Acc) : Prop :=
  (kind.migrates = true → c.plan kind.names target false = .go [] []) ∧ resolve address lanes c.st = .ok (s1, as) ∧
  s1.bankWait c.w.uid c.sp.queued as = none ∧ s1.pageBehind c.sp.queued = none ∧ s1.windowWait c.w.block as = none ∧
    (kind.write = true → s1.heldAcc as = none) ∧
  s1.conflictOf (s1.agentOf c.w) kind.write as = none ∧ s1.mixedOf (s1.agentOf c.w) kind.write (kind.strongs as) = none ∧
  (kind.strong = false → kind.ends = false → s1.fullLine c.w.uid as = none)

/-- A memory instruction whose access nothing holds back retires with what the access gives; names are the vector registers
that it writes, which a departing lane would allocate at home (R301). -/
def AccessesTo (names : Ctx → List Nat) (i : Instr) (opc : Nat) (uses : Ctx → List Use) (ok : Ctx → Prop) (kind : MemKind)
    (lanes : Ctx → List Nat) (target : Ctx → Nat → Option Dest) (address : Ctx → State → Nat → Except AFault (State × Acc))
    (effect : Ctx → State → List Acc → MemResult) : Prop :=
  ∀ s c s1 as, s.ctx? = some c → Admitted c opc (uses c) → ok c →
    Unhindered c { kind with names := names c } (lanes c) (target c) (address c) s1 as →
    exec i s = .next (c.retire opc (uses c) (effect c (c.entered kind s1 as) as).1 (effect c (c.entered kind s1 as) as).2.1
      (effect c (c.entered kind s1 as) as).2.2)

/-- A memory instruction that writes no vector register, or from which no lane departs. -/
def Accesses (i : Instr) (opc : Nat) (uses : Ctx → List Use) (ok : Ctx → Prop) (kind : MemKind) (lanes : Ctx → List Nat)
    (target : Ctx → Nat → Option Dest) (address : Ctx → State → Nat → Except AFault (State × Acc))
    (effect : Ctx → State → List Acc → MemResult) : Prop :=
  AccessesTo (fun _ => []) i opc uses ok kind lanes target address effect

/-- The registers of a SPILL or FILL move one after another, each from the state that the one before left, and nothing holds
one back (R140). -/
def Moves (c : Ctx) (write : Bool) (address : Nat → Nat → Nat) (effect : Nat → State → List Acc → MemResult) :
    List Nat → State → State → List LaneWrite → Prop
  | [], s, t, ws => t = s ∧ ws = []
  | j :: rest, s, t, ws =>
    let cj : Ctx := { c with st := s }
    ∃ s1 as ws2, Unhindered cj { write := write } (lanesOf c.act) (fun _ => none)
        (fun s i => cj.linear write false false 4 s i (address j i)) s1 as ∧
      ws = (effect j (cj.entered { write := write } s1 as) as).2.1 ++ ws2 ∧
      Moves c write address effect rest (effect j (cj.entered { write := write } s1 as) as).1 t ws2

/-- No lane can depart. -/
def stays (_ : Ctx) (_ : Nat) : Option Dest := none

/-- The lanes that take effect. -/
def active (c : Ctx) : List Nat := lanesOf c.act

/-! ### Families of one shape -/

/-- Element e of TYPE of a source in lane l (R86). -/
def Ctx.elem (c : Ctx) (src : Bool → Nat → Nat) (l e : Nat) : Nat := elemAt c.ty.width e (src c.ty.pair l)

/-- roundT of an exact integer under the clause's SAT (R38, R60). -/
def Ctx.rounds (c : Ctx) (x : Int) : Res := roundInt c.ty (modeSat c.m) x

/-- An element as its TYPE reads it (R101). -/
def Ctx.reads (c : Ctx) (x : Nat) : Int := c.ty.read x

/-- A binary operation on every element of TYPE. -/
def Binary (ok : Ty → Bool) (i : V3 → Instr) (opc : Nat) (f : Ctx → Nat → Nat → Res) : Prop :=
  ∀ o, Lanes (i o) opc (fun c => v3Uses o (pairs c.ty.pair) (pairs c.ty.pair) (pairs c.ty.pair)) (fun c => ok c.ty = true) o.d.toNat
    (fun c => c.ty.pair) fun c l => perElem c.ty.width c.ty.count fun e => f c (c.elem (c.aval o) l e) (c.elem (c.bval o) l e)

/-- A fused operation, d its third source (R50). -/
def Fused (ok : Ty → Bool) (i : V3 → Instr) (opc : Nat) (f : Ctx → Nat → Nat → Nat → Res) : Prop :=
  ∀ o, Lanes (i o) opc (fun c => v3AccUses o (pairs c.ty.pair) (pairs c.ty.pair) (pairs c.ty.pair)) (fun c => ok c.ty = true) o.d.toNat
    (fun c => c.ty.pair) fun c l =>
      perElem c.ty.width c.ty.count fun e => f c (c.elem (c.aval o) l e) (c.elem (c.bval o) l e) (c.elem (c.dval o.d) l e)

/-- A unary operation on every element of TYPE. -/
def Unary (ok : Ty → Bool) (i : V3 → Instr) (opc : Nat) (f : Ctx → Nat → Res) : Prop :=
  ∀ o, Lanes (i o) opc (fun c => unUses o (pairs c.ty.pair) (pairs c.ty.pair)) (fun c => ok c.ty = true) o.d.toNat
    (fun c => c.ty.pair) fun c l => perElem c.ty.width c.ty.count fun e => f c (c.elem (c.aval o) l e)

/-- An operation on 32 bits, or on 64 for i64 and n64 (R101). -/
def Bitwise (i : V3 → Instr) (opc : Nat) (f : Nat → Nat → Nat) : Prop :=
  ∀ o, Lanes (i o) opc (fun c => v3Uses o (pairs c.ty.intPair) (pairs c.ty.intPair) (pairs c.ty.intPair)) always o.d.toNat
    (fun c => c.ty.intPair) fun c l => (f (c.aval o c.ty.intPair l) (c.bval o c.ty.intPair l), 0)

/-- A comparison of element 0 of two sources (R103, R111). -/
def Compares (ok : Ty → Bool) (i : V3 → Instr) (opc : Nat) (f : Ctx → Nat → Nat → Bool × BitVec 8) : Prop :=
  ∀ o, Preds (i o) opc (fun c => cmpUses o (pairs c.ty.pair)) (fun c => ok c.ty = true) (o.d.toNat % 8) fun c l =>
    f c (c.elem (c.aval o) l 0) (c.elem (c.bval o) l 0)

/-- An operation of every element with the immediate of format VI (R104). -/
def Immediate (i : VI → Instr) (opc : Nat) (f : Ctx → BitVec 10 → Nat → Res) : Prop :=
  ∀ o, Lanes (i o) opc (fun c => viUses o (pairs c.ty.pair) (pairs c.ty.pair)) (fun c => c.ty.isInt = true) o.d.toNat
    (fun c => c.ty.pair) fun c l => perElem c.ty.width c.ty.count fun e => f c o.imm (c.elem (c.viVal o) l e)

/-- A bitwise operation with the immediate sign-extended to 32 or 64 bits (R104). -/
def BitwiseImmediate (i : VI → Instr) (opc : Nat) (f : Nat → Nat → Nat) : Prop :=
  ∀ o, Lanes (i o) opc (fun c => viUses o (pairs c.ty.intPair) (pairs c.ty.intPair)) always o.d.toNat (fun c => c.ty.intPair) fun c l =>
    (f (c.viVal o c.ty.intPair l) (wrapTo (if c.ty.intPair then 64 else 32) o.imm.toInt), 0)

/-- An operation on two scalars, modulo 2^32 (R106). -/
def ScalarBinary (i : S3 → Instr) (opc : Nat) (f : Nat → Nat → Int) : Prop :=
  ∀ o, Scalar (i o) opc (fun _ => [sdst o.d 1, ssrc o.a 1, ssrc o.b 1]) always o.d.toNat fun c =>
    (f (c.s o.a.toNat).toNat (c.s o.b.toNat).toNat % 2 ^ 32).toNat

/-! ### Instructions that retire otherwise -/

/-- An instruction that sets its split's next place itself, in the state that its effect leaves. -/
def Jumps (i : Instr) (opc : Nat) (uses : Ctx → List Use) (ok : Ctx → Prop) (out : Ctx → State) : Prop :=
  Completes i opc uses ok fun c => (out c).after c.w.uid

/-- The executing split changed. -/
def Ctx.turned (c : Ctx) (f : Split → Split) : State :=
  c.st.modWarp c.w.uid fun w => w.setSplit c.k (f { ((w.splits[c.k]?).getD Split.free) with status := .ready })

/-- A control transfer: the split goes on at the place that a function gives it (R88 to R93). -/
def Turns (i : Instr) (opc : Nat) (uses : Ctx → List Use) (ok : Ctx → Prop) (f : Ctx → Split → Split) : Prop :=
  Jumps i opc uses ok fun c => c.turned (f c)

/-- An instruction whose effect is a wait: its split's status, in the state that its effect leaves (R45). -/
def Blocks (i : Instr) (opc : Nat) (uses : Ctx → List Use) (ok : Ctx → Prop) (out : Ctx → State) (st : Ctx → Status) : Prop :=
  Jumps i opc uses ok fun c => (out c).modWarp c.w.uid fun w => w.setSplit c.k { ((w.splits[c.k]?).getD Split.free) with status := st c }

/-! ### Running agents, and what an instruction leaves alone -/

/-- A warp's register files have the sizes that the spec gives them (R10, R20, R21, R22, R26, R89). -/
abbrev Warp.shaped (w : Warp) : Prop :=
  w.v.length = 32 ∧ (∀ r ∈ w.v, r.val.length = 32) ∧ w.s.length = 32 ∧ w.p.length = 8 ∧ w.f.length = 12 ∧ w.m.length = 4 ∧ w.splits.length = 4

/-- The running split is live and ready, and the agent's registers are its own: it is no compacted warp (R14). -/
abbrev Running (c : Ctx) : Prop := c.w.kind ≠ .dense ∧ c.sp.lanes ≠ 0 ∧ c.sp.status = .ready

/-- Only one warp differs. -/
def OnlyWarp (s t : State) (u : Nat) : Prop := ({ t with warps := s.warps } : State) = s ∧ ∀ x, x ≠ u → t.warp? x = s.warp? x

/-- Names that an instruction frees by last-read (R13). -/
def lastReads (uses : List Use) : List Nat := (List.range 32).filter fun r => uses.any fun u => u.cls == 0 && u.last && u.regs.contains r

/-- What an instruction that only writes registers leaves of its warp: every vector register but those of vs and those it
frees, every scalar but those of ss, every predicate but those of ps, modes, shape, carry masks, trap registers, quota, lane
sets and the rest. -/
structure KeepsWarp (w x : Warp) (vs ss ps frees : List Nat) : Prop where
  vector : ∀ r, r < 32 → r ∉ vs → r ∉ frees → (w.reg r).due = false → x.reg r = w.reg r
  scalar : ∀ r, r ∉ ss → x.sreg r = w.sreg r
  pred : ∀ r, r ∉ ps → x.p.getD r 0 = w.p.getD r 0
  modes : x.m = w.m ∧ x.shadow = w.shadow ∧ x.ms = w.ms ∧ x.carryV = w.carryV ∧ x.carryS = w.carryS
  traps : x.trapcause = w.trapcause ∧ x.trappc = w.trappc ∧ x.trapinfo = w.trapinfo ∧ x.handler = w.handler
  rest : x.quota = w.quota ∧ x.exited = w.exited ∧ x.away = w.away ∧ x.resv = w.resv ∧ x.region = w.region ∧ x.lds = w.lds ∧
    x.kind = w.kind ∧ x.block = w.block ∧ x.launch = w.launch ∧ x.gone = w.gone

/-- Every byte of the machine reads in one state as in another. -/
def SameBytes (s t : State) : Prop := ∀ l : Loc, t.readByte l = s.readByte l

/-- The frame of an instruction that only writes registers: where it is admitted and its own conditions hold, only its warp
changes, which keeps all but the named registers; a short-latency one leaves flags and hazards alone; sticky bits are only
raised; no byte of memory changes. -/
def Frames (i : Instr) (opc : Nat) (uses : Ctx → List Use) (ok : Ctx → Prop) (vs ss ps : Ctx → List Nat) : Prop :=
  ∀ s c t, s.ctx? = some c → Running c → Admitted c opc (uses c) → ok c → exec i s = .next t →
    OnlyWarp s t c.w.uid ∧ SameBytes s t ∧ ∃ x, t.warp? c.w.uid = some x ∧ KeepsWarp c.w x (vs c) (ss c) (ps c) (lastReads (uses c)) ∧
      x.sticky &&& c.w.sticky = c.w.sticky ∧
      (opcodeLongReg opc = false → opcodeLongMem opc = false → x.f = c.w.f ∧ x.hazards = c.w.hazards ∧ x.ops = c.w.ops)

/-- Every memory of the machine is in canonical form. -/
abbrev State.canonical (s : State) : Prop :=
  s.mem.wf = true ∧ s.hostMem.wf = true ∧ (∀ b ∈ s.blocks, b.scratch.wf = true) ∧ (∀ w ∈ s.warps, w.lds.wf = true) ∧
    ∀ t ∈ s.stripes, t.data.wf = true

/-- No byte follows from a write: no ring is bound, no counter armed, no queue placed, no watch register armed (R169, R281, R374, R412). -/
abbrev State.unwatched (s : State) : Prop :=
  (∀ b ∈ s.blocks, b.ring = none ∧ b.counters = []) ∧ s.admin.queues = [] ∧ ∀ f ∈ s.admin.fns, ∀ w ∈ f.watch, w.ctl.getLsbD 0 = false

/-- The bytes that a store's accesses cover. -/
def stored (as : List Acc) : List Loc := as.flatMap (·.locs)

end Sys2Proof.Machine
end

