-- ==== Sys2Proof/Certificates/Slice0/Obligations.lean ====
section
/-! DEFINITION. The statements for the provers, in the terms of Sys2Proof.Safety. Each docstring names the rules that it
rests on and, where a choice of the model enters, the log entry. -/

open Sys2Proof Sys2Proof.Machine

/-! ### Lane arithmetic: every instruction completes, with the value that the spec gives -/

/-- R101: the integer arithmetic and shifts of V3 retire with roundT of the exact result, or the stated bits, in every active
lane. R101: the bitwise operations and SEL, which writes every lane of the split: a where its guard is true, else b. -/
def Obligations.IntegerArithmetic : Prop :=
  (
    Binary Ty.isInt .iadd 0x10 (fun c a b => c.rounds (c.reads a + c.reads b)) ∧
    Binary Ty.isInt .isub 0x11 (fun c a b => c.rounds (c.reads a - c.reads b)) ∧
    Binary Ty.isInt .imul 0x12 (fun c a b => c.rounds (c.reads a * c.reads b)) ∧
    Binary Ty.isInt .imulh 0x13 (fun c a b => (wrapTo (2 * c.ty.width) (c.reads a * c.reads b) / 2 ^ c.ty.width, 0)) ∧
    Fused Ty.isInt .imad 0x14 (fun c a b d => c.rounds (c.reads a * c.reads b + c.reads d)) ∧
    Binary Ty.isInt .imin 0x15 (fun c a b => (if c.reads a ≤ c.reads b then a else b, 0)) ∧
    Binary Ty.isInt .imax 0x16 (fun c a b => (if c.reads b ≤ c.reads a then a else b, 0)) ∧
    Binary Ty.isInt .shl 0x1B (fun c a b => c.rounds (c.reads a * ((2 ^ (b % 64 % c.ty.width) : Nat) : Int))) ∧
    Binary Ty.isInt .shr 0x1C (fun c a b => (a / 2 ^ (b % 64 % c.ty.width), 0)) ∧
    Binary Ty.isInt .sar 0x1D (fun c a b => (wrapTo c.ty.width (toSigned c.ty.width a / ((2 ^ (b % 64 % c.ty.width) : Nat) : Int)), 0))) ∧
  (
    Bitwise .and 0x17 Nat.land ∧ Bitwise .or 0x18 Nat.lor ∧ Bitwise .xor 0x19 Nat.xor ∧
    Bitwise .andn 0x1A (fun a b => Nat.land a (Nat.xor b (2 ^ 64 - 1))) ∧
    ∀ o : V3, Retires (.sel o) 0x1E (fun c => (v3Uses o (pairs c.ty.intPair) (pairs c.ty.intPair) (pairs c.ty.intPair)).map
      fun u => { u with all := true })
      always (fun c => c.st)
      (fun c => vwrite o.d.toNat c.ty.intPair c.sp.lanes fun l => if c.guard l then c.aval o c.ty.intPair l else c.bval o c.ty.intPair l) fun _ => 0)

/-- R102: absolute value through roundT, counts and bit reversal on every element. -/
def Obligations.IntegerUnary : Prop :=
  Unary Ty.isInt .iabs 0x1F (fun c a => if c.ty.signed then c.rounds (if c.reads a < 0 then -c.reads a else c.reads a) else (a, 0)) ∧
  Unary Ty.isInt .popc 0x20 (fun c a => (popcount c.ty.width a, 0)) ∧
  Unary Ty.isInt .clz 0x21 (fun c a => (c.ty.width - bitLen a, 0)) ∧
  Unary Ty.isInt .brev 0x22 (fun c a => (revBits c.ty.width a, 0))

/-- R103: the integer comparisons of element 0 write their predicate in the active lanes, and their d[23:22] is zero. -/
def Obligations.IntegerComparisons : Prop :=
  Compares Ty.isInt .isetpEq 0x23 (fun c a b => (decide (c.reads a = c.reads b), 0)) ∧
  Compares Ty.isInt .isetpNe 0x24 (fun c a b => (decide (c.reads a ≠ c.reads b), 0)) ∧
  Compares Ty.isInt .isetpLt 0x25 (fun c a b => (decide (c.reads a < c.reads b), 0)) ∧
  Compares Ty.isInt .isetpLe 0x26 (fun c a b => (decide (c.reads a ≤ c.reads b), 0)) ∧
  Compares Ty.isInt .isetpGt 0x27 (fun c a b => (decide (c.reads b < c.reads a), 0)) ∧
  Compares Ty.isInt .isetpGe 0x28 (fun c a b => (decide (c.reads b ≤ c.reads a), 0)) ∧
  ∀ o : V3, ∀ i ∈ [Instr.isetpEq o, .isetpNe o, .isetpLt o, .isetpLe o, .isetpGt o, .isetpGe o], i.wellFormed = true → o.d.toNat < 8

/-- R86, R104, R105: the immediate forms and the moves of immediates. That the immediate of IADDI, cut to the element's
width, is one more operand of TYPE, under SAT too, is log 30 (DEDUCED). R106: the scalar operations, once per issue whatever
the guard. -/
def Obligations.ImmediateAndScalarForms : Prop :=
  (
    Immediate .iaddi 0x29 (fun c k a => c.rounds (c.reads a + c.reads (wrapTo c.ty.width k.toInt))) ∧
    BitwiseImmediate .andi 0x2A Nat.land ∧ BitwiseImmediate .ori 0x2B Nat.lor ∧ BitwiseImmediate .xori 0x2C Nat.xor ∧
    Immediate .shli 0x2D (fun c k a => c.rounds (c.reads a * ((2 ^ (k.toNat % 64 % c.ty.width) : Nat) : Int))) ∧
    Immediate .shri 0x2E (fun c k a => (a / 2 ^ (k.toNat % 64 % c.ty.width), 0)) ∧
    Immediate .sari 0x2F (fun c k a => (wrapTo c.ty.width (toSigned c.ty.width a / ((2 ^ (k.toNat % 64 % c.ty.width) : Nat) : Int)), 0)) ∧
    (∀ o : SL, Lanes (.movi o) 0x30 (fun _ => [vdst o.d 1]) always o.d.toNat (fun _ => false) fun _ _ => ((o.imm.toInt % 2 ^ 32).toNat, 0)) ∧
    ∀ o : SL, Lanes (.movhi o) 0x31 (fun _ => [vacc o.d 1]) always o.d.toNat (fun _ => false) fun c l =>
      (o.imm.toNat % 2 ^ 13 * 2 ^ 19 + (c.lane o.d.toNat l).toNat % 2 ^ 19, 0)) ∧
  (
    ScalarBinary .sadd 0x32 (fun a b => (a : Int) + b) ∧ ScalarBinary .ssub 0x33 (fun a b => (a : Int) - b) ∧
    ScalarBinary .smul 0x34 (fun a b => (a : Int) * b) ∧ ScalarBinary .sand 0x35 (fun a b => (Nat.land a b : Nat)) ∧
    ScalarBinary .sor 0x36 (fun a b => (Nat.lor a b : Nat)) ∧ ScalarBinary .sxor 0x37 (fun a b => (Nat.xor a b : Nat)) ∧
    ScalarBinary .sshl 0x38 (fun a b => (a * 2 ^ (b % 32) : Nat)) ∧ ScalarBinary .sshr 0x39 (fun a b => (a / 2 ^ (b % 32) : Nat)) ∧
    (∀ o : SI, Scalar (.saddi o) 0x3A (fun _ => [sdst o.d 1, ssrc o.a 1]) always o.d.toNat fun c =>
      (((c.s o.a.toNat).toNat + o.imm.toInt) % 2 ^ 32).toNat) ∧
    ∀ o : SL, Scalar (.smovi o) 0x3B (fun _ => [sdst o.d 1]) always o.d.toNat fun _ => (o.imm.toInt % 2 ^ 32).toNat)

/-- R63, R65, R80, R83, R107, R108: the float arithmetic under the clause's ROUND and FTZ; d is the third source of a fused
operation. R64, R109: the unary float operations; FCLASS and FEXPT give 16 bits per element of 16 bits, otherwise one 32-bit
value. NX of FDIV and NV of FEXPT on a signalling NaN are read as log 49 says (DEDUCED). -/
def Obligations.FloatArithmetic : Prop :=
  (
    Binary Ty.isFloat .fadd 0x40 (fun c a b => floatAdd c.ty c.rnd c.ftz a b) ∧
    Binary Ty.isFloat .fsub 0x41 (fun c a b => floatSub c.ty c.rnd c.ftz a b) ∧
    Binary Ty.isFloat .fmul 0x42 (fun c a b => floatMul c.ty c.rnd c.ftz a b) ∧
    Fused Ty.isFloat .ffma 0x43 (fun c a b d => floatFma c.ty c.rnd c.ftz false false a b d) ∧
    Fused Ty.isFloat .ffms 0x44 (fun c a b d => floatFma c.ty c.rnd c.ftz false true a b d) ∧
    Fused Ty.isFloat .fnma 0x45 (fun c a b d => floatFma c.ty c.rnd c.ftz true false a b d) ∧
    Binary Ty.isFloat .fmin 0x46 (fun c a b => floatMinMax c.ty c.ftz false a b) ∧
    Binary Ty.isFloat .fmax 0x47 (fun c a b => floatMinMax c.ty c.ftz true a b) ∧
    Binary Ty.isFloat .fabsd 0x48 (fun c a b => floatAbsd c.ty c.rnd c.ftz a b) ∧
    Binary Ty.isFloat .fcpys 0x50 (fun c a b => floatCpys c.ty a b) ∧
    Binary Ty.isFloat .fdiv 0x5A (fun c a b => floatDiv c.ty c.rnd c.ftz a b) ∧
    (∀ o : V3, Lanes (.fdot2 o) 0x49 (fun c => let n := if c.ty = .f32 then 2 else 1; v3Uses o 1 n n)
      (fun c => c.ty.isFloat = true ∧ c.ty ≠ .f64) o.d.toNat (fun _ => false) fun c l =>
      let e (src : Bool → Nat → Nat) (k : Nat) : Nat := elemAt c.ty.width k (src (c.ty == .f32) l)
      floatDot2 c.ty c.rnd c.ftz (e (c.aval o) 0) (e (c.bval o) 0) (e (c.aval o) 1) (e (c.bval o) 1)) ∧
    ∀ o : V3, Lanes (.fldexp o) 0x4E (fun c => v3Uses o (pairs c.ty.pair) (pairs c.ty.pair) 1) (fun c => c.ty.isFloat = true) o.d.toNat
      (fun c => c.ty.pair) fun c l => perElem c.ty.width c.ty.count fun e =>
        floatLdexp c.ty c.rnd c.ftz (c.elem (c.aval o) l e) (toSigned 32 (c.bval o false l))) ∧
  (
    Unary Ty.isFloat .fabs 0x4A (fun c a => floatAbs c.ty a) ∧ Unary Ty.isFloat .fneg 0x4B (fun c a => floatNeg c.ty a) ∧
    Unary Ty.isFloat .frnd 0x4C (fun c a => floatRnd c.ty c.rnd c.ftz a) ∧ Unary Ty.isFloat .fsat 0x51 (fun c a => floatSat c.ty c.ftz a) ∧
    (∀ o : V3, Lanes (.fclass o) 0x4D (fun c => unUses o 1 (pairs c.ty.pair)) (fun c => c.ty.isFloat = true) o.d.toNat (fun _ => false) fun c l =>
      perElem (if c.ty.width = 16 then 16 else 32) c.ty.count fun e => (floatClass c.ty (c.elem (c.aval o) l e), 0)) ∧
    ∀ o : V3, Lanes (.fexpt o) 0x4F (fun c => unUses o 1 (pairs c.ty.pair)) (fun c => c.ty.isFloat = true) o.d.toNat (fun _ => false) fun c l =>
      perElem (if c.ty.width = 16 then 16 else 32) c.ty.count fun e =>
        floatExpt c.ty (if c.ty.width = 16 then 16 else 32) c.ftz (c.elem (c.aval o) l e))

/-- R83, R84, R110: the function instructions; where R83 leaves a result free within units in the last place, the value is
the free one of log 9, and NX of these functions is read as log 49 says (DEDUCED). R111: the float comparisons of element 0
write their predicate in the active lanes. -/
def Obligations.FloatFunctionsAndComparisons : Prop :=
  (
    Unary Ty.isFloat .frcp 0x52 (fun c a => funcRcp c.ty c.rnd c.ftz a) ∧ Unary Ty.isFloat .frsq 0x53 (fun c a => funcRsq c.ty c.rnd c.ftz a) ∧
    Unary Ty.isFloat .fsqrt 0x54 (fun c a => funcSqrt c.ty c.rnd c.ftz a) ∧ Unary Ty.isFloat .fexp2 0x55 (fun c a => funcExp2 c.ty c.rnd c.ftz a) ∧
    Unary Ty.isFloat .flog2 0x56 (fun c a => funcLog2 c.ty c.rnd c.ftz a) ∧
      Unary Ty.isFloat .fsin 0x57 (fun c a => funcTrig false c.ty c.rnd c.ftz a) ∧
    Unary Ty.isFloat .fcos 0x58 (fun c a => funcTrig true c.ty c.rnd c.ftz a) ∧
      Unary Ty.isFloat .ftanh 0x59 (fun c a => funcTanh c.ty c.rnd c.ftz a)) ∧
  (
    Compares Ty.isFloat .fsetpEq 0x5B (fun c a b => floatCmp c.ty c.ftz .eq a b) ∧
      Compares Ty.isFloat .fsetpNe 0x5C (fun c a b => floatCmp c.ty c.ftz .ne a b) ∧
    Compares Ty.isFloat .fsetpLt 0x5D (fun c a b => floatCmp c.ty c.ftz .lt a b) ∧
      Compares Ty.isFloat .fsetpLe 0x5E (fun c a b => floatCmp c.ty c.ftz .le a b) ∧
    Compares Ty.isFloat .fsetpGt 0x5F (fun c a b => floatCmp c.ty c.ftz .gt a b) ∧
      Compares Ty.isFloat .fsetpGe 0x60 (fun c a b => floatCmp c.ty c.ftz .ge a b) ∧
    Compares Ty.isFloat .fsetpUn 0x61 (fun c a b => floatUn c.ty a b))

/-- R78, R79, R112: reductions give the tree's result in every contributing lane, scans each lane's inclusive prefix, each
packed position by itself; identities +0, the infinities, and +0 for AMAX. R61, R119 to R123: the operations across lanes. -/
def Obligations.ReductionsAndLaneOperations : Prop :=
  (
    let reduces (i : V3 → Instr) (opc : Nat) (ident : Ty → Nat) (op : Ty → Rnd → Bool → RedOp) : Prop :=
      ∀ o, Retires (i o) opc (fun c => unUses o (pairs c.ty.pair) (pairs c.ty.pair)) (fun c => c.ty.isFloat = true ∧ c.act ≠ 0) (fun c => c.st)
        (fun c => vwrite o.d.toNat c.ty.pair c.act fun _ =>
          (perElem c.ty.width c.ty.count fun e => fred (op c.ty c.rnd c.ftz) c.n (c.redInputs o (ident c.ty) e)).1)
        fun c => (perElem c.ty.width c.ty.count fun e => fred (op c.ty c.rnd c.ftz) c.n (c.redInputs o (ident c.ty) e)).2
    let scans (i : V3 → Instr) (opc : Nat) (ident : Ty → Nat) (op : Ty → Rnd → Bool → RedOp) : Prop :=
      ∀ o, Retires (i o) opc (fun c => unUses o (pairs c.ty.pair) (pairs c.ty.pair)) (fun c => c.ty.isFloat = true ∧ c.act ≠ 0) (fun c => c.st)
        (fun c => vwrite o.d.toNat c.ty.pair c.act fun l => packElems c.ty.width ((List.range c.ty.count).map fun e =>
          ((fscan (op c.ty c.rnd c.ftz) c.n (c.redInputs o (ident c.ty) e)).getD l (0, 0)).1))
        fun c => (List.range c.ty.count).foldl (fun a e => (lanesOf c.act).foldl (fun a l =>
          a ||| ((fscan (op c.ty c.rnd c.ftz) c.n (c.redInputs o (ident c.ty) e)).getD l (0, 0)).2) a) 0
    reduces .fredAdd 0x62 (fun _ => 0) floatAdd ∧
    reduces .fredMax 0x63 (fun t => t.fmt.inf true) (fun t _ z => floatMinMax t z true) ∧
    reduces .fredMin 0x64 (fun t => t.fmt.inf false) (fun t _ z => floatMinMax t z false) ∧
    reduces .fredAmax 0x65 (fun _ => 0) (fun t _ z a b => floatMinMax t z true (floatAbs t a).1 (floatAbs t b).1) ∧
    scans .fscanAdd 0x66 (fun _ => 0) floatAdd ∧
    scans .fscanMax 0x67 (fun t => t.fmt.inf true) (fun t _ z => floatMinMax t z true)) ∧
  (
    (∀ o : V3, Lanes (.matchV o) 0x74 (fun c => v3Uses o 1 (pairs c.ty.intPair) (pairs c.ty.intPair)) always o.d.toNat (fun _ => false) fun c l =>
      let keep (x : Nat) : Nat := Nat.land x (Nat.xor (c.bval o c.ty.intPair l) (2 ^ 64 - 1))
      ((maskOf fun j => hasLane c.act j && keep (c.aval o c.ty.intPair j) == keep (c.aval o c.ty.intPair l)).toNat, 0)) ∧
    (∀ o : V3, Lanes (.vote o) 0x75 (fun c => v3Uses o 1 (pairs c.ty.intPair) (pairs c.ty.intPair)) always o.d.toNat (fun _ => false) fun c _ =>
      ((maskOf fun j => hasLane c.act j && Nat.land (c.aval o c.ty.intPair j) (Nat.xor (c.bval o c.ty.intPair j) (2 ^ 64 - 1)) != 0).toNat, 0)) ∧
    (∀ o : X, Preds (.plop o) 0x76 (fun _ => [pwrite o.x, pread o.y, pread o.z]) always o.x.toNat fun c l =>
      (bitAt o.imm.toNat ((if c.pbit o.y.toNat l then 2 else 0) + (if c.pbit o.z.toNat l then 1 else 0)), 0)) ∧
    (∀ o : X, o.imm.getLsbD 0 = true →
      Preds (.pmov o) 0x77 (fun _ => [pwrite o.x, { cls := 0, reg := o.y.toNat, rd := true }]) always o.x.toNat fun c l =>
        (bitAt (c.lane o.y.toNat l).toNat l, 0)) ∧
    (∀ o : X, o.imm.getLsbD 0 = false →
      Lanes (.pmov o) 0x77 (fun _ => [vdst o.x 1, pread o.y]) always o.x.toNat (fun _ => false) fun c _ =>
        ((maskOf fun j => hasLane c.sp.lanes j && c.pbit o.y.toNat j).toNat, 0)) ∧
    (∀ o : V3, Lanes (.shuf o) 0x78
      (fun c => [vdst o.d (pairs c.ty.intPair), { vsrc o.a o.pa o.la (pairs c.ty.intPair) with all := true }, bsrc o 1]) always o.d.toNat
      (fun c => c.ty.intPair) fun c l =>
        (if hasLane c.sp.lanes (c.bval o false l % c.n) then c.aval o c.ty.intPair (c.bval o false l % c.n) else 0, 0)) ∧
    (∀ o : V3, Lanes (.ired o) 0x79 (fun c => unUses o (pairs c.ty.pair) (pairs c.ty.pair)) (fun c => c.ty.isInt = true) o.d.toNat
      (fun c => c.ty.pair)
      fun c _ => perElem c.ty.width c.ty.count fun e => c.rounds ((active c).foldl (fun x j => x + c.reads (c.elem (c.aval o) j e)) 0)) ∧
    ∀ o : V3, Lanes (.iscan o) 0x7A (fun c => unUses o (pairs c.ty.pair) (pairs c.ty.pair)) (fun c => c.ty.isInt = true) o.d.toNat
      (fun c => c.ty.pair)
      fun c l => perElem c.ty.width c.ty.count fun e =>
        c.rounds ((lanesOf (c.act &&& maskOf fun j => j ≤ l)).foldl (fun x j => x + c.reads (c.elem (c.aval o) j e)) 0))

/-- R74, R75, R77, R113 to R118: the fx128, packing, conversion and scale-block instructions. -/
def Obligations.Conversions : Prop :=
  (∀ o : V3, Retires (.fxacc o) 0x68 (fun _ => v3AccUses o 4 1 1) (fun c => c.ty = .f32) (fun c => c.st)
    (fun c =>
      let sum (l : Nat) : Nat :=
        let x := (fxAdd (c.fx o.d.toNat l) (c.aval o false l)).1
        wrapTo 128 (if o.bs && o.b == 0 then x else (fxAdd x (c.bval o false l)).1)
      vwrite o.d.toNat true c.act (fun l => sum l % 2 ^ 64) ++ vwrite (o.d.toNat + 2) true c.act fun l => sum l / 2 ^ 64)
    fun c => c.stickyOf fun l =>
      let x := fxAdd (c.fx o.d.toNat l) (c.aval o false l)
      if o.bs && o.b == 0 then (0, x.2) else (0, x.2 ||| (fxAdd x.1 (c.bval o false l)).2)) ∧
  (∀ o : V3, Lanes (.fxcvt o) 0x69 (fun c => [vdst o.d (pairs c.ty.pair), vsrc o.a o.pa o.la 4]) (fun c => c.ty = .f32 ∨ c.ty = .f64) o.d.toNat
    (fun c => c.ty.pair) fun c l => fxRound c.ty c.rnd (((c.srcLane o.pa.toNat l).map fun j => c.fx o.a.toNat j).getD 0)) ∧
  (∀ o : V3, Lanes (.fpack o) 0x6A (fun _ => v3Uses o 1 1 1) (fun c => c.ty.half = true) o.d.toNat (fun _ => false) fun c l =>
    let x := cvtFF .f32 c.ty c.rnd c.ftz (c.aval o false l)
    let y := cvtFF .f32 c.ty c.rnd c.ftz (c.bval o false l)
    (y.1 * 2 ^ 16 + x.1, x.2 ||| y.2)) ∧
  (∀ o : V3, Lanes (.funpk o) 0x6B (fun _ => unUses o 2 1) (fun c => c.ty.half = true) o.d.toNat (fun _ => true) fun c l =>
    let x := cvtFF c.ty .f32 c.rnd c.ftz (c.aval o false l % 2 ^ 16)
    let y := cvtFF c.ty .f32 c.rnd c.ftz (c.aval o false l / 2 ^ 16 % 2 ^ 16)
    (x.1 + 2 ^ 32 * y.1, x.2 ||| y.2)) ∧
  (∀ o : VI, Lanes (.cvt o) 0x70
    (fun c => [if c.ty.width < 32 then vacc o.d 1 else vdst o.d (pairs c.ty.pair), vsrc o.a o.pa o.la (pairs (cvtSrc o).pair)])
    (fun c => c.ty.isDsb = false ∧ (cvtSrc o).isDsb = false ∧ bitsAt o.imm.toNat 5 4 < (cvtSrc o).count ∧ bitsAt o.imm.toNat 7 6 < c.ty.count)
    o.d.toNat (fun c => c.ty.pair) fun c l =>
      let x := convert (cvtSrc o) c.ty c.rnd c.ftz (modeSat c.m)
        (elemAt (cvtSrc o).width (bitsAt o.imm.toNat 5 4) (c.src (cvtSrc o).pair o.a.toNat o.pa.toNat l))
      if c.ty.width < 32 then
        (packElems c.ty.width ((List.range c.ty.count).map fun e =>
          if e = bitsAt o.imm.toNat 7 6 then x.1 else elemAt c.ty.width e (c.dval o.d false l)), x.2)
      else x) ∧
  (∀ o : VI, Lanes (.dsbscal o) 0x71 (fun _ => [vdst o.d 1, vsrc o.a o.pa o.la 1])
    (fun c => c.ty.isDsb = true ∧ bitsAt o.imm.toNat 1 0 < (if c.native then 1 else 2)) o.d.toNat (fun _ => false) fun c l =>
      let e := dsbScales c.ty (dsbSpanOf o c.ty) (c.dsbGroup o l)
      (dsbHeader c.ty e.1 e.2 (dsbGroupLen o), 0)) ∧
  (∀ o : VI, Lanes (.dsbenc o) 0x72 (fun _ => [vdst o.d 1, vsrc o.a o.pa o.la 1])
    (fun c => c.ty.isDsb = true ∧ bitsAt o.imm.toNat 1 0 < (if c.native then 1 else 2)) o.d.toNat (fun _ => false) fun c l =>
      let e := dsbScales c.ty (dsbSpanOf o c.ty) (c.dsbGroup o l)
      dsbElem c.ty c.rnd e.1 e.2 ((c.dsbGroup o l).getD (l % dsbGroupLen o) (.fin false 0 0))) ∧
  ∀ o : VI, Lanes (.dsbdec o) 0x73 (fun _ => [vacc o.d 1, vsrc o.a o.pa o.la 1]) (fun c => c.ty = .f32 ∨ c.ty = .f16 ∨ c.ty = .bf16)
    o.d.toNat (fun _ => false) fun c l =>
      let h := c.dval o.d false l
      let a := c.src false o.a.toNat o.pa.toNat l
      if dsbValid h then
        c.ty.fmt.ofFp c.rnd c.ftz (dsbDecode h (if bitsAt h 7 4 = 8 then elemAt 8 (o.imm.toNat % 4) a else elemAt 4 (o.imm.toNat % 8) a))
      else (c.ty.fmt.nan, stNV)

/-- R98, R99, R124 to R126: the mode, shape and carry instructions and the system registers, TIMEBASE apart. R98: TIMEBASE is
sampled once and advances; by how much between two samples is the model's free value (log 8). -/
def Obligations.ModesAndSystemRegisters : Prop :=
  (
    (∀ i : BitVec 24, Retires (.mode i) 0x7B (fun _ => []) (fun _ => modeLegal (i.toNat % 2 ^ 22) = true)
      (fun c => c.st.modWarp c.w.uid fun w =>
        { w with m := w.m.set (i.toNat / 2 ^ 22) (i.setWidth 22), guest := w.guest.map fun g => { g with modew := true } })
      (fun _ => []) fun _ => 0) ∧
    (∀ i : BitVec 24, Retires (.mshape i) 0x7C (fun _ => []) (fun c => c.guest = false ∧ c.native = false ∧ shapeLegal i.toNat = true)
      (fun c => c.st.modWarp c.w.uid fun w => { w with ms := i }) (fun _ => []) fun _ => 0) ∧
    (∀ o : X, Retires (.carry o) 0x7D (fun _ => [ssrc o.x 1, ssrc o.y 1]) (fun c => c.native = false)
      (fun c =>
        let set (w : Warp) : Warp := { w with carryV := c.s o.x.toNat, carryS := c.s o.y.toNat &&& 0xFFFFFFFE }
        (c.st.owners c.w (State.homeMask c.w)).foldl (fun s h => s.modWarp h.uid set) (c.st.modWarp c.w.uid set))
      (fun _ => []) fun _ => 0) ∧
    (∀ o : X, o.imm = 0 → Lanes (.sysrd o) 0x0C (fun _ => [vdst o.x 1]) always o.x.toNat (fun _ => false) fun _ l => (l, 0)) ∧
    (∀ o : X, o.imm = 2 → Lanes (.sysrd o) 0x0C (fun _ => [vdst o.x 1]) always o.x.toNat (fun _ => false) fun c l => (c.homeIndex l, 0)) ∧
    (∀ o : X, o.imm.toNat ≤ 0xF → o.imm ≠ 0 → o.imm ≠ 2 → o.imm ≠ 0xC →
      Scalar (.sysrd o) 0x0C (fun _ => [sdst o.x 1]) always o.x.toNat fun c => c.sysreg o.imm.toNat) ∧
    (∀ o : X, o.imm = 0xC → Retires (.sysrd o) 0x0C (fun _ => [sdst o.x 2]) always (fun c => c.st)
      (fun c => swrite2 o.x.toNat (c.sysreg 0xC)) fun _ => 0) ∧
    ∀ o : X, o.imm.toNat ≤ 0x10 → Retires (.syswr o) 0x0D (fun _ => [ssrc o.y (if o.imm = 0xC then 2 else 1)]) always
      (fun c => c.st.modWarp c.w.uid fun w => w.sysWrite o.imm.toNat (c.s2 o.y.toNat)) (fun _ => []) fun _ => 0) ∧
  (
    ∀ o : X, o.imm = 0x10 → Retires (.sysrd o) 0x0C (fun _ => [sdst o.x 2]) always
      (fun c => { c.st with free := c.st.free + 1, timebase := c.st.timebase + Config.elapsed c.st.free })
      (fun c => swrite2 o.x.toNat (c.st.timebase + Config.elapsed c.st.free).toNat) fun _ => 0)

/-! ### Control transfers, compaction, ends and traps -/

/-- R89, R90, R100: NOP has no effect; BRA sends the guarded lanes to its target and the others to the next clause, making a
split where the warp has fewer than four, a pending entry otherwise, and the divergence-depth trap where the stack is full;
JOIN resumes a pending entry, merges a parked one, and waits for the other splits; where its limit has run out without the
split, it goes on by itself (R240), with the suspended-lanes trap where its stack is empty and lanes are suspended. -/
def Obligations.BranchesAndJoins : Prop :=
  let awaits (ok : Ctx → Prop) (x : Ctx → Split) : Prop :=
    (Turns .join 0x06 (fun _ => []) (fun c => ok c ∧ c.sp.missed.contains c.sp.pc = false) fun c _ => { x c with status := .join, waited := 0 }) ∧
    (Turns .join 0x06 (fun _ => []) (fun c => ok c ∧ c.sp.missed.contains c.sp.pc = true ∧ ((x c).stack ≠ [] ∨ c.sp.overflow = 0))
      fun c _ => ({ x c with missed := c.sp.missed.erase c.sp.pc } : Split).goto (c.sp.pc + 32)) ∧
    Jumps .join 0x06 (fun _ => []) (fun c => ok c ∧ c.sp.missed.contains c.sp.pc = true ∧ (x c).stack = [] ∧ c.sp.overflow ≠ 0) fun c =>
      (c.turned fun _ => { x c with missed := c.sp.missed.erase c.sp.pc }).takeTrap c.w.uid c.k 6 c.sp.overflow (c.sp.pc + 32) 1
  Retires .nop 0x00 (fun _ => []) always (fun c => c.st) (fun _ => []) (fun _ => 0) ∧
  (∀ o : B, Turns (.bra o) 0x01 (fun _ => []) (fun c => c.sp.lanes &&& ~~~c.act = 0) fun c sp => sp.goto (c.sp.pc + 32 * o.imm.signExtend 64)) ∧
  (∀ o : B, Turns (.bra o) 0x01 (fun _ => []) (fun c => c.act = 0 ∧ c.sp.lanes ≠ 0) fun c sp => sp.goto (c.sp.pc + 32)) ∧
  (∀ (o : B) (x : Nat), Jumps (.bra o) 0x01 (fun _ => [])
    (fun c => c.act ≠ 0 ∧ c.sp.lanes &&& ~~~c.act ≠ 0 ∧ c.native = false ∧ c.w.freeSplit = some x)
    fun c => (c.turned fun sp => { (sp.goto (c.sp.pc + 32)) with lanes := c.sp.lanes &&& ~~~c.act }).modWarp c.w.uid fun w =>
      w.addSplit x { Split.free with pc := c.sp.pc + 32 * o.imm.signExtend 64, lanes := c.act, missed := c.sp.missed }) ∧
  (∀ o : B, Turns (.bra o) 0x01 (fun _ => [])
    (fun c => c.act ≠ 0 ∧ c.sp.lanes &&& ~~~c.act ≠ 0 ∧ (c.native = true ∨ c.w.freeSplit = none) ∧ c.sp.stack.length < 4)
    fun c sp => { (sp.goto (c.sp.pc + 32 * o.imm.signExtend 64)) with
      lanes := c.act, stack := { parked := false, pc := c.sp.pc + 32, mask := c.sp.lanes &&& ~~~c.act } :: sp.stack }) ∧
  (∀ o : B, Completes (.bra o) 0x01 (fun _ => [])
    (fun c => c.act ≠ 0 ∧ c.sp.lanes &&& ~~~c.act ≠ 0 ∧ (c.native = true ∨ c.w.freeSplit = none) ∧ 4 ≤ c.sp.stack.length)
    fun c => c.trap 5 c.act) ∧
  (∀ p m es, Turns .join 0x06 (fun _ => []) (fun c => c.sp.stack = { parked := false, pc := p, mask := m } :: es) fun c sp =>
    { (sp.goto p) with lanes := m, stack := { parked := true, pc := c.sp.pc, mask := sp.lanes } :: es }) ∧
  awaits (fun c => c.sp.stack = [] ∨ ∃ p m es, c.sp.stack = { parked := true, pc := p, mask := m } :: es ∧ p ≠ c.sp.pc) (·.sp) ∧
  ∀ m es, awaits (fun c => c.sp.stack = { parked := true, pc := c.sp.pc, mask := m } :: es)
    fun c => { c.sp with lanes := c.sp.lanes ||| m, stack := es }

/-- R93: the uniform transfers follow the guard of the split's lowest lane; BRX and RET check their pair only when taken (R42
reason 8), and a CALL that is taken writes the next clause's address to s30 and s31. -/
def Obligations.UniformTransfers : Prop :=
  let lead (c : Ctx) : Bool := c.guard (lowLane c.sp.lanes)
  let pair (i : BX → Instr) (opc : Nat) : Prop :=
    (∀ o, Turns (i o) opc (fun c => [{ ssrc o.s 2 with rd := lead c }])
      (fun c => lead c = true ∧ bitsAt (c.s2 o.s.toNat) 4 0 = 0 ∧ bitsAt (c.s2 o.s.toNat) 63 57 = 0)
      fun c sp => sp.goto (dword (bitsAt (c.s2 o.s.toNat) 56 0))) ∧
    (∀ o, Turns (i o) opc (fun c => [{ ssrc o.s 2 with rd := lead c }]) (fun c => lead c = false) fun c sp => sp.goto (c.sp.pc + 32)) ∧
    (∀ o, Completes (i o) opc (fun c => [{ ssrc o.s 2 with rd := lead c }])
      (fun c => lead c = true ∧ (bitsAt (c.s2 o.s.toNat) 4 0 ≠ 0 ∨ bitsAt (c.s2 o.s.toNat) 63 57 ≠ 0))
      fun c => c.trap 2 (Machine.word (8 + c.sp.slot * 16)))
  (∀ o : B, Turns (.brau o) 0x02 (fun _ => []) always fun c sp =>
    sp.goto (if lead c = true then c.sp.pc + 32 * o.imm.signExtend 64 else c.sp.pc + 32)) ∧
  pair .brx 0x03 ∧ pair .ret 0x05 ∧
  (∀ o : B, Jumps (.call o) 0x04 (fun c => if lead c = true then [sdst 30 2] else []) (fun c => lead c = true) fun c =>
    ({ c with st := c.st.applyWrites c.w (swrite2 30 (bitsAt (c.sp.pc + 32).toNat 56 0)) } : Ctx).turned fun sp =>
      sp.goto (c.sp.pc + 32 * o.imm.signExtend 64)) ∧
  (∀ o : B, Turns (.call o) 0x04 (fun c => if lead c = true then [sdst 30 2] else []) (fun c => lead c = false) fun c sp => sp.goto (c.sp.pc + 32))

/-- R94, R95: BBLK and BJOIN wait, and the block is compacted or unpacked when its last warp arrives; where their own
conditions fail they take the illegal-instruction trap with TRAPINFO 1 and 3. R91: EXIT ends the guarded lanes; the others go
on, then a stacked path resumes, then the suspended-lanes trap comes before any lane exits, then the split ends, and with its
last lane the warp. That a handler ends with its split's last lane, and the held splits go on, is log 23 (DEDUCED). BBLK in a
launch without COMPACT, which R231 takes for no compaction (log 57), has no clause here. -/
def Obligations.CompactionAndExits : Prop :=
  (
    let compacts (c : Ctx) : Prop := (c.launch?.map (·.compact)).getD false = true
    (∀ o : B, Jumps (.bblk o) 0x07 (fun _ => [])
      (fun c => compacts c ∧ c.dense = false ∧ c.w.liveCount = 1 ∧ c.sp.stackEmpty = true)
      fun c => (c.turned fun sp => { sp with status := .bblk (c.sp.pc + 32 * o.imm.signExtend 64) }).bblkStep c.w.block) ∧
    Jumps .bjoin 0x08 (fun _ => []) (fun c => c.dense = true)
      (fun c => (c.turned fun sp => { sp with status := .bjoin }).bjoinStep c.w.block) ∧
    (∀ (o : B) s c, s.ctx? = some c → Admitted c 0x07 [] → compacts c →
      (c.dense = true ∨ c.w.liveCount ≠ 1 ∨ c.sp.stackEmpty = false) → exec (.bblk o) s = .next (c.trap 1 1)) ∧
    ∀ s c, s.ctx? = some c → Admitted c 0x08 [] → c.dense = false → exec .bjoin s = .next (c.trap 1 3)) ∧
  (
    (Turns .exit 0x09 (fun _ => []) (fun c => c.guest = true ∧ c.act = 0) fun c sp => sp.goto (c.sp.pc + 32)) ∧
    (Jumps .exit 0x09 (fun _ => []) (fun c => c.guest = true ∧ c.act ≠ 0) fun c => c.st.sendHome c.w c.sp.pc c.sp.slot none true) ∧
    (Jumps .exit 0x09 (fun _ => []) (fun c => c.guest = false ∧ c.sp.lanes &&& ~~~c.act ≠ 0) fun c =>
      ({ c with st := c.exitLanes c.act } : Ctx).turned fun sp => { (sp.goto (c.sp.pc + 32)) with lanes := c.sp.lanes &&& ~~~c.act }) ∧
    (∀ e es, Jumps .exit 0x09 (fun _ => []) (fun c => c.guest = false ∧ c.sp.lanes &&& ~~~c.act = 0 ∧ c.sp.stack = e :: es) fun c =>
      ({ c with st := c.exitLanes c.act } : Ctx).turned fun sp =>
        { (sp.goto e.pc) with lanes := e.mask, stack := es, slot := if e.parked = true then 8 else 1 }) ∧
    (Completes .exit 0x09 (fun _ => [])
      (fun c => c.guest = false ∧ c.sp.lanes &&& ~~~c.act = 0 ∧ c.sp.stack = [] ∧ c.sp.overflow ≠ 0) fun c => c.trap 6 c.sp.overflow) ∧
    Jumps .exit 0x09 (fun _ => [])
      (fun c => c.guest = false ∧ c.sp.lanes &&& ~~~c.act = 0 ∧ c.sp.stack = [] ∧ c.sp.overflow = 0) fun c =>
        let s1 := (c.exitLanes c.act).modWarp c.w.uid fun w => (w.setSplit c.k Split.free).dropHandler
        if (s1.warp? c.w.uid).any (fun w => w.allLanes == 0) = true then c.endWarp s1 else s1)

/-- R94, R242: the threads of a path keep their lanes, each has exactly one place in the dense warps, and no place holds two
threads; a dense warp starts at its path's entry with flags clear. -/
def Obligations.CompactionPlacesThreads : Prop :=
  ∀ p : PathLanes, (p.map (·.1.uid)).Nodup → (∀ h ∈ p, h.1.uid ≠ 0) →
    (∀ h ∈ p, ∀ l, l < 32 → hasLane h.2 l = true → ∃ j, j < pathCount p ∧ pathHome p j l = some h.1.uid ∧
      ∀ i, pathHome p i l = some h.1.uid → i = j) ∧
    (∀ j l u, l < 32 → pathHome p j l = some u → ∃ h ∈ p, h.1.uid = u ∧ hasLane h.2 l = true) ∧
    ∀ uid slot entry j w, denseWarp uid slot entry p j = some w →
      w.uid = uid ∧ w.kind = .dense ∧ w.f = List.replicate 12 0 ∧ (w.splits.headD Split.free).pc = entry ∧
      ∀ l, l < 32 → hasLane ((w.splits.headD Split.free).lanes) l = (pathHome p j l).isSome

/-- R44, R56, R96, R97: TRAP takes the software trap whose TRAPPC names the slot after it; a reserved opcode takes the
illegal-instruction trap with code 24, and in an away lane returns home; TRET ends a trap handler, and outside a handler it
is illegal. -/
def Obligations.SoftwareTraps : Prop :=
  (∀ i : BitVec 24, Jumps (.trap i) 0x0A (fun _ => []) (fun c => c.guest = false) fun c =>
    if hdrCount c.sp.hdr ≤ c.sp.slot then c.st.takeTrap c.w.uid c.k 4 (Machine.word i.toNat) (c.sp.pc + 32) 1
    else c.st.takeTrap c.w.uid c.k 4 (Machine.word i.toNat) c.sp.pc (c.sp.slot + 1)) ∧
  (∀ i : BitVec 24, Completes (.trap i) 0x0A (fun _ => []) (fun c => c.guest = true) fun c => c.st.sendHome c.w c.sp.pc c.sp.slot none false) ∧
  (∀ k cause, Jumps .tret 0x0B (fun _ => []) (fun c => c.w.handler = .trap k cause) fun c =>
    (c.st.modWarp c.w.uid fun w => w.trapReturn c.k).takeNow c.w.uid) ∧
  (∀ k, Jumps .tret 0x0B (fun _ => []) (fun c => c.w.handler = .save k) fun c => c.st.saveReturn c.w.uid) ∧
  (∀ k, Turns .tret 0x0B (fun _ => []) (fun c => c.w.handler = .restore k) fun _ sp => { sp with status := .resume }) ∧
  (∀ s c, s.ctx? = some c → Admitted c 0x0B [] → c.w.handler = .none → exec .tret s = .next (c.trap 1 (Machine.word (0x0B * 256 + 30)))) ∧
  ∀ w : Word, opcodeReserved (w.toNat / 2 ^ 24) = true →
    (∀ s c, s.ctx? = some c → c.guest = false → exec (.reservedOpcode w) s = .next (c.trap 1 (Machine.word (w.toNat / 2 ^ 24 * 256 + 24)))) ∧
    ∀ s c, s.ctx? = some c → c.guest = true → exec (.reservedOpcode w) s = .next (c.st.sendHome c.w c.sp.pc c.sp.slot none false)

/-- R32, R33: a trap of a main-core warp writes TRAPCAUSE, TRAPPC and TRAPINFO, copies m0 to m3 to the shadow and resets m0,
sends its split to slot 1 of TRAPENTRY without WAIT (slot 0 stands for that), holds the other splits, ends the reservations
of the lanes that the split holds (R151), and leaves registers, flags, shape, lanes and stacks; with no handler, or inside
one, it ends the warp, and the record of a second trap holds that trap's own TRAPINFO and TRAPPC (log 18, DEDUCED). R92, R97:
the return from a trap handler restores m0 to m3 from the shadow, resumes at TRAPPC (a slot field of 0 is slot 1), releases
the held splits, and where the trap that it ends was a divergence-depth or suspended-lanes trap takes its lanes from
TRAPINFO. -/
def Obligations.TrapEntryAndReturn : Prop :=
  (
    ∀ (s : State) (u k cause : Nat) (info : Word) (pc : Dword) (slot : Nat) (w : Warp), s.warp? u = some w →
      (w.kind = .main ∨ w.kind = .dense) → k < w.splits.length →
      let entry := ((s.launch? w.launch).map (·.trapEntry)).getD 0
      let old := (w.splits[k]?).getD Split.free
      (w.handler = .none → entry ≠ 0 → ∃ x : Warp, (s.takeTrap u k cause info pc slot).warp? u = some x ∧
        OnlyWarp s (s.takeTrap u k cause info pc slot) u ∧
        x.trapcause = Machine.word cause ∧ x.trappc = trapPc pc slot ∧ x.trapinfo = info ∧ x.shadow = w.m ∧ x.m = w.m.set 0 0x8 ∧
        x.handler = .trap k cause ∧ x.running = k ∧
        x.splits[k]? = some { old with pc := dword entry, slot := 0, begun := false, status := .ready, held := false, asks := [], queued := none } ∧
        (∀ j, j ≠ k → x.splits[j]? = (w.splits[j]?).map fun (sp : Split) => { sp with held := true }) ∧
        x.v = w.v ∧ x.s = w.s ∧ x.p = w.p ∧ x.f = w.f ∧ x.ms = w.ms ∧ x.carryV = w.carryV ∧ x.carryS = w.carryS ∧ x.quota = w.quota ∧
        x.sticky = w.sticky ∧ x.exited = w.exited ∧ x.away = w.away ∧ x.resv = w.resv.filter fun r => !hasLane old.allLanes r.lane) ∧
      (w.handler = .none → entry = 0 → s.takeTrap u k cause info pc slot =
        (s.setWarp { w with trapcause := Machine.word cause, trappc := trapPc pc slot, trapinfo := info }).endByError
          { w with trapcause := Machine.word cause, trappc := trapPc pc slot, trapinfo := info } cause info (trapPc pc slot)) ∧
      (w.handler ≠ .none → s.takeTrap u k cause info pc slot = s.endByError w 0x18 info (trapPc pc slot))) ∧
  (
    ∀ (w : Warp) (k : Nat) (sp : Split), w.splits[k]? = some sp →
      let x := w.trapReturn k
      let all := sp.lanes ||| sp.overflow
      let cause := w.handler.cause
      ∃ sp1 : Split, x.splits[k]? = some sp1 ∧ x.m = w.shadow ∧ x.handler = .none ∧ sp1.pc = dword (bitsAt w.trappc.toNat 56 5 * 32) ∧
        sp1.slot = (if bitsAt w.trappc.toNat 4 2 = 0 then 1 else bitsAt w.trappc.toNat 4 2) ∧ sp1.begun = false ∧ sp1.stack = sp.stack ∧
        (cause = 5 ∨ cause = 6 → sp1.lanes = w.trapinfo &&& all ∧ sp1.overflow = all &&& ~~~(w.trapinfo &&& all)) ∧
        (cause ≠ 5 → cause ≠ 6 → sp1.lanes = sp.lanes ∧ sp1.overflow = sp.overflow) ∧
        (∀ y ∈ x.splits, Split.held y = false) ∧ x.v = w.v ∧ x.s = w.s ∧ x.p = w.p ∧ x.f = w.f ∧ x.ms = w.ms)

/-- R33, R92, R97: a handler that returns at once restores what the trap found: for a cause that neither divides nor suspends
lanes, m0 to m3, the registers, and the split at the clause and slot that TRAPPC names. -/
def Obligations.TrapRoundTrip : Prop :=
  ∀ (s : State) (u k cause : Nat) (info : Word) (pc : Dword) (slot : Nat) (w : Warp) (sp : Split) (x : Warp), s.warp? u = some w →
    w.kind = .main → w.handler = .none → w.splits[k]? = some sp →
    ((s.launch? w.launch).map (·.trapEntry)).getD 0 ≠ 0 → bitsAt pc.toNat 4 0 = 0 → bitsAt pc.toNat 63 57 = 0 → 1 ≤ slot → slot ≤ 7 →
    cause < 256 → cause ≠ 5 → cause ≠ 6 → (s.takeTrap u k cause info pc slot).warp? u = some x →
    ∃ sp1 : Split, (x.trapReturn k).splits[k]? = some sp1 ∧ sp1.pc = pc ∧ sp1.slot = slot ∧ sp1.lanes = sp.lanes ∧ sp1.stack = sp.stack ∧
      (x.trapReturn k).m = w.m ∧ (x.trapReturn k).v = w.v ∧ (x.trapReturn k).s = w.s ∧ (x.trapReturn k).p = w.p

/-- R57, R58, R217: an opcode outside the agent's profile takes the profile trap with TRAPINFO 0, a privileged one of a
tenant's wavefront with TRAPINFO 1, and in a guest lane returns home; the instruction has no effect. R12, R17, R23, R48, R51,
R58, R59, R420: for an admitted opcode the first failing operand check decides: register class or alignment, then the flag
hazard, then poison with the lowest lane whose value of any operand is poisoned, then the debug-mode read of an unallocated
name with the lowest such name, then the quota. Where R58 leaves the order of the last three open, the model's is log 10; the
SRC field of the poison trap is log 64's. -/
def Obligations.IssueChecks : Prop :=
  (
    ∀ (opc : Nat) s c uses own body, s.ctx? = some c →
      (c.guest = true → (opcodeProfile opc ≠ .all ∨ opcodeReserved opc = true) →
        issue opc s uses own body = .next (c.st.sendHome c.w c.sp.pc c.sp.slot none false)) ∧
      (c.guest = false → opcodeReserved opc = false → (opcodeProfile opc = .main ∧ c.native = true ∨ opcodeProfile opc = .native ∧ c.native = false) →
        issue opc s uses own body = .next (c.trap 3 0)) ∧
      (c.native = true → opcodeReserved opc = false → opcodeProfile opc ≠ .main → opcodePrivileged opc = true → c.w.tenant = true →
        issue opc s uses own body = .next (c.trap 3 1))) ∧
  (
    ∀ (opc : Nat) s c (uses : Ctx → List Use) body, s.ctx? = some c → c.guest = false → opcodeReserved opc = false →
      (opcodeProfile opc = .main → c.native = false) → (opcodeProfile opc = .native → c.native = true) →
        (opcodePrivileged opc = true → c.w.tenant = false) →
      (∀ code, (uses c).findSome? Use.bad = some code → issue opc s uses noCheck body = .next (c.trap 1 (Machine.word (opc * 256 + code)))) ∧
      ((uses c).findSome? Use.bad = none →
        (∀ h, (uses c).findSome? c.w.hazardOf = some h →
          issue opc s uses noCheck body = .next (c.trap 7 (Machine.word (h.reg + h.cls * 32 + h.flag * 128)))) ∧
        ((uses c).findSome? c.w.hazardOf = none → ∀ u ∈ uses c, ∀ l, c.poisonLane u = some l →
            (∀ x ∈ uses c, ∀ k, c.poisonLane x = some k → l ≤ k) →
          issue opc s uses noCheck body = .next (c.poisonTrap (Machine.word (l * 16 + c.st.markSource)))) ∧
        ((uses c).findSome? c.w.hazardOf = none → (∀ u ∈ uses c, c.poisonLane u = none) → c.st.debugOf c.w = true →
          ∀ u ∈ uses c, ∀ r, r < 32 → r ∈ c.unallocated u → (∀ x ∈ uses c, ∀ k ∈ c.unallocated x, r ≤ k) →
            issue opc s uses noCheck body = .next (c.trap 9 (Machine.word r))) ∧
        ((uses c).findSome? c.w.hazardOf = none → (∀ u ∈ uses c, c.poisonLane u = none) →
            (c.st.debugOf c.w = true → ∀ u ∈ uses c, c.unallocated u = []) → c.w.renames = true →
          ∀ r, ((c.st.owners c.w (c.written (uses c))).findSome? fun h => h.quotaFail (writtenNames (uses c))) = some r →
            issue opc s uses noCheck body = .next (c.trap 8 (Machine.word r)))))

/-! ### Memory -/

/-- R128, R129, R133 to R135, R139: the linear accesses. A lane's address is its pair and a displacement, or a scalar pair
and an offset; LD and ST move the bytes of TYPE, LD4 and ST4 16 bytes, SLD and SST one scalar or pair for the whole split.
R140: SPILL and FILL move their registers in ascending order, each whole before the next; a name that is not allocated spills
as zero, and the whole run of a FILL is allocated at issue. -/
def Obligations.LinearAccesses : Prop :=
  (
    let at' (o : M) (c : Ctx) (i : Nat) : Nat := wrapTo 64 (c.val true o.base.toNat i + toSigned 13 o.imm.toNat)
    let flat (o : M) (c : Ctx) : Nat := wrapTo 64 (c.s2 o.base.toNat + toSigned 13 o.imm.toNat)
    let spread (o : MA) (c : Ctx) (i : Nat) : Nat := wrapTo 64 (c.s2 o.a.toNat + (c.lane o.o.toNat i).toNat)
    let whole (c : Ctx) : List Nat := [if c.guest = true then lowLane c.sp.lanes else 0]
    let n (c : Ctx) : Nat := pairs c.ty.pair
    (∀ o : M, AccessesTo (fun c => regsFrom o.d.toNat (n c)) (.ld o) 0x80 (fun c => [vdst o.d (n c), vsrc o.base 0 o.lb 2])
      (fun c => c.ty.isDsb = false)
      { write := false, migrates := true } active (fun c i => c.st.linearTarget c.fn (at' o c i))
      (fun c s i => c.linear false false true (c.ty.width / 8) s i (at' o c i))
      fun c => c.loadTo o.d.toNat (n c) fun bs => c.ty.extend (leNat bs)) ∧
    (∀ o : M, Accesses (.st o) 0x82 (fun c => [vsrc o.d 0 false (n c), vsrc o.base 0 o.lb 2]) (fun c => c.ty.isDsb = false)
      { write := true, migrates := true } active (fun c i => c.st.linearTarget c.fn (at' o c i))
      (fun c s i => c.linear true false true (c.ty.width / 8) s i (at' o c i))
      fun c => c.storeFrom fun i => c.val c.ty.pair o.d.toNat i) ∧
    (∀ o : M, Accesses (.ld4 o) 0x81 (fun _ => [vdst o.d 4, vsrc o.base 0 o.lb 2]) always { write := false } active stays
      (fun c s i => c.linear false false false 16 s i (at' o c i)) fun c => c.loadTo o.d.toNat 4 leNat) ∧
    (∀ o : M, Accesses (.st4 o) 0x83 (fun _ => [vsrc o.d 0 false 4, vsrc o.base 0 o.lb 2]) always { write := true } active stays
      (fun c s i => c.linear true false false 16 s i (at' o c i))
      fun c => c.storeFrom fun i => c.val true o.d.toNat i + 2 ^ 64 * c.val true (o.d.toNat + 2) i) ∧
    (∀ o : M, Accesses (.sld o) 0x84 (fun c => [sdst o.d (n c), ssrc o.base 2]) (fun c => c.ty.pair = false) { write := false } whole stays
      (fun c s i => c.linear false false false 4 s i (flat o c))
      fun c s as =>
        let l := s.loads c.w.uid as leNat
        (s, [{ cls := 1, reg := o.d.toNat, mask := 0, vals := [Machine.word (((l.head?).map (·.2.1)).getD 0)], poison := if l.any (·.2.2) = true then 1 else 0 }], 0)) ∧
    (∀ o : M, Accesses (.sld o) 0x84 (fun c => [sdst o.d (n c), ssrc o.base 2]) (fun c => c.ty.pair = true) { write := false } whole stays
      (fun c s i => c.linear false false false 8 s i (flat o c))
      fun c s as =>
        let l := s.loads c.w.uid as leNat
        let x := ((l.head?).map (·.2.1)).getD 0
        let p : Mask := if l.any (·.2.2) = true then 1 else 0
        (s, [{ cls := 1, reg := o.d.toNat, mask := 0, vals := [Machine.word x], poison := p },
             { cls := 1, reg := o.d.toNat + 1, mask := 0, vals := [Machine.word (x / 2 ^ 32)], poison := p }], 0)) ∧
    (∀ o : M, Accesses (.sst o) 0x85 (fun c => [ssrc o.d (n c), ssrc o.base 2]) always { write := true } whole stays
      (fun c s i => c.linear true false false (if c.ty.pair = true then 8 else 4) s i (flat o c))
      fun c => c.storeNowFrom fun _ => if c.ty.pair = true then c.s2 o.d.toNat else (c.s o.d.toNat).toNat) ∧
    (∀ o : MA, Accesses (.gather o) 0x88 (fun c => [vdst o.d (n c), ssrc o.a 2, vsrc o.o 0 o.lo 1]) (fun c => c.ty.isDsb = false) { write := false }
      active stays (fun c s i => c.linear false false false (c.ty.width / 8) s i (spread o c i))
      fun c => c.loadTo o.d.toNat (n c) fun bs => c.ty.extend (leNat bs)) ∧
    ∀ o : MA, Accesses (.scatter o) 0x89 (fun c => [vsrc o.d 0 false (n c), ssrc o.a 2, vsrc o.o 0 o.lo 1])
      (fun c => c.ty.isDsb = false) { write := true }
      active stays (fun c s i => c.linear true false false (c.ty.width / 8) s i (spread o c i))
      fun c => c.storeFrom fun i => c.val c.ty.pair o.d.toNat i) ∧
  (
    let len (o : M) : Nat := bitsAt o.imm.toNat 12 10 + 1
    let clear (o : M) : Prop := o.base.toNat + 1 < o.d.toNat ∨ o.d.toNat + len o ≤ o.base.toNat
    let at' (o : M) (c : Ctx) (j i : Nat) : Nat := wrapTo 64 (c.val true o.base.toNat i + 4 * bitsAt o.imm.toNat 9 0 + 4 * j)
    (∀ (o : M) s c t ws, s.ctx? = some c → Admitted c 0x8A [{ cls := 0, reg := o.d.toNat, cnt := len o, rd := true, quiet := true },
      vsrc o.base 0 o.lb 2] →
      clear o → Moves c true (at' o c) (fun j => c.storeFrom fun i => (c.lane (o.d.toNat + j) i).toNat) (List.range (len o)) c.st t ws →
      exec (.spill o) s = .next (c.retire 0x8A [{ cls := 0, reg := o.d.toNat, cnt := len o, rd := true, quiet := true },
        vsrc o.base 0 o.lb 2] t ws 0)) ∧
    ∀ (o : M) s c t ws, s.ctx? = some c → Admitted c 0x8B [{ cls := 0, reg := o.d.toNat, cnt := len o, wr := true }, vsrc o.base 0 o.lb 2] →
      clear o → Moves c false (at' o c) (fun j => c.loadTo (o.d.toNat + j) 1 leNat) (List.range (len o))
        (c.st.allocNames c.w c.act ((List.range (len o)).map (o.d.toNat + ·))) t ws →
      exec (.fill o) s = .next (c.retire 0x8B [{ cls := 0, reg := o.d.toNat, cnt := len o, wr := true }, vsrc o.base 0 o.lb 2] t ws 0))

/-- R137, R141, R142, R174: the scratchpad accesses, the coordinate accesses and the release and acquire accesses. -/
def Obligations.ScratchpadAndCoordinateAccesses : Prop :=
  let at' (o : M) (c : Ctx) (i : Nat) : Nat := wrapTo 32 ((c.lane o.base.toNat i).toNat + toSigned 13 o.imm.toNat)
  let near (o : M) (c : Ctx) (write : Bool) (s : State) (i : Nat) : Except AFault (State × Acc) :=
    if bitAt o.imm.toNat 12 = true then
      c.scratch (c.ty.width / 8) s i (wrapTo 32 ((c.lane o.base.toNat i).toNat + toSigned 12 (o.imm.toNat % 4096)))
    else c.linear write true true (c.ty.width / 8) s i (wrapTo 64 (c.val true o.base.toNat i + toSigned 12 (o.imm.toNat % 4096)))
  let base (o : M) : Use := vsrc o.base 0 o.lb (if bitAt o.imm.toNat 12 = true then 1 else 2)
  let coord (o : MC) (c : Ctx) (r : Region) (i : Nat) : List Int :=
    (List.range r.desc.rank).map fun q =>
      toSigned 32 (c.lane (o.c.toNat + q) i).toNat + (if q + 1 = r.desc.rank then toSigned 8 o.imm.toNat else 0)
  let n (c : Ctx) : Nat := pairs c.ty.pair
  let strong (write : Bool) : MemKind := { write := write, strong := true, ends := true }
  (∀ o : M, AccessesTo (fun c => regsFrom o.d.toNat (n c)) (.lds o) 0x86 (fun c => [vdst o.d (n c), vsrc o.base 0 o.lb 1])
    (fun c => c.ty.isDsb = false)
    { write := false, migrates := true } active (fun c i => c.scratchTarget (at' o c i)) (fun c s i => c.scratch (c.ty.width / 8) s i (at' o c i))
    fun c => c.loadTo o.d.toNat (n c) fun bs => c.ty.extend (leNat bs)) ∧
  (∀ o : M, Accesses (.sts o) 0x87 (fun c => [vsrc o.d 0 false (n c), vsrc o.base 0 o.lb 1]) (fun c => c.ty.isDsb = false)
    { write := true, migrates := true } active (fun c i => c.scratchTarget (at' o c i)) (fun c s i => c.scratch (c.ty.width / 8) s i (at' o c i))
    fun c => c.storeNowFrom fun i => c.val c.ty.pair o.d.toNat i) ∧
  (∀ (o : MC) (r : Region), dsbWidth r.desc.etype = 0 →
    AccessesTo (fun _ => regsFrom o.d.toNat (elemRegs r.desc.etype)) (.ldc o) 0x8C
      (fun c => [vdst o.d (elemRegs (c.etypeOf o.h)), ssrc o.h 1, c.coordUse o])
      (fun c => c.st.region? c.fn (c.s o.h.toNat).toNat = some r) { write := false, migrates := true } active (fun c i => r.target (coord o c r i))
      (fun c s i => c.element r s i (coord o c r i))
      fun c s as =>
        let s1 := s.observe c.w (regionKey r.fn r.index) (as.map fun a => coord o c r a.lane)
        (s1, laneWrites o.d.toNat (elemRegs r.desc.etype) (s1.loads c.w.uid as fun bs => (Ty.ofCode r.desc.etype).extend (leNat bs)), 0)) ∧
  (∀ (o : MC) (r : Region), dsbWidth r.desc.etype ≠ 0 →
    AccessesTo (fun _ => regsFrom o.d.toNat (elemRegs r.desc.etype)) (.ldc o) 0x8C
      (fun c => [vdst o.d (elemRegs (c.etypeOf o.h)), ssrc o.h 1, c.coordUse o])
      (fun c => c.st.region? c.fn (c.s o.h.toNat).toNat = some r) { write := false, migrates := true } active (fun c i => r.target (coord o c r i))
      (fun c s i => c.element r s i (coord o c r i))
      fun c s as =>
        let s1 := s.observe c.w (regionKey r.fn r.index) (as.map fun a => coord o c r a.lane)
        let v := s1.overlay c.w.uid
        let x (a : Acc) : Res := dsbElement r.desc c.ftz (v.readLocs a.locs) (((coord o c r a.lane).getLastD 0).toNat % r.desc.blockLen)
        (s1, laneWrites o.d.toNat 1 (as.map fun a => (a.lane, (x a).1, v.poisoned a.locs)), as.foldl (fun f a => f ||| (x a).2) 0)) ∧
  (∀ (o : MC) (r : Region), dsbWidth r.desc.etype = 0 →
    Accesses (.stc o) 0x8D (fun c => [vsrc o.d 0 false (elemRegs (c.etypeOf o.h)), ssrc o.h 1, c.coordUse o])
      (fun c => c.st.region? c.fn (c.s o.h.toNat).toNat = some r) { write := true, migrates := true } active (fun c i => r.target (coord o c r i))
      (fun c s i => c.element r s i (coord o c r i))
      fun c s as => c.storeFrom (fun i => c.val (elemRegs r.desc.etype == 2) o.d.toNat i)
        (s.observe c.w (regionKey r.fn r.index) (as.map fun a => coord o c r a.lane)) as) ∧
  (∀ o : M, Accesses (.strel o) 0xBB (fun c => [vsrc o.d 0 false (n c), base o]) (fun c => c.ty.wide = true ∧ c.strelBar o = none) (strong true)
    active stays (fun c => near o c true)
    fun c s => c.storeNowFrom (fun i => c.val c.ty.pair o.d.toNat i) (s.completeOps c.w.uid (·.memory))) ∧
  ∀ o : M, Accesses (.ldacq o) 0xBC (fun c => [vdst o.d (n c), base o]) (fun c => c.ty.wide = true) (strong false) active stays
    (fun c => near o c false)
    fun c => c.loadTo o.d.toNat (n c) leNat

/-- R129, R143 to R149: the atomics read, combine and write lane by lane in ascending order; ATOM and CAS return old values,
ATOMRF and ATOMCRF do not, ATOMX adds to an fx128; a coordinate atomic without an active lane still ends the SFR (R176). R150
to R152: LR loads and leaves each lane a reservation on its granule, and holds the fairness timer for the 16 instructions
after it; SC stores in the lanes whose reservation stands and writes the statuses. -/
def Obligations.AtomicsAndReservations : Prop :=
  (
    let n (c : Ctx) : Nat := pairs c.ty.pair
    let addr (o : MA) (c : Ctx) (i : Nat) : Nat := c.val true o.a.toNat i
    let kind (m : Bool) : MemKind := { write := true, strong := true, migrates := m, ends := true }
    let uses (o : MA) (n : Nat) : List Use := [vsrc o.a 0 o.la 2, vsrc o.o 0 o.lo n]
    let atom (i : MA → Instr) (opc : Nat) (a : AtomOp) : Prop :=
      ∀ o : MA, AccessesTo (fun c => regsFrom o.d.toNat (pairs (c.ty.width / 8 == 8))) (i o) opc (fun c => vdst o.d (n c) :: uses o (n c))
        (fun c => a.accepts c.ty = true) (kind true) active
        (fun c j => c.st.linearTarget c.fn (addr o c j)) (fun c s j => c.linear true true true (c.ty.width / 8) s j (addr o c j))
        fun c s as =>
          let r := c.rmw (fun j old => some (a.apply c.ty old (c.val c.ty.pair o.o.toNat j))) as s
          (r.1, laneWrites o.d.toNat (pairs (c.ty.width / 8 == 8)) r.2, 0)
    let atomrf (i : MA → Instr) (opc : Nat) (a : AtomOp) : Prop :=
      ∀ o : MA, Accesses (i o) opc (fun c => uses o (n c)) (fun c => a.accepts c.ty = true) (kind true) active
        (fun c j => c.st.linearTarget c.fn (addr o c j)) (fun c s j => c.linear true true true (c.ty.width / 8) s j (addr o c j))
        fun c s as => ((c.rmw (fun j old => some (a.apply c.ty old (c.val c.ty.pair o.o.toNat j))) as s).1, [], 0)
    let coord (o : MC) (c : Ctx) (r : Region) (i : Nat) : List Int :=
      (List.range r.desc.rank).map fun q =>
        toSigned 32 (c.lane (o.c.toNat + q) i).toNat + (if q + 1 = r.desc.rank then toSigned 5 (o.imm.toNat % 32) else 0)
    let atomc (i : MC → Instr) (opc : Nat) (d : MC → Ctx → Use) (legal : MC → Prop) (op : MC → AtomOp) (returns : Bool) : Prop :=
      (∀ o : MC, legal o → Retires (i o) opc (fun c => [d o c, ssrc o.h 1, c.coordUse o]) (fun c => c.act = 0) (fun c => c.st.endSfr c.w.uid)
        (fun _ => []) fun _ => 0) ∧
      ∀ (o : MC) (r : Region), legal o → dsbWidth r.desc.etype = 0 → (op o).suits r.desc.etype = true →
        AccessesTo (fun _ => if returns = true then regsFrom o.d.toNat (elemRegs r.desc.etype) else []) (i o) opc
          (fun c => [d o c, ssrc o.h 1, c.coordUse o])
          (fun c => c.act ≠ 0 ∧ c.st.region? c.fn (c.s o.h.toNat).toNat = some r) (kind true) active (fun c j => r.target (coord o c r j))
          (fun c s j => c.element r s j (coord o c r j))
          fun c s as =>
            let z := c.rmw (fun j old => some ((op o).apply (Ty.ofCode r.desc.etype) old (c.val (elemRegs r.desc.etype == 2) o.d.toNat j))) as
              (s.observe c.w (regionKey r.fn r.index) (as.map fun x => coord o c r x.lane))
            (z.1, (if returns = true then laneWrites o.d.toNat (elemRegs r.desc.etype) z.2 else []), 0)
    atom .atomAdd 0x8E .add ∧ atom .atomMin 0x8F .min ∧ atom .atomMax 0x90 .max ∧ atom .atomAnd 0x91 .and ∧ atom .atomOr 0x92 .or ∧
    atom .atomXor 0x93 .xor ∧ atom .atomExch 0x94 .exch ∧ atom .atomFadd 0x95 .fadd ∧
    (∀ o : MA, AccessesTo (fun c => regsFrom o.d.toNat (pairs (c.ty.width / 8 == 8))) (.cas o) 0x96
      (fun c => vacc o.d (n c) :: uses o (n c)) (fun c => c.ty.wide = true) (kind true) active
      (fun c j => c.st.linearTarget c.fn (addr o c j)) (fun c s j => c.linear true true true (c.ty.width / 8) s j (addr o c j))
      fun c s as =>
        let r := c.rmw (fun j old => if old = c.val c.ty.pair o.d.toNat j then some (c.val c.ty.pair o.o.toNat j) else none) as s
        (r.1, laneWrites o.d.toNat (pairs (c.ty.width / 8 == 8)) r.2, 0)) ∧
    atomrf .atomrfAdd 0x97 .add ∧ atomrf .atomrfFadd 0x98 .fadd ∧ atomrf .atomrfMax 0x99 .max ∧ atomrf .atomrfMin 0x9A .min ∧
    (∀ o : MA, Accesses (.atomx o) 0x9B (fun _ => uses o 1) (fun c => c.ty = .f32) (kind false) active stays
      (fun c s j => c.linear true true true 16 s j (addr o c j)) fun c s as => (c.fxAtomics (fun j => c.val false o.o.toNat j) as s, [], 0)) ∧
    atomc .atomc 0x9C (fun o c => vacc o.d (elemRegs (c.etypeOf o.h))) (fun _ => True) (fun o => AtomOp.ofCode (o.imm.toNat / 32)) true ∧
    atomc .atomcrf 0x9D (fun o c => vsrc o.d 0 false (elemRegs (c.etypeOf o.h))) (fun o => o.imm.toNat / 32 < 4)
      (fun o => rfCode (o.imm.toNat / 32)) false ∧
    ∀ o : MA, AccessesTo (fun _ => regsFrom o.d.toNat 1) (.atoms o) 0x9E (fun _ => [vdst o.d 1, vsrc o.a 0 o.la 1, vsrc o.o 0 o.lo 1])
      (fun c => c.ty.width = 32 ∧ (AtomOp.ofCode (bitsAt o.z.toNat 6 4)).accepts c.ty = true) (kind true) active
      (fun c j => c.scratchTarget (c.lane o.a.toNat j).toNat) (fun c s j => c.scratch 4 s j (c.lane o.a.toNat j).toNat)
      fun c s as =>
        let r := c.rmw (fun j old => some ((AtomOp.ofCode (bitsAt o.z.toNat 6 4)).apply c.ty old (c.val false o.o.toNat j))) as s
        (r.1, laneWrites o.d.toNat 1 r.2, 0)) ∧
  (
    let n (c : Ctx) : Nat := pairs c.ty.pair
    let addr (o : MA) (c : Ctx) (i : Nat) : Nat := c.val true o.a.toNat i
    (∀ o : MA, Accesses (.lr o) 0x9F (fun c => [vdst o.d (n c), vsrc o.a 0 o.la 2]) (fun c => c.ty.wide = true)
      { write := false, strong := true, ends := true } active stays
      (fun c s j => c.linear false true true (c.ty.width / 8) s j (addr o c j))
      fun c s as =>
        let keep (w : Warp) (a : Acc) : Warp := match a.locs with
          | [] => w
          | l :: _ => { w with resv := w.resv.filter (fun r => r.lane != a.lane) ++ [{ lane := a.lane, granule := l.align 32 }] }
        let s1 := s.modWarp c.w.uid fun w => as.foldl keep w
        (s1.holdTimer c.w.uid c.k 17, laneWrites o.d.toNat (n c) (s1.loads c.w.uid as leNat), 0)) ∧
    (∀ o : MA, Accesses (.sc o) 0xA0 (fun c => vdst o.d 1 :: [vsrc o.a 0 o.la 2, vsrc o.o 0 o.lo (n c)]) (fun c => c.ty.wide = true)
      { write := true, strong := true, ends := true } active stays
      (fun c s j => c.linear true true true (c.ty.width / 8) s j (addr o c j))
      fun c s as =>
        let r := c.condStores (fun j => c.val c.ty.pair o.o.toNat j) as s
        (r.1.holdTimer c.w.uid c.k 0, laneWrites o.d.toNat 1 r.2, 0)) ∧
    ∀ (c : Ctx) (x : Nat → Nat) (a : Acc) (s : State) (w : Warp), s.warp? c.w.uid = some w →
      (w.reserved a.lane a.locs = false → (c.condStores x [a] s).2 = [(a.lane, 1, false)] ∧ ∀ l, (c.condStores x [a] s).1.readByte l = s.readByte l) ∧
      (w.reserved a.lane a.locs = true → (c.condStores x [a] s).2 = [(a.lane, 0, false)] ∧
        ∀ l, (c.condStores x [a] s).1.readByte l = (s.land (List.zip a.locs (leBytes a.locs.length (x a.lane))) c.w.writer).readByte l) ∧
      ∀ y, (c.condStores x [a] s).1.warp? c.w.uid = some y → ∀ r ∈ y.resv, r.lane ≠ a.lane)

/-- R129, R151, R252, R257: what a performed write to device or host memory does: every byte that it does not name reads as
before, the last byte written to a place is read there, and it ends exactly the reservations on the 32-byte granules that it
touches. R128, R3: numbers lie in memory least significant byte first: a number written at a device-physical address reads
back modulo its width, and byte k of it lies k bytes above. -/
def Obligations.PerformedWrites : Prop :=
  (
    ∀ (s : State) (ws : List (Loc × Byte)), (∀ p ∈ ws, ∃ a, p.1 = .dev a ∨ p.1 = .host a) → s.mem.wf = true → s.hostMem.wf = true →
      (∀ l, l ∉ ws.map (·.1) → (s.perform ws).readByte l = s.readByte l) ∧
      (∀ l b, (ws.reverse.find? (·.1 == l)).map (·.2) = some b → (s.perform ws).readByte l = b) ∧
      (s.perform ws).mem.wf = true ∧ (s.perform ws).hostMem.wf = true ∧
      ∀ (u : Nat) (w : Warp), s.warp? u = some w → ∃ x, (s.perform ws).warp? u = some x ∧
        ∀ r, r ∈ x.resv ↔ r ∈ w.resv ∧ ∀ p ∈ ws, p.1.align 32 ≠ r.granule) ∧
  (
    ∀ (s : State) (a n x : Nat), s.mem.wf = true →
      (s.writeNum (.dev a) n x).readNum (.dev a) n = x % 2 ^ (8 * n) ∧
      ∀ k, k < n → (s.writeNum (.dev a) n x).readByte (.dev (a + k)) = BitVec.ofNat 8 (x / 2 ^ (8 * k)))

/-- R143, R144: lanes that add at one word of device memory from whose writes no other byte follows add up modulo 2^32, and
each receives the sum of those before it. -/
def Obligations.AtomicSums : Prop :=
  ∀ (c : Ctx) (s : State) (a : Nat) (x : Nat → Nat) (lanes : List Nat), s.mem.wf = true → s.unwatched →
    let as := lanes.map fun l => ({ lane := l, va := a, locs := (Loc.dev a).span 4 } : Acc)
    let r := c.rmw (fun l old => some (AtomOp.add.apply .n32 old (x l))) as s
    r.1.readNum (.dev a) 4 = (s.readNum (.dev a) 4 + (lanes.map x).sum) % 2 ^ 32 ∧
    (r.2.map fun y => (y.1, y.2.1)) =
      lanes.mapIdx fun k l => (l, (s.readNum (.dev a) 4 + ((lanes.take k).map x).sum) % 2 ^ 32)

/-- R127, R130, R143 to R147, R149 to R151: an atomic over linear addresses, a return-free one, a 16-byte sum, a scratchpad
atomic or a reservation access whose first active lane is misaligned takes the alignment trap, with the lane and the size in
TRAPINFO, and changes no memory: the state is that of the trap alone. The three bits of the size field are the model's
reading, as is that a scratchpad address is first checked for its range (log 26). -/
def Obligations.AlignmentTraps : Prop :=
  let traps (i : Instr) (opc : Nat) (uses : Ctx → List Use) (ok : Ctx → Prop) (size : Ctx → Nat) (there : Ctx → Nat → Prop)
      (addr : Ctx → Nat → Nat) : Prop :=
    ∀ s c l ls, s.ctx? = some c → Admitted c opc (uses c) → ok c → modeMig c.m = 0 → lanesOf c.act = l :: ls → there c (addr c l) →
      addr c l % size c ≠ 0 → exec i s = .next (c.trap 0xA (Machine.word (l + 32 * (Nat.log2 (size c) % 8))))
  let bytes (c : Ctx) : Nat := c.ty.width / 8
  let linear (_ : Ctx) (a : Nat) : Prop := a / 2 ^ 56 ≠ 0xFD
  let addr (o : MA) (c : Ctx) (i : Nat) : Nat := c.val true o.a.toNat i
  let atom (i : MA → Instr) (opc : Nat) (a : AtomOp) : Prop := ∀ o,
    traps (i o) opc (fun c => vdst o.d (pairs c.ty.pair) :: atomUses o (pairs c.ty.pair)) (fun c => a.accepts c.ty = true) bytes linear (addr o)
  let free (i : MA → Instr) (opc : Nat) (a : AtomOp) : Prop := ∀ o,
    traps (i o) opc (fun c => atomUses o (pairs c.ty.pair)) (fun c => a.accepts c.ty = true) bytes linear (addr o)
  let held (c : Ctx) (a : Nat) : Prop :=
    c.native = true ∧ a < 2 ^ 16 ∧ a < c.w.ldsSize ∨ c.native = false ∧ ∃ b p, c.block? = some b ∧ c.st.scrPlace b a = .ok p
  atom .atomAdd 0x8E .add ∧ atom .atomMin 0x8F .min ∧ atom .atomMax 0x90 .max ∧ atom .atomAnd 0x91 .and ∧ atom .atomOr 0x92 .or ∧
  atom .atomXor 0x93 .xor ∧ atom .atomExch 0x94 .exch ∧ atom .atomFadd 0x95 .fadd ∧
  free .atomrfAdd 0x97 .add ∧ free .atomrfFadd 0x98 .fadd ∧ free .atomrfMax 0x99 .max ∧ free .atomrfMin 0x9A .min ∧
  (∀ o : MA, traps (.atomx o) 0x9B (fun _ => atomUses o 1) (fun c => c.ty = .f32) (fun _ => 16) linear (addr o)) ∧
  (∀ o : MA, traps (.atoms o) 0x9E (fun _ => [vdst o.d 1, vsrc o.a 0 o.la 1, vsrc o.o 0 o.lo 1])
    (fun c => c.ty.width = 32 ∧ (atomsOp o).accepts c.ty = true) (fun _ => 4) held fun c i => (c.lane o.a.toNat i).toNat) ∧
  (∀ o : MA, traps (.cas o) 0x96 (fun c => vacc o.d (pairs c.ty.pair) :: atomUses o (pairs c.ty.pair)) (fun c => c.ty.wide = true) bytes linear
    (addr o)) ∧
  (∀ o : MA, traps (.lr o) 0x9F (fun c => [vdst o.d (pairs c.ty.pair), vsrc o.a 0 o.la 2]) (fun c => c.ty.wide = true) bytes linear (addr o)) ∧
  ∀ o : MA, traps (.sc o) 0xA0 (fun c => vdst o.d 1 :: atomUses o (pairs c.ty.pair)) (fun c => c.ty.wide = true) bytes linear (addr o)

/-! ### Orders, probes, fences, barriers, waits, quota -/

/-- R142, R153 to R157: RDORD reads the four words of the slab's order entry; PINORD and ADVORD act on the slab of the
coordinate, or on every slab of the region; advice of weight 0 is not checked. R142, R155 to R157: an order-table instruction
that names no live region takes the region-access fault with reason 1, one whose coordinate lies outside the first dimension
reason 2 where it has to name a slab, and a pin of a code that is not valid, or advice of one with a weight, reason 5. -/
def Obligations.OrderTable : Prop :=
  (
    let named (o : X) (r : Region) (c : Ctx) : Prop := c.st.region? c.fn (c.s o.y.toNat).toNat = some r
    let inside (o : X) (r : Region) (c : Ctx) : Prop :=
      0 ≤ toSigned 32 (c.s o.z.toNat).toNat ∧ toSigned 32 (c.s o.z.toNat).toNat < (r.desc.shape.headD 1 : Int)
    let slab (o : X) (r : Region) (c : Ctx) : Nat := (toSigned 32 (c.s o.z.toNat).toNat).toNat / r.desc.slabRows
    let slabs (o : X) (r : Region) (c : Ctx) : List Nat := if o.imm.getLsbD 0 = true then List.range r.slabs.length else [slab o r c]
    let uses (o : X) (_ : Ctx) : List Use := [ssrc o.x 1, ssrc o.y 1, ssrc o.z 1]
    (∀ (o : X) (r : Region), Retires (.rdord o) 0xA1 (fun _ => [sdst o.x 4, ssrc o.y 1, ssrc o.z 1]) (fun c => named o r c ∧ inside o r c)
      (fun c => c.st)
      (fun c =>
        let e := ((r.slabs[slab o r c]?).map Slab.entry).getD [0, 0, 0, 0]
        swrite o.x.toNat (e.getD 0 0) ++ swrite (o.x.toNat + 1) (e.getD 1 0) ++ swrite (o.x.toNat + 2) (e.getD 2 0) ++
          swrite (o.x.toNat + 3) (e.getD 3 0))
      fun _ => 0) ∧
    (∀ (o : X) (r : Region), Retires (.pinord o) 0xA2 (uses o)
      (fun c => named o r c ∧ (o.imm.getLsbD 0 = true ∨ inside o r c) ∧
        (c.s o.x.toNat = 0xFFFF ∨ (c.s o.x.toNat).toNat < 65536 ∧ codeValid r.desc.rank r.desc.blockLen (c.s o.x.toNat).toNat = true))
      (fun c => (slabs o r c).foldl (fun s k => s.pinSlab (regionKey r.fn r.index) k ((c.s o.x.toNat).setWidth 16)) c.st) (fun _ => []) fun _ => 0) ∧
    ∀ (o : X) (r : Region), Retires (.advord o) 0xA3 (uses o)
      (fun c => named o r c ∧ (o.imm.getLsbD 0 = true ∨ inside o r c) ∧
        (bitsAt o.imm.toNat 4 1 = 0 ∨ (c.s o.x.toNat).toNat < 65536 ∧ codeValid r.desc.rank r.desc.blockLen (c.s o.x.toNat).toNat = true))
      (fun c => (slabs o r c).foldl (fun s k => s.adviseSlab (regionKey r.fn r.index) k ((c.s o.x.toNat).setWidth 16) (bitsAt o.imm.toNat 4 1)) c.st)
      (fun _ => []) fun _ => 0) ∧
  (
    ∀ (o : X) s c, s.ctx? = some c →
      (Admitted c 0xA1 [sdst o.x 4, ssrc o.y 1, ssrc o.z 1] →
        (c.st.region? c.fn (c.s o.y.toNat).toNat = none → exec (.rdord o) s = .next (c.trap 0xC 32)) ∧
        ∀ r, c.st.region? c.fn (c.s o.y.toNat).toNat = some r →
          (toSigned 32 (c.s o.z.toNat).toNat < 0 ∨ (r.desc.shape.headD 1 : Int) ≤ toSigned 32 (c.s o.z.toNat).toNat) →
          exec (.rdord o) s = .next (c.trap 0xC 64)) ∧
      ∀ i opc, (i = Instr.pinord o ∧ opc = 0xA2 ∨ i = Instr.advord o ∧ opc = 0xA3) → Admitted c opc [ssrc o.x 1, ssrc o.y 1, ssrc o.z 1] →
        (c.st.region? c.fn (c.s o.y.toNat).toNat = none → exec i s = .next (c.trap 0xC 32)) ∧
        ∀ r, c.st.region? c.fn (c.s o.y.toNat).toNat = some r →
          let outside : Prop := toSigned 32 (c.s o.z.toNat).toNat < 0 ∨ (r.desc.shape.headD 1 : Int) ≤ toSigned 32 (c.s o.z.toNat).toNat
          let named : Prop := o.imm.getLsbD 0 = true ∨ ¬ outside
          let invalid : Prop := 65536 ≤ (c.s o.x.toNat).toNat ∨ codeValid r.desc.rank r.desc.blockLen (c.s o.x.toNat).toNat = false
          (o.imm.getLsbD 0 = false → outside → exec i s = .next (c.trap 0xC 64)) ∧
          (opc = 0xA2 → named → c.s o.x.toNat ≠ 0xFFFF → invalid → exec i s = .next (c.trap 0xC 160)) ∧
          (opc = 0xA3 → named → bitsAt o.imm.toNat 4 1 ≠ 0 → invalid → exec i s = .next (c.trap 0xC 160)))

/-- R158 to R161, R176: PREF changes no value; PROBE describes each lane's address (page size and stack of a peer's page are
free values of log 8); a fence completes the warp's outstanding memory operations (a return-free fence only ends the SFR: log
3) and ends its synchronisation-free region. R45, R162 to R166: the barriers release what came before and wait at their
object (GBAR's stands for 16); BARW goes on at once where PHASE has moved on, and otherwise waits for it. -/
def Obligations.FencesAndBarriers : Prop :=
  (
    let scope (o : X) (_ : Ctx) : Prop := o.imm.toNat % 8 < 5
    let fence (i : X → Instr) (opc : Nat) : Prop := ∀ o, Retires (i o) opc (fun _ => []) (scope o)
      (fun c => (c.st.completeOps c.w.uid (·.memory)).endSfr c.w.uid) (fun _ => []) fun _ => 0
    (∀ o : M, Retires (.pref o) 0xA4 (fun _ => [vsrc o.base 0 o.lb 2]) (fun _ => o.d.toNat < 2) (fun c => c.st) (fun _ => []) fun _ => 0) ∧
    (∀ o : X, Retires (.probe o) 0xA5 (fun _ => [vdst o.x 1, vsrc o.y 0 false 2]) always (fun c => { c.st with free := c.st.free + 32 })
      (fun c => vwrite o.x.toNat false c.act fun i => c.st.probe c.fn (c.val true o.y.toNat i) (c.st.free + i)) fun _ => 0) ∧
    fence .fenceAcq 0xA8 ∧ fence .fenceRel 0xA9 ∧ fence .fenceAr 0xAA ∧
    ∀ o : X, Retires (.fenceRf o) 0xAB (fun _ => []) (scope o) (fun c => c.st.endSfr c.w.uid) (fun _ => []) fun _ => 0) ∧
  (
    let fenced (c : Ctx) : State := (c.st.completeOps c.w.uid (·.memory)).endSfr c.w.uid
    let phase (c : Ctx) (obj : Nat) : Nat := (c.block?.map fun b => (b.barrier obj).2).getD 0
    let fresh (c : Ctx) (obj : Nat) : Prop := (c.block?.map fun b => bitAt (b.barrier obj).1 c.w.idx).getD false = false
    (∀ o : X, Blocks (.bar o) 0xAC (fun _ => []) (fun c => c.dense = false ∧ o.imm.toNat % 16 < 12 ∧ fresh c (o.imm.toNat % 16)) fenced
      fun _ => .wait (.arrive (o.imm.toNat % 16) none)) ∧
    (∀ o : X, Blocks (.bara o) 0xAD (fun _ => [sdst o.x 1]) (fun c => c.dense = false ∧ o.imm.toNat % 16 < 12 ∧ fresh c (o.imm.toNat % 16)) fenced
      fun _ => .wait (.arrive (o.imm.toNat % 16) (some o.x.toNat))) ∧
    (∀ o : X, Retires (.barw o) 0xAE (fun _ => [ssrc o.y 1])
      (fun c => c.dense = false ∧ o.imm.toNat % 16 < 12 ∧ phase c (o.imm.toNat % 16) ≠ (c.s o.y.toNat).toNat % 16) fenced (fun _ => []) fun _ => 0) ∧
    (∀ o : X, Blocks (.barw o) 0xAE (fun _ => [ssrc o.y 1])
      (fun c => c.dense = false ∧ o.imm.toNat % 16 < 12 ∧ phase c (o.imm.toNat % 16) = (c.s o.y.toNat).toNat % 16) fenced
      fun c => .wait (.barw (o.imm.toNat % 16) ((c.s o.y.toNat).toNat % 16))) ∧
    (∀ o : X, Blocks (.clbar o) 0xAF (fun _ => []) (fun c => c.dense = false) fenced fun _ => .wait (.arrive (12 + o.imm.toNat % 4) none)) ∧
    Blocks .gbar 0xB0 (fun _ => []) (fun c => c.dense = false ∧ (c.launch?.map (·.cores)).getD false = true) fenced fun _ => .wait (.arrive 16 none))

/-- R163: the last arrival completes the episode: the object's ARRIVED is zero and its PHASE one more modulo 16, and every
split of the block that waits there goes on past its barrier; before that an arrival only sets its bit. A warp that awaits
the replay of a page fault counts as not arrived (R244). Agents have different uids, and no region is open in a warp that
waits, whose buffered stores would be performed here (R161). -/
def Obligations.BarrierEpisodes : Prop :=
  ∀ (s : State) (b : Block) (obj : Nat), s.blocks = [b] → obj < 12 → b.scratch.wf = true → (s.warps.map (·.uid)).Nodup →
    (∀ w ∈ s.warps, (∃ sp ∈ w.splits, sp.status = .barrier obj) → w.region = none) →
    ((∃ w ∈ s.warps, b.warps.contains w.uid = true ∧ w.gone = false ∧ w.replay.isSome = true) → s.covered b obj = false) ∧
    (s.covered b obj = true → (b.barrier obj).1 ≠ 0 →
      let t := s.barrierStep b.uid obj
      (∃ b', t.blocks = [b'] ∧ b'.barrier obj = (0, ((b.barrier obj).2 + 1) % 16) ∧ ∀ k, k ≠ obj → k < 16 → b'.barrier k = b.barrier k) ∧
      ∀ w ∈ t.warps, b.warps.contains w.uid = true → ∀ sp ∈ w.splits, sp.status ≠ .barrier obj) ∧
    (s.covered b obj = false ∨ (b.barrier obj).1 = 0 → s.barrierStep b.uid obj = s) ∧
    ∀ (i : Nat) (arrived phase : Nat), i < 16 → arrived < 2 ^ 32 → (b.setBarrier i arrived phase).barrier i = (arrived, phase % 16)

/-- R167 to R170, R189, R286: the waits. A wait whose condition holds goes on with an acquire; one whose condition does not
hold blocks its split; a timeline wait reports the first failure that its threshold covers. -/
def Obligations.Waits : Prop :=
  let fenced (c : Ctx) : State := (c.st.completeOps c.w.uid (·.memory)).endSfr c.w.uid
  let lane (c : Ctx) : List Nat := [if c.guest = true then lowLane c.sp.lanes else 0]
  let kind : MemKind := { write := false, strong := true, ends := true }
  let own : MemKind := { write := false, ends := true }
  let uses (o : X) : List Use := [ssrc o.x 2, ssrc o.y 2]
  let word (i : X → Instr) (opc : Nat) (holds : Nat → Nat → Prop) (cond : Dword → Dword → Cond) : Prop :=
    ∀ (o : X) s c s1 a, s.ctx? = some c → Admitted c opc (uses o) → o.imm.toNat % 8 < 5 →
      Unhindered c kind (lane c) (stays c) (fun s i => c.linear false true false 8 s i (c.s2 o.x.toNat)) s1 [a] →
      let t := (c.entered kind s1 [a]).completeOps c.w.uid (·.memory)
      let v := leNat ((c.entered kind s1 [a]).readLocs a.locs) % 2 ^ 64
      (holds v (c.s2 o.y.toNat) → exec (i o) s = .next (c.retire opc (uses o) t [] 0)) ∧
      (¬holds v (c.s2 o.y.toNat) → exec (i o) s = .next ((t.modWarp c.w.uid fun w =>
        w.setSplit c.k { ((w.splits[c.k]?).getD Split.free) with status := .wait (cond (dword (c.s2 o.x.toNat)) (dword (c.s2 o.y.toNat))) }).after c.w.uid))
  let line (i : X → Instr) (opc : Nat) (u : X → List Use) (pre : X → Ctx → Prop) (code : X → Nat) (cond : X → Nat → Cond) : Prop :=
    (∀ (o : X) (l : Line), Retires (i o) opc (fun _ => u o)
      (fun c => pre o c ∧ c.st.line c.w (code o) = some l ∧ c.s2 o.y.toNat ≤ l.done ∧ ∀ f ∈ l.failed, c.s2 o.y.toNat < f.num) fenced
        (fun _ => []) fun _ => 0) ∧
    (∀ (o : X) (l : Line), Blocks (i o) opc (fun _ => u o)
      (fun c => pre o c ∧ c.st.line c.w (code o) = some l ∧ l.done < c.s2 o.y.toNat) fenced fun c => .wait (cond o (c.s2 o.y.toNat))) ∧
    ∀ (o : X) (l : Line) (f : Failure), Completes (i o) opc (fun _ => u o)
      (fun c => pre o c ∧ c.st.line c.w (code o) = some l ∧ c.s2 o.y.toNat ≤ l.done ∧ l.failed.find? (fun f => f.num ≤ c.s2 o.y.toNat) = some f)
      fun c => ((fenced c).reported c.w (code o) f.num).takeTrap c.w.uid c.k f.cause f.info c.sp.pc c.sp.slot
  let clock (o : X) (c : Ctx) : Prop := c.native = false ∧ (o.imm.toNat % 4 = 1 → (c.st.ctxNum c.w).isSome = true)
  word .waitge 0xB1 (fun v y => y ≤ v) .memGe ∧ word .waitne 0xB2 (fun v y => v ≠ y) .memNe ∧
  line .tlwait 0xB3 (fun o => [ssrc o.y 2]) clock (fun o => o.imm.toNat % 4) (fun o y => .timeline (o.imm.toNat % 4) (dword y)) ∧
  line .waitb 0xC5 (fun o => [ssrc o.y 2]) (fun _ c => c.dense = false ∧ c.mat?.isSome = true) (fun _ => 1) (fun _ y => .batch (dword y)) ∧
  (∀ (o : X) (l : Line), Retires (.tlread o) 0xB4 (fun _ => [sdst o.x 2]) (fun c => clock o c ∧ c.st.line c.w (o.imm.toNat % 4) = some l)
    (fun c => c.st)
    (fun _ => swrite2 o.x.toNat (if o.imm.getLsbD 2 = true then l.issued else l.done)) fun _ => 0) ∧
  (∀ (o : X) s c s1 a, s.ctx? = some c → Admitted c 0xB6 [ssrc o.x 1, ssrc o.y 2] →
    Unhindered c own (lane c) (stays c) (fun s i => c.scratch 8 s i (c.s o.x.toNat).toNat) s1 [a] →
    let t := (c.entered own s1 [a]).completeOps c.w.uid (·.memory)
    ∀ t1 b, c.scratch 8 t c.uniLane (c.s o.x.toNat).toNat = .ok (t1, b) →
      (c.s2 o.y.toNat ≤ leNat (t.readLocs b.locs) → exec (.ctrwait o) s = .next (c.retire 0xB6 [ssrc o.x 1, ssrc o.y 2] t [] 0)) ∧
      (leNat (t.readLocs b.locs) < c.s2 o.y.toNat → exec (.ctrwait o) s = .next ((t.modWarp c.w.uid fun w =>
        w.setSplit c.k { ((w.splits[c.k]?).getD Split.free) with
          status := .wait (.counter (c.s o.x.toNat).toNat (dword (c.s2 o.y.toNat))) }).after c.w.uid))) ∧
  (let ok (o : X) (b : Block) (c : Ctx) : Prop :=
     c.block? = some b ∧ (∃ x, c.scratch 8 c.st c.uniLane (c.s o.x.toNat).toNat = .ok x) ∧
     ((c.s o.z.toNat).toNat = 0 ∨ c.st.rangeBad b (c.s o.y.toNat).toNat (c.s o.z.toNat).toNat = none) ∧
     counterRefused (b.counters.filter fun x => x.off != (c.s o.x.toNat).toNat) (c.s o.x.toNat).toNat (c.s o.y.toNat).toNat
       (c.s o.z.toNat).toNat = false
   let arm (o : X) (b : Block) (c : Ctx) (t : State) : State :=
     t.modBlock b.uid fun x => { x with counters := (b.counters.filter fun x => x.off != (c.s o.x.toNat).toNat) ++
       if (c.s o.z.toNat).toNat = 0 then [] else [{ off := (c.s o.x.toNat).toNat, start := (c.s o.y.toNat).toNat, len := (c.s o.z.toNat).toNat }] }
   (∀ (o : X) (b : Block), Retires (.ctrarm o) 0xB5 (fun _ => [ssrc o.x 1, ssrc o.y 1, ssrc o.z 1])
     (fun c => ok o b c ∧ o.imm.getLsbD 0 = false) (fun c => arm o b c (fenced c)) (fun _ => []) fun _ => 0) ∧
   ∀ (o : X) (b : Block), Accesses (.ctrarm o) 0xB5 (fun _ => [ssrc o.x 1, ssrc o.y 1, ssrc o.z 1]) (fun c => ok o b c ∧ o.imm.getLsbD 0 = true)
     { write := true, ends := true } (fun c => [c.uniLane]) stays (fun c s i => c.scratch 8 s i (c.s o.x.toNat).toNat) fun c s as =>
       ((arm o b c (s.completeOps c.w.uid (·.memory))).land (List.zip (as.flatMap (·.locs)) (leBytes 8 0)) c.w.writer, [], 0))

/-- R18, R19, R171 to R173, R175: REGION opens a region that keeps the warp's splits, its own at the slot after it, to which a
restart returns (log 65); in an away lane it does nothing (log 37). GROW and SHRINK change the quota within 1 to 32 and report
in their destination; a SHRINK to the quota or above it succeeds (log 25). YIELD ends the SFR and gives way; HOME returns an
away lane, and in a main-core warp waits until no lane is away; HOME of a native wavefront is not stated. -/
def Obligations.RegionsAndQuota : Prop :=
  let fenced (c : Ctx) : State := (c.st.completeOps c.w.uid (·.memory)).endSfr c.w.uid
  let q (o : X) (c : Ctx) : Nat := (c.s o.y.toNat).toNat
  let uses (o : X) (_ : Ctx) : List Use := [sdst o.x 1, ssrc o.y 1]
  let grown (o : X) (c : Ctx) : State := c.st.modWarp c.w.uid fun w => { w with quota := q o c }
  let covered (o : X) (c : Ctx) : Prop := (q o c : Int) - c.w.quota ≤ c.st.poolFree c.w.core
  let queued (c : Ctx) : Prop := ∃ g ∈ c.st.growQ, (c.st.warp? g.warp).map (·.core) = some c.w.core
  let answers (i : X → Instr) (opc : Nat) (ok : X → Ctx → Prop) (out : X → Ctx → State) (status : Nat) : Prop :=
    ∀ o, Retires (i o) opc (uses o) (fun c => c.dense = false ∧ ok o c) (out o) (fun _ => swrite o.x.toNat status) fun _ => 0
  Retires .region 0xB7 (fun _ => []) (fun c => c.w.renames = true)
    (fun c => (c.st.endRegion c.w.uid).modWarp c.w.uid fun w =>
      { w with region := some { splits := w.splits.set c.k c.sp.advance, opener := c.k, handled := w.handler != .none, buf := [] } })
    (fun _ => []) (fun _ => 0) ∧
  Retires .region 0xB7 (fun _ => []) (fun c => c.w.renames = false) (fun c => c.st) (fun _ => []) (fun _ => 0) ∧
  answers .grow 0xB8 (fun o c => q o c = 0 ∨ 32 < q o c) (fun _ c => c.st) 2 ∧
  answers .grow 0xB8 (fun o c => 1 ≤ q o c ∧ q o c ≤ 32 ∧ q o c ≤ c.w.quota) (fun _ c => c.st) 0 ∧
  answers .grow 0xB8 (fun o c => c.w.quota < q o c ∧ q o c ≤ 32 ∧ covered o c ∧ (o.imm.getLsbD 0 = false ∨ ¬queued c)) grown 0 ∧
  answers .grow 0xB8 (fun o c => c.w.quota < q o c ∧ q o c ≤ 32 ∧ ¬covered o c ∧ o.imm.getLsbD 0 = false) (fun _ c => c.st) 1 ∧
  (∀ o : X, Blocks (.grow o) 0xB8 (uses o)
    (fun c => c.dense = false ∧ c.w.quota < q o c ∧ q o c ≤ 32 ∧ o.imm.getLsbD 0 = true ∧ (¬covered o c ∨ queued c))
    (fun c => { c.st with growQ := c.st.growQ ++ [{ warp := c.w.uid, split := c.k, want := q o c, dst := o.x.toNat }] }) fun _ => .wait .grow) ∧
  answers .shrink 0xB9 (fun o c => q o c = 0 ∨ 32 < q o c) (fun _ c => c.st) 2 ∧
  answers .shrink 0xB9 (fun o c => 1 ≤ q o c ∧ q o c ≤ 32 ∧ q o c < c.w.held) (fun _ c => c.st) 1 ∧
  answers .shrink 0xB9 (fun o c => 1 ≤ q o c ∧ q o c ≤ 32 ∧ c.w.held ≤ q o c)
    (fun o c => (c.st.modWarp c.w.uid fun w => { w with quota := min (q o c) w.quota }).growGrants c.w.core 96) 0 ∧
  Jumps .yield 0xBA (fun _ => []) always (fun c =>
    { ((({ c with st := c.st.endSfr c.w.uid } : Ctx).turned Split.advance).reselect c.w.uid true) with cur := none }) ∧
  Jumps .home 0xBD (fun _ => []) (fun c => c.guest = true) (fun c => c.st.sendHome c.w c.sp.advance.pc c.sp.advance.slot none false) ∧
  Retires .home 0xBD (fun _ => []) (fun c => c.guest = false ∧ c.native = false ∧ c.w.someAway = false) fenced (fun _ => []) (fun _ => 0) ∧
  Blocks .home 0xBD (fun _ => []) (fun c => c.guest = false ∧ c.native = false ∧ c.w.someAway = true) fenced fun _ => .home

/-! ### The matrix engine -/

/-- R178 to R184, R187, R190, R194, R195, R294: a matrix command that passes its checks, whose bytes are allocated, whose
tiles no other batch holds, and that reads no unfinished copy joins its context's queue in the open batch; where 16 commands
stand it waits. R187, R188, R193, R196 to R200: COMMIT closes the open batch; ACCZ, ACCRD and ACCWR act on tiles that no
batch holds; MQRY and MBUDG report; MSAVE writes the record and stops the context; MREST loads one; MCANCEL cancels. The
cause that a restored context's failed batch reports is a free value of log 8, and which records MREST refuses is log 40's
reading. -/
def Obligations.MatrixCommandsAndState : Prop :=
  (
    let free (m : MatCmd) (b : Block) (n : Nat) (x : MatCtx) (c : Ctx) : Prop :=
      c.dense = false ∧ c.mat? = some (b, n, x) ∧ x.stopped = false ∧ m.code = none ∧ (∀ r ∈ m.ranges, c.st.rangeBad b r.1 r.2 = none) ∧
      (∀ t, t ∈ m.tiles → ∀ p ∈ x.busy, p.1 = t → t < 16 → p.2 = x.open') ∧ c.st.copyTarget b m = none
    let queues (i : Instr) (opc : Nat) (uses : Ctx → List Use) (m : Ctx → MatCmd) : Prop :=
      ∀ (b : Block) (n : Nat) (x : MatCtx),
        Retires i opc uses (fun c => free (m c) b n x c ∧ x.cmds.length < 16)
          (fun c => (({ c.st with nextUid := c.st.nextUid + 1 } : State).endRegion c.w.uid).modCtx b.uid n fun x' =>
            x'.push { m c with uid := c.st.nextUid, batch := x.open' }) (fun _ => []) (fun _ => 0) ∧
        Blocks i opc uses (fun c => free (m c) b n x c ∧ 16 ≤ x.cmds.length) (fun c => c.st) fun _ => .wait .contextFull
    (∀ o, queues (.mmat o) 0xC0 (mmUses 0xC0 o) fun c => { c.mmCmd 0xC0 o with regs := c.mmRegs 0xC0 o }) ∧
    (∀ o, queues (.mmatz o) 0xC1 (mmUses 0xC1 o) fun c => { c.mmCmd 0xC1 o with regs := c.mmRegs 0xC1 o }) ∧
    (∀ o, queues (.mmatar o) 0xC2 (mmUses 0xC2 o) fun c => { c.mmCmd 0xC2 o with regs := c.mmRegs 0xC2 o }) ∧
    (∀ o, queues (.mmatbr o) 0xC3 (mmUses 0xC3 o) fun c => { c.mmCmd 0xC3 o with regs := c.mmRegs 0xC3 o }) ∧
    (∀ o : X, queues (.accst o) 0xC9 (fun _ => [ssrc o.x 2, ssrc o.y 1]) fun c => c.accCmd 0xC9 o) ∧
    ∀ o : X, queues (.accld o) 0xCA (fun _ => [ssrc o.x 2, ssrc o.y 1]) fun c => c.accCmd 0xCA o) ∧
  (
    let mine (b : Block) (n : Nat) (x : MatCtx) (c : Ctx) : Prop := c.dense = false ∧ c.mat? = some (b, n, x)
    let idle (x : MatCtx) (ts : List Nat) : Prop := ∀ p ∈ x.busy, p.1 < 16 → p.1 ∉ ts
    let lane (c : Ctx) : Nat := if c.guest = true then lowLane c.sp.lanes else 0
    (∀ (o : X) b n x, Retires (.commit o) 0xC4 (fun _ => [sdst o.x 2]) (fun c => mine b n x c ∧ c.st.followPending b n = false)
      (fun c => (c.st.endRegion c.w.uid).modCtx b.uid n fun x => { x with pendingClosed := x.pendingClosed ++ [x.open'], open' := x.open' + 1 })
      (fun _ => swrite2 o.x.toNat x.open') fun _ => 0) ∧
    (∀ (o : X) b n x, Blocks (.commit o) 0xC4 (fun _ => [sdst o.x 2]) (fun c => mine b n x c ∧ c.st.followPending b n = true) (fun c => c.st)
      fun _ => .wait .commit) ∧
    (∀ (o : X) b n x, o.imm.toNat % 16 + (bitsAt o.imm.toNat 7 4 + 1) ≤ 16 →
      Retires (.accz o) 0xC6 (fun _ => []) (fun c => mine b n x c ∧ x.stopped = false ∧
          idle x ((List.range (bitsAt o.imm.toNat 7 4 + 1)).map (o.imm.toNat % 16 + ·)))
        (fun c => (c.st.endRegion c.w.uid).modCtx b.uid n fun x =>
          { x with tiles := ((List.range (bitsAt o.imm.toNat 7 4 + 1)).map (o.imm.toNat % 16 + ·)).foldl (fun l t => l.set t (List.replicate 256 0)) x.tiles,
                   poison := x.poison.filter fun e => !((List.range (bitsAt o.imm.toNat 7 4 + 1)).map (o.imm.toNat % 16 + ·)).contains (e / 256) })
        (fun _ => []) fun _ => 0) ∧
    (∀ (o : X) b n x, Retires (.accrd o) 0xC7 (fun _ => [vdst o.x 8])
      (fun c => mine b n x c ∧ x.stopped = false ∧ idle x [o.imm.toNat % 16]) (fun c => c.st)
      (fun c => (List.range 8).map fun j =>
        { cls := 0, reg := o.x.toNat + j, mask := c.act,
          vals := perLane fun i => (x.tiles.getD (o.imm.toNat % 16) []).getD ((2 * j + i / 16) * 16 + i % 16) 0,
          poison := maskOf fun i => x.poison.contains (o.imm.toNat % 16 * 256 + ((2 * j + i / 16) * 16 + i % 16)) }) fun _ => 0) ∧
    (∀ (o : X) b n x, Retires (.accwr o) 0xC8 (fun _ => [vsrc o.x 0 false 8]) (fun c => mine b n x c ∧ x.stopped = false ∧ idle x [o.imm.toNat % 16])
      (fun c => (c.st.endRegion c.w.uid).modCtx b.uid n fun x =>
        { x with
          tiles := x.tiles.modify (o.imm.toNat % 16) fun tile => (List.range 8).foldl (fun tile j => (lanesOf c.act).foldl
            (fun tile i => tile.set ((2 * j + i / 16) * 16 + i % 16) (c.lane (o.x.toNat + j) i)) tile) tile,
          poison := x.poison.filter fun e => !(e / 256 == o.imm.toNat % 16 && hasLane c.act (e % 16 + 16 * (e % 256 / 16 % 2))) })
      (fun _ => []) fun _ => 0) ∧
    (∀ (o : X) b n x, Retires (.mqry o) 0xCB (fun _ => [sdst o.x 4]) (mine b n x) (fun c => c.st)
      (fun _ =>
        swrite o.x.toNat ((List.range 16).foldl (fun n t => if x.busy.any (·.1 == t) = true then n + 2 ^ t else n) 0 + x.cmds.length * 2 ^ 16 +
          (if x.stopped = true then 2 ^ 21 else 0) + (if x.failed.isEmpty = true then 0 else 2 ^ 22)) ++
        swrite (o.x.toNat + 1) x.done ++ swrite (o.x.toNat + 2) (x.open' - 1) ++
        swrite (o.x.toNat + 3) ((sortBy id (x.failed.map (·.batch))).headD 0)) fun _ => 0) ∧
    (∀ (o : X) b n x, Retires (.mbudg o) 0xCF (fun _ => [sdst o.x 2]) (mine b n x) (fun c => c.st)
      (fun _ => swrite o.x.toNat x.last ++ swrite (o.x.toNat + 1) x.total) fun _ => 0) ∧
    (∀ (o : X) b n x, Retires (.mcancel o) 0xCE (fun _ => [sdst o.x 2]) (mine b n x)
      (fun c => ((c.st.endRegion c.w.uid).dropFollows b.uid n).modCtx b.uid n MatCtx.cancel) (fun _ => swrite2 o.x.toNat x.normal) fun _ => 0) ∧
    (∀ (o : X) b n x s c s1 as y y', s.ctx? = some c → Admitted c 0xCC [ssrc o.x 2] → mine b n x c →
      let c1 : Ctx := { c with st := c.st.endRegion c.w.uid }
      Unhindered c1 { write := true } [lane c] (fun _ => none) (c.msaveAcc (c.s2 o.x.toNat)) s1 as →
      let s2 := (c1.entered { write := true } s1 as).drainRegs b.uid n x.stepsLeft
      s2.mctx? b.uid n = some (y', y) →
      exec (.msave o) s = .next (c.retire 0xCC [ssrc o.x 2]
        (((s2.storeNow c.w (List.zip (as.flatMap (·.locs)) y.save)).mark
          (y.poison.flatMap fun e => ((as.flatMap (·.locs)).drop (0x440 + 4 * e)).take 4)).modCtx
          b.uid n fun x => { x with stopped := true }) [] 0)) ∧
    ∀ (o : X) b n x s c s1 a y, s.ctx? = some c → Admitted c 0xCD [ssrc o.x 2] → mine b n x c → x.cmds = [] →
      let c1 : Ctx := { c with st := c.st.endRegion c.w.uid }
      Unhindered c1 { write := false } [lane c] (fun _ => none)
        (fun s i => c1.linear false false false 17472 s i (c1.s2 o.x.toNat)) s1 [a] → s1.poison = [] →
      readContext (s1.readLocs a.locs) s1.nextUid c.w.uid [] (Config.freeWord s1.free).toNat = some y →
      exec (.mrest o) s = .next (c.retire 0xCD [ssrc o.x 2]
        (let e : State := c1.entered { write := false } s1 [a]
         ({ e with nextUid := e.nextUid + 16, free := e.free + 1 } : State).modCtx b.uid n fun _ => y) [] 0))

/-- R81, R183: a step of a multiplication gives element (m, n) of its tile the exact sum of the old element and the d
products of row m of A and row n of B, rounded once to nearest even; a step of MMATZ at K = 0 starts from zero; every other
tile stays. -/
def Obligations.MatrixSteps : Prop :=
  ∀ (s : State) (b : Block) (x : MatCtx) (c : MatCmd) (d : Nat), x.tiles.length = 16 →
    let per := msMt c.ms * msNt c.ms
    let k0 := d * (c.step / per)
    let mt := c.step % per / msNt c.ms
    let nt := c.step % per % msNt c.ms
    let tile := bitsAt c.word.toNat 23 20 + c.step % per
    let y := s.mmatStep b x c d
    (tile < 16 → ∀ m n, m < 16 → n < 16 →
      (y.tiles.getD tile []).getD (16 * m + n) 0 =
        stepElem (if c.op = 0xC1 ∧ k0 = 0 then 0 else (x.tiles.getD tile []).getD (16 * m + n) 0)
          ((List.range d).map fun k => (s.operandElem b c true (16 * mt + m) (k0 + k)).1)
          ((List.range d).map fun k => (s.operandElem b c false (16 * nt + n) (k0 + k)).1)) ∧
    (∀ t, t ≠ tile → y.tiles.getD t [] = x.tiles.getD t []) ∧
    ∀ e, e / 256 ≠ tile → (e ∈ y.poison ↔ e ∈ x.poison)

/-! ### Capabilities, messages, launches, dispatches, searches -/

/-- R201, R202: a capability use fails for an index beyond the table (reason 4), an entry that is not valid (1), a permission
that is missing (2), a kind that does not suit (3), in this order; a reading use (CAPRD) needs only the index. -/
def Obligations.CapabilityChecks : Prop :=
  let fails (idx reason : Nat) : Act := .trap 0xE (Machine.word (idx % 256 + 256 * reason))
  ∀ (c : Ctx) (idx perm : Nat) (suits : Cap → Bool) (spends : Bool) (l : Launch), c.capLaunch = some l →
    (l.capCount ≤ idx → c.capRead idx = .error (fails idx 4) ∧ c.cap idx perm suits spends = .error (fails idx 4)) ∧
    ∀ x, c.capRead idx = .ok x →
      let w0 := fieldAt x.bytes 0 4
      (bitAt w0 0 = false → c.cap idx perm suits spends = .error (fails idx 1)) ∧
      (bitAt w0 0 = true → bitAt w0 (8 + perm) = false → c.cap idx perm suits spends = .error (fails idx 2)) ∧
      (bitAt w0 0 = true → bitAt w0 (8 + perm) = true → suits x = false → c.cap idx perm suits spends = .error (fails idx 3)) ∧
      (bitAt w0 0 = true → bitAt w0 (8 + perm) = true → suits x = true → bitsAt w0 3 1 < 3 → spends = false →
        c.cap idx perm suits spends = .ok x)

/-- R203 to R206, R413: CRING binds a ring once the one before is consumed; SEND and RECV move messages and report, and the
message of another device gives its credit back (log 67); CAPRD reads an entry. Poisoned bytes poison the registers that they
reach (R419). -/
def Obligations.RingsAndMessages : Prop :=
  let fenced (c : Ctx) : State := (c.st.completeOps c.w.uid (·.memory)).endSfr c.w.uid
  let idx (o : X) (c : Ctx) : Nat := (c.s o.y.toNat).toNat
  let sendUses (o : X) (_ : Ctx) : List Use := [sdst o.x 1, ssrc o.y 1, ssrc o.z 8]
  let recvUses (o : X) (_ : Ctx) : List Use := [sdst o.x 1, ssrc o.y 1, sdst o.z 8]
  let may (o : X) (x : Cap) (c : Ctx) : Prop :=
    (c.guest = false ∨ c.act ≠ 0) ∧ c.cap (idx o c) 0 (fun x => x.kind == 0 || x.kind == 2) true = .ok x
  let full (x : Cap) (c : Ctx) : Bool := (fenced (c.within x.st)).endpointFull (x.kind == 0) (x.param % 65536) x.addr
  let box (x : Cap) (c : Ctx) : List Byte := (fenced (c.within x.st)).readLocs ((Loc.dev x.addr).span 64)
  let slot (x : Cap) (c : Ctx) : List Loc := (Loc.dev (fieldAt (box x c) 0 8 + 64 * (fieldAt (box x c) 24 8 % fieldAt (box x c) 8 4))).span 64
  let mail (o : X) (x : Cap) (c : Ctx) : Prop := c.cap (idx o c) 1 (fun x => x.kind == 2 && x.param % 65536 == c.st.admin.device) false = .ok x
  (∀ (o : X) (b : Block), Retires (.cring o) 0xD0 (fun _ => [ssrc o.x 1, ssrc o.y 1, ssrc o.z 1])
    (fun c => c.block? = some b ∧ ringBad b.scratchSize (c.s o.x.toNat).toNat (c.s o.y.toNat).toNat (c.s o.z.toNat).toNat = false ∧
      b.pending.2 ≤ b.pending.1)
    (fun c =>
      let now := c.st.readNum (.scr b.uid (c.s o.z.toNat).toNat) 8
      let ring : Ring := { off := (c.s o.x.toNat).toNat, count := (c.s o.y.toNat).toNat, notify := (c.s o.z.toNat).toNat, consumed := now,
                           base := b.copyIssued, from0 := now, published := now, pubs := [], stopped := false }
      (fenced c).modBlock b.uid fun x => { x with ring := if (c.s o.y.toNat).toNat = 0 then none else some ring }) (fun _ => []) fun _ => 0) ∧
  (∀ o : X, Retires (.send o) 0xD1 (sendUses o) (fun c => c.guest = true ∧ c.act = 0) (fun c => c.st) (fun _ => []) fun _ => 0) ∧
  (∀ (o : X) (x : Cap), Retires (.send o) 0xD1 (sendUses o) (fun c => may o x c ∧ x.left = 0) (fun c => fenced (c.within x.st))
    (fun _ => swrite o.x.toNat 1) fun _ => 0) ∧
  (∀ (o : X) (x : Cap), Retires (.send o) 0xD1 (sendUses o) (fun c => may o x c ∧ x.left ≠ 0 ∧ full x c = true)
    (fun c => fenced (c.within x.st)) (fun _ => swrite o.x.toNat 2) fun _ => 0) ∧
  (∀ (o : X) (x : Cap), Retires (.send o) 0xD1 (sendUses o) (fun c => may o x c ∧ x.left ≠ 0 ∧ full x c = false)
    (fun c => ((fenced (c.within x.st)).post c x ((List.range (o.imm.toNat % 8 + 1)).map fun i => c.s (o.z.toNat + i))
      (o.imm.toNat % 8 + 1)).spend c x 1)
    (fun _ => swrite o.x.toNat 0) fun _ => 0) ∧
  (∀ (o : X) (x : Cap), Blocks (.recv o) 0xD2 (recvUses o)
    (fun c => mail o x c ∧ fieldAt (box x c) 16 8 ≤ fieldAt (box x c) 24 8 ∧ o.imm.getLsbD 0 = true) (fun c => fenced (c.within x.st))
    fun _ => .wait (.recv (dword x.addr))) ∧
  (∀ (o : X) (x : Cap), Retires (.recv o) 0xD2 (recvUses o)
    (fun c => mail o x c ∧ fieldAt (box x c) 16 8 ≤ fieldAt (box x c) 24 8 ∧ o.imm.getLsbD 0 = false) (fun c => fenced (c.within x.st))
    (fun _ => swrite o.x.toNat 0) fun _ => 0) ∧
  (∀ (o : X) (x : Cap), Retires (.recv o) 0xD2 (recvUses o) (fun c => mail o x c ∧ fieldAt (box x c) 24 8 < fieldAt (box x c) 16 8)
    (fun c => ((fenced (c.within x.st)).landNum (.dev (x.addr + 24)) 8 (fieldAt (box x c) 24 8 + 1) c.w.writer).returnCredit
      (fieldAt ((fenced (c.within x.st)).readLocs (slot x c)) 48 2) (dword x.addr))
    (fun c =>
      let m := (fenced (c.within x.st)).readLocs (slot x c)
      poisonAll ((fenced (c.within x.st)).poisoned (slot x c)) (swrite o.x.toNat (fieldAt m 32 1 % 16) ++
        (List.range 8).flatMap fun j => swrite (o.z.toNat + j) (fieldAt m (4 * j) 4))) fun _ => 0) ∧
  ∀ (o : X) (x : Cap), Retires (.caprd o) 0xD3 (fun _ => [sdst o.x 8, ssrc o.y 1]) (fun c => c.capRead (idx o c) = .ok x)
    (fun c => x.st.addRecords c.w false [x.acc])
    (fun _ => poisonAll x.poisoned ((List.range 8).flatMap fun j => swrite (o.x.toNat + j) (fieldAt x.bytes (4 * j) 4))) fun _ => 0

/-- R207, R208, R248: LAUNCH enqueues a child for every active lane's record, LAUNCHU one, as far as allowance and room go,
and a child that is not enqueued gets the number of all ones; CANCEL cancels by identity and reports. -/
def Obligations.ChildLaunches : Prop :=
  let queue (o : X) (x : Cap) (c : Ctx) : Prop := c.cap (c.s o.y.toNat).toNat 2 (fun x => x.kind == 1) true = .ok x
  let uses (o : X) : List Use := [vdst o.x 2, ssrc o.y 1, vsrc o.z 0 false 2]
  let record (o : X) (c : Ctx) (s : State) (i : Nat) : Except AFault (State × Acc) := c.linear false true false 128 s i (c.val true o.z.toNat i)
  let kids (x : Cap) (c : Ctx) (s1 : State) (as : List Acc) : State × List Nat :=
    let e := (c.within x.st).entered { write := false, ends := true } s1 as
    c.children (e.completeOps c.w.uid (·.memory)) x (as.map fun a => e.readLocs a.locs)
  let fenced (c : Ctx) : State := (c.st.completeOps c.w.uid (·.memory)).endSfr c.w.uid
  (∀ (o : X) (x : Cap) s c s1 as, s.ctx? = some c → Admitted c 0xD4 (uses o) → queue o x c →
    Unhindered (c.within x.st) { write := false, ends := true } (lanesOf c.act) (fun _ => none) (record o c) s1 as →
    exec (.launch o) s = .next (c.retire 0xD4 (uses o) (kids x c s1 as).1
      (laneWrites o.x.toNat 2 (as.zipIdx.map fun p => (p.1.lane, (kids x c s1 as).2.getD p.2 (2 ^ 64 - 1), false))) 0)) ∧
  (∀ (o : X) (x : Cap) s c s1 as, s.ctx? = some c → Admitted c 0xD5 (uses o) → queue o x c → c.act ≠ 0 →
    Unhindered (c.within x.st) { write := false, ends := true } [lowLane c.act] (fun _ => none) (record o c) s1 as →
    exec (.launchu o) s = .next (c.retire 0xD5 (uses o) (kids x c s1 as).1
      (vwrite o.x.toNat true c.act fun _ => (kids x c s1 as).2.headD (2 ^ 64 - 1)) 0)) ∧
  (∀ o : X, Retires (.launchu o) 0xD5 (fun _ => uses o) (fun c => c.act = 0) (fun c => c.st) (fun _ => []) fun _ => 0) ∧
  (∀ (o : X) (x : Cap) (t : State), Retires (.cancel o) 0xD6 (fun _ => [sdst o.x 1, ssrc o.y 2, ssrc o.z 1])
    (fun c => c.cap (c.s o.z.toNat).toNat 5 (fun x => x.kind == 1) false = .ok x ∧
      ((fenced (c.within x.st)).queue? (x.param % 8192)).bind
        (fun q => (fenced (c.within x.st)).cancelIdent q (o.imm.toNat % 4) (c.s2 o.y.toNat)) = some t)
    (fun _ => t) (fun _ => swrite o.x.toNat 0) fun _ => 0) ∧
  ∀ (o : X) (x : Cap), Retires (.cancel o) 0xD6 (fun _ => [sdst o.x 1, ssrc o.y 2, ssrc o.z 1])
    (fun c => c.cap (c.s o.z.toNat).toNat 5 (fun x => x.kind == 1) false = .ok x ∧
      ((fenced (c.within x.st)).queue? (x.param % 8192)).bind
        (fun q => (fenced (c.within x.st)).cancelIdent q (o.imm.toNat % 4) (c.s2 o.y.toNat)) = none)
    (fun c => fenced (c.within x.st)) (fun _ => swrite o.x.toNat 1) fun _ => 0

/-- R209, R211, R318, R333: STKDISP and BANKOP answer a status and a number: 4 or 3 for a malformed record, 2 for a missing
pseudo-channel, 1 with no allowance left, 3 where the ring has no room, or where the function has no ring at the stack (log
47), and 0 with the next number of their timeline where the work is accepted. -/
def Obligations.SillDispatchesAndBankOperations : Prop :=
  let kind : MemKind := { write := false, ends := true }
  let answer (o : X) (status num : Nat) : List LaneWrite := swrite o.x.toNat status ++ swrite (o.x.toNat + 1) num
  let left (c : Ctx) (x : Cap) (s1 : State) (as : List Acc) : State := ((c.within x.st).entered kind s1 as).completeOps c.w.uid (·.memory)
  let read (c : Ctx) (x : Cap) (s1 : State) (as : List Acc) : List Byte := (left c x s1 as).readLocs (as.flatMap (·.locs))
  (∀ (o : X) s c x b l s1 as, s.ctx? = some c → Admitted c 0xDC [sdst o.x 2, ssrc o.y 1, ssrc o.z 1] →
    c.cap (c.s o.y.toNat).toNat 3 (fun x => x.kind == 3) true = .ok x → c.block? = some b → c.launch? = some l →
    (c.within x.st).ringWait x.stack = none →
    Unhindered (c.within x.st) kind [c.uniLane] (fun _ => none) (c.recordAcc b (c.s o.z.toNat).toNat) s1 as →
    let t := left c x s1 as
    let r := read c x s1 as
    let ends (t : State) (status num : Nat) : Prop :=
      exec (.stkdisp o) s = .next (c.retire 0xDC [sdst o.x 2, ssrc o.y 1, ssrc o.z 1] t (answer o status num) 0)
    (dispatchBad r = true ∨ fieldAt r 56 8 ≠ 0 → ends t 4 0) ∧
    (dispatchBad r = false → fieldAt r 56 8 = 0 →
      (t.dispatchMissing x.stack r = true → ends t 2 0) ∧
      (t.dispatchMissing x.stack r = false →
        (x.left = 0 → ends t 1 0) ∧
        (∀ s2, x.left ≠ 0 → t.produce c.w.die x.stack c.fn r = (s2, none) → ends s2 3 0) ∧
        ∀ s2 i, x.left ≠ 0 → t.produce c.w.die x.stack c.fn r = (s2, some i) →
          let d : Dispatch := { uid := s2.nextUid, stack := x.stack, fn := c.fn, launch := l.uid, block := b.uid, number := l.sill.issued + 1,
                                record := r, level := 1, started := 0, ended := 0, failed := none, done := false, entry := some i, saveAt := none,
                                code := l.code, window := b.window }
          let made : State := { s2 with nextUid := s2.nextUid + 1, dispatches := s2.dispatches ++ [d] }
          ends ((made.modLaunch l.uid fun l => { l with sill := { l.sill with issued := l.sill.issued + 1 } }).spend c x 1) 0 (l.sill.issued + 1)))) ∧
  (∀ o : X, Retires (.bankop o) 0xDB (fun _ => [sdst o.x 2, ssrc o.y 1, vsrc o.z 0 false 1]) (fun c => c.act = 0) (fun c => c.st)
    (fun _ => answer o 5 0) fun _ => 0) ∧
  ∀ (o : X) s c x b l s1 as, s.ctx? = some c → Admitted c 0xDB [sdst o.x 2, ssrc o.y 1, vsrc o.z 0 false 1] → c.act ≠ 0 →
    c.cap (c.s o.y.toNat).toNat 4 (fun x => x.kind == 4) true = .ok x → c.block? = some b → c.launch? = some l →
    Unhindered (c.within x.st) kind [lowLane c.act] (fun _ => none) (c.recordAcc b (c.lane o.z.toNat (lowLane c.act)).toNat) s1 as →
    let d := read c x s1 as
    let t := (left c x s1 as).touch c.fn c.w.die (opW d) 1
    let home : Bool := (t.stripeAt c.fn (opW d)).any fun z => z.stack == x.stack && z.pch == x.pch
    let ends (t : State) (status num : Nat) : Prop :=
      exec (.bankop o) s = .next (c.retire 0xDB [sdst o.x 2, ssrc o.y 1, vsrc o.z 0 false 1] t (answer o status num) 0)
    (t.bankopBad c.fn d = true → ends t 3 0) ∧
    (t.bankopBad c.fn d = false →
      (t.pchMissing x.stack x.pch = true → ends t 2 0) ∧
      (t.pchMissing x.stack x.pch = false →
        (home = false → ends t 4 0) ∧
        (home = true → x.left = 0 → ends t 1 0) ∧
        (home = true → x.left ≠ 0 →
          let q : BankOp := { uid := t.nextUid, launch := l.uid, block := b.uid, fn := c.fn, stack := x.stack, pch := x.pch,
                              number := l.bank.issued + 1, desc := d, rows := [], groups := 0, poisoned := [], ran := false, landed := 0,
                              status := 0, done := false }
          let p := t.pch x.stack x.pch
          let made : State := { t with nextUid := t.nextUid + 1, bankops := t.bankops ++ [q] }
          ends (((made.setPch { p with waiters := p.waiters ++ [t.nextUid] }).modLaunch l.uid fun l =>
            { l with bank := { l.bank with issued := l.bank.issued + 1 } }).spend c x 1) 0 (l.bank.issued + 1))))

/-- R212, R214 to R216: DIST gives each active lane the distance of its candidate from the query; MIGQRY describes each
address and never faults, with REFUSE 0 on a native wavefront (log 51); MIGR sends the lanes whose departure is granted; SVC
zeroes its reply word, sends the call and waits for the reply. The sign of DIST's zero sum is log 49's reading. -/
def Obligations.SearchMigrationAndService : Prop :=
  let dist (i : X → Instr) (opc : Nat) (l2 : Bool) : Prop :=
    (∀ o, Retires (i o) opc (fun _ => [vdst o.x 1, vsrc o.y 0 false 2, ssrc o.z 1]) (fun c => bitsAt o.imm.toNat 2 0 < 5 ∧ c.act = 0) (fun c => c.st)
      (fun _ => []) fun _ => 0) ∧
    ∀ o, Accesses (i o) opc (fun _ => [vdst o.x 1, vsrc o.y 0 false 2, ssrc o.z 1]) (fun c => bitsAt o.imm.toNat 2 0 < 5 ∧ c.act ≠ 0)
      { write := false } (fun c => 32 :: lanesOf c.act) stays (fun c s i => if i = 32 then c.distQuery o s else c.distCandidate o s i)
      fun c s as =>
        let v := s.overlay c.w.uid
        match as with
        | [] => (s, [], 0)
        | q :: cs =>
          let d (a : Acc) : Res := distance l2 (distTy o) (halves (distDim o) (v.readLocs q.locs)) (halves (distDim o) (v.readLocs a.locs))
          (s, laneWrites o.x.toNat 1 (cs.map fun a => (a.lane, (d a).1, v.poisoned q.locs || v.poisoned a.locs)), cs.foldl
            (fun b a => b ||| (d a).2) 0)
  let lane (c : Ctx) : Nat := if c.guest = true then lowLane c.sp.lanes else 0
  let target (o : X) (c : Ctx) (i : Nat) : Option Dest := c.st.linearTarget c.fn (c.val true o.y.toNat i)
  dist .distL2 0xD7 true ∧ dist .distIp 0xD8 false ∧
  (∀ o : X, Retires (.migqry o) 0xDD (fun _ => [vdst o.x 1, vsrc o.y 0 false 2]) always (fun c => c.st)
    (fun c => vwrite o.x.toNat false c.act fun i => c.migWord (c.val true o.y.toNat i)) fun _ => 0) ∧
  (∀ o : X, Retires (.migr o) 0xDE (fun _ => [vsrc o.y 0 false 2]) (fun c => ∃ asks, c.plan [] (target o c) true = .go [] asks)
    (fun c => c.st.endSfr c.w.uid)
    (fun _ => []) fun _ => 0) ∧
  (∀ (o : X) go asks, go ≠ [] → Retires (.migr o) 0xDE (fun _ => [vsrc o.y 0 false 2]) (fun c => c.plan [] (target o c) true = .go go asks)
    (fun c => c.st.depart c.w.uid c.k go c.sp.advance.pc c.sp.advance.slot) (fun _ => []) fun _ => 0) ∧
  (∀ (o : X) asks, Blocks (.migr o) 0xDE (fun _ => [vsrc o.y 0 false 2]) (fun c => c.plan [] (target o c) true = .ask asks) (fun c => c.keep asks)
    fun _ => .shed) ∧
  (∀ (o : X) lane reason, Completes (.migr o) 0xDE (fun _ => [vsrc o.y 0 false 2]) (fun c => c.plan [] (target o c) true = .refuse lane reason)
    fun c => c.trap 0xF (Machine.word (reason + lane * 16))) ∧
  (∀ o : X, Retires (.svc o) 0xDF (fun _ => [sdst o.x 2, ssrc o.y 4, ssrc o.z 2]) (fun c => c.guest = true ∧ c.act = 0) (fun c => c.st)
    (fun _ => []) fun _ => 0) ∧
  ∀ (o : X) (x : Cap) s c s1 as, s.ctx? = some c → Admitted c 0xDF [sdst o.x 2, ssrc o.y 4, ssrc o.z 2] → (c.guest = false ∨ c.act ≠ 0) →
    c.cap 0 0 (fun x => x.kind == 0) false = .ok x →
    Unhindered (c.within x.st) { write := true, ends := true } [lane c] (fun _ => none)
      (fun s i => c.linear true true false 8 s i (c.s2 o.z.toNat)) s1 as →
    let s2 := (((c.within x.st).entered { write := true, ends := true } s1 as).completeOps c.w.uid (·.memory)).land
      (List.zip (as.flatMap (·.locs)) (leBytes 8 0)) c.w.writer
    let words := Machine.word (o.imm.toNat % 256) :: ((List.range 4).map fun i => c.s (o.y.toNat + i)) ++
      [Machine.word (c.s2 o.z.toNat), Machine.word (c.s2 o.z.toNat / 2 ^ 32)]
    let waits (t : State) (st : Status) : State :=
      (t.modWarp c.w.uid fun w => w.setSplit c.k { ((w.splits[c.k]?).getD Split.free) with status := st }).after c.w.uid
    exec (.svc o) s = .next (if s2.endpointFull true 0 x.addr = true then waits s2 (.wait (.svcSlot (dword x.addr)))
      else waits (s2.post c x words 7) (.svc (dword (c.s2 o.z.toNat))))

/-- R213: TOPK merges the first k entries of its list with the active lanes' candidates, NaN scores left out, by score and
then by id, and fills with sentinels; where the list itself holds a NaN the spec leaves the entries open and the model's are
free values (log 8). -/
def Obligations.TopK : Prop :=
  let entry (c : Ctx) (r i : Nat) : Scored := ((c.lane r i).toNat, (c.lane (r + 1) i).toNat)
  let topk (i : X → Instr) (opc : Nat) (max : Bool) : Prop :=
    ∀ o, Retires (i o) opc
      (fun _ => [{ cls := 0, reg := o.x.toNat, cnt := 2, align := 2, rd := true, wr := true, all := true }, vsrc o.y 0 false 1, vsrc o.z 0 false 1])
      (fun c => c.dense = false ∧ c.w.liveCount = 1 ∧ c.w.someAway = false ∧
        ∀ j, j < bitsAt o.imm.toNat 4 0 + 1 → scoreNan (entry c o.x.toNat j).1 = false)
      (fun c => c.st)
      (fun c =>
        let k := bitsAt o.imm.toNat 4 0 + 1
        let out := topMerge max ((List.range k).map (entry c o.x.toNat))
          (((lanesOf c.act).map fun i => ((c.lane o.y.toNat i).toNat, (c.lane o.z.toNat i).toNat)).filter fun x => !scoreNan x.1)
        let at' (i : Nat) : Scored := if k ≤ i then (Ty.f32.fmt.inf max, 0xFFFFFFFF) else out.getD i (Ty.f32.fmt.inf max, 0xFFFFFFFF)
        [{ cls := 0, reg := o.x.toNat, mask := 0xFFFFFFFF, vals := perLane fun i => Machine.word (at' i).1, poison := 0 },
         { cls := 0, reg := o.x.toNat + 1, mask := 0xFFFFFFFF, vals := perLane fun i => Machine.word (at' i).2, poison := 0 }])
      fun _ => 0
  topk .topkMin 0xD9 false ∧ topk .topkMax 0xDA true

/-- R213: the merged order of TOPK keeps every entry once and puts no entry behind one that it precedes. -/
def Obligations.TopKOrder : Prop :=
  ∀ (max : Bool) (list cands : List Scored), (∀ x ∈ list ++ cands, scoreNan x.1 = false) →
    (topMerge max list cands).Perm (list ++ cands) ∧
    (topMerge max list cands).Pairwise fun x y => topBefore max y x = false

/-! ### The sill profile -/

/-- R217 to R220, R329: ABMODE enters all-bank mode where the pseudo-channel is free and no entry waits before it, waits or
answers 1 where it is not, answers 2 where it is missing, and leaves the mode; a claim that has expired is given up. A second
entry is illegal (code 20); leaving what the wavefront neither owns nor has a claim on takes the bank-owner fault with reason
3; every bank command takes that fault without the mode, with reason 2 where the wavefront's claim has expired and 1
otherwise. R226 to R229, R426: the counts and owners of pseudo-channels, slab moves, and the instructions by which a
wavefront saves itself or gives way. -/
def Obligations.AllBankModeAndSillSystem : Prop :=
  (
    let y (o : X) (c : Ctx) : Nat := (c.s o.y.toNat).toNat
    let uses (o : X) (_ : Ctx) : List Use := [sdst o.x 1, ssrc o.y 1]
    let base (c : Ctx) : State := (c.st.endSfr c.w.uid).setOwned c.w.uid none none
    let enters (o : X) (c : Ctx) : Prop := c.native = true ∧ o.imm.getLsbD 0 = true ∧ c.owned = none ∧ (base c).pchMissing c.stack (y o c) = false
    let free (o : X) (c : Ctx) : Prop := (base c).pchFree c.stack (y o c) = true ∧ ((base c).pch c.stack (y o c)).waiters = []
    let answers (o : X) (status : Nat) (ok : Ctx → Prop) (out : Ctx → State) : Prop :=
      Retires (.abmode o) 0xE0 (uses o) ok out (fun _ => swrite o.x.toNat status) fun _ => 0
    ∀ o : X,
      answers o 0 (fun c => o.imm.getLsbD 0 = false ∧ c.owned = some (y o c))
        (fun c => ((c.st.endSfr c.w.uid).leavePch c.stack (y o c) c.fn).setOwned c.w.uid none none) ∧
      answers o 0 (fun c => o.imm.getLsbD 0 = false ∧ c.owned ≠ some (y o c) ∧ c.claim = some (y o c)) base ∧
      answers o 2 (fun c => o.imm.getLsbD 0 = true ∧ c.owned = none ∧ (base c).pchMissing c.stack (y o c) = true) base ∧
      answers o 0 (fun c => enters o c ∧ ((base c).pch c.stack (y o c)).owner = some c.w.uid)
        (fun c => (base c).setOwned c.w.uid (some (y o c)) none) ∧
      answers o 0 (fun c => enters o c ∧ ((base c).pch c.stack (y o c)).owner ≠ some c.w.uid ∧ free o c)
        (fun c => ((base c).enterPch c.stack (y o c) c.w.uid c.fn).setOwned c.w.uid (some (y o c)) none) ∧
      answers o 1 (fun c => enters o c ∧ ((base c).pch c.stack (y o c)).owner ≠ some c.w.uid ∧ ¬free o c ∧ o.imm.getLsbD 1 = false) base ∧
      Blocks (.abmode o) 0xE0 (uses o)
        (fun c => enters o c ∧ ((base c).pch c.stack (y o c)).owner ≠ some c.w.uid ∧ ¬free o c ∧ o.imm.getLsbD 1 = true)
        (fun c =>
          let p := (base c).pch c.stack (y o c)
          (base c).setPch { p with waiters := if p.waiters.contains c.w.uid = true then p.waiters else p.waiters ++ [c.w.uid] })
        (fun c => .wait (.abmode c.stack (y o c))) ∧
      (∀ s c, s.ctx? = some c → Admitted c 0xE0 (uses o c) → o.imm.getLsbD 0 = true → c.owned.isSome = true →
        exec (.abmode o) s = .next (c.trap 1 (Machine.word (0xE0 * 256 + 20)))) ∧
      (∀ s c, s.ctx? = some c → Admitted c 0xE0 (uses o c) → o.imm.getLsbD 0 = false → c.owned ≠ some (y o c) →
        c.claim ≠ some (y o c) → exec (.abmode o) s = .next (c.trap 0x16 3)) ∧
      (let needsTheMode (i : Instr) (opc : Nat) (us : Ctx → List Use) : Prop :=
         ∀ s c, s.ctx? = some c → Admitted c opc (us c) → c.owned = none → exec i s = .next (c.trap 0x16 (if c.claim.isSome = true then 2 else 1))
       needsTheMode (.vbcast o) 0xE1 (fun _ => [vsrc o.x 0 false 1, ssrc o.y 1]) ∧ needsTheMode (.bmac o) 0xE2 (fun _ => [ssrc o.y 1, ssrc o.z 1]) ∧
       needsTheMode (.bmacx o) 0xE3 (fun _ => [ssrc o.y 1, ssrc o.z 1]) ∧
       needsTheMode (.bmacrd o) 0xE4 (fun c => { cls := 0, reg := o.x.toNat, cnt := 16, align := 16 } ::
         (lanesOf c.act).map fun b => { cls := 0, reg := o.x.toNat + b, wr := true }) ∧
       needsTheMode (.bmacz o) 0xE5 (fun _ => []) ∧ needsTheMode (.rowact o) 0xE6 (fun _ => [ssrc o.y 1]) ∧
       needsTheMode (.colrd o) 0xE7 (fun _ => [vdst o.x 8, ssrc o.y 1]) ∧ needsTheMode (.colwr o) 0xE8 (fun _ => [vsrc o.x 0 false 8, ssrc o.y 1]))) ∧
  (
    let y (o : X) (c : Ctx) : Nat := (c.s o.y.toNat).toNat
    let missing (o : X) (c : Ctx) : Bool := c.st.pchMissing c.stack (y o c)
    (∀ o : X, Retires (.ecsrd o) 0xE9 (fun _ => [vdst o.x 1, ssrc o.y 1]) always (fun c => c.st)
      (fun c => vwrite o.x.toNat false c.act fun b => if missing o c = true then 0 else
        min 65535 ((c.st.pch c.stack (y o c)).corrected.getD b 0) + min 255 ((c.st.pch c.stack (y o c)).uncorrectable.getD b 0) * 2 ^ 16 +
          min 255 ((c.st.pch c.stack (y o c)).repaired.getD b 0) * 2 ^ 24) fun _ => 0) ∧
    (∀ o : X, Retires (.ecsclr o) 0xEA (fun _ => [ssrc o.y 1]) always
      (fun c => if missing o c = true then c.st else c.st.setPch { c.st.pch c.stack (y o c) with
        corrected := (Pch.fresh c.stack (y o c)).corrected, uncorrectable := (Pch.fresh c.stack (y o c)).uncorrectable,
        repaired := (Pch.fresh c.stack (y o c)).repaired }) (fun _ => []) fun _ => 0) ∧
    (∀ o : X, Retires (.pchown o) 0xEF (fun _ => [sdst o.x 1, ssrc o.y 1]) always (fun c => c.st)
      (fun c => swrite o.x.toNat (if missing o c = true then 0xFFFFFFFF else c.st.pchOwner c.fn c.stack (y o c))) fun _ => 0) ∧
    (∀ o : X, Retires (.tmove o) 0xEB (fun _ => [sdst o.x 1, ssrc o.y 1, ssrc o.z 1]) (fun c => c.st.entrySlab c.stack (y o c) = none) (fun c => c.st)
      (fun _ => swrite o.x.toNat 1) fun _ => 0) ∧
    (∀ (o : X) (e p : Nat × Nat), Completes (.tmove o) 0xEB (fun _ => [sdst o.x 1, ssrc o.y 1, ssrc o.z 1])
      (fun c => c.st.entrySlab c.stack (y o c) = some e ∧ c.st.moveWait c.w.uid c.sp.queued c.stack = some p) fun c =>
      ((c.queueFor [] (.pch p.1 p.2)).modWarp c.w.uid fun w =>
        w.setSplit c.k { ((w.splits[c.k]?).getD Split.free) with status := .wait (.stripe p.1 p.2) }).after c.w.uid) ∧
    (∀ (o : X) (e : Nat × Nat), Retires (.tmove o) 0xEB (fun _ => [sdst o.x 1, ssrc o.y 1, ssrc o.z 1])
      (fun c => c.st.entrySlab c.stack (y o c) = some e ∧ c.st.moveWait c.w.uid c.sp.queued c.stack = none)
        (fun c => (c.st.tmove e.1 e.2 (c.s o.z.toNat).toNat).1)
      (fun c => swrite o.x.toNat (c.st.tmove e.1 e.2 (c.s o.z.toNat).toNat).2) fun _ => 0) ∧
    (∀ o : X, Retires (.tswap o) 0xEC (fun _ => [sdst o.x 1, ssrc o.y 1]) (fun c => c.st.entrySlab c.stack (y o c) = none) (fun c => c.st)
      (fun _ => swrite o.x.toNat 1) fun _ => 0) ∧
    (∀ (o : X) (e : Nat × Nat), Retires (.tswap o) 0xEC (fun _ => [sdst o.x 1, ssrc o.y 1])
      (fun c => c.st.entrySlab c.stack (y o c) = some e) (fun c => (c.st.tswap e.1 e.2).1)
        (fun c => swrite o.x.toNat (c.st.tswap e.1 e.2).2) fun _ => 0) ∧
    (Jumps .skyield 0xEE (fun _ => []) (fun c => (c.w.wave.bind (·.request)).isSome = false) fun c =>
      let s := (({ c with st := c.st.endSfr c.w.uid } : Ctx).turned Split.advance).modWarp c.w.uid fun w =>
        { w with wave := w.wave.map fun v => { v with yielded := true } }
      { s with cur := none }) ∧
    (Completes .skyield 0xEE (fun _ => []) (fun c => (c.w.wave.bind (·.request)).isSome = true) fun c =>
      c.finish 0xEE [] ((c.within (c.st.endSfr c.w.uid)).preempt { c.sp.advance with status := .ready })) ∧
    ∀ (o : X) s c s1 as, s.ctx? = some c → Admitted c 0xED [ssrc o.x 2] →
      let s0 := c.st.completeOps c.w.uid fun _ => true
      let w := (s0.warp? c.w.uid).getD c.w
      let next : Split := { c.sp.advance with status := .ready }
      c.s2 o.x.toNat % 256 = 0 →
      Unhindered (c.within s0) { write := true, ends := true } [if c.guest = true then lowLane c.sp.lanes else 0] (fun _ => none)
        (fun s i => c.linear true false false w.saveSize s i (c.s2 o.x.toNat)) s1 as →
      let s2 := (s1.endSfr c.w.uid).putRecord (as.flatMap (·.locs)) ((s1.endSfr c.w.uid).saveRecord w next)
      exec (.stksave o) s = .next ((s2.parkWave ((s2.warp? w.uid).getD w) (c.s2 o.x.toNat) next false none).after c.w.uid))

/-- R221 to R225, R331: the bank commands of an owner: VBCAST writes a segment of the broadcast store, ROWACT opens rows,
BMAC and BMACX multiply and accumulate, BMACRD and BMACZ read and clear accumulators, COLRD and COLWR move column words. A
column word of a row in no allocation that no COLWR has written reads as free values (log 6, log 8). -/
def Obligations.BankCommands : Prop :=
  let put (c : Ctx) (f : Pch → Pch) (s : State) : State := s.setPch (f (s.pch c.stack (c.owned.getD 0)))
  let owns (c : Ctx) : Prop := c.owned.isSome = true
  let column (c : Ctx) (col seg : Nat) : Prop :=
    owns c ∧ col ≤ 31 ∧ seg ≤ 63 ∧ ∀ b ∈ lanesOf c.act, (c.bank.rows.getD b none).isSome = true
  let word (o : X) (c : Ctx) (s : State) (b : Nat) : Except AFault (State × Acc) :=
    .ok (s, s.columnAcc c.stack c.bank.idx ((c.bank.rows.getD b none).getD 0) (c.s o.y.toNat).toNat b)
  let mac (i : X → Instr) (opc : Nat) (dsb : Bool) : Prop :=
    ∀ o, Accesses (i o) opc (fun _ => [ssrc o.y 1, ssrc o.z 1])
      (fun c => column c (c.s o.y.toNat).toNat (c.s o.z.toNat).toNat) { write := false } active
      stays (word o) fun c s as =>
        let s1 := as.foldl (fun s a => put c
          (fun p => p.mac dsb (o.imm.toNat % 8) (c.s o.z.toNat).toNat a.lane (c.columnBytes (c.s o.y.toNat).toNat s a) (s.poisoned a.locs)) s) s
        (if as.any (·.locs.isEmpty) = true then { s1 with free := s1.free + 128 } else s1, [], 0)
  (∀ o : X, Retires (.vbcast o) 0xE1 (fun _ => [vsrc o.x 0 false 1, ssrc o.y 1]) (fun c => owns c ∧ (c.s o.y.toNat).toNat ≤ 63)
    (fun c =>
      let store (b : List (BitVec 16)) (l : Nat) : List (BitVec 16) := b.set (16 * (c.s o.y.toNat).toNat + l) ((c.lane o.x.toNat l).setWidth 16)
      put c (fun p => { p with bcast := (lanesOf c.act).foldl store p.bcast, bcastPoison := p.bcastPoison.filter fun x =>
        !(x / 16 == (c.s o.y.toNat).toNat && hasLane c.act (x % 16)) }) c.st) (fun _ => []) fun _ => 0) ∧
  (∀ o : X, Retires (.rowact o) 0xE6 (fun _ => [ssrc o.y 1])
    (fun c => owns c ∧ (c.s o.y.toNat).toNat ≤ 65535 ∧
      (c.act = 0 ∨ c.w.tenant = false ∨ ∃ t, c.st.stripeRow c.stack c.bank.idx (c.s o.y.toNat).toNat = some t ∧ t.fn = c.fn))
    (fun c => put c (fun p => { p with rows := (lanesOf c.act).foldl (fun r b => r.set b (some (c.s o.y.toNat).toNat)) p.rows }) c.st)
    (fun _ => []) fun _ => 0) ∧
  mac .bmac 0xE2 false ∧ mac .bmacx 0xE3 true ∧
  (∀ o : X, Retires (.bmacrd o) 0xE4
    (fun c => { cls := 0, reg := o.x.toNat, cnt := 16, align := 16 } :: (lanesOf c.act).map
      fun b => { cls := 0, reg := o.x.toNat + b, wr := true }) owns
    (fun c => c.st)
    (fun c => (lanesOf c.act).map fun b =>
      { cls := 0, reg := o.x.toNat + b, mask := 0xFFFF,
        vals := perLane fun l => if l < 16 then (c.bank.accs.getD b []).getD (16 * (o.imm.toNat % 8) + l) 0 else 0,
        poison := maskOf fun l => l < 16 && c.bank.accPoison.contains (128 * b + 16 * (o.imm.toNat % 8) + l) }) fun _ => 0) ∧
  (∀ o : X, Retires (.bmacz o) 0xE5 (fun _ => []) owns
    (fun c =>
      let elems := (if bitAt o.imm.toNat 3 = true then List.range 8 else [o.imm.toNat % 8]).flatMap fun r => (List.range 16).map fun l => 16 * r + l
      put c (fun p => (lanesOf c.act).foldl (fun p b =>
        { p with accs := p.accs.modify b fun a => elems.foldl (fun a i => a.set i 0) a,
                 accPoison := p.accPoison.filter fun x => !(x / 128 == b && elems.contains (x % 128)) }) p) c.st) (fun _ => []) fun _ => 0) ∧
  (∀ o : X, Accesses (.colrd o) 0xE7 (fun _ => [vdst o.x 8, ssrc o.y 1]) (fun c => column c (c.s o.y.toNat).toNat 0) { write := false } active stays
    (word o) fun c s as =>
      (if as.any (·.locs.isEmpty) = true then { s with free := s.free + 128 } else s,
       laneWrites o.x.toNat 8 (as.map fun a => (a.lane, leNat (c.columnBytes (c.s o.y.toNat).toNat s a), s.poisoned a.locs)), 0)) ∧
  ∀ o : X, Accesses (.colwr o) 0xE8 (fun _ => [vsrc o.x 0 false 8, ssrc o.y 1])
    (fun c => column c (c.s o.y.toNat).toNat 0) { write := true } active stays
    (word o) fun c s as =>
      let bytes (i : Nat) : List Byte := (List.range 8).flatMap fun j => leBytes 4 (c.lane (o.x.toNat + j) i).toNat
      let key (i : Nat) : Nat × Nat × Nat := (i, (c.bank.rows.getD i none).getD 0, (c.s o.y.toNat).toNat)
      c.storeNowFrom (fun i => leNat (bytes i)) ((as.filter (·.locs.isEmpty)).foldl (fun s a => put c
        (fun p => { p with raw := p.raw.filter (·.1 != key a.lane) ++ [(key a.lane, bytes a.lane)] }) s) s) as

/-! ### Events: each has its effect where the rules let it happen -/

/-- R33, R42, R43, R57, R91, R124: a split that is ready begins its clause: a valid header is latched with the mode register
that it selects, slot 0 stands for slot 1 and slot 8 for the last valid one (neither waits); a header that breaks R42 takes
the illegal-clause trap. In which slot TRAPPC then lies is the model's choice. -/
def Obligations.ClauseEntry : Prop :=
  ∀ (s s0 s1 : State) (w : Warp) (sp : Split) (ws : List Word), s.warp? s.args.a = some w → w.splits[s.args.b]? = some sp → w.running = s.args.b →
    sp.begun = false → s.splitReady w s.args.b = true → s0 = (if w.closeReq = true ∧ sp.slot = 1 then s.endSfr w.uid else s) →
    w.slab = none → s0.fetchWords w sp.pc.toNat 8 = .ok (s1, ws) →
    let h := ws.headD 0
    let slot := if sp.slot = 0 then 1 else if sp.slot = 8 then hdrCount h else sp.slot
    (clauseFault ws = none → slot ≤ hdrCount h → exec .clauseBegin s = .next (s1.modWarp w.uid fun w =>
      w.setSplit s.args.b { ((w.splits[s.args.b]?).getD Split.free) with slot := slot, begun := true, hdr := h, mode := w.m.getD (hdrMsel h) 0 })) ∧
    (clauseFault ws = none → hdrCount h < slot → exec .clauseBegin s = .next (s1.modWarp w.uid fun w =>
      w.setSplit s.args.b (((w.splits[s.args.b]?).getD Split.free).enter ((w.splits[s.args.b]?).getD Split.free).nextClause))) ∧
    ∀ reason at', clauseFault ws = some (reason, at') →
      exec .clauseBegin s = .next (s1.takeTrap w.uid s.args.b 2 (Machine.word (reason + at' * 16)) sp.pc at')

/-- R22, R23, R41: an operation that completes writes its registers, raises its sticky bits and counts its flag down; at zero
the flag's hazards end. R131, R238 to R240, R244: an access, or a clause's fetch, whose page is absent leaves a replay record
with reason 1; an agent whose page is present executes its slot again; one whose fault cannot be resolved takes the
access-violation trap with the record's TRAPINFO; the fairness interval makes the waits of the others that can issue longer
and forces the switch; a JOIN that has waited it merges. R235, R320: the agent that the event names issues next, where it is
ready; that it is the oldest is the choice of the agenda, which log 2 and log 14 describe. -/
def Obligations.AgentEvents : Prop :=
  (
    ∀ (s : State) (w : Warp) (o : LongOp), s.warp? s.args.a = some w → w.ops[s.args.b]? = some o →
      exec .longLatencyCompletion s = .next (((s.applyWrites w o.writes).raise w.uid o.sticky).modWarp w.uid fun w =>
        match o.flag with
        | none => { w with ops := w.ops.erase o }
        | some n =>
          { w with ops := w.ops.erase o, f := w.f.set n (w.f.getD n 0 - 1),
                   hazards := if w.f.getD n 0 - 1 = 0 then w.hazards.filter fun h => h.flag != n else w.hazards })) ∧
  (
    ∀ (s : State) (w : Warp), s.warp? s.args.a = some w →
      let sp := (w.splits[w.running]?).getD Split.free
      let completes (t : State) : State := (List.range 16).foldl (fun t o => t.barrierStep w.block o) t
      (∀ r, w.replay = some r → s.translateN (s.fnOf w) r.1.toNat 1 false ≠ .error .page → s.migrating (s.fnOf w) r.1.toNat = false →
        exec .pageFaultReplay s = .next (completes (s.setWarp { w with replay := none }))) ∧
      (∀ r, w.replay = some r → s.translateN (s.fnOf w) r.1.toNat 1 false = .error .page → exec .pageFaultReplay s = .next s) ∧
      (∀ r, w.replay = some r →
        exec .faultServiceFailure s =
          .next (completes ((s.setWarp { w with replay := none }).takeTrap w.uid w.running 0xD r.2 sp.pc sp.slot))) ∧
      (s.splitReady w w.running = true → exec .warpAgePromotion s = .next { s with cur := some w.uid }) ∧
      (s.splitReady w w.running = true → (w.kind = .native ∨ w.kind = .guest) → s.starved w = true →
        exec .wavefrontStarvation s = .next { s with cur := some w.uid }) ∧
      (exec .fairnessTimerExpiry s = .next ((s.setWarp { w with
        expired := true, splits := w.splits.zipIdx.map fun x =>
          if x.2 ≠ w.running ∧ s.splitCan w x.2 = true then
            { x.1 with waited := x.1.waited + (s.fairness w - ((w.splits[w.running]?).map (·.waited)).getD 0) } else x.1 }).after w.uid)) ∧
      ∀ j, w.splits[s.args.b]? = some j → j.live = true → j.status = .join →
        let waited := j.waited + if (List.range 4).any (s.splitCan w) = true then 0 else s.args.c
        (s.fairness w ≤ waited → exec .joinFairnessLimit s = .next ((s.modWarp w.uid fun w => w.missJoin j.pc).joinDone w.uid j.pc)) ∧
        (waited < s.fairness w → exec .joinFairnessLimit s = .next (s.setSplit w.uid s.args.b { j with waited := waited }))) ∧
  (
    ∀ (c : Ctx) (opc : Nat) (uses : List Use) (lane va : Nat), c.st.warp? c.w.uid = some c.w →
      (∃ x, (c.finish opc uses ((AFault.page lane va).act c)).warp? c.w.uid = some x ∧ x.replay = some (dword va, Machine.word (lane + 32))) ∧
      ∃ x, (c.replay c.sp.pc.toNat 32).warp? c.w.uid = some x ∧ x.replay = some (dword c.sp.pc.toNat, 32))

/-- R167, R168, R170, R189, R216, R269, R413: a split whose wait is over executes its instruction again; the reply of a
service call completes it as an acquire and gives its pair the reply; a split that stalls at a full line has the oldest
closable record asked for. R18, R19: requests of a core are granted oldest first, none while the oldest does not fit; in a
deadlock the oldest fails with status 1. -/
def Obligations.WaitEvents : Prop :=
  (
    ∀ (s : State) (w : Warp) (sp : Split), s.warp? s.args.a = some w → w.splits[s.args.b]? = some sp → sp.live = true →
      let ready (t : State) : State := t.setSplit s.args.a s.args.b { sp with status := .ready }
      let woken : State := ready s
      let read (va : Dword) : State := if (s.readVa (s.fnOf w) w.die va.toNat 8).isSome = true then s.touch (s.fnOf w) w.die va.toNat 8 else s
      (∀ va v, sp.status = .wait (.memGe va v) → s.condHolds w s.args.b (.memGe va v) = true → exec .memoryWaitWake s = .next (ready (read va))) ∧
      (∀ va v, sp.status = .wait (.memNe va v) → s.condHolds w s.args.b (.memNe va v) = true → exec .memoryWaitWake s = .next (ready (read va))) ∧
      (∀ code v, sp.status = .wait (.timeline code v) → s.condHolds w s.args.b (.timeline code v) = true → exec .timelineWaitWake s = .next woken) ∧
      (∀ off v, sp.status = .wait (.counter off v) → s.condHolds w s.args.b (.counter off v) = true → exec .counterWaitWake s = .next woken) ∧
      (∀ v, sp.status = .wait (.batch v) → s.condHolds w s.args.b (.batch v) = true → exec .batchWaitWake s = .next woken) ∧
      (∀ a : Dword, sp.status = .wait (.svcSlot a) → 0 < s.freeSlots true a.toNat → exec .svcSlotFree s = .next woken) ∧
      (∀ (va : Dword) bs s0 i, sp.status = .svc va → s.readVa (s.fnOf w) w.die va.toNat 8 = some bs →
        s.fetchWord w (sp.pc.toNat + 4 * sp.slot) = .ok (s0, i) → bitAt (leNat bs) 63 = true →
        exec .svcReplyWake s = .next (((((s.touch (s.fnOf w) w.die va.toNat 8).completeOps w.uid (·.memory)).endSfr w.uid).applyWrites w
          (swrite2 (bitsAt i.toNat 23 19) (leNat bs % 2 ^ 63))).setSplit w.uid s.args.b { sp.advance with status := .ready })) ∧
      ∀ l r, sp.status = .wait (.record l) → (s.lineRecords l).find? (·.closable) = some r →
        (s.warp? r.owner = none → exec .recordCloseRequest s = .next (s.closeRecords r.owner)) ∧
        ∀ x, s.warp? r.owner = some x →
          exec .recordCloseRequest s = .next (if x.closesNow = true then s.endSfr x.uid else s.setWarp { x with closeReq := true })) ∧
  (
    ∀ (s : State) (q : GrowReq) (w : Warp), s.growQ.find? (fun q => ((s.warp? q.warp).map (·.core)) == some s.args.a) = some q →
      s.warp? q.warp = some w →
      let sp := (w.splits[q.split]?).getD Split.free
      let rest (t : State) : State := { t with growQ := s.growQ.filter (· != q) }
      ((q.want : Int) - w.quota ≤ s.poolFree s.args.a → exec .growGrant s = .next ((rest (s.setWarp
        ((({ w with quota := max w.quota q.want } : Warp).setSplit q.split { sp.advance with status := .ready }).putS q.dst 0 false))).growGrants s.args.a 95)) ∧
      (s.poolFree s.args.a < (q.want : Int) - w.quota → exec .growGrant s = .next s) ∧
      (s.growDeadlock s.args.a = some q → exec .growDeadlock s = .next ((rest (s.modWarp q.warp fun w =>
        (w.setSplit q.split { ((w.splits[q.split]?).getD Split.free).advance with status := .ready }).putS q.dst 1 false)).growGrants s.args.a 96)))

/-- R300 to R313: shuttles leave again after a full shed, land and dock, form guest wavefronts and warps, dock at a
pre-emption, and come home. -/
def Obligations.ShuttleEvents : Prop :=
  ∀ s : State,
    (exec .shedRetry s = .next (s.modWarp s.args.a fun w =>
      { w with splits := w.splits.map fun (sp : Split) =>
        if sp.status = .shed then { sp with status := .ready, asks := sp.asks.map fun (a : ShedAsk) => { a with tries := a.tries + 1 } } else sp })) ∧
    (∀ (h : Shuttle) (home : Warp), s.shuttles[s.args.a]? = some h → h.homeward = false → s.warp? h.home = some home →
      let g := h.guest s.nextUid home
      let landed : State := { s with nextUid := s.nextUid + 1, shuttles := s.shuttles.eraseIdx s.args.a, warps := s.warps ++ [g] }
      exec .shuttleLanding s = .next (if s.recalls home = true then landed.recallGuest g else landed)) ∧
    (∀ w ws k f, s.formation true s.args.a 16 = w :: ws → s.frontEnds[s.args.a]? = some f → s.args.b < 16 → s.args.b ∉ f.deadCores →
      ((List.range 8).find? fun k => !(s.warps.filterMap fun w => w.guest.bind fun g =>
        if g.onStack && g.site == s.args.a && g.sillCore == s.args.b then g.slot else none).contains k) = some k →
      exec .guestWavefrontFormation s = .next (s.form (w :: ws) s.args.b k)) ∧
    (∀ w ws k, s.formation false s.args.a 32 = w :: ws → ((List.range 96).find? fun k => !(s.usedSlots s.args.a).contains k) = some k →
      exec .guestWarpFormation s = .next (s.form (w :: ws) s.args.a k)) ∧
    (exec .guestPreemption s = .next (((s.warps.filter fun w => w.guest.any fun g => g.slot == some s.args.c && g.site == s.args.a &&
        (if s.args.flag then !g.onStack else g.onStack && g.sillCore == s.args.b)).map (·.uid)).foldl (fun s u =>
      (s.completeOps u fun _ => true).modWarp u fun w =>
        { w with parked := true, splits := w.splits.map fun (sp : Split) => { sp with vote := none, asks := [] },
                 guest := w.guest.map fun g => { g with slot := none, group := 0 } }) s)) ∧
    ∀ h : Shuttle, s.shuttles[s.args.a]? = some h → h.homeward = true → s.othersComing h = false →
      let mine (x : Shuttle) : Bool := x == h || (x.homeward && h.group != 0 && x.home == h.home && x.group == h.group && x.left == h.left)
      exec .shuttleReturn s = .next ((({ s with shuttles := s.shuttles.filter fun x => !mine x } : State).modWarp h.home fun w =>
        (sortBy (·.lane) (s.shuttles.filter mine)).foldl Warp.comeHome w).settleHome h.home)

/-- R246, R247, R373 to R375, R380, R381: a queue's WRITE moves, its next record is consumed, the launch served next places
its blocks, a finished block is freed, and a finished launch writes STATUS, its identifiers' counts and DONE. R312, R313,
R322, R380, R386 to R394, R406, R408: a slice ends, its blocks are asked, its warps taken at their take points and later
resumed; a block that is not taken in time is drained; a bucket admits its oldest request. -/
def Obligations.LaunchAndSliceEvents : Prop :=
  (
    ∀ s : State,
      (∀ q, s.queue? s.args.a = some q → blkDevfed (s.queueBlock q) = false →
        exec .queueWriteUpdate s = .next (s.landNum (.dev (q.cb + 16)) 8 s.args.value.toNat none)) ∧
      (s.admin.wiping = true → (s.queue? s.args.a).isSome = true → exec .launchRecordConsume s = .next s) ∧
      (∀ q, s.queue? s.args.a = some q → s.admin.wiping = false → queueBlockOk (s.queueBlock q) = false → exec .launchRecordConsume s = .next
        (if q.reported = s.queueBlock q then s
         else ((s.log q.fn 0x16 q.cb 0 0 3 0 0).1).setQueue { q with reported := s.queueBlock q })) ∧
      (∀ q p seq r, s.queue? s.args.a = some q → s.admin.wiping = false → queueBlockOk (s.queueBlock q) = true → q.reported = [] →
        s.consumable q s.args.flag = some p →
        s.nextRecord q = some (seq, r) →
        (let order (n : Nat) : Nat := (n + 8192 - s.admin.queueTurns.getD p 0) % 8192
         ∀ x ∈ s.admin.queues, x.num ≠ q.num → ∀ n, s.consumable x false = some n → n < p ∨ n = p ∧ order q.num < order x.num) →
        let s1 := (s.touch q.fn 4 (recordAt (s.queueBlock q) seq) 128).consume q seq r s.args.flag
        exec .launchRecordConsume s = .next { s1 with admin := { s1.admin with queueTurns := s1.admin.queueTurns.set p ((q.num + 1) % 8192) } }) ∧
      (∀ l t, s.servedLaunches.head? = some l → l.uid = s.args.a → s.resumesFirst l.fn = false → l.cores = false → s.placeNext l = some t →
        exec .blockPlacement s = .next t.1) ∧
      (∀ l t, s.servedLaunches.head? = some l → l.uid = s.args.a → s.resumesFirst l.fn = false → l.cores = true → s.placeAll l l.grid = some t →
        exec .blockPlacement s = .next t) ∧
      (∀ b, s.block? s.args.a = some b → s.freeable b = true → b.members = [b.uid] → s.blocks.filter (·.uid == b.uid) = [b] →
        (b.mctx.any fun x => x.cmds.any fun c => c.batch == x.open') = false →
        let freed : State := s.modBlock b.uid fun b => { b with freed := true, spare := [], mctx := [], ring := none, counters := [] }
        let gone : State := { freed with warps := freed.warps.filter fun w => !b.warps.contains w.uid && !b.dense.contains w.uid }
        exec .blockFree s = .next ((gone.removeBlocks (gone.blocks.filter fun x => x.uid == b.uid)).growGrants b.core 96)) ∧
      (∀ l q, s.launch? s.args.a = some l → s.completable l = true →
        let s0 := s.setLaunch { l with complete := true, status := some (l.status.getD 0) }
        let s1 : State := { s0 with admin := s0.admin.resetClocks l }
        s1.queue? l.queue = some q →
        let s2 := s1.putVa q.fn 4 ((recordAt (s1.queueBlock q) l.seq + 120) % 2 ^ 64) (leBytes 4 (l.status.getD 0))
        exec .launchComplete s = .next ((s2.countIds q l.record).passDone q (s2.launches.length + 1))) ∧
      ∀ (a : Admin) (l : Launch) (i : Nat),
        (l.balance = false → a.resetClocks l = a) ∧
        (a.limiting = false → l.balance = true → l.ranks.any (·.1 == i) = true → i < a.clusters.length → (a.resetClocks l).clusters[i]? = some 2400) ∧
        (l.ranks.any (·.1 == i) = false → (a.resetClocks l).clusters[i]? = a.clusters[i]?)) ∧
  (
    ∀ s : State,
      let part (b : Bucket) : Nat := ((s.fn? b.fn).map (·.partition)).getD 0
      let pool (b : Bucket) : Nat := ((s.admin.pools.find? fun p => p.1 == part b && p.2.1 == b.stack).map (·.2.2)).getD 0
      (∀ f, s.fn? s.args.a = some f → f.running = true →
        let s1 := s.modFn f.id fun f => { f with running := false }
        let s2 := (s1.blocks.filter fun b => s1.fnOfBlock b == f.id).foldl State.requestBlock s1
        let mine := s2.warps.filter fun w => s2.fnOf w == f.id
        let s3 := ((mine.filter fun w => w.guest.any fun g => g.onStack && g.slot.isSome).map (·.uid)).foldl State.dockAgain s2
        let s4 := ((mine.filter Warp.tenant).map (·.uid)).foldl (fun s u =>
          s.modWarp u fun w => { w with wave := w.wave.map fun v => { v with request := some (v.request.getD s.turns) } }) s3
        exec .sliceEnd s = .next (((s4.nextSlice f).map fun x => s4.beginSlice x.id).getD s4)) ∧
      (∀ w b, s.warp? s.args.a = some w → s.block? w.block = some b → b.preempt = .requested → b.compacted = false → w.someAway = false →
        w.takable (s.atTakePoint w b.deadline) = true →
        let slots := w.splits.map fun sp => if sp.live then s.resumeSlot w sp else some 1
        (∀ x ∈ slots, x.isSome = true) →
        exec .warpTaken s = .next (((s.setWarp { w with splits := w.splits.zipIdx.map fun x => { x.1 with slot := (slots.getD x.2 none).getD 1 } }).takeWarp
          w.uid).headerStep w.block)) ∧
      (∀ b, s.block? s.args.a = some b → b.preempt = .requested → b.deadline = false →
        exec .preemptionDeadline s = .next ((s.modBlock b.uid fun b => { b with deadline := true }).log (s.fnOfBlock b) 0x17 0
          (s.agentWord (.block b.uid) false) s.args.b 0 0 0).1) ∧
      (∀ b l f c core need, s.block? s.args.a = some b → s.launch? b.launch = some l → s.fn? (s.fnOfBlock b) = some f → f.running = true →
        s.sliceMayBegin f = false → l.group = false → b.preempt = .taken → s.forwards b.leftCore < 16 →
        ((sortBy (·.tag) (s.blocks.filter fun x => x.preempt == .taken && s.fnOfBlock x == f.id)).head?).map (·.uid) = some b.uid →
        (s.fn? f.id).any (·.running) = true → s.resumeNeeds l b = some need → s.findPlace l [need] = some (c, [core]) →
        exec .blockResumption s = .next
          (({ s with pointers := s.pointers.set (c / 11) (11 * (c / 11) + (c - 11 * (c / 11) + 1) % 11) } : State).resumeOn l b core)) ∧
      (∀ b h, s.block? s.args.a = some b →
        let ws := s.liveWarps b
        let acquired := ws.foldl (fun s w => (s.completeOps w.uid fun _ => true).endSfr w.uid) s
        let die := s.blockDie b.uid
        let fenced := ws.foldl (fun s w => s.touch (s.fnOf w) die (s.warpSlot w) 1024) (acquired.touch (s.fnOfBlock b) die (s.blockSlot b) 256)
        let back := (fenced.liveWarps b).map fenced.restoreWarp
        let s2 := ((back.filterMap id).foldl (fun s w => s.setWarp w) fenced).modBlock b.uid fun b => b.restored h
        let s3 := ((s2.block? b.uid).bind (·.ring)).elim s2 fun r =>
          (s2.publishRing b.uid (s2.readNum (.scr b.uid r.notify) 8) none).modBlock b.uid fun x => x.withPubs b.pubs
        let s5 := ws.foldl (fun s w => s.reselect w.uid false) ((List.range 16).foldl (fun s o => s.barrierStep b.uid o) (s3.gbarStep b.launch))
        fenced.readVa (s.fnOfBlock b) die (s.blockSlot b) 256 = some h → s.allResumed b = true → (∀ x ∈ back, x.isSome = true) →
        (∀ f, s5.fn? (s5.fnOfBlock b) = some f → f.running = true) → exec .resumeEpisode s = .next s5) ∧
      ∀ (b0 : Bucket) n rest, (s.admin.buckets.find? fun b => b.fn == s.args.a && b.stack == s.args.b) = some b0 → b0.waiting = n :: rest →
        b0.rate ≠ 0xFFFF →
        let depth := 1024 * max 1 b0.depth.toNat
        let total := b0.level + 128 * b0.rate.toNat * s.args.c
        let have' := min (max (pool b0) (s.poolDepth (part b0) b0.stack)) (pool b0 + (total - depth))
        let admits (level left : Nat) : State := { s with admin := { s.admin with
          buckets := updateFirst (fun y => y.fn == b0.fn && y.stack == b0.stack)
            (fun _ => { b0 with level := level, waiting := rest }) s.admin.buckets,
          pools := s.admin.pools.filter (fun p => !(p.1 == part b0 && p.2.1 == b0.stack)) ++
            if left = 0 then [] else [(part b0, b0.stack, left)] } }
        (n ≤ min depth total → exec .bucketAdmission s = .next (admits (min depth total - n) have')) ∧
        (min depth total < n → n ≤ min depth total + have' → exec .bucketAdmission s = .next (admits 0 (have' - (n - min depth total)))))

/-- R188, R278 to R281, R286, R290, R292, R415: a block's engine sees its ring, consumes its next entry, lands a unit at a
time, opens gates, issues follow-ons, and ends commands; a drive's completions, time-outs and writes. -/
def Obligations.CopyEvents : Prop :=
  ∀ s : State,
    (∀ b r, s.block? s.args.a = some b → b.ring = some r →
      exec .copyRingNotify s = .next (s.publishRing s.args.a (s.readNum (.scr s.args.a r.notify) 8) none)) ∧
    (∀ b r, s.block? s.args.a = some b → b.ring = some r → r.stopped = false → r.consumed < r.published → b.preempt = .none →
      let e := b.entry r r.consumed
      let fn := ((s.launch? b.launch).map (·.fn)).getD 0
      entryFlag e 8 = false → entryFlag e 9 = false → entryFlag e 13 = false → ∀ n : Named, s.entryCheck b r fn e false = .ok n →
      let len := if 4 ≤ entryKind e ∧ entryKind e ≤ 6 then n.dstLen else entryLen e
      let c : CopyCmd := { uid := s.nextUid, block := s.args.a, fn := fn, number := b.copyIssued + 1, entry := e, src := n.src, dst := n.dst,
                           srcLen := n.srcLen, dstLen := n.dstLen, template := [], target := none, units := 0, staged := none,
                           gateT := (((b.gates.find? (·.1 == fieldAt e 24 4)).map (·.2)).getD 0 + len) % 2 ^ 32, gated := false,
                             drive := [], ended := none, publisher := (r.pubs.find? (·.index == r.consumed)).bind (·.publisher) }
      let s1 : State := ({ s with nextUid := s.nextUid + 1 } : State).modBlock s.args.a fun x =>
        { x with copyIssued := b.copyIssued + 1, ring := some { r with consumed := r.consumed + 1, pubs := r.pubs.filter (·.index != r.consumed) } }
      exec .copyEntryConsume s = .next ((({ s1 with copies := s1.copies ++ [c] } : State).setCopy c).openCopy b c)) ∧
    (∀ c b, s.copy? s.args.a = some c → s.block? c.block = some b → ((s.launch? b.launch).map (·.cancelled)).getD false = false →
      s.copyMayRun b c = true → s.landed c = false → entryKind c.entry ≠ 8 → (c.staged.isSome = true ∨ s.selfOverlap c = false) →
      c.drive = [] →
      exec .copyUnitLand s = .next (((((s.copyWaitsOn b c).map (s.askHost c.fn)).getD s).openCopy b c).landUnit b c)) ∧
    (∀ c b, s.copy? s.args.a = some c → s.block? c.block = some b → b.preempt = .none → c.ended = none → s.landed c = true → c.target = none →
      entryFlag c.entry 8 = false → entryFlag c.entry 12 = false →
      let done := (s.closeRecords s.args.a).modBlock c.block fun b => b.finishCopy c.number 0
      exec .copyCommandDone s = .next { done with copies := done.copies.filter (·.uid != s.args.a) }) ∧
    (∀ c b, s.copy? s.args.a = some c → s.block? c.block = some b → c.gated = true → s.gateOpen b c = true →
      exec .gateReevaluate s = .next (s.setCopy { c with gated := false })) ∧
    (∀ c t b x, s.copy? s.args.a = some c → c.target = some t → s.mctx? c.block t.1 = some (b, x) → c.ended = none → c.gated = false →
      s.landed c = true →
      let m := followCmd c.template s.nextUid t.2 (c.publisher.getD 0)
      b.preempt = .none → x.stopped = false → m.code = none → (∀ r ∈ m.ranges, s.rangeBad b r.1 r.2 = none) →
        x.busyTile m.tiles (some t.2) = none → x.cmds.length < 16 →
      exec .followOnIssue s = .next ((({ s with nextUid := s.nextUid + 1 } : State).modCtx c.block t.1
        fun x => x.push m).setCopy { c with target := none })) ∧
    (∀ c d g, s.copy? s.args.a = some c → c.read? s.args.b = some d → s.grant? c = some g →
      let s1 := s.readCompletion c.fn c.grantIndex g d.cid s.args.value.toNat
      (s.args.value = 0 → exec .nvmeCompletion s = .next
        (s1.setCopy { c with drive := c.drive.map fun x => if x = d then { x with done := true } else x })) ∧
      (s.args.value ≠ 0 → exec .nvmeCompletion s = .next (s1.copyFail c.uid 7 0))) ∧
    (∀ c, s.copy? s.args.a = some c → (∃ d ∈ c.drive, d.done = false) → exec .nvmeTimeout s = .next (s.copyFail c.uid 7 0)) ∧
    ∀ c b, let ls := (List.range s.args.bytes.length).map fun i => s.driveLoc (s.args.c + i)
      let a : Acc := { lane := 0, va := sideAddr c.dst 0, locs := ls }
      (s.copies.filter fun c => c.fn == s.args.a && (match c.src with | .drive g _ => g == s.args.b | _ => false)) = [c] → s.block? c.block = some b →
      (∃ d ∈ c.drive, d.done = false ∧ ∀ l ∈ ls, l ∈ (s.readAccs b c d).flatMap (·.locs)) → s.copyMayRun b c = true →
      s.bankWait c.uid none [a] = none → s.heldLoc ls (fun u m => u == c.block && !m.follow) = none →
      s.copyConflict c true [a] = none → s.heldLoc ls (fun u _ => u != c.block) = none →
      let s1 := s.land (List.zip ls s.args.bytes) none
      exec .driveWrite s = .next (s1.closeGranules c.uid true (s1.granules a))

/-- R183, R187, R358, R360, R440: the engine's next command step, the completion of batches, the budget, the closing of a
monitor window and the start of a decided move. R209, R211, R218, R219, R228, R315 to R323, R326, R329, R333: front ends read
rings, start, save, resume and end wavefronts and dispatches, all-bank mode is entered and expires, bank operations run and
land their rows, and a change of split ends. -/
def Obligations.EngineAndSillEvents : Prop :=
  (
    ∀ s : State,
      (∀ b x, s.mctx? s.args.a s.args.b = some (b, x) → x.stopped = false → x.cmds ≠ [] → s.spentOf (s.stepQuadrant b x) < s.admin.budget →
        let q := s.stepQuadrant b x
        let s1 := s.engineStep s.args.a s.args.b
        exec .engineStep s = .next { s1 with admin := { s1.admin with
          spent := s1.admin.spent.filter (·.1 != q) ++ [(q, s.spentOf q + ((s1.mctx? s.args.a s.args.b).map (·.2.last)).getD 0)] } }) ∧
      (exec .batchComplete s = .next (s.modBlock s.args.a fun b => { b with mctx := b.mctx.modify s.args.b MatCtx.complete })) ∧
      (exec .matrixBudgetPeriod s = .next { s with admin := { s.admin with spent := [] } }) ∧
      (∀ r sl, s.slab? s.args.a s.args.b = some (r, sl) → 2 ^ r.desc.wlog ≤ sl.seen →
        let base := { sl with seen := 0, strides := [], closed := sl.closed + 1, win := sl.win + 1 }
        (sl.state ≠ 0 → exec .monitorWindowClose s = .next (s.setSlab s.args.a s.args.b { base with run := none })) ∧
        (sl.state = 0 → sl.cool = 0 → sl.decided.isSome = true → exec .monitorWindowClose s = .next
          (s.setSlab s.args.a s.args.b { base with run := none })) ∧
        (sl.state = 0 → 0 < sl.cool →
          exec .monitorWindowClose s = .next (s.setSlab s.args.a s.args.b { base with cool := sl.cool - 1, run := none })) ∧
        (sl.state = 0 → sl.decided = none → sl.cool = 0 → sl.qualify r.desc s.args.b = none →
          exec .monitorWindowClose s = .next (s.setSlab s.args.a s.args.b { base with run := none })) ∧
        ∀ x, sl.state = 0 → sl.decided = none → sl.cool = 0 → sl.qualify r.desc s.args.b = some x →
          (sl.run ≠ some (BitVec.ofNat 16 x) →
            exec .monitorWindowClose s = .next (s.setSlab s.args.a s.args.b { base with run := some (BitVec.ofNat 16 x) })) ∧
          (sl.run = some (BitVec.ofNat 16 x) → exec .monitorWindowClose s = .next
            ((s.setSlab s.args.a s.args.b { base with run := some (BitVec.ofNat 16 x) }).decideMove s.args.a s.args.b (BitVec.ofNat 16 x) false))) ∧
      ∀ r sl code f, s.slab? s.args.a s.args.b = some (r, sl) → sl.decided = some code → sl.state ≠ 1 → s.frontEnds[sl.home]? = some f →
        let need := r.desc.slabUnits s.args.b code.toNat
        (f.reserve < need →
          exec .moveStart s = .next (s.setSlab s.args.a s.args.b { sl with decided := none, pinnedMove := false, pin := none })) ∧
        (need ≤ f.reserve → (need : Int) ≤ s.reserveFree sl.home →
          exec .moveStart s = .next (s.setSlab s.args.a s.args.b
            { sl with decided := none, state := 1, target := code, frontier := 0, new := [], newMarks := [] }))) ∧
  (
    ∀ s : State,
      (∀ cb blk i r, s.admin.wiping = false → s.ringTurn s.args.a = some s.args.b → s.ringBlock s.args.a s.args.b = some (cb, blk) →
        ringBlockOk blk = true →
        s.ringNext s.args.a s.args.b = some (cb, i, r) → fieldAt r 56 4 = i % 2 ^ 32 →
        let die := dieOfStack s.args.a
        let invalid := (s.touch s.args.b die (ringEntry blk i) 64).putVa s.args.b die ((ringEntry blk i + 60) % 2 ^ 64) (leBytes 4 0)
        let started := (invalid.landNum (.dev (cb + 24)) 8 ((i + 1) % 2 ^ 64) none).startEntry s.args.a s.args.b i r
        let read := (started.getD s).modFront s.args.a fun f => { f with turn := s.args.b + 1 }
        exec .ringDoorbell s = .next read ∧ exec .sillRingPoll s = .next read) ∧
      (∀ d core, s.dispatch? s.args.a = some d → s.startsNext d = true → s.sillCore d.stack d.local' (some d.uid) = some core →
        let slot := (s.freeNative d.stack core).headD 0
        let v : WaveInfo := { stack := d.stack, core := core, slot := slot, level := d.level, dispatch := d.uid, index := d.started, owned := none,
                              claim := none, request := none }
        let regs := d.regs d.started
        let size := d.local'
        let w := startWarp s.nextUid .native (dword (fieldAt d.record 0 8)) 0xFFFF
        let w1 : Warp := { w with s := regs, wave := some v, slot := slot, ldsSize := size, age := s.nextUid }
        exec .wavefrontStart s = .next
          ((({ s with nextUid := s.nextUid + 1, warps := s.warps ++ [w1] } : State).setDispatch { d with started := d.started + 1 }).modFront d.stack
            fun f => { f with kept := ((f.kept.find? (·.2 == d.uid)).map f.kept.erase).getD f.kept })) ∧
      (∀ w sp since, s.warp? s.args.a = some w → w.splits[0]? = some sp → w.wave.bind (·.request) = some since → s.passed since 25600 = true →
        sp.status = .ready → sp.begun = false → w.replay = none →
        let c : Ctx := { st := s, w := w, k := 0, sp := sp }
        exec .sillPreemptTimeout s = .next (c.finish 0xEE [] (c.preempt { sp with slot := (s.resumeSlot w sp).getD 7 }))) ∧
      (∀ w v sp d, s.warp? s.args.a = some w → w.wave = some v → w.splits[0]? = some sp → v.level = 3 → sp.status = .ready →
        s.dispatches.find? (s.wantsSlot w) = some d →
        let s1 := s.completeOps w.uid fun _ => true
        exec .level3Save s = .next ((s1.parkWave ((s1.warp? w.uid).getD w) 0 sp true (v.owned.map (s1.pch v.stack))).modFront v.stack fun f =>
          { f with kept := f.kept ++ [(v.core, d.uid)] })) ∧
      (∀ x v core, s.saved[s.args.a]? = some x → x.warp.wave = some v → s.sillCore v.stack x.warp.ldsSize none = some core →
        (v.level = 3 ∨ ((s.fn? (s.fnOf x.warp)).map (·.running)).getD false = true) →
        (x.own = true → (∀ p, v.owned = some p → s.pchFree v.stack p = true) → exec .wavefrontResume s = .next (s.resumeWave x v core [])) ∧
        ∀ s1 r, x.own = false → s.loadRecord x v.stack = some (s1, r) →
          let bs := r.map (·.1)
          (∀ p, recordOwned bs = some p → s.pchFree v.stack p = true) →
          exec .wavefrontResume s = .next (s1.resumeWave x { v with owned := recordOwned bs, dispatch := s.recordDispatch v bs } core r)) ∧
      (∀ d, s.dispatch? s.args.a = some d → s.dispatchOver d = true → d.stamp = 0 →
        let saved := s.saved.filter fun x => (x.warp.wave.map (·.dispatch)) != some s.args.a
        let left : State := { s with dispatches := s.dispatches.filter (·.uid != s.args.a), saved := saved }
        exec .sillDispatchDone s = .next (left.modLaunch d.launch fun l =>
          { l with sill := l.sill.finish d.number (d.failed.map fun f => (0x15, dispatchInfo f.1 f.2 d.number)) })) ∧
      (∀ u w, (s.pch s.args.a s.args.b).owner = some u → s.warp? u = some w →
        exec .allBankModeExpiry s = .next ((s.leavePch s.args.a s.args.b (s.fnOf w)).setOwned u none (some s.args.b))) ∧
      (∀ u w, (s.pch s.args.a s.args.b).waiters.head? = some u → s.warp? u = some w → s.pchMissing s.args.a s.args.b = false →
        s.pchFree s.args.a s.args.b = true →
        exec .abmodeBlockedEntry s = .next ((s.enterPch s.args.a s.args.b u (s.fnOf w)).modWarp u fun w =>
          { w with splits := w.splits.map fun (sp : Split) => if sp.status = .wait (.abmode s.args.a s.args.b) then { sp with status := .ready } else sp })) ∧
      (∀ o b, s.bankop? s.args.a = some o → s.block? o.block = some b → o.status = 0 → o.ran = false →
        ((s.fn? o.fn).map (·.running)).getD false = true → (s.pch o.stack o.pch).waiters.head? = some o.uid →
          s.pchFree o.stack o.pch = true → exec .bankopRun s = .next (s.runBankop o b)) ∧
      (∀ o b, s.bankop? s.args.a = some o → o.status = 0 → s.block? o.block = some b →
        (o.rows[o.landed]? = none → o.ran = true → exec .bankopResultLand s = .next (s.bankopEnd o.uid 0 0)) ∧
        ∀ r, o.rows[o.landed]? = some r → b.preempt = .none → exec .bankopResultLand s = .next (s.landRow o b r)) ∧
      exec .splitQuiesceEnd s = .next (s.setPch { s.pch s.args.a s.args.b with quiesce := false }))

/-- R5, R204, R402, R405, R407, R410 to R413, R416, R417, R419, R424, R427: the host's accesses, its answers about pages, its
watch registers and register writes, flits and lane repairs, and the delivery of messages. R329, R402, R403: an access of the
host waits for an owned pseudo-channel and for a page that migrates, and the invalidation of a translation for the stores
that a region buffers. R421 to R426, R433, R436, R437: scrub, row repair, core-logic errors, retirements, the power limits'
steps and the reset of the package. That a message-signalled interrupt whose vector lies beyond the table is not sent is log
60 (DEDUCED). The reset of the package keeps the bytes that State holds for the peers' aperture (log 19), which are none of
what R436 wipes. -/
def Obligations.HostAndRepairEvents : Prop :=
  (
    ∀ s : State,
      let a := s.args
      let poison (t : State) : State := if a.flag =
        true then t.unhold else { t.unhold with admin := { t.admin with hostReads := t.admin.hostReads ++ [[]] } }
      let works : Prop := s.admin.wiping = false
      (s.admin.wiping = true → exec .hostCxlAccess s = .next (poison s)) ∧
      (works → s.hostLocs a.a a.c a.value.toNat (hostBytes a) = none →
        exec .hostCxlAccess s = .next (poison (s.log a.a 0x15 a.value.toNat 0 0 3 0 0).1)) ∧
      (∀ ls, works → s.hostLocs a.a a.c a.value.toNat (hostBytes a) = some ls → s.hostWaits ls = true →
        exec .hostCxlAccess s = .next (s.hold .hostCxlAccess)) ∧
      (∀ ls, works → s.hostLocs a.a a.c a.value.toNat a.b = some ls → a.flag = false → s.hostWaits ls = false →
        exec .hostCxlAccess s = .next { s.unhold with admin := { s.admin with
          hostReads := s.admin.hostReads ++ [if s.poisoned ls = true then [] else s.readLocs ls] } }) ∧
      (∀ ls, works → s.hostLocs a.a a.c a.value.toNat a.bytes.length = some ls → a.flag = true → s.hostWaits ls = false →
        (∀ k o, Loc.view k o ∉ ls) → exec .hostCxlAccess s = .next (s.land ((List.zip ls a.bytes).filter fun x =>
          !(s.admin.queues.any fun q => touches [x.1] (.dev (q.cb + 16)) 8 && blkDevfed (s.queueBlock q))) none).unhold) ∧
      (∀ ls k o, works → s.hostLocs a.a a.c a.value.toNat a.bytes.length = some ls → a.flag = true → s.hostWaits ls = false → Loc.view k o ∈ ls →
        exec .hostCxlAccess s = .next (s.log a.a 0x15 a.value.toNat 0 0 1 0 0).1.unhold) ∧
      (let s1 : State := { s with pri := s.pri.filter (· != (a.a, a.b)) };
        (a.flag = true → exec .priResponse s = .next { s1 with ats := s.ats.filter (· != (a.a, a.b)) ++ [(a.a, a.b)] }) ∧
        (a.flag = false → exec .priResponse s = .next (s1.hostRefuses a.a a.b))) ∧
      (let s1 : State := ({ s with ats := s.ats.filter fun x =>
          !(x.1 == a.a && a.b < x.2 * 4096 + 4096 && x.2 * 4096 < a.b + a.c) } : State).followWatches a.a;
        (s.buffered a.a = false → exec .atsInvalidation s = .next s1.unhold) ∧
        (s.buffered a.a = true → exec .atsInvalidation s = .next (s1.hold .atsInvalidation))) ∧
      (∀ f w x, s.fn? a.a = some f → f.watch[a.b]? = some w → w.addr.toNat % 8 = 0 → bitsAt w.ctl.toNat 2 1 ≠ 3 →
        s.translateN a.a w.addr.toNat 8 false = .ok x →
        exec .watchArm s = .next ((x.1.modWatch a.a a.b fun w => { w with ctl := w.ctl ||| 1, place := x.2 }).checkWatch a.a a.b)) ∧
      (∀ f w, s.fn? a.a = some f → f.watch[a.b]? = some w → (w.addr.toNat % 8 ≠ 0 ∨ bitsAt w.ctl.toNat 2 1 = 3) →
        exec .watchArm s = .next ((s.modWatch a.a a.b fun w => { w with ctl := w.ctl &&& ~~~1 }).log a.a 0x16 w.addr.toNat 0 0 4 0 0).1) ∧
      (∀ f w, s.fn? a.a = some f → f.watch[a.b]? = some w → w.ctl.getLsbD 0 = true → w.holds (leNat (s.readLocs w.place)) = true →
        let s1 := s.modFn a.a fun f => { f with watch := f.watch.set a.b { w with ctl := (w.ctl &&& ~~~1) ||| 8 } }
        exec .watchFire s = .next (s1.interrupt a.a (bitsAt w.ctl.toNat 26 16))) ∧
      (∀ fn n v, n < (if fn = 0 then 2048 else 64) → s.interrupt fn n = { s with admin := { s.admin with vectors := s.admin.vectors ++ [(fn, n)] } } ∧
        (¬n + v < (if fn = 0 then 2048 else 64) → s.interrupt fn (n + v) = s)) ∧
      (∀ fn n, (a.load = .reg (.watchAddr fn n) ∨ n < 16 ∧ a.load = .reg (.bar0 fn (0x1000 + 32 * n))) →
        exec .registerWrite s = .next (s.modWatch fn n fun w => { w with addr := a.value })) ∧
      (∀ fn n, (a.load = .reg (.watchThresh fn n) ∨ n < 16 ∧ a.load = .reg (.bar0 fn (0x1008 + 32 * n))) →
        exec .registerWrite s = .next (s.modWatch fn n fun w => { w with thresh := a.value })) ∧
      (∀ fn n, (a.load = .reg (.watchCtl fn n) ∨ n < 16 ∧ a.load = .reg (.bar0 fn (0x1010 + 32 * n))) →
        let s1 := s.modWatch fn n fun w =>
          { w with ctl := (Machine.word a.value.toNat &&& 0x07FF0007) ||| (w.ctl &&& ~~~(Machine.word a.value.toNat) &&& 8) }
        (a.value.getLsbD 0 = false → exec .registerWrite s = .next s1) ∧
        (a.value.getLsbD 0 = true → a.a = fn → a.b = n → exec .registerWrite s = exec .watchArm s1)) ∧
      (∀ k, a.load = .reg (.firewall k) → exec .registerWrite s = .next { s with admin := { s.admin with
        firewall := s.admin.firewall.modify k fun old => if old.getLsbD 3 = true then old else Machine.word a.value.toNat &&& 0xE } }) ∧
      (∀ m, s.msgs[a.a]? = some m → m.host = false → m.device = s.admin.device →
        (∀ x ∈ s.msgs.take a.a, ¬(x.source = m.source ∧ x.warp = m.warp ∧ x.endpoint = m.endpoint ∧ x.host = m.host ∧ x.device = m.device)) →
        let s1 : State := { s with msgs := s.msgs.eraseIdx a.a }
        let blk := s1.readLocs ((Loc.dev m.endpoint.toNat).span 64)
        let slot := Loc.dev (fieldAt blk 0 8 + 64 * (fieldAt blk 16 8 % fieldAt blk 8 4))
        0 < s1.freeSlots false m.endpoint.toNat →
        exec .messageDelivery s = .next ((s1.land (List.zip (slot.span 64) (slotBytes m)) none).landNum (.dev (m.endpoint.toNat + 16)) 8
          ((fieldAt blk 16 8 + 1) % 2 ^ 64) none)) ∧
      (∀ m, s.msgs[a.a]? = some m → m.host = false → m.device ≠ s.admin.device →
        (∀ x ∈ s.msgs.take a.a, ¬(x.source = m.source ∧ x.warp = m.warp ∧ x.endpoint = m.endpoint ∧ x.host = m.host ∧ x.device = m.device)) →
        ∀ n t, s.route m.device = some n → ({ s with msgs := s.msgs.eraseIdx a.a } : State).sendFlit n 2 0 (messagePayload m) = some t →
          exec .messageDelivery s = .next t) ∧
      (∀ f p, a.load = .flit f → a.flag = false → s.admin.ports[a.a]? = some p →
        let s1 := s.setPort a.a (p.receive f)
        (flitIntact f = true → f.seq = p.expect → exec .flitReceive s = .next (s1.takeFlit f).payCredits) ∧
        (flitIntact f = false ∨ f.seq ≠ p.expect → exec .flitReceive s = .next s1.payCredits)) ∧
      (∀ (p : Port) (f : Flit),
        (flitIntact f = false → p.receive f = { p with replay := true }) ∧
        (flitIntact f = true → f.seq = p.expect → (p.receive f).expect = p.expect + 1 ∧ (p.receive f).accepted = p.accepted ++ [(f.cls, f.payload)]) ∧
        (flitIntact f = true → f.seq ≠ p.expect → (p.receive f).expect = p.expect ∧ (p.receive f).accepted = p.accepted)) ∧
      ∀ n p, a.load = .link (.heddle n) → s.admin.ports[n]? = some p → a.b < 8 → 4 ≤ p.lanes - a.a →
        exec .laneRepair s = .next (({ s with admin := { s.admin with devlog := s.admin.devlog ++ [.laneRepair (.heddle n)] } } : State).setPort n
          { p with lanes := p.lanes - a.a, unacked := [], replay := false })) ∧
  (
    ∀ s : State,
      let a := s.args
      let p := s.pch a.a a.b
      let admin (f : Admin → Admin) (s : State) : State := { s with admin := f s.admin }
      let event (e : DevEvent) (s : State) : State := { s with admin := { s.admin with devlog := s.admin.devlog ++ [e] } }
      let due (r : RowErrors) : Bool := r.uncorrectable || 4 ≤ r.corrected
      let here (r : RowErrors) : Bool := r.stack == a.a && r.pch == a.b && r.bank == a.c && r.row == a.value.toNat
      (∀ found, a.load = .scrub found → a.flag = false → exec .scrubPeriod s = .next (found.foldl State.scrubFind
        (admin (fun x => { x with rowErrors := x.rowErrors.filter due }) s))) ∧
      (∀ found, a.load = .scrub found → a.flag = true → exec .scrubPeriod s = .next (found.foldl State.scrubFind s)) ∧
      (p.owner = none → (∃ r ∈ s.admin.rowErrors, here r = true ∧ due r = true) →
        (8 ≤ p.repaired.getD a.c 0 → exec .rowRepair s = .next (s.setPch { p with retiring := true })) ∧
        (p.repaired.getD a.c 0 < 8 →
          let s1 := admin (fun x => { x with rowErrors := x.rowErrors.filter fun r => !here r }) s
          exec .rowRepair s = .next (event (.rowRepair a.a a.b a.c a.value.toNat)
            (s1.setPch { p with repaired := p.repaired.set a.c (p.repaired.getD a.c 0 + 1) })))) ∧
      (p.owner = none → (∀ r ∈ s.admin.rowErrors, here r = true → due r = false) → exec .rowRepair s = .next s) ∧
      (∀ e, a.load = .array e → exec .coreLogicError s = .next (s.arrayError e)) ∧
      (∀ k, s.admin.sparesUsed[dieOfCore a.a]? = some k → k - a.c < 4 → a.flag = false → a.load = .none →
        exec .coreLogicError s = .next (event (.coreTransfer a.a) (admin (fun x =>
          { x with sparesUsed := x.sparesUsed.set (dieOfCore a.a) (k - a.c + 1) })
          ((s.warps.filter fun w => w.inSlot a.a (a.bytes.map (·.toNat))).foldl State.flagged s)))) ∧
      (∀ k, s.admin.sparesUsed[dieOfCore a.a]? = some k → 4 ≤ k - a.c → a.flag = false → a.load = .none → a.bytes = [] →
        exec .coreLogicError s = .next (s.loseCore a.a)) ∧
      (a.flag = true → a.load = .none → exec .coreLogicError s = .next (s.loseSillCore a.a a.b)) ∧
      (p.retiring = false → a.flag = false → exec .pseudoChannelRetirement s = .next s) ∧
      (∀ f, s.frontEnds[a.a]? = some f → p.owner = none → p.missing = false → a.b < 62 → (p.retiring = true ∨ a.flag = true) →
        (2 ≤ f.sparesUsed → exec .pseudoChannelRetirement s = .next (s.dropPch a.a a.b)) ∧
        (f.sparesUsed < 2 →
          let z := Pch.fresh a.a a.b
          let s1 := s.setPch
            { p with phys := 62 + f.sparesUsed, lanes := z.lanes, corrected := z.corrected, uncorrectable := z.uncorrectable,
                     repaired := z.repaired, retiring := false }
          exec .pseudoChannelRetirement s = .next (event (.retirement a.a a.b)
            ((admin (fun x => { x with rowErrors := x.rowErrors.filter fun r => !(r.stack == a.a && r.pch == a.b) }) s1).modFront a.a fun f =>
              { f with sparesUsed := f.sparesUsed + 1 })))) ∧
      (let limited : Admin := if s.admin.limiting = true then s.admin else { s.admin with limiting := true, before := s.admin.clusters };
        (a.flag = true → (∃ x ∈ s.admin.clusters, 1200 < x) →
          exec .powerLimitStep s = .next (admin (fun _ => { limited with clusters := s.admin.clusters.map (stepDown 1200) }) s)) ∧
        (a.flag = true → (∀ x ∈ s.admin.clusters, x ≤ 1200) →
          exec .powerLimitStep s = .next (admin (fun x => { limited with hold := min 15 (x.hold + 1), sill := x.sill.map (stepDown 800) }) s))) ∧
      (a.flag = false → s.admin.limiting = false → exec .powerLimitStep s = .next s) ∧
      (a.flag = false → s.admin.limiting = true → (∃ x ∈ s.admin.sill, x < 1600) →
        exec .powerLimitStep s = .next (admin (fun x => { x with sill := x.sill.map (stepUp 1600) }) s)) ∧
      (a.flag = false → s.admin.limiting = true → (∀ x ∈ s.admin.sill, 1600 ≤ x) → s.admin.hold ≠ 0 →
        exec .powerLimitStep s = .next (admin (fun x => { x with hold := x.hold - 1 }) s)) ∧
      (a.flag = false → s.admin.limiting = true → (∀ x ∈ s.admin.sill, 1600 ≤ x) → s.admin.hold = 0 →
        let cs := (List.zip s.admin.before s.admin.clusters).map fun x => stepUp x.1 x.2
        (cs ≠ s.admin.before → exec .powerLimitStep s = .next (admin (fun x => { x with clusters := cs }) s)) ∧
        (cs = s.admin.before → exec .powerLimitStep s = .next (admin (fun x => { x with clusters := cs, limiting := false, before := [] }) s))) ∧
      (a.flag = true → exec .packageReset s = .next (admin (fun x => { x with wiping := false }) s)) ∧
      (a.flag = false → ∃ t, exec .packageReset s = .next t ∧ t.mem = s.mem.filter (fun x => isPeer x.1) ∧
        t.poison = s.poison.filter Loc.outside ∧ t.timebase = 0 ∧ t.warps = [] ∧ t.blocks = [] ∧ t.launches = [] ∧
        t.admin.owner = none ∧ t.admin.lifecycle = s.admin.lifecycle ∧ t.admin.wiping = true ∧ t.hostMem = s.hostMem))

/-! ### Aderic's commands -/

/-- R431 to R436, R404, R405: ownership, attestation, state, life cycle and partition commands: each answers status 0 with
its effect where its requester may issue it and its fields are in range. The layouts of STATUS and READLOG payloads are left
open (log 17), the report's digests and signature are opaque (log 15). R431: a command that arrives while an earlier one is
not answered waits; one whose code, length or zero bytes are malformed answers 2. R432, R433, R435: a device command answers 1
to a requester that is not the owner, 4 in life-cycle state 0 from other than Bexfort and in state 3; a command of a function
answers 1 to others than the owner and it through its own mailbox; none of these has any effect, and their order is log 53's.
R404, R436: a wipe leaves the host's memory and the peers' bytes that State holds (log 19); until it is complete only STATUS
is accepted, and the status that the other commands get is log 53's free value. -/
def Obligations.DeviceCommands : Prop :=
  (
    ∀ s : State,
      let r := s.args.cmd.req
      let answers (t : State) (status : Nat) (p : List Byte) : State := { t.unhold with admin := { t.admin with
        responses := t.admin.responses ++ [{ req := r, via := s.args.cmd.via, tag := s.args.cmd.tag, status := status, payload := p }] } }
      let owner (o : Option Requester) : State := { s with admin := { s.admin with owner := o } }
      let live : Prop := s.admin.lifecycle ≠ 3
      let device : Prop := live ∧ s.admin.owner = some r ∧ (s.admin.lifecycle = 0 → isBexfort r = true)
      s.commandWaits = false → s.admin.wiping = false → headerOk s.args.cmd = true →
      (live → s.admin.owner = none → exec .cmdClaim s = .next (answers (owner (some r)) 0 [])) ∧
      (live → s.admin.owner ≠ none → exec .cmdClaim s = .next (answers s 1 [])) ∧
      (device → ∀ x, s.args.load = .requester x → exec .cmdHandover s = .next (answers (owner (some x)) 0 [])) ∧
      (device → exec .cmdRelease s = .next (answers (owner none) 0 [])) ∧
      (s.args.bytes.length = 64 →
        exec .cmdMeasure s = .next (answers s 0 (s.args.bytes ++ s.measures ++ Config.signature (s.args.bytes ++ s.measures)))) ∧
      (exec .cmdGetcert s = .next (answers s 0 Config.certificate)) ∧
      (∃ p, exec .cmdStatus s = .next (answers s 0 p)) ∧
      (live → ∃ p, exec .cmdReadlog s = .next (answers s 0 p)) ∧
      ((s.admin.owner = some r ∧ (s.admin.lifecycle = 0 → isBexfort r = true)) →
        (s.admin.lifecycle = 0 ∧ s.args.a = 1) ∨ (s.admin.lifecycle = 1 ∧ s.args.a = 2) ∨ (s.admin.lifecycle = 2 ∧ s.args.a = 3) ∨
          (s.admin.lifecycle = 3 ∧ s.args.a = 1) →
        exec .cmdLifecycle s = .next (answers { s.wipe with admin := { s.wipe.admin with lifecycle := s.args.a, wiping := true } } 0 [])) ∧
      (device → (s.args.a = 1 ∨ s.args.a = 2 ∨ s.args.a = 4) → s.args.a ≠ s.admin.mode → s.idle = true →
        ∃ t, exec .cmdPartition s = .next (answers t 0 []) ∧ t.admin.mode = s.args.a ∧
          t.mem = s.mem.filter (fun x => isPeer x.1) ∧ t.poison = s.poison.filter Loc.outside ∧ t.tlb = [] ∧
          t.hostMem = s.hostMem ∧
          t.admin.deadCores = [] ∧ (∀ q ∈ t.admin.queues, q.reported = [] ∧ q.cancelled = []) ∧
          t.pointers = [0, 11, 22, 33]) ∧
      (device → s.args.a ≠ s.admin.mode → (s.args.a = 1 ∨ s.args.a = 2 ∨ s.args.a = 4) → s.idle = false →
        exec .cmdPartition s = .next (answers s 3 []))) ∧
  (
    ∀ s : State,
      let r := s.args.cmd.req
      let answers (status : Nat) : State := { s.unhold with admin := { s.admin with
        responses := s.admin.responses ++ [{ req := r, via := s.args.cmd.via, tag := s.args.cmd.tag, status := status, payload := [] }] } }
      let all : List Instr := [Instr.cmdClaim, .cmdHandover, .cmdRelease, .cmdMeasure, .cmdGetcert, .cmdStatus, .cmdReadlog, .cmdPartition,
        .cmdFunction, .cmdGrant,
            .cmdInval, .cmdMigrate, .cmdRegion, .cmdAlloc, .cmdReserve, .cmdSplit, .cmdScrub, .cmdSlice, .cmdBucket, .cmdLogctl,
              .cmdCancel, .cmdPower,
            .cmdBudget, .cmdLifecycle]
      ∀ i : Instr,
        (i ∈ all → i ≠ .cmdStatus → s.admin.wiping = true → ∃ st, st ∈ [1, 2, 3, 4, 5] ∧
          exec i s = .next { s.unhold with free := s.free + 1, admin := { s.admin with
            responses := s.admin.responses ++ [{ req := r, via := s.args.cmd.via, tag := s.args.cmd.tag, status := st, payload := [] }] } }) ∧
        (i ∈ all → s.admin.wiping = false → s.commandWaits = true → exec i s = .next (s.hold i)) ∧
        (i ∈ all → s.admin.wiping = false → s.commandWaits = false → headerOk s.args.cmd = false → exec i s = .next (answers 2)) ∧
        (s.commandWaits = false → s.admin.wiping = false → headerOk s.args.cmd = true →
        (i ∈ [Instr.cmdHandover, .cmdRelease, .cmdPartition, .cmdFunction, .cmdGrant, .cmdReserve, .cmdSplit, .cmdScrub, .cmdSlice,
          .cmdBucket, .cmdPower,
            .cmdBudget] →
          (s.admin.lifecycle = 3 → exec i s = .next (answers 4)) ∧
          (s.admin.lifecycle = 0 → isBexfort r = false → exec i s = .next (answers 4)) ∧
          (s.admin.lifecycle ≠ 3 → (s.admin.lifecycle = 0 → isBexfort r = true) → s.admin.owner ≠ some r → exec i s = .next (answers 1))) ∧
        (i ∈ [Instr.cmdInval, .cmdMigrate, .cmdRegion, .cmdAlloc, .cmdLogctl, .cmdCancel] →
          (s.admin.lifecycle = 3 → exec i s = .next (answers 4)) ∧
          (s.admin.lifecycle ≠ 3 → s.admin.owner ≠ some r → (r ≠ .function s.args.a ∨ s.args.cmd.via ≠ .mailbox s.args.a) →
            exec i s = .next (answers 1)))))

/-- R315, R325, R364, R372, R383, R397, R398, R400, R403, R406, R407, R414, R417, R421, R429, R438, R440, R347, R348: the
commands that set the device and its functions up, from a requester that may issue them and with fields in range, each answer
status 0 with their effect. That GRANT sets a route's port and the device's number is log 67's choice. R400: INVAL is
answered once no region of the function buffers a store. R403: MIGRATE marks the entries and is answered by the switch that
follows. -/
def Obligations.SetupCommands : Prop :=
  ∀ s : State,
    let a := s.args
    let r := a.cmd.req
    let answers (t : State) (p : List Byte) : State := { t.unhold with admin := { t.admin with
      responses := t.admin.responses ++ [{ req := r, via := a.cmd.via, tag := a.cmd.tag, status := 0, payload := p }] } }
    let admin (f : Admin → Admin) : State := { s with admin := f s.admin }
    let device : Prop := s.admin.lifecycle ≠ 3 ∧ s.admin.owner = some r ∧ (s.admin.lifecycle = 0 → isBexfort r = true)
    let mine : Prop := s.admin.lifecycle ≠ 3 ∧ (s.admin.owner = some r ∨ r = .function a.a ∧ a.cmd.via = .mailbox a.a)
    s.commandWaits = false → s.admin.wiping = false → headerOk a.cmd = true →
    (device → ∀ fn partition root pasid rings queues, a.load = .function (.create fn partition root pasid rings queues) →
      s.functionOk fn partition root pasid rings queues = true → s.fn? fn = none → (∀ q ∈ queues, ∀ x ∈ s.admin.queues, x.num ≠ q.1) →
      exec .cmdFunction s = .next (answers (s.createFunction fn partition root pasid rings queues) [])) ∧
    (device → ∀ fn f, a.load = .function (.destroy fn) → s.fn? fn = some f → s.fnBusy fn = false →
      exec .cmdFunction s = .next (answers (s.destroyFunction fn) [])) ∧
    (device → ∀ fn f base len, a.load = .grant (.frames fn base len) → s.fn? fn = some f → base % 4096 = 0 → len % 4096 = 0 →
      (∃ k, stackOf base = some k ∧ s.stackIn fn k = true) → (len ≠ 0 → stackOf (base + len - 1) = stackOf base) →
      exec .cmdGrant s = .next (answers (s.modFn fn fun f => { f with frames := f.frames ++ [(base, len)] }) [])) ∧
    (device → ∀ fn f i g, a.load = .grant (.storage fn i g) → s.fn? fn = some f → i < 256 → grantOk g = true →
      let t := s.modFn fn fun f => { f with grants := f.grants.filter (·.1 != i) ++ [(i, g)] }
      exec .cmdGrant s = .next (answers { t with admin := { t.admin with nvme := t.admin.nvme.filter fun x => !(x.fn == fn && x.grant == i) } } [])) ∧
    (device → ∀ peer len, a.load = .grant (.heddle peer len) → peer < 256 → len ≤ 2 ^ 40 →
      exec .cmdGrant s = .next (answers (admin fun x => { x with windows := x.windows.filter (·.1 != peer) ++ [(peer, len)] }) [])) ∧
    (device → ∀ device' port, a.load = .grant (.route device' port) → device' < 256 → port < 16 →
      exec .cmdGrant s = .next (answers (admin fun x => { x with routes := x.routes.filter (·.1 != device') ++ [(device', port)] }) [])) ∧
    (device → ∀ n, a.load = .grant (.device n) → n < 256 → exec .cmdGrant s = .next (answers (admin fun x => { x with device := n }) [])) ∧
    (mine → ∀ f, s.fn? a.a = some f →
      (s.buffered a.a = false → exec .cmdInval s = .next (answers (s.invalidate a.a a.value.toNat a.b) [])) ∧
      (s.buffered a.a = true → exec .cmdInval s = .next ((s.invalidate a.a a.value.toNat a.b).hold .cmdInval))) ∧
    (mine → ∀ m, s.migrations.find? (fun m => m.fn == a.a && m.page ≤ a.value.toNat && a.value.toNat < m.page + 2 ^ m.size) = some m →
      exec .cmdMigrate s = .next (answers (s.migrate m) [])) ∧
    (mine → ∀ f l, s.migrations.find? (fun m => m.fn == a.a && m.page ≤ a.value.toNat && a.value.toNat < m.page + 2 ^ m.size) = none →
      s.fn? a.a = some f → s.walk a.a a.value.toNat false true 4 f.root = .ok l → bitAt l.pte 6 = false → pteAttr l.pte = 0 →
      bitAt l.pte 7 ≠ a.flag → isPeer (ptePa l.pte) = false → a.b % 2 ^ l.size = 0 → a.b < 2 ^ 52 →
        (a.flag = true ∨ s.granted a.a a.b (2 ^ l.size) = true) →
      exec .cmdMigrate s = .next ((s.startMigration a.a l a.flag a.b).hold .cmdMigrate)) ∧
    (mine → ∀ f i b, a.load = .region (.create i b) → s.fn? a.a = some f → i < 65536 → s.descriptorOk a.a b = true →
      (∀ x ∈ s.regions, ¬(x.fn = a.a ∧ x.index = i)) →
      let d := (RegionDesc.parse b).filled
      let x : Region := { fn := a.a, index := i, desc := d, slabs := (List.range (roundUp (d.shape.headD 1) d.slabRows / d.slabRows)).map d.slab }
      exec .cmdRegion s = .next (answers { s with regions := s.regions ++ [x] } (leBytes 4 (d.gen * 65536 + i)))) ∧
    (mine → ∀ va len frame es, a.load = .alloc (.sill va len frame) → va % 4096 = 0 → len % 4096 = 0 → frame % 4096 = 0 → canonical va = true →
      s.granted a.a frame len = true → s.entriesFrom a.a va (len / 4096) = some es →
      exec .cmdAlloc s = .next (answers (s.mapPages a.a es (fun i => frame + 4096 * i + 5) 1) [])) ∧
    (device → a.a < 12 → a.b ≤ 131072 → exec .cmdReserve s = .next (answers (s.modFront a.a fun f => { f with reserve := a.b }) [])) ∧
    (device → a.a < 12 → a.b < 62 → 0 < a.c → a.c < 8 → a.flag = false →
      exec .cmdSplit s = .next (answers (s.setPch ((s.pch a.a a.b).setSplit a.c)) [])) ∧
    (device → 1 ≤ a.a → a.a ≤ 168 → exec .cmdScrub s = .next (answers (admin fun x => { x with scrubHours := a.a }) [])) ∧
    (device → ∀ f, s.fn? a.a = some f → 100 ≤ a.b → a.b ≤ 100000 →
      exec .cmdSlice s = .next (answers (s.modFn a.a fun f => { f with slice := a.b }) [])) ∧
    (device → ∀ f, s.fn? a.a = some f → a.b < 12 → exec .cmdBucket s = .next (answers (s.setBucket a.a a.b (Machine.word a.value.toNat)) [])) ∧
    (mine → ∀ f, s.fn? a.a = some f → a.value.toNat % 64 = 0 → logBlockOk (s.readLocs ((Loc.dev a.value.toNat).span 64)) = true →
      exec .cmdLogctl s = .next (answers (s.modFn a.a fun f => { f with log := some a.value }) [])) ∧
    (mine → ∀ q t, s.queue? a.b = some q → q.fn = a.a → a.c < 4 → s.cancelIdent q a.c a.value.toNat = some t →
      exec .cmdCancel s = .next (answers t [])) ∧
    (device → 1200 ≤ a.a → a.a ≤ 2400 → ∃ p, exec .cmdPower s = .next (answers (admin fun x => { x with powerLimit := a.a }) p)) ∧
    (device → a.a ≤ 19200 → exec .cmdBudget s = .next (answers (admin fun x => { x with budget := a.a }) []))

/-! ### The whole machine -/

/-- R39, R43, R58, R386: where nothing waits on the agenda and the executing agent's running split stands in a clause that it
has begun and is ready, and no carried trap falls due, step runs exactly the instruction that the word at its slot decodes
to, in the state that the fetch's translation leaves; a word that the decoder refuses has no effect but the trap of check 3.
A warp of a block that is asked for its core is taken instead where it can be. An event of the agenda is performed first (log
2). -/
def Obligations.StepRunsDecoded : Prop :=
  (∀ (s s1 : State) (c : Ctx) (x : Word), s.agenda = [] → s.ctx? = some c → c.sp.begun = true → s.splitReady c.w c.k = true → c.pendingTrap = none →
    c.w.slab = none → takeFirst s c = none → s.fetchWord c.w (c.sp.pc.toNat + 4 * c.sp.slot) = .ok (s1, x) →
    (∀ i, decode x = .ok i → step s = exec i s1) ∧
    (∀ e, decode x = .error e → c.guest = false → (opcodeProfile x.opcode = .main → c.native = false) →
      (opcodeProfile x.opcode = .native → c.native = true) →
      (opcodePrivileged x.opcode = true → c.w.tenant = false) →
      step s = .next (s1.takeTrap c.w.uid c.k 1 (illegalInfo x.opcode 25) c.sp.pc c.sp.slot))) ∧
  (∀ (s : State) (c : Ctx), (∀ b, s.block? c.w.block = some b → b.preempt ≠ .requested) → takeFirst s c = none) ∧
  (∀ (s t : State) (c : Ctx) (b : Block), s.agenda = [] → s.ctx? = some c → c.sp.begun = true → s.splitReady c.w c.k = true →
    s.block? c.w.block = some b → b.preempt = .requested → exec .warpTaken { s with args := { a := c.w.uid, b := 0 } } = .next t →
    { t with args := s.args } ≠ s → step s = .next t) ∧
  ∀ (s : State) (e : Event) (rest : List Event), s.agenda = e :: rest → step s = exec e.row { s with agenda := rest, args := e.args }

/-- Words written out from the encodings of R49, R50 and R54 decode to the instructions that they stand for: worked examples of the spec. -/
def Obligations.DecodedWords : Prop :=
  decode 0x00000000#32 = .ok .nop ∧
  decode 0x30103C00#32 = .ok (.movi { d := 2, imm := 0x3C00 }) ∧
  decode 0x3B100100#32 = .ok (.smovi { d := 2, imm := 0x100 }) ∧
  decode 0x2D080402#32 = .ok (.shli { d := 1, a := 0, pa := 0, la := true, imm := 2 }) ∧
  decode 0x87104100#32 = .ok (.sts { d := 2, base := 1, lb := false, imm := 0x100 }) ∧
  decode 0x20398400#32 = .ok (.popc { d := 7, a := 6, pa := 0, la := true, b := 0, pb := 0, lb := false, bs := false })

/-- The memories of the package are wiped at reset, the device has no owner and TIMEBASE is 0 (R29, R433, R436); host memory
has no reset value in the spec, and that it reads 0 is the model's choice (log 5, DESIGN CHOICE); a new agent starts with
registers, predicates and flags zero, every mode register at 0x8 and the carry masks of R126 (R12, R20, R21, R22, R25, R34).
-/
def Obligations.ResetAndStart : Prop :=
  (State.reset.mem = [] ∧ State.reset.hostMem = [] ∧ State.reset.poison = [] ∧ State.reset.tlb = [] ∧ State.reset.stripes = [] ∧
    State.reset.warps = [] ∧ State.reset.blocks = [] ∧ State.reset.pchs = [] ∧ State.reset.timebase = 0 ∧ State.reset.admin.owner = none ∧
    State.reset.canonical) ∧
  ∀ (uid : Nat) (kind : Kind) (entry : Dword) (lanes : Mask),
    let w := startWarp uid kind entry lanes
    w.shaped ∧ (∀ r l, (w.reg r).val.getD l 0 = 0) ∧ (∀ r, w.sreg r = 0) ∧ (∀ n, w.p.getD n 0 = 0) ∧ (∀ n, w.f.getD n 0 = 0) ∧
    (∀ n, n < 4 → w.m.getD n 0 = 0x8) ∧ w.carryV = 0xFFF ∧ w.carryS = 0x1E ∧ w.sticky = 0 ∧
    (w.splits.headD Split.free).pc = entry ∧ (w.splits.headD Split.free).lanes = lanes ∧
    (kind = .main → ∀ r, (w.reg r).live = false) ∧ (kind = .native → ∀ r, r < 32 → (w.reg r).live = true)

/-- R48 to R56, R58: the decoder gives back every well-formed instruction that has a word, with every operand at every value;
and a word that it accepts is that instruction's only word. -/
def Obligations.DecodeEncode : Prop :=
  ∀ (i : Instr) (w : Word),
    (i.wellFormed = true → encode i = some w → decode w = .ok i) ∧ (decode w = .ok i → i.wellFormed = true ∧ encode i = some w) ∧
    ∀ j, i.wellFormed = true → j.wellFormed = true → encode i = some w → encode j = some w → i = j

/-- R38, R60: an integer TYPE's elements have its width and range; roundT wraps to the width, or with SAT clamps to the range
and sets SATD where it clamped, and sets nothing else; and the elements of a packed result are the results of the elements.
-/
def Obligations.IntegerRounding : Prop :=
  (∀ t : Ty, t.isInt = true →
    t.minVal = (if t.signed = true then -(2 ^ (t.width - 1) : Int) else 0) ∧
    t.maxVal = (if t.signed = true then 2 ^ (t.width - 1) - 1 else 2 ^ t.width - 1) ∧
    ∀ x : Int,
      (roundInt t false x).2 = 0 ∧ (((roundInt t false x).1 : Nat) : Int) = x % 2 ^ t.width ∧
      t.read (roundInt t true x).1 = max t.minVal (min t.maxVal x) ∧
      (roundInt t true x).2 = (if t.minVal ≤ x ∧ x ≤ t.maxVal then 0 else stSATD)) ∧
  ∀ (width count : Nat) (f : Nat → Res), width ∈ [8, 16, 32, 64] → width * count ≤ 64 → (∀ e, (f e).1 < 2 ^ width) →
    ∀ e, e < count → elemAt width e (perElem width count f).1 = (f e).1

/-- R20, R60, R101, R104 to R106: under TYPE i32 with SAT 0 the results of the named V3, VI, SL and S3 instructions are
32-bit two's-complement arithmetic: what the next state's registers hold, in the active lanes; the others keep their values.
Sources that a last-read frees have no clause here. -/
def Obligations.WordResults : Prop :=
  let lane (i : Instr) (opc : Nat) (uses : List Use) (d : BitVec 5) (f : Ctx → Nat → Word) : Prop :=
    ∀ s c t x, s.ctx? = some c → Running c → c.w.shaped → c.ty = .i32 → modeSat c.m = false →
      Admitted c opc uses → exec i s = .next t → t.warp? c.w.uid = some x →
      ∀ l, l < 32 → (x.reg d.toNat).val.getD l 0 =
        if hasLane c.act l = true then f c l
        else if c.w.renames = true ∧ (c.w.reg d.toNat).live = false then 0 else (c.w.reg d.toNat).val.getD l 0
  let lanewise (i : V3 → Instr) (opc : Nat) (f : Word → Word → Word) : Prop := ∀ o : V3, o.la = false → (o.bs = true ∨ o.lb = false) →
    lane (i o) opc (v3Uses o 1 1 1) o.d fun c l => f (Machine.word (c.aval o false l)) (Machine.word (c.bval o false l))
  let immediate (i : VI → Instr) (opc : Nat) (f : Word → Word → Word) : Prop := ∀ o : VI, o.la = false →
    lane (i o) opc (viUses o 1 1) o.d fun c l => f (Machine.word (c.viVal o false l)) (o.imm.signExtend 32)
  let scalarwise (i : S3 → Instr) (opc : Nat) (f : Word → Word → Word) : Prop :=
    ∀ o s c t x, s.ctx? = some c → Running c → c.w.shaped → Admitted c opc [sdst o.d 1, ssrc o.a 1, ssrc o.b 1] → exec (i o) s = .next t →
      t.warp? c.w.uid = some x → ∀ r, x.sreg r = if r = o.d.toNat ∧ r ≠ 0 then f (c.w.sreg o.a.toNat) (c.w.sreg o.b.toNat) else c.w.sreg r
  lanewise .iadd 0x10 (· + ·) ∧ lanewise .isub 0x11 (· - ·) ∧ lanewise .imul 0x12 (· * ·) ∧ lanewise .and 0x17 (· &&& ·) ∧
  lanewise .or 0x18 (· ||| ·) ∧ lanewise .xor 0x19 (· ^^^ ·) ∧
  immediate .iaddi 0x29 (· + ·) ∧ immediate .andi 0x2A (· &&& ·) ∧ immediate .ori 0x2B (· ||| ·) ∧ immediate .xori 0x2C (· ^^^ ·) ∧
  (∀ o : SL, lane (.movi o) 0x30 [vdst o.d 1] o.d fun _ _ => o.imm.signExtend 32) ∧
  (∀ o : SL, lane (.movhi o) 0x31 [vacc o.d 1] o.d fun c l => (o.imm.setWidth 32 <<< 19) ||| (c.lane o.d.toNat l &&& 0x7FFFF)) ∧
  lanewise .imin 0x15 (fun a b => if a.sle b = true then a else b) ∧ lanewise .imax 0x16 (fun a b => if b.sle a = true then a else b) ∧
  scalarwise .sadd 0x32 (· + ·) ∧ scalarwise .ssub 0x33 (· - ·) ∧ scalarwise .smul 0x34 (· * ·) ∧ scalarwise .sand 0x35 (· &&& ·) ∧
  scalarwise .sor 0x36 (· ||| ·) ∧ scalarwise .sxor 0x37 (· ^^^ ·)

/-- R11, R13, R20, R21, R41, R44, R86: the frame of the named instructions that only write registers, by shape, and of NOP
and BRAU, which write none: integer and float arithmetic, functions and comparisons, bitwise operations, SEL, immediate
forms, moves of immediates and scalar operations. Everything but the destination (for a last-read name, its freeing) is left
as it was, memory with it. FDOT2, FLDEXP, FCLASS, FEXPT, the conversions, the reductions and the operations across lanes have
no clause here. -/
def Obligations.RegisterFrames : Prop :=
  let none' (_ : Ctx) : List Nat := []
  let pairOf (d : BitVec 5) (p : Bool) : List Nat := if p then [d.toNat, d.toNat + 1] else [d.toNat]
  let n (c : Ctx) : Nat := pairs c.ty.pair
  let k (c : Ctx) : Nat := pairs c.ty.intPair
  let binary (ok : Ty → Bool) (i : V3 → Instr) (opc : Nat) : Prop :=
    ∀ o, Frames (i o) opc (fun c => v3Uses o (n c) (n c) (n c)) (fun c => ok c.ty = true) (fun c => pairOf o.d c.ty.pair) none' none'
  let fused (ok : Ty → Bool) (i : V3 → Instr) (opc : Nat) : Prop :=
    ∀ o, Frames (i o) opc (fun c => v3AccUses o (n c) (n c) (n c)) (fun c => ok c.ty = true) (fun c => pairOf o.d c.ty.pair) none' none'
  let unary (ok : Ty → Bool) (i : V3 → Instr) (opc : Nat) : Prop :=
    ∀ o, Frames (i o) opc (fun c => unUses o (n c) (n c)) (fun c => ok c.ty = true) (fun c => pairOf o.d c.ty.pair) none' none'
  let bitwise (i : V3 → Instr) (opc : Nat) : Prop :=
    ∀ o, Frames (i o) opc (fun c => v3Uses o (k c) (k c) (k c)) always (fun c => pairOf o.d c.ty.intPair) none' none'
  let compares (ok : Ty → Bool) (i : V3 → Instr) (opc : Nat) : Prop :=
    ∀ o, Frames (i o) opc (fun c => cmpUses o (n c)) (fun c => ok c.ty = true) none' none' (fun _ => [o.d.toNat % 8])
  let immediate (i : VI → Instr) (opc : Nat) : Prop :=
    ∀ o, Frames (i o) opc (fun c => viUses o (n c) (n c)) (fun c => c.ty.isInt = true) (fun c => pairOf o.d c.ty.pair) none' none'
  let bits (i : VI → Instr) (opc : Nat) : Prop :=
    ∀ o, Frames (i o) opc (fun c => viUses o (k c) (k c)) always (fun c => pairOf o.d c.ty.intPair) none' none'
  let scalar (i : S3 → Instr) (opc : Nat) : Prop :=
    ∀ o, Frames (i o) opc (fun _ => [sdst o.d 1, ssrc o.a 1, ssrc o.b 1]) always none' (fun _ => if o.d = 0 then [] else [o.d.toNat]) none'
  (binary Ty.isInt .iadd 0x10 ∧ binary Ty.isInt .isub 0x11 ∧ binary Ty.isInt .imul 0x12 ∧ binary Ty.isInt .imulh 0x13 ∧ fused Ty.isInt .imad 0x14 ∧
    binary Ty.isInt .imin 0x15 ∧ binary Ty.isInt .imax 0x16 ∧ bitwise .and 0x17 ∧ bitwise .or 0x18 ∧ bitwise .xor 0x19 ∧ bitwise .andn 0x1A ∧
    binary Ty.isInt .shl 0x1B ∧ binary Ty.isInt .shr 0x1C ∧ binary Ty.isInt .sar 0x1D ∧ unary Ty.isInt .iabs 0x1F ∧ unary Ty.isInt .popc 0x20 ∧
    unary Ty.isInt .clz 0x21 ∧ unary Ty.isInt .brev 0x22 ∧
    ∀ o : V3, Frames (.sel o) 0x1E (fun c => (v3Uses o (k c) (k c) (k c)).map fun u => { u with all := true }) always
      (fun c => pairOf o.d c.ty.intPair) none' none') ∧
  (immediate .iaddi 0x29 ∧ bits .andi 0x2A ∧ bits .ori 0x2B ∧ bits .xori 0x2C ∧ immediate .shli 0x2D ∧ immediate .shri 0x2E ∧
    immediate .sari 0x2F ∧
    (∀ o : SL, Frames (.movi o) 0x30 (fun _ => [vdst o.d 1]) always (fun _ => [o.d.toNat]) none' none') ∧
    ∀ o : SL, Frames (.movhi o) 0x31 (fun _ => [vacc o.d 1]) always (fun _ => [o.d.toNat]) none' none') ∧
  (compares Ty.isInt .isetpEq 0x23 ∧ compares Ty.isInt .isetpNe 0x24 ∧ compares Ty.isInt .isetpLt 0x25 ∧ compares Ty.isInt .isetpLe 0x26 ∧
    compares Ty.isInt .isetpGt 0x27 ∧ compares Ty.isInt .isetpGe 0x28) ∧
  (scalar .sadd 0x32 ∧ scalar .ssub 0x33 ∧ scalar .smul 0x34 ∧ scalar .sand 0x35 ∧ scalar .sor 0x36 ∧ scalar .sxor 0x37 ∧ scalar .sshl 0x38 ∧
    scalar .sshr 0x39 ∧
    (∀ o : SI, Frames (.saddi o) 0x3A (fun _ => [sdst o.d 1, ssrc o.a 1]) always none' (fun _ => if o.d = 0 then [] else [o.d.toNat]) none') ∧
    ∀ o : SL, Frames (.smovi o) 0x3B (fun _ => [sdst o.d 1]) always none' (fun _ => if o.d = 0 then [] else [o.d.toNat]) none') ∧
  (binary Ty.isFloat .fadd 0x40 ∧ binary Ty.isFloat .fsub 0x41 ∧ binary Ty.isFloat .fmul 0x42 ∧ fused Ty.isFloat .ffma 0x43 ∧
    fused Ty.isFloat .ffms 0x44 ∧ fused Ty.isFloat .fnma 0x45 ∧ binary Ty.isFloat .fmin 0x46 ∧ binary Ty.isFloat .fmax 0x47 ∧
    binary Ty.isFloat .fabsd 0x48 ∧ unary Ty.isFloat .fabs 0x4A ∧ unary Ty.isFloat .fneg 0x4B ∧ unary Ty.isFloat .frnd 0x4C ∧
    binary Ty.isFloat .fcpys 0x50 ∧ unary Ty.isFloat .fsat 0x51 ∧ binary Ty.isFloat .fdiv 0x5A) ∧
  (unary Ty.isFloat .frcp 0x52 ∧ unary Ty.isFloat .frsq 0x53 ∧ unary Ty.isFloat .fsqrt 0x54 ∧ unary Ty.isFloat .fexp2 0x55 ∧
    unary Ty.isFloat .flog2 0x56 ∧ unary Ty.isFloat .fsin 0x57 ∧ unary Ty.isFloat .fcos 0x58 ∧ unary Ty.isFloat .ftanh 0x59) ∧
  (compares Ty.isFloat .fsetpEq 0x5B ∧ compares Ty.isFloat .fsetpNe 0x5C ∧ compares Ty.isFloat .fsetpLt 0x5D ∧ compares Ty.isFloat .fsetpLe 0x5E ∧
    compares Ty.isFloat .fsetpGt 0x5F ∧ compares Ty.isFloat .fsetpGe 0x60 ∧ compares Ty.isFloat .fsetpUn 0x61) ∧
  Frames .nop 0x00 (fun _ => []) always none' none' none' ∧ ∀ o : B, Frames (.brau o) 0x02 (fun _ => []) always none' none' none'

/-- R127 to R129, R133 to R139, R252: the frame of loads and stores. A load leaves every byte as its translation left it; a
store of a lane or of a split changes no byte but those that its addresses cover, which are the resolved accesses of the same
function of the operands, and gives each of them the value of the last lane that names it, where nothing follows from the
write and no region holds it back. -/
def Obligations.MemoryFrames : Prop :=
  let at' (o : M) (c : Ctx) (i : Nat) : Nat := wrapTo 64 (c.val true o.base.toNat i + toSigned 13 o.imm.toNat)
  let flat (o : M) (c : Ctx) : Nat := wrapTo 64 (c.s2 o.base.toNat + toSigned 13 o.imm.toNat)
  let spread (o : MA) (c : Ctx) (i : Nat) : Nat := wrapTo 64 (c.s2 o.a.toNat + (c.lane o.o.toNat i).toNat)
  let near (o : M) (c : Ctx) (i : Nat) : Nat := wrapTo 32 ((c.lane o.base.toNat i).toNat + toSigned 13 o.imm.toNat)
  let n (c : Ctx) : Nat := pairs c.ty.pair
  let whole (c : Ctx) : List Nat := [if c.guest = true then lowLane c.sp.lanes else 0]
  let loads (i : Instr) (opc : Nat) (uses : Ctx → List Use) (ok : Ctx → Prop) (kind : MemKind) (lanes : Ctx → List Nat)
      (target : Ctx → Nat → Option Dest) (address : Ctx → State → Nat → Except AFault (State × Acc)) : Prop :=
    ∀ s c s1 as t, s.ctx? = some c → Running c → Admitted c opc (uses c) → ok c → Unhindered c kind (lanes c) (target c) (address c) s1 as →
      exec i s = .next t → SameBytes s1 t
  let stores (i : Instr) (opc : Nat) (uses : Ctx → List Use) (ok : Ctx → Prop) (kind : MemKind) (lanes : Ctx → List Nat)
      (target : Ctx → Nat → Option Dest) (address : Ctx → State → Nat → Except AFault (State × Acc)) (value : Ctx → Nat → Nat) : Prop :=
    ∀ s c s1 as t, s.ctx? = some c → Running c → Admitted c opc (uses c) → ok c → Unhindered c kind (lanes c) (target c) (address c) s1 as →
      c.w.region = none → s1.canonical → s1.unwatched → (∀ k b, Loc.view k b ∉ stored as) →
      (∀ b k, Loc.scr b k ∈ stored as → (s1.block? b).isSome = true) → (∀ u k, Loc.lds u k ∈ stored as → (s1.warp? u).isSome = true) →
      (∀ k x, Loc.stripe k x ∈ stored as → ∃ m, s1.stripes.find? (·.frame == k) = some m) → exec i s = .next t →
      (∀ l, l ∉ stored as → t.readByte l = s1.readByte l) ∧
      ∀ l b, ((accWrites as (value c)).reverse.find? (·.1 == l)).map (·.2) = some b →
        (∀ k x m, l = .stripe k x → s1.stripes.find? (·.frame == k) = some m → x < m.words * 512) → t.readByte l = b
  (∀ o : M, loads (.ld o) 0x80 (fun c => [vdst o.d (n c), vsrc o.base 0 o.lb 2])
    (fun c => c.ty.isDsb = false) { write := false, migrates := true } active
    (fun c i => c.st.linearTarget c.fn (at' o c i)) fun c s i => c.linear false false true (c.ty.width / 8) s i (at' o c i)) ∧
  (∀ o : M, loads (.sld o) 0x84 (fun c => [sdst o.d (n c), ssrc o.base 2]) (fun c => c.ty.pair = false) { write := false } whole stays
    fun c s i => c.linear false false false 4 s i (flat o c)) ∧
  (∀ o : M, loads (.lds o) 0x86 (fun c => [vdst o.d (n c), vsrc o.base 0 o.lb 1])
    (fun c => c.ty.isDsb = false) { write := false, migrates := true } active
    (fun c i => c.scratchTarget (near o c i)) fun c s i => c.scratch (c.ty.width / 8) s i (near o c i)) ∧
  (∀ o : MA, loads (.gather o) 0x88 (fun c => [vdst o.d (n c), ssrc o.a 2, vsrc o.o 0 o.lo 1])
    (fun c => c.ty.isDsb = false) { write := false } active stays
    fun c s i => c.linear false false false (c.ty.width / 8) s i (spread o c i)) ∧
  (∀ o : M, stores (.st o) 0x82 (fun c => [vsrc o.d 0 false (n c), vsrc o.base 0 o.lb 2])
    (fun c => c.ty.isDsb = false) { write := true, migrates := true }
    active (fun c i => c.st.linearTarget c.fn (at' o c i)) (fun c s i => c.linear true false true (c.ty.width / 8) s i (at' o c i))
    fun c i => c.val c.ty.pair o.d.toNat i) ∧
  (∀ o : M, stores (.st4 o) 0x83 (fun _ => [vsrc o.d 0 false 4, vsrc o.base 0 o.lb 2]) always { write := true } active stays
    (fun c s i => c.linear true false false 16 s i (at' o c i)) fun c i => c.val true o.d.toNat i + 2 ^ 64 * c.val true (o.d.toNat + 2) i) ∧
  (∀ o : M, stores (.sst o) 0x85 (fun c => [ssrc o.d (n c), ssrc o.base 2]) always { write := true } whole stays
    (fun c s i => c.linear true false false (if c.ty.pair = true then 8 else 4) s i (flat o c))
    fun c _ => if c.ty.pair = true then c.s2 o.d.toNat else (c.s o.d.toNat).toNat) ∧
  (∀ o : M, stores (.sts o) 0x87 (fun c => [vsrc o.d 0 false (n c), vsrc o.base 0 o.lb 1]) (fun c => c.ty.isDsb = false)
    { write := true, migrates := true } active (fun c i => c.scratchTarget (near o c i)) (fun c s i => c.scratch (c.ty.width / 8) s i (near o c i))
    fun c i => c.val c.ty.pair o.d.toNat i) ∧
  ∀ o : MA, stores (.scatter o) 0x89 (fun c => [vsrc o.d 0 false (n c), ssrc o.a 2, vsrc o.o 0 o.lo 1])
    (fun c => c.ty.isDsb = false) { write := true }
    active stays (fun c s i => c.linear true false false (c.ty.width / 8) s i (spread o c i)) fun c i => c.val c.ty.pair o.d.toNat i
end

