-- ==== Sys2Proof/Laws/State.lean ====
section
/-! SUPPORT. One lemma for each field of State and each operation that replaces a field, and the same for a warp's fields:
later proofs never unfold a record update. Objects by uid: what a replaced object is found as. -/

namespace Sys2Proof.Laws

open Sys2Proof.Machine

/-! ### State.setWarp -/

@[simp] theorem setWarp_mem (s : State) (w : Warp) : (s.setWarp w).mem = s.mem := rfl
@[simp] theorem setWarp_hostMem (s : State) (w : Warp) : (s.setWarp w).hostMem = s.hostMem := rfl
@[simp] theorem setWarp_poison (s : State) (w : Warp) : (s.setWarp w).poison = s.poison := rfl
@[simp] theorem setWarp_origins (s : State) (w : Warp) : (s.setWarp w).origins = s.origins := rfl
@[simp] theorem setWarp_stripes (s : State) (w : Warp) : (s.setWarp w).stripes = s.stripes := rfl
@[simp] theorem setWarp_tlb (s : State) (w : Warp) : (s.setWarp w).tlb = s.tlb := rfl
@[simp] theorem setWarp_ats (s : State) (w : Warp) : (s.setWarp w).ats = s.ats := rfl
@[simp] theorem setWarp_records (s : State) (w : Warp) : (s.setWarp w).records = s.records := rfl
@[simp] theorem setWarp_strongs (s : State) (w : Warp) : (s.setWarp w).strongs = s.strongs := rfl
@[simp] theorem setWarp_blocks (s : State) (w : Warp) : (s.setWarp w).blocks = s.blocks := rfl
@[simp] theorem setWarp_copies (s : State) (w : Warp) : (s.setWarp w).copies = s.copies := rfl
@[simp] theorem setWarp_bankops (s : State) (w : Warp) : (s.setWarp w).bankops = s.bankops := rfl
@[simp] theorem setWarp_launches (s : State) (w : Warp) : (s.setWarp w).launches = s.launches := rfl
@[simp] theorem setWarp_dispatches (s : State) (w : Warp) : (s.setWarp w).dispatches = s.dispatches := rfl
@[simp] theorem setWarp_saved (s : State) (w : Warp) : (s.setWarp w).saved = s.saved := rfl
@[simp] theorem setWarp_growQ (s : State) (w : Warp) : (s.setWarp w).growQ = s.growQ := rfl
@[simp] theorem setWarp_shuttles (s : State) (w : Warp) : (s.setWarp w).shuttles = s.shuttles := rfl
@[simp] theorem setWarp_msgs (s : State) (w : Warp) : (s.setWarp w).msgs = s.msgs := rfl
@[simp] theorem setWarp_regions (s : State) (w : Warp) : (s.setWarp w).regions = s.regions := rfl
@[simp] theorem setWarp_frontEnds (s : State) (w : Warp) : (s.setWarp w).frontEnds = s.frontEnds := rfl
@[simp] theorem setWarp_pchs (s : State) (w : Warp) : (s.setWarp w).pchs = s.pchs := rfl
@[simp] theorem setWarp_pointers (s : State) (w : Warp) : (s.setWarp w).pointers = s.pointers := rfl
@[simp] theorem setWarp_admin (s : State) (w : Warp) : (s.setWarp w).admin = s.admin := rfl
@[simp] theorem setWarp_migrations (s : State) (w : Warp) : (s.setWarp w).migrations = s.migrations := rfl
@[simp] theorem setWarp_pri (s : State) (w : Warp) : (s.setWarp w).pri = s.pri := rfl
@[simp] theorem setWarp_held (s : State) (w : Warp) : (s.setWarp w).held = s.held := rfl
@[simp] theorem setWarp_timebase (s : State) (w : Warp) : (s.setWarp w).timebase = s.timebase := rfl
@[simp] theorem setWarp_cur (s : State) (w : Warp) : (s.setWarp w).cur = s.cur := rfl
@[simp] theorem setWarp_agenda (s : State) (w : Warp) : (s.setWarp w).agenda = s.agenda := rfl
@[simp] theorem setWarp_args (s : State) (w : Warp) : (s.setWarp w).args = s.args := rfl
@[simp] theorem setWarp_free (s : State) (w : Warp) : (s.setWarp w).free = s.free := rfl
@[simp] theorem setWarp_turns (s : State) (w : Warp) : (s.setWarp w).turns = s.turns := rfl
@[simp] theorem setWarp_nextUid (s : State) (w : Warp) : (s.setWarp w).nextUid = s.nextUid := rfl

/-! ### State.setBlock -/

@[simp] theorem setBlock_mem (s : State) (b : Block) : (s.setBlock b).mem = s.mem := rfl
@[simp] theorem setBlock_hostMem (s : State) (b : Block) : (s.setBlock b).hostMem = s.hostMem := rfl
@[simp] theorem setBlock_poison (s : State) (b : Block) : (s.setBlock b).poison = s.poison := rfl
@[simp] theorem setBlock_origins (s : State) (b : Block) : (s.setBlock b).origins = s.origins := rfl
@[simp] theorem setBlock_stripes (s : State) (b : Block) : (s.setBlock b).stripes = s.stripes := rfl
@[simp] theorem setBlock_tlb (s : State) (b : Block) : (s.setBlock b).tlb = s.tlb := rfl
@[simp] theorem setBlock_ats (s : State) (b : Block) : (s.setBlock b).ats = s.ats := rfl
@[simp] theorem setBlock_records (s : State) (b : Block) : (s.setBlock b).records = s.records := rfl
@[simp] theorem setBlock_strongs (s : State) (b : Block) : (s.setBlock b).strongs = s.strongs := rfl
@[simp] theorem setBlock_warps (s : State) (b : Block) : (s.setBlock b).warps = s.warps := rfl
@[simp] theorem setBlock_copies (s : State) (b : Block) : (s.setBlock b).copies = s.copies := rfl
@[simp] theorem setBlock_bankops (s : State) (b : Block) : (s.setBlock b).bankops = s.bankops := rfl
@[simp] theorem setBlock_launches (s : State) (b : Block) : (s.setBlock b).launches = s.launches := rfl
@[simp] theorem setBlock_dispatches (s : State) (b : Block) : (s.setBlock b).dispatches = s.dispatches := rfl
@[simp] theorem setBlock_saved (s : State) (b : Block) : (s.setBlock b).saved = s.saved := rfl
@[simp] theorem setBlock_growQ (s : State) (b : Block) : (s.setBlock b).growQ = s.growQ := rfl
@[simp] theorem setBlock_shuttles (s : State) (b : Block) : (s.setBlock b).shuttles = s.shuttles := rfl
@[simp] theorem setBlock_msgs (s : State) (b : Block) : (s.setBlock b).msgs = s.msgs := rfl
@[simp] theorem setBlock_regions (s : State) (b : Block) : (s.setBlock b).regions = s.regions := rfl
@[simp] theorem setBlock_frontEnds (s : State) (b : Block) : (s.setBlock b).frontEnds = s.frontEnds := rfl
@[simp] theorem setBlock_pchs (s : State) (b : Block) : (s.setBlock b).pchs = s.pchs := rfl
@[simp] theorem setBlock_pointers (s : State) (b : Block) : (s.setBlock b).pointers = s.pointers := rfl
@[simp] theorem setBlock_admin (s : State) (b : Block) : (s.setBlock b).admin = s.admin := rfl
@[simp] theorem setBlock_migrations (s : State) (b : Block) : (s.setBlock b).migrations = s.migrations := rfl
@[simp] theorem setBlock_pri (s : State) (b : Block) : (s.setBlock b).pri = s.pri := rfl
@[simp] theorem setBlock_held (s : State) (b : Block) : (s.setBlock b).held = s.held := rfl
@[simp] theorem setBlock_timebase (s : State) (b : Block) : (s.setBlock b).timebase = s.timebase := rfl
@[simp] theorem setBlock_cur (s : State) (b : Block) : (s.setBlock b).cur = s.cur := rfl
@[simp] theorem setBlock_agenda (s : State) (b : Block) : (s.setBlock b).agenda = s.agenda := rfl
@[simp] theorem setBlock_args (s : State) (b : Block) : (s.setBlock b).args = s.args := rfl
@[simp] theorem setBlock_free (s : State) (b : Block) : (s.setBlock b).free = s.free := rfl
@[simp] theorem setBlock_turns (s : State) (b : Block) : (s.setBlock b).turns = s.turns := rfl
@[simp] theorem setBlock_nextUid (s : State) (b : Block) : (s.setBlock b).nextUid = s.nextUid := rfl

/-! ### State.setLaunch -/

@[simp] theorem setLaunch_mem (s : State) (l : Launch) : (s.setLaunch l).mem = s.mem := rfl
@[simp] theorem setLaunch_hostMem (s : State) (l : Launch) : (s.setLaunch l).hostMem = s.hostMem := rfl
@[simp] theorem setLaunch_poison (s : State) (l : Launch) : (s.setLaunch l).poison = s.poison := rfl
@[simp] theorem setLaunch_origins (s : State) (l : Launch) : (s.setLaunch l).origins = s.origins := rfl
@[simp] theorem setLaunch_stripes (s : State) (l : Launch) : (s.setLaunch l).stripes = s.stripes := rfl
@[simp] theorem setLaunch_tlb (s : State) (l : Launch) : (s.setLaunch l).tlb = s.tlb := rfl
@[simp] theorem setLaunch_ats (s : State) (l : Launch) : (s.setLaunch l).ats = s.ats := rfl
@[simp] theorem setLaunch_records (s : State) (l : Launch) : (s.setLaunch l).records = s.records := rfl
@[simp] theorem setLaunch_strongs (s : State) (l : Launch) : (s.setLaunch l).strongs = s.strongs := rfl
@[simp] theorem setLaunch_warps (s : State) (l : Launch) : (s.setLaunch l).warps = s.warps := rfl
@[simp] theorem setLaunch_blocks (s : State) (l : Launch) : (s.setLaunch l).blocks = s.blocks := rfl
@[simp] theorem setLaunch_copies (s : State) (l : Launch) : (s.setLaunch l).copies = s.copies := rfl
@[simp] theorem setLaunch_bankops (s : State) (l : Launch) : (s.setLaunch l).bankops = s.bankops := rfl
@[simp] theorem setLaunch_dispatches (s : State) (l : Launch) : (s.setLaunch l).dispatches = s.dispatches := rfl
@[simp] theorem setLaunch_saved (s : State) (l : Launch) : (s.setLaunch l).saved = s.saved := rfl
@[simp] theorem setLaunch_growQ (s : State) (l : Launch) : (s.setLaunch l).growQ = s.growQ := rfl
@[simp] theorem setLaunch_shuttles (s : State) (l : Launch) : (s.setLaunch l).shuttles = s.shuttles := rfl
@[simp] theorem setLaunch_msgs (s : State) (l : Launch) : (s.setLaunch l).msgs = s.msgs := rfl
@[simp] theorem setLaunch_regions (s : State) (l : Launch) : (s.setLaunch l).regions = s.regions := rfl
@[simp] theorem setLaunch_frontEnds (s : State) (l : Launch) : (s.setLaunch l).frontEnds = s.frontEnds := rfl
@[simp] theorem setLaunch_pchs (s : State) (l : Launch) : (s.setLaunch l).pchs = s.pchs := rfl
@[simp] theorem setLaunch_pointers (s : State) (l : Launch) : (s.setLaunch l).pointers = s.pointers := rfl
@[simp] theorem setLaunch_admin (s : State) (l : Launch) : (s.setLaunch l).admin = s.admin := rfl
@[simp] theorem setLaunch_migrations (s : State) (l : Launch) : (s.setLaunch l).migrations = s.migrations := rfl
@[simp] theorem setLaunch_pri (s : State) (l : Launch) : (s.setLaunch l).pri = s.pri := rfl
@[simp] theorem setLaunch_held (s : State) (l : Launch) : (s.setLaunch l).held = s.held := rfl
@[simp] theorem setLaunch_timebase (s : State) (l : Launch) : (s.setLaunch l).timebase = s.timebase := rfl
@[simp] theorem setLaunch_cur (s : State) (l : Launch) : (s.setLaunch l).cur = s.cur := rfl
@[simp] theorem setLaunch_agenda (s : State) (l : Launch) : (s.setLaunch l).agenda = s.agenda := rfl
@[simp] theorem setLaunch_args (s : State) (l : Launch) : (s.setLaunch l).args = s.args := rfl
@[simp] theorem setLaunch_free (s : State) (l : Launch) : (s.setLaunch l).free = s.free := rfl
@[simp] theorem setLaunch_turns (s : State) (l : Launch) : (s.setLaunch l).turns = s.turns := rfl
@[simp] theorem setLaunch_nextUid (s : State) (l : Launch) : (s.setLaunch l).nextUid = s.nextUid := rfl

/-! ### State.setCopy -/

@[simp] theorem setCopy_mem (s : State) (c : CopyCmd) : (s.setCopy c).mem = s.mem := rfl
@[simp] theorem setCopy_hostMem (s : State) (c : CopyCmd) : (s.setCopy c).hostMem = s.hostMem := rfl
@[simp] theorem setCopy_poison (s : State) (c : CopyCmd) : (s.setCopy c).poison = s.poison := rfl
@[simp] theorem setCopy_origins (s : State) (c : CopyCmd) : (s.setCopy c).origins = s.origins := rfl
@[simp] theorem setCopy_stripes (s : State) (c : CopyCmd) : (s.setCopy c).stripes = s.stripes := rfl
@[simp] theorem setCopy_tlb (s : State) (c : CopyCmd) : (s.setCopy c).tlb = s.tlb := rfl
@[simp] theorem setCopy_ats (s : State) (c : CopyCmd) : (s.setCopy c).ats = s.ats := rfl
@[simp] theorem setCopy_records (s : State) (c : CopyCmd) : (s.setCopy c).records = s.records := rfl
@[simp] theorem setCopy_strongs (s : State) (c : CopyCmd) : (s.setCopy c).strongs = s.strongs := rfl
@[simp] theorem setCopy_warps (s : State) (c : CopyCmd) : (s.setCopy c).warps = s.warps := rfl
@[simp] theorem setCopy_blocks (s : State) (c : CopyCmd) : (s.setCopy c).blocks = s.blocks := rfl
@[simp] theorem setCopy_bankops (s : State) (c : CopyCmd) : (s.setCopy c).bankops = s.bankops := rfl
@[simp] theorem setCopy_launches (s : State) (c : CopyCmd) : (s.setCopy c).launches = s.launches := rfl
@[simp] theorem setCopy_dispatches (s : State) (c : CopyCmd) : (s.setCopy c).dispatches = s.dispatches := rfl
@[simp] theorem setCopy_saved (s : State) (c : CopyCmd) : (s.setCopy c).saved = s.saved := rfl
@[simp] theorem setCopy_growQ (s : State) (c : CopyCmd) : (s.setCopy c).growQ = s.growQ := rfl
@[simp] theorem setCopy_shuttles (s : State) (c : CopyCmd) : (s.setCopy c).shuttles = s.shuttles := rfl
@[simp] theorem setCopy_msgs (s : State) (c : CopyCmd) : (s.setCopy c).msgs = s.msgs := rfl
@[simp] theorem setCopy_regions (s : State) (c : CopyCmd) : (s.setCopy c).regions = s.regions := rfl
@[simp] theorem setCopy_frontEnds (s : State) (c : CopyCmd) : (s.setCopy c).frontEnds = s.frontEnds := rfl
@[simp] theorem setCopy_pchs (s : State) (c : CopyCmd) : (s.setCopy c).pchs = s.pchs := rfl
@[simp] theorem setCopy_pointers (s : State) (c : CopyCmd) : (s.setCopy c).pointers = s.pointers := rfl
@[simp] theorem setCopy_admin (s : State) (c : CopyCmd) : (s.setCopy c).admin = s.admin := rfl
@[simp] theorem setCopy_migrations (s : State) (c : CopyCmd) : (s.setCopy c).migrations = s.migrations := rfl
@[simp] theorem setCopy_pri (s : State) (c : CopyCmd) : (s.setCopy c).pri = s.pri := rfl
@[simp] theorem setCopy_held (s : State) (c : CopyCmd) : (s.setCopy c).held = s.held := rfl
@[simp] theorem setCopy_timebase (s : State) (c : CopyCmd) : (s.setCopy c).timebase = s.timebase := rfl
@[simp] theorem setCopy_cur (s : State) (c : CopyCmd) : (s.setCopy c).cur = s.cur := rfl
@[simp] theorem setCopy_agenda (s : State) (c : CopyCmd) : (s.setCopy c).agenda = s.agenda := rfl
@[simp] theorem setCopy_args (s : State) (c : CopyCmd) : (s.setCopy c).args = s.args := rfl
@[simp] theorem setCopy_free (s : State) (c : CopyCmd) : (s.setCopy c).free = s.free := rfl
@[simp] theorem setCopy_turns (s : State) (c : CopyCmd) : (s.setCopy c).turns = s.turns := rfl
@[simp] theorem setCopy_nextUid (s : State) (c : CopyCmd) : (s.setCopy c).nextUid = s.nextUid := rfl

/-! ### State.setBankop -/

@[simp] theorem setBankop_mem (s : State) (b : BankOp) : (s.setBankop b).mem = s.mem := rfl
@[simp] theorem setBankop_hostMem (s : State) (b : BankOp) : (s.setBankop b).hostMem = s.hostMem := rfl
@[simp] theorem setBankop_poison (s : State) (b : BankOp) : (s.setBankop b).poison = s.poison := rfl
@[simp] theorem setBankop_origins (s : State) (b : BankOp) : (s.setBankop b).origins = s.origins := rfl
@[simp] theorem setBankop_stripes (s : State) (b : BankOp) : (s.setBankop b).stripes = s.stripes := rfl
@[simp] theorem setBankop_tlb (s : State) (b : BankOp) : (s.setBankop b).tlb = s.tlb := rfl
@[simp] theorem setBankop_ats (s : State) (b : BankOp) : (s.setBankop b).ats = s.ats := rfl
@[simp] theorem setBankop_records (s : State) (b : BankOp) : (s.setBankop b).records = s.records := rfl
@[simp] theorem setBankop_strongs (s : State) (b : BankOp) : (s.setBankop b).strongs = s.strongs := rfl
@[simp] theorem setBankop_warps (s : State) (b : BankOp) : (s.setBankop b).warps = s.warps := rfl
@[simp] theorem setBankop_blocks (s : State) (b : BankOp) : (s.setBankop b).blocks = s.blocks := rfl
@[simp] theorem setBankop_copies (s : State) (b : BankOp) : (s.setBankop b).copies = s.copies := rfl
@[simp] theorem setBankop_launches (s : State) (b : BankOp) : (s.setBankop b).launches = s.launches := rfl
@[simp] theorem setBankop_dispatches (s : State) (b : BankOp) : (s.setBankop b).dispatches = s.dispatches := rfl
@[simp] theorem setBankop_saved (s : State) (b : BankOp) : (s.setBankop b).saved = s.saved := rfl
@[simp] theorem setBankop_growQ (s : State) (b : BankOp) : (s.setBankop b).growQ = s.growQ := rfl
@[simp] theorem setBankop_shuttles (s : State) (b : BankOp) : (s.setBankop b).shuttles = s.shuttles := rfl
@[simp] theorem setBankop_msgs (s : State) (b : BankOp) : (s.setBankop b).msgs = s.msgs := rfl
@[simp] theorem setBankop_regions (s : State) (b : BankOp) : (s.setBankop b).regions = s.regions := rfl
@[simp] theorem setBankop_frontEnds (s : State) (b : BankOp) : (s.setBankop b).frontEnds = s.frontEnds := rfl
@[simp] theorem setBankop_pchs (s : State) (b : BankOp) : (s.setBankop b).pchs = s.pchs := rfl
@[simp] theorem setBankop_pointers (s : State) (b : BankOp) : (s.setBankop b).pointers = s.pointers := rfl
@[simp] theorem setBankop_admin (s : State) (b : BankOp) : (s.setBankop b).admin = s.admin := rfl
@[simp] theorem setBankop_migrations (s : State) (b : BankOp) : (s.setBankop b).migrations = s.migrations := rfl
@[simp] theorem setBankop_pri (s : State) (b : BankOp) : (s.setBankop b).pri = s.pri := rfl
@[simp] theorem setBankop_held (s : State) (b : BankOp) : (s.setBankop b).held = s.held := rfl
@[simp] theorem setBankop_timebase (s : State) (b : BankOp) : (s.setBankop b).timebase = s.timebase := rfl
@[simp] theorem setBankop_cur (s : State) (b : BankOp) : (s.setBankop b).cur = s.cur := rfl
@[simp] theorem setBankop_agenda (s : State) (b : BankOp) : (s.setBankop b).agenda = s.agenda := rfl
@[simp] theorem setBankop_args (s : State) (b : BankOp) : (s.setBankop b).args = s.args := rfl
@[simp] theorem setBankop_free (s : State) (b : BankOp) : (s.setBankop b).free = s.free := rfl
@[simp] theorem setBankop_turns (s : State) (b : BankOp) : (s.setBankop b).turns = s.turns := rfl
@[simp] theorem setBankop_nextUid (s : State) (b : BankOp) : (s.setBankop b).nextUid = s.nextUid := rfl

/-! ### State.setDispatch -/

@[simp] theorem setDispatch_mem (s : State) (d : Dispatch) : (s.setDispatch d).mem = s.mem := rfl
@[simp] theorem setDispatch_hostMem (s : State) (d : Dispatch) : (s.setDispatch d).hostMem = s.hostMem := rfl
@[simp] theorem setDispatch_poison (s : State) (d : Dispatch) : (s.setDispatch d).poison = s.poison := rfl
@[simp] theorem setDispatch_origins (s : State) (d : Dispatch) : (s.setDispatch d).origins = s.origins := rfl
@[simp] theorem setDispatch_stripes (s : State) (d : Dispatch) : (s.setDispatch d).stripes = s.stripes := rfl
@[simp] theorem setDispatch_tlb (s : State) (d : Dispatch) : (s.setDispatch d).tlb = s.tlb := rfl
@[simp] theorem setDispatch_ats (s : State) (d : Dispatch) : (s.setDispatch d).ats = s.ats := rfl
@[simp] theorem setDispatch_records (s : State) (d : Dispatch) : (s.setDispatch d).records = s.records := rfl
@[simp] theorem setDispatch_strongs (s : State) (d : Dispatch) : (s.setDispatch d).strongs = s.strongs := rfl
@[simp] theorem setDispatch_warps (s : State) (d : Dispatch) : (s.setDispatch d).warps = s.warps := rfl
@[simp] theorem setDispatch_blocks (s : State) (d : Dispatch) : (s.setDispatch d).blocks = s.blocks := rfl
@[simp] theorem setDispatch_copies (s : State) (d : Dispatch) : (s.setDispatch d).copies = s.copies := rfl
@[simp] theorem setDispatch_bankops (s : State) (d : Dispatch) : (s.setDispatch d).bankops = s.bankops := rfl
@[simp] theorem setDispatch_launches (s : State) (d : Dispatch) : (s.setDispatch d).launches = s.launches := rfl
@[simp] theorem setDispatch_saved (s : State) (d : Dispatch) : (s.setDispatch d).saved = s.saved := rfl
@[simp] theorem setDispatch_growQ (s : State) (d : Dispatch) : (s.setDispatch d).growQ = s.growQ := rfl
@[simp] theorem setDispatch_shuttles (s : State) (d : Dispatch) : (s.setDispatch d).shuttles = s.shuttles := rfl
@[simp] theorem setDispatch_msgs (s : State) (d : Dispatch) : (s.setDispatch d).msgs = s.msgs := rfl
@[simp] theorem setDispatch_regions (s : State) (d : Dispatch) : (s.setDispatch d).regions = s.regions := rfl
@[simp] theorem setDispatch_frontEnds (s : State) (d : Dispatch) : (s.setDispatch d).frontEnds = s.frontEnds := rfl
@[simp] theorem setDispatch_pchs (s : State) (d : Dispatch) : (s.setDispatch d).pchs = s.pchs := rfl
@[simp] theorem setDispatch_pointers (s : State) (d : Dispatch) : (s.setDispatch d).pointers = s.pointers := rfl
@[simp] theorem setDispatch_admin (s : State) (d : Dispatch) : (s.setDispatch d).admin = s.admin := rfl
@[simp] theorem setDispatch_migrations (s : State) (d : Dispatch) : (s.setDispatch d).migrations = s.migrations := rfl
@[simp] theorem setDispatch_pri (s : State) (d : Dispatch) : (s.setDispatch d).pri = s.pri := rfl
@[simp] theorem setDispatch_held (s : State) (d : Dispatch) : (s.setDispatch d).held = s.held := rfl
@[simp] theorem setDispatch_timebase (s : State) (d : Dispatch) : (s.setDispatch d).timebase = s.timebase := rfl
@[simp] theorem setDispatch_cur (s : State) (d : Dispatch) : (s.setDispatch d).cur = s.cur := rfl
@[simp] theorem setDispatch_agenda (s : State) (d : Dispatch) : (s.setDispatch d).agenda = s.agenda := rfl
@[simp] theorem setDispatch_args (s : State) (d : Dispatch) : (s.setDispatch d).args = s.args := rfl
@[simp] theorem setDispatch_free (s : State) (d : Dispatch) : (s.setDispatch d).free = s.free := rfl
@[simp] theorem setDispatch_turns (s : State) (d : Dispatch) : (s.setDispatch d).turns = s.turns := rfl
@[simp] theorem setDispatch_nextUid (s : State) (d : Dispatch) : (s.setDispatch d).nextUid = s.nextUid := rfl

/-! ### State.modWarp -/

@[simp] theorem modWarp_mem (s : State) (u : Nat) (f : Warp → Warp) : (s.modWarp u f).mem = s.mem := rfl
@[simp] theorem modWarp_hostMem (s : State) (u : Nat) (f : Warp → Warp) : (s.modWarp u f).hostMem = s.hostMem := rfl
@[simp] theorem modWarp_poison (s : State) (u : Nat) (f : Warp → Warp) : (s.modWarp u f).poison = s.poison := rfl
@[simp] theorem modWarp_origins (s : State) (u : Nat) (f : Warp → Warp) : (s.modWarp u f).origins = s.origins := rfl
@[simp] theorem modWarp_stripes (s : State) (u : Nat) (f : Warp → Warp) : (s.modWarp u f).stripes = s.stripes := rfl
@[simp] theorem modWarp_tlb (s : State) (u : Nat) (f : Warp → Warp) : (s.modWarp u f).tlb = s.tlb := rfl
@[simp] theorem modWarp_ats (s : State) (u : Nat) (f : Warp → Warp) : (s.modWarp u f).ats = s.ats := rfl
@[simp] theorem modWarp_records (s : State) (u : Nat) (f : Warp → Warp) : (s.modWarp u f).records = s.records := rfl
@[simp] theorem modWarp_strongs (s : State) (u : Nat) (f : Warp → Warp) : (s.modWarp u f).strongs = s.strongs := rfl
@[simp] theorem modWarp_blocks (s : State) (u : Nat) (f : Warp → Warp) : (s.modWarp u f).blocks = s.blocks := rfl
@[simp] theorem modWarp_copies (s : State) (u : Nat) (f : Warp → Warp) : (s.modWarp u f).copies = s.copies := rfl
@[simp] theorem modWarp_bankops (s : State) (u : Nat) (f : Warp → Warp) : (s.modWarp u f).bankops = s.bankops := rfl
@[simp] theorem modWarp_launches (s : State) (u : Nat) (f : Warp → Warp) : (s.modWarp u f).launches = s.launches := rfl
@[simp] theorem modWarp_dispatches (s : State) (u : Nat) (f : Warp → Warp) : (s.modWarp u f).dispatches = s.dispatches := rfl
@[simp] theorem modWarp_saved (s : State) (u : Nat) (f : Warp → Warp) : (s.modWarp u f).saved = s.saved := rfl
@[simp] theorem modWarp_growQ (s : State) (u : Nat) (f : Warp → Warp) : (s.modWarp u f).growQ = s.growQ := rfl
@[simp] theorem modWarp_shuttles (s : State) (u : Nat) (f : Warp → Warp) : (s.modWarp u f).shuttles = s.shuttles := rfl
@[simp] theorem modWarp_msgs (s : State) (u : Nat) (f : Warp → Warp) : (s.modWarp u f).msgs = s.msgs := rfl
@[simp] theorem modWarp_regions (s : State) (u : Nat) (f : Warp → Warp) : (s.modWarp u f).regions = s.regions := rfl
@[simp] theorem modWarp_frontEnds (s : State) (u : Nat) (f : Warp → Warp) : (s.modWarp u f).frontEnds = s.frontEnds := rfl
@[simp] theorem modWarp_pchs (s : State) (u : Nat) (f : Warp → Warp) : (s.modWarp u f).pchs = s.pchs := rfl
@[simp] theorem modWarp_pointers (s : State) (u : Nat) (f : Warp → Warp) : (s.modWarp u f).pointers = s.pointers := rfl
@[simp] theorem modWarp_admin (s : State) (u : Nat) (f : Warp → Warp) : (s.modWarp u f).admin = s.admin := rfl
@[simp] theorem modWarp_migrations (s : State) (u : Nat) (f : Warp → Warp) : (s.modWarp u f).migrations = s.migrations := rfl
@[simp] theorem modWarp_pri (s : State) (u : Nat) (f : Warp → Warp) : (s.modWarp u f).pri = s.pri := rfl
@[simp] theorem modWarp_held (s : State) (u : Nat) (f : Warp → Warp) : (s.modWarp u f).held = s.held := rfl
@[simp] theorem modWarp_timebase (s : State) (u : Nat) (f : Warp → Warp) : (s.modWarp u f).timebase = s.timebase := rfl
@[simp] theorem modWarp_cur (s : State) (u : Nat) (f : Warp → Warp) : (s.modWarp u f).cur = s.cur := rfl
@[simp] theorem modWarp_agenda (s : State) (u : Nat) (f : Warp → Warp) : (s.modWarp u f).agenda = s.agenda := rfl
@[simp] theorem modWarp_args (s : State) (u : Nat) (f : Warp → Warp) : (s.modWarp u f).args = s.args := rfl
@[simp] theorem modWarp_free (s : State) (u : Nat) (f : Warp → Warp) : (s.modWarp u f).free = s.free := rfl
@[simp] theorem modWarp_turns (s : State) (u : Nat) (f : Warp → Warp) : (s.modWarp u f).turns = s.turns := rfl
@[simp] theorem modWarp_nextUid (s : State) (u : Nat) (f : Warp → Warp) : (s.modWarp u f).nextUid = s.nextUid := rfl

/-! ### State.modBlock -/

@[simp] theorem modBlock_mem (s : State) (u : Nat) (f : Block → Block) : (s.modBlock u f).mem = s.mem := rfl
@[simp] theorem modBlock_hostMem (s : State) (u : Nat) (f : Block → Block) : (s.modBlock u f).hostMem = s.hostMem := rfl
@[simp] theorem modBlock_poison (s : State) (u : Nat) (f : Block → Block) : (s.modBlock u f).poison = s.poison := rfl
@[simp] theorem modBlock_origins (s : State) (u : Nat) (f : Block → Block) : (s.modBlock u f).origins = s.origins := rfl
@[simp] theorem modBlock_stripes (s : State) (u : Nat) (f : Block → Block) : (s.modBlock u f).stripes = s.stripes := rfl
@[simp] theorem modBlock_tlb (s : State) (u : Nat) (f : Block → Block) : (s.modBlock u f).tlb = s.tlb := rfl
@[simp] theorem modBlock_ats (s : State) (u : Nat) (f : Block → Block) : (s.modBlock u f).ats = s.ats := rfl
@[simp] theorem modBlock_records (s : State) (u : Nat) (f : Block → Block) : (s.modBlock u f).records = s.records := rfl
@[simp] theorem modBlock_strongs (s : State) (u : Nat) (f : Block → Block) : (s.modBlock u f).strongs = s.strongs := rfl
@[simp] theorem modBlock_warps (s : State) (u : Nat) (f : Block → Block) : (s.modBlock u f).warps = s.warps := rfl
@[simp] theorem modBlock_copies (s : State) (u : Nat) (f : Block → Block) : (s.modBlock u f).copies = s.copies := rfl
@[simp] theorem modBlock_bankops (s : State) (u : Nat) (f : Block → Block) : (s.modBlock u f).bankops = s.bankops := rfl
@[simp] theorem modBlock_launches (s : State) (u : Nat) (f : Block → Block) : (s.modBlock u f).launches = s.launches := rfl
@[simp] theorem modBlock_dispatches (s : State) (u : Nat) (f : Block → Block) : (s.modBlock u f).dispatches = s.dispatches := rfl
@[simp] theorem modBlock_saved (s : State) (u : Nat) (f : Block → Block) : (s.modBlock u f).saved = s.saved := rfl
@[simp] theorem modBlock_growQ (s : State) (u : Nat) (f : Block → Block) : (s.modBlock u f).growQ = s.growQ := rfl
@[simp] theorem modBlock_shuttles (s : State) (u : Nat) (f : Block → Block) : (s.modBlock u f).shuttles = s.shuttles := rfl
@[simp] theorem modBlock_msgs (s : State) (u : Nat) (f : Block → Block) : (s.modBlock u f).msgs = s.msgs := rfl
@[simp] theorem modBlock_regions (s : State) (u : Nat) (f : Block → Block) : (s.modBlock u f).regions = s.regions := rfl
@[simp] theorem modBlock_frontEnds (s : State) (u : Nat) (f : Block → Block) : (s.modBlock u f).frontEnds = s.frontEnds := rfl
@[simp] theorem modBlock_pchs (s : State) (u : Nat) (f : Block → Block) : (s.modBlock u f).pchs = s.pchs := rfl
@[simp] theorem modBlock_pointers (s : State) (u : Nat) (f : Block → Block) : (s.modBlock u f).pointers = s.pointers := rfl
@[simp] theorem modBlock_admin (s : State) (u : Nat) (f : Block → Block) : (s.modBlock u f).admin = s.admin := rfl
@[simp] theorem modBlock_migrations (s : State) (u : Nat) (f : Block → Block) : (s.modBlock u f).migrations = s.migrations := rfl
@[simp] theorem modBlock_pri (s : State) (u : Nat) (f : Block → Block) : (s.modBlock u f).pri = s.pri := rfl
@[simp] theorem modBlock_held (s : State) (u : Nat) (f : Block → Block) : (s.modBlock u f).held = s.held := rfl
@[simp] theorem modBlock_timebase (s : State) (u : Nat) (f : Block → Block) : (s.modBlock u f).timebase = s.timebase := rfl
@[simp] theorem modBlock_cur (s : State) (u : Nat) (f : Block → Block) : (s.modBlock u f).cur = s.cur := rfl
@[simp] theorem modBlock_agenda (s : State) (u : Nat) (f : Block → Block) : (s.modBlock u f).agenda = s.agenda := rfl
@[simp] theorem modBlock_args (s : State) (u : Nat) (f : Block → Block) : (s.modBlock u f).args = s.args := rfl
@[simp] theorem modBlock_free (s : State) (u : Nat) (f : Block → Block) : (s.modBlock u f).free = s.free := rfl
@[simp] theorem modBlock_turns (s : State) (u : Nat) (f : Block → Block) : (s.modBlock u f).turns = s.turns := rfl
@[simp] theorem modBlock_nextUid (s : State) (u : Nat) (f : Block → Block) : (s.modBlock u f).nextUid = s.nextUid := rfl

/-! ### State.modLaunch -/

@[simp] theorem modLaunch_mem (s : State) (u : Nat) (f : Launch → Launch) : (s.modLaunch u f).mem = s.mem := rfl
@[simp] theorem modLaunch_hostMem (s : State) (u : Nat) (f : Launch → Launch) : (s.modLaunch u f).hostMem = s.hostMem := rfl
@[simp] theorem modLaunch_poison (s : State) (u : Nat) (f : Launch → Launch) : (s.modLaunch u f).poison = s.poison := rfl
@[simp] theorem modLaunch_origins (s : State) (u : Nat) (f : Launch → Launch) : (s.modLaunch u f).origins = s.origins := rfl
@[simp] theorem modLaunch_stripes (s : State) (u : Nat) (f : Launch → Launch) : (s.modLaunch u f).stripes = s.stripes := rfl
@[simp] theorem modLaunch_tlb (s : State) (u : Nat) (f : Launch → Launch) : (s.modLaunch u f).tlb = s.tlb := rfl
@[simp] theorem modLaunch_ats (s : State) (u : Nat) (f : Launch → Launch) : (s.modLaunch u f).ats = s.ats := rfl
@[simp] theorem modLaunch_records (s : State) (u : Nat) (f : Launch → Launch) : (s.modLaunch u f).records = s.records := rfl
@[simp] theorem modLaunch_strongs (s : State) (u : Nat) (f : Launch → Launch) : (s.modLaunch u f).strongs = s.strongs := rfl
@[simp] theorem modLaunch_warps (s : State) (u : Nat) (f : Launch → Launch) : (s.modLaunch u f).warps = s.warps := rfl
@[simp] theorem modLaunch_blocks (s : State) (u : Nat) (f : Launch → Launch) : (s.modLaunch u f).blocks = s.blocks := rfl
@[simp] theorem modLaunch_copies (s : State) (u : Nat) (f : Launch → Launch) : (s.modLaunch u f).copies = s.copies := rfl
@[simp] theorem modLaunch_bankops (s : State) (u : Nat) (f : Launch → Launch) : (s.modLaunch u f).bankops = s.bankops := rfl
@[simp] theorem modLaunch_dispatches (s : State) (u : Nat) (f : Launch → Launch) : (s.modLaunch u f).dispatches = s.dispatches := rfl
@[simp] theorem modLaunch_saved (s : State) (u : Nat) (f : Launch → Launch) : (s.modLaunch u f).saved = s.saved := rfl
@[simp] theorem modLaunch_growQ (s : State) (u : Nat) (f : Launch → Launch) : (s.modLaunch u f).growQ = s.growQ := rfl
@[simp] theorem modLaunch_shuttles (s : State) (u : Nat) (f : Launch → Launch) : (s.modLaunch u f).shuttles = s.shuttles := rfl
@[simp] theorem modLaunch_msgs (s : State) (u : Nat) (f : Launch → Launch) : (s.modLaunch u f).msgs = s.msgs := rfl
@[simp] theorem modLaunch_regions (s : State) (u : Nat) (f : Launch → Launch) : (s.modLaunch u f).regions = s.regions := rfl
@[simp] theorem modLaunch_frontEnds (s : State) (u : Nat) (f : Launch → Launch) : (s.modLaunch u f).frontEnds = s.frontEnds := rfl
@[simp] theorem modLaunch_pchs (s : State) (u : Nat) (f : Launch → Launch) : (s.modLaunch u f).pchs = s.pchs := rfl
@[simp] theorem modLaunch_pointers (s : State) (u : Nat) (f : Launch → Launch) : (s.modLaunch u f).pointers = s.pointers := rfl
@[simp] theorem modLaunch_admin (s : State) (u : Nat) (f : Launch → Launch) : (s.modLaunch u f).admin = s.admin := rfl
@[simp] theorem modLaunch_migrations (s : State) (u : Nat) (f : Launch → Launch) : (s.modLaunch u f).migrations = s.migrations := rfl
@[simp] theorem modLaunch_pri (s : State) (u : Nat) (f : Launch → Launch) : (s.modLaunch u f).pri = s.pri := rfl
@[simp] theorem modLaunch_held (s : State) (u : Nat) (f : Launch → Launch) : (s.modLaunch u f).held = s.held := rfl
@[simp] theorem modLaunch_timebase (s : State) (u : Nat) (f : Launch → Launch) : (s.modLaunch u f).timebase = s.timebase := rfl
@[simp] theorem modLaunch_cur (s : State) (u : Nat) (f : Launch → Launch) : (s.modLaunch u f).cur = s.cur := rfl
@[simp] theorem modLaunch_agenda (s : State) (u : Nat) (f : Launch → Launch) : (s.modLaunch u f).agenda = s.agenda := rfl
@[simp] theorem modLaunch_args (s : State) (u : Nat) (f : Launch → Launch) : (s.modLaunch u f).args = s.args := rfl
@[simp] theorem modLaunch_free (s : State) (u : Nat) (f : Launch → Launch) : (s.modLaunch u f).free = s.free := rfl
@[simp] theorem modLaunch_turns (s : State) (u : Nat) (f : Launch → Launch) : (s.modLaunch u f).turns = s.turns := rfl
@[simp] theorem modLaunch_nextUid (s : State) (u : Nat) (f : Launch → Launch) : (s.modLaunch u f).nextUid = s.nextUid := rfl

/-! ### State.modFn -/

@[simp] theorem modFn_mem (s : State) (u : Nat) (f : Fn → Fn) : (s.modFn u f).mem = s.mem := rfl
@[simp] theorem modFn_hostMem (s : State) (u : Nat) (f : Fn → Fn) : (s.modFn u f).hostMem = s.hostMem := rfl
@[simp] theorem modFn_poison (s : State) (u : Nat) (f : Fn → Fn) : (s.modFn u f).poison = s.poison := rfl
@[simp] theorem modFn_origins (s : State) (u : Nat) (f : Fn → Fn) : (s.modFn u f).origins = s.origins := rfl
@[simp] theorem modFn_stripes (s : State) (u : Nat) (f : Fn → Fn) : (s.modFn u f).stripes = s.stripes := rfl
@[simp] theorem modFn_tlb (s : State) (u : Nat) (f : Fn → Fn) : (s.modFn u f).tlb = s.tlb := rfl
@[simp] theorem modFn_ats (s : State) (u : Nat) (f : Fn → Fn) : (s.modFn u f).ats = s.ats := rfl
@[simp] theorem modFn_records (s : State) (u : Nat) (f : Fn → Fn) : (s.modFn u f).records = s.records := rfl
@[simp] theorem modFn_strongs (s : State) (u : Nat) (f : Fn → Fn) : (s.modFn u f).strongs = s.strongs := rfl
@[simp] theorem modFn_warps (s : State) (u : Nat) (f : Fn → Fn) : (s.modFn u f).warps = s.warps := rfl
@[simp] theorem modFn_blocks (s : State) (u : Nat) (f : Fn → Fn) : (s.modFn u f).blocks = s.blocks := rfl
@[simp] theorem modFn_copies (s : State) (u : Nat) (f : Fn → Fn) : (s.modFn u f).copies = s.copies := rfl
@[simp] theorem modFn_bankops (s : State) (u : Nat) (f : Fn → Fn) : (s.modFn u f).bankops = s.bankops := rfl
@[simp] theorem modFn_launches (s : State) (u : Nat) (f : Fn → Fn) : (s.modFn u f).launches = s.launches := rfl
@[simp] theorem modFn_dispatches (s : State) (u : Nat) (f : Fn → Fn) : (s.modFn u f).dispatches = s.dispatches := rfl
@[simp] theorem modFn_saved (s : State) (u : Nat) (f : Fn → Fn) : (s.modFn u f).saved = s.saved := rfl
@[simp] theorem modFn_growQ (s : State) (u : Nat) (f : Fn → Fn) : (s.modFn u f).growQ = s.growQ := rfl
@[simp] theorem modFn_shuttles (s : State) (u : Nat) (f : Fn → Fn) : (s.modFn u f).shuttles = s.shuttles := rfl
@[simp] theorem modFn_msgs (s : State) (u : Nat) (f : Fn → Fn) : (s.modFn u f).msgs = s.msgs := rfl
@[simp] theorem modFn_regions (s : State) (u : Nat) (f : Fn → Fn) : (s.modFn u f).regions = s.regions := rfl
@[simp] theorem modFn_frontEnds (s : State) (u : Nat) (f : Fn → Fn) : (s.modFn u f).frontEnds = s.frontEnds := rfl
@[simp] theorem modFn_pchs (s : State) (u : Nat) (f : Fn → Fn) : (s.modFn u f).pchs = s.pchs := rfl
@[simp] theorem modFn_pointers (s : State) (u : Nat) (f : Fn → Fn) : (s.modFn u f).pointers = s.pointers := rfl
@[simp] theorem modFn_migrations (s : State) (u : Nat) (f : Fn → Fn) : (s.modFn u f).migrations = s.migrations := rfl
@[simp] theorem modFn_pri (s : State) (u : Nat) (f : Fn → Fn) : (s.modFn u f).pri = s.pri := rfl
@[simp] theorem modFn_held (s : State) (u : Nat) (f : Fn → Fn) : (s.modFn u f).held = s.held := rfl
@[simp] theorem modFn_timebase (s : State) (u : Nat) (f : Fn → Fn) : (s.modFn u f).timebase = s.timebase := rfl
@[simp] theorem modFn_cur (s : State) (u : Nat) (f : Fn → Fn) : (s.modFn u f).cur = s.cur := rfl
@[simp] theorem modFn_agenda (s : State) (u : Nat) (f : Fn → Fn) : (s.modFn u f).agenda = s.agenda := rfl
@[simp] theorem modFn_args (s : State) (u : Nat) (f : Fn → Fn) : (s.modFn u f).args = s.args := rfl
@[simp] theorem modFn_free (s : State) (u : Nat) (f : Fn → Fn) : (s.modFn u f).free = s.free := rfl
@[simp] theorem modFn_turns (s : State) (u : Nat) (f : Fn → Fn) : (s.modFn u f).turns = s.turns := rfl
@[simp] theorem modFn_nextUid (s : State) (u : Nat) (f : Fn → Fn) : (s.modFn u f).nextUid = s.nextUid := rfl

/-! ### State.raise -/

@[simp] theorem raise_mem (s : State) (u : Nat) (b : BitVec 8) : (s.raise u b).mem = s.mem := rfl
@[simp] theorem raise_hostMem (s : State) (u : Nat) (b : BitVec 8) : (s.raise u b).hostMem = s.hostMem := rfl
@[simp] theorem raise_poison (s : State) (u : Nat) (b : BitVec 8) : (s.raise u b).poison = s.poison := rfl
@[simp] theorem raise_origins (s : State) (u : Nat) (b : BitVec 8) : (s.raise u b).origins = s.origins := rfl
@[simp] theorem raise_stripes (s : State) (u : Nat) (b : BitVec 8) : (s.raise u b).stripes = s.stripes := rfl
@[simp] theorem raise_tlb (s : State) (u : Nat) (b : BitVec 8) : (s.raise u b).tlb = s.tlb := rfl
@[simp] theorem raise_ats (s : State) (u : Nat) (b : BitVec 8) : (s.raise u b).ats = s.ats := rfl
@[simp] theorem raise_records (s : State) (u : Nat) (b : BitVec 8) : (s.raise u b).records = s.records := rfl
@[simp] theorem raise_strongs (s : State) (u : Nat) (b : BitVec 8) : (s.raise u b).strongs = s.strongs := rfl
@[simp] theorem raise_blocks (s : State) (u : Nat) (b : BitVec 8) : (s.raise u b).blocks = s.blocks := rfl
@[simp] theorem raise_copies (s : State) (u : Nat) (b : BitVec 8) : (s.raise u b).copies = s.copies := rfl
@[simp] theorem raise_bankops (s : State) (u : Nat) (b : BitVec 8) : (s.raise u b).bankops = s.bankops := rfl
@[simp] theorem raise_launches (s : State) (u : Nat) (b : BitVec 8) : (s.raise u b).launches = s.launches := rfl
@[simp] theorem raise_dispatches (s : State) (u : Nat) (b : BitVec 8) : (s.raise u b).dispatches = s.dispatches := rfl
@[simp] theorem raise_saved (s : State) (u : Nat) (b : BitVec 8) : (s.raise u b).saved = s.saved := rfl
@[simp] theorem raise_growQ (s : State) (u : Nat) (b : BitVec 8) : (s.raise u b).growQ = s.growQ := rfl
@[simp] theorem raise_shuttles (s : State) (u : Nat) (b : BitVec 8) : (s.raise u b).shuttles = s.shuttles := rfl
@[simp] theorem raise_msgs (s : State) (u : Nat) (b : BitVec 8) : (s.raise u b).msgs = s.msgs := rfl
@[simp] theorem raise_regions (s : State) (u : Nat) (b : BitVec 8) : (s.raise u b).regions = s.regions := rfl
@[simp] theorem raise_frontEnds (s : State) (u : Nat) (b : BitVec 8) : (s.raise u b).frontEnds = s.frontEnds := rfl
@[simp] theorem raise_pchs (s : State) (u : Nat) (b : BitVec 8) : (s.raise u b).pchs = s.pchs := rfl
@[simp] theorem raise_pointers (s : State) (u : Nat) (b : BitVec 8) : (s.raise u b).pointers = s.pointers := rfl
@[simp] theorem raise_admin (s : State) (u : Nat) (b : BitVec 8) : (s.raise u b).admin = s.admin := rfl
@[simp] theorem raise_migrations (s : State) (u : Nat) (b : BitVec 8) : (s.raise u b).migrations = s.migrations := rfl
@[simp] theorem raise_pri (s : State) (u : Nat) (b : BitVec 8) : (s.raise u b).pri = s.pri := rfl
@[simp] theorem raise_held (s : State) (u : Nat) (b : BitVec 8) : (s.raise u b).held = s.held := rfl
@[simp] theorem raise_timebase (s : State) (u : Nat) (b : BitVec 8) : (s.raise u b).timebase = s.timebase := rfl
@[simp] theorem raise_cur (s : State) (u : Nat) (b : BitVec 8) : (s.raise u b).cur = s.cur := rfl
@[simp] theorem raise_agenda (s : State) (u : Nat) (b : BitVec 8) : (s.raise u b).agenda = s.agenda := rfl
@[simp] theorem raise_args (s : State) (u : Nat) (b : BitVec 8) : (s.raise u b).args = s.args := rfl
@[simp] theorem raise_free (s : State) (u : Nat) (b : BitVec 8) : (s.raise u b).free = s.free := rfl
@[simp] theorem raise_turns (s : State) (u : Nat) (b : BitVec 8) : (s.raise u b).turns = s.turns := rfl
@[simp] theorem raise_nextUid (s : State) (u : Nat) (b : BitVec 8) : (s.raise u b).nextUid = s.nextUid := rfl

/-! ### State.setSplit -/

@[simp] theorem setSplit_mem (s : State) (u k : Nat) (sp : Split) : (s.setSplit u k sp).mem = s.mem := rfl
@[simp] theorem setSplit_hostMem (s : State) (u k : Nat) (sp : Split) : (s.setSplit u k sp).hostMem = s.hostMem := rfl
@[simp] theorem setSplit_poison (s : State) (u k : Nat) (sp : Split) : (s.setSplit u k sp).poison = s.poison := rfl
@[simp] theorem setSplit_origins (s : State) (u k : Nat) (sp : Split) : (s.setSplit u k sp).origins = s.origins := rfl
@[simp] theorem setSplit_stripes (s : State) (u k : Nat) (sp : Split) : (s.setSplit u k sp).stripes = s.stripes := rfl
@[simp] theorem setSplit_tlb (s : State) (u k : Nat) (sp : Split) : (s.setSplit u k sp).tlb = s.tlb := rfl
@[simp] theorem setSplit_ats (s : State) (u k : Nat) (sp : Split) : (s.setSplit u k sp).ats = s.ats := rfl
@[simp] theorem setSplit_records (s : State) (u k : Nat) (sp : Split) : (s.setSplit u k sp).records = s.records := rfl
@[simp] theorem setSplit_strongs (s : State) (u k : Nat) (sp : Split) : (s.setSplit u k sp).strongs = s.strongs := rfl
@[simp] theorem setSplit_blocks (s : State) (u k : Nat) (sp : Split) : (s.setSplit u k sp).blocks = s.blocks := rfl
@[simp] theorem setSplit_copies (s : State) (u k : Nat) (sp : Split) : (s.setSplit u k sp).copies = s.copies := rfl
@[simp] theorem setSplit_bankops (s : State) (u k : Nat) (sp : Split) : (s.setSplit u k sp).bankops = s.bankops := rfl
@[simp] theorem setSplit_launches (s : State) (u k : Nat) (sp : Split) : (s.setSplit u k sp).launches = s.launches := rfl
@[simp] theorem setSplit_dispatches (s : State) (u k : Nat) (sp : Split) : (s.setSplit u k sp).dispatches = s.dispatches := rfl
@[simp] theorem setSplit_saved (s : State) (u k : Nat) (sp : Split) : (s.setSplit u k sp).saved = s.saved := rfl
@[simp] theorem setSplit_growQ (s : State) (u k : Nat) (sp : Split) : (s.setSplit u k sp).growQ = s.growQ := rfl
@[simp] theorem setSplit_shuttles (s : State) (u k : Nat) (sp : Split) : (s.setSplit u k sp).shuttles = s.shuttles := rfl
@[simp] theorem setSplit_msgs (s : State) (u k : Nat) (sp : Split) : (s.setSplit u k sp).msgs = s.msgs := rfl
@[simp] theorem setSplit_regions (s : State) (u k : Nat) (sp : Split) : (s.setSplit u k sp).regions = s.regions := rfl
@[simp] theorem setSplit_frontEnds (s : State) (u k : Nat) (sp : Split) : (s.setSplit u k sp).frontEnds = s.frontEnds := rfl
@[simp] theorem setSplit_pchs (s : State) (u k : Nat) (sp : Split) : (s.setSplit u k sp).pchs = s.pchs := rfl
@[simp] theorem setSplit_pointers (s : State) (u k : Nat) (sp : Split) : (s.setSplit u k sp).pointers = s.pointers := rfl
@[simp] theorem setSplit_admin (s : State) (u k : Nat) (sp : Split) : (s.setSplit u k sp).admin = s.admin := rfl
@[simp] theorem setSplit_migrations (s : State) (u k : Nat) (sp : Split) : (s.setSplit u k sp).migrations = s.migrations := rfl
@[simp] theorem setSplit_pri (s : State) (u k : Nat) (sp : Split) : (s.setSplit u k sp).pri = s.pri := rfl
@[simp] theorem setSplit_held (s : State) (u k : Nat) (sp : Split) : (s.setSplit u k sp).held = s.held := rfl
@[simp] theorem setSplit_timebase (s : State) (u k : Nat) (sp : Split) : (s.setSplit u k sp).timebase = s.timebase := rfl
@[simp] theorem setSplit_cur (s : State) (u k : Nat) (sp : Split) : (s.setSplit u k sp).cur = s.cur := rfl
@[simp] theorem setSplit_agenda (s : State) (u k : Nat) (sp : Split) : (s.setSplit u k sp).agenda = s.agenda := rfl
@[simp] theorem setSplit_args (s : State) (u k : Nat) (sp : Split) : (s.setSplit u k sp).args = s.args := rfl
@[simp] theorem setSplit_free (s : State) (u k : Nat) (sp : Split) : (s.setSplit u k sp).free = s.free := rfl
@[simp] theorem setSplit_turns (s : State) (u k : Nat) (sp : Split) : (s.setSplit u k sp).turns = s.turns := rfl
@[simp] theorem setSplit_nextUid (s : State) (u k : Nat) (sp : Split) : (s.setSplit u k sp).nextUid = s.nextUid := rfl

/-! ### Warp.setSplit -/

@[simp] theorem warp_setSplit_uid (w : Warp) (k : Nat) (sp : Split) : (w.setSplit k sp).uid = w.uid := rfl
@[simp] theorem warp_setSplit_kind (w : Warp) (k : Nat) (sp : Split) : (w.setSplit k sp).kind = w.kind := rfl
@[simp] theorem warp_setSplit_launch (w : Warp) (k : Nat) (sp : Split) : (w.setSplit k sp).launch = w.launch := rfl
@[simp] theorem warp_setSplit_block (w : Warp) (k : Nat) (sp : Split) : (w.setSplit k sp).block = w.block := rfl
@[simp] theorem warp_setSplit_idx (w : Warp) (k : Nat) (sp : Split) : (w.setSplit k sp).idx = w.idx := rfl
@[simp] theorem warp_setSplit_core (w : Warp) (k : Nat) (sp : Split) : (w.setSplit k sp).core = w.core := rfl
@[simp] theorem warp_setSplit_slot (w : Warp) (k : Nat) (sp : Split) : (w.setSplit k sp).slot = w.slot := rfl
@[simp] theorem warp_setSplit_v (w : Warp) (k : Nat) (sp : Split) : (w.setSplit k sp).v = w.v := rfl
@[simp] theorem warp_setSplit_s (w : Warp) (k : Nat) (sp : Split) : (w.setSplit k sp).s = w.s := rfl
@[simp] theorem warp_setSplit_spoison (w : Warp) (k : Nat) (sp : Split) : (w.setSplit k sp).spoison = w.spoison := rfl
@[simp] theorem warp_setSplit_p (w : Warp) (k : Nat) (sp : Split) : (w.setSplit k sp).p = w.p := rfl
@[simp] theorem warp_setSplit_f (w : Warp) (k : Nat) (sp : Split) : (w.setSplit k sp).f = w.f := rfl
@[simp] theorem warp_setSplit_hazards (w : Warp) (k : Nat) (sp : Split) : (w.setSplit k sp).hazards = w.hazards := rfl
@[simp] theorem warp_setSplit_ops (w : Warp) (k : Nat) (sp : Split) : (w.setSplit k sp).ops = w.ops := rfl
@[simp] theorem warp_setSplit_m (w : Warp) (k : Nat) (sp : Split) : (w.setSplit k sp).m = w.m := rfl
@[simp] theorem warp_setSplit_shadow (w : Warp) (k : Nat) (sp : Split) : (w.setSplit k sp).shadow = w.shadow := rfl
@[simp] theorem warp_setSplit_ms (w : Warp) (k : Nat) (sp : Split) : (w.setSplit k sp).ms = w.ms := rfl
@[simp] theorem warp_setSplit_carryV (w : Warp) (k : Nat) (sp : Split) : (w.setSplit k sp).carryV = w.carryV := rfl
@[simp] theorem warp_setSplit_carryS (w : Warp) (k : Nat) (sp : Split) : (w.setSplit k sp).carryS = w.carryS := rfl
@[simp] theorem warp_setSplit_sticky (w : Warp) (k : Nat) (sp : Split) : (w.setSplit k sp).sticky = w.sticky := rfl
@[simp] theorem warp_setSplit_quota (w : Warp) (k : Nat) (sp : Split) : (w.setSplit k sp).quota = w.quota := rfl
@[simp] theorem warp_setSplit_trapcause (w : Warp) (k : Nat) (sp : Split) : (w.setSplit k sp).trapcause = w.trapcause := rfl
@[simp] theorem warp_setSplit_trappc (w : Warp) (k : Nat) (sp : Split) : (w.setSplit k sp).trappc = w.trappc := rfl
@[simp] theorem warp_setSplit_trapinfo (w : Warp) (k : Nat) (sp : Split) : (w.setSplit k sp).trapinfo = w.trapinfo := rfl
@[simp] theorem warp_setSplit_running (w : Warp) (k : Nat) (sp : Split) : (w.setSplit k sp).running = w.running := rfl
@[simp] theorem warp_setSplit_idle (w : Warp) (k : Nat) (sp : Split) : (w.setSplit k sp).idle = w.idle := rfl
@[simp] theorem warp_setSplit_handler (w : Warp) (k : Nat) (sp : Split) : (w.setSplit k sp).handler = w.handler := rfl
@[simp] theorem warp_setSplit_exited (w : Warp) (k : Nat) (sp : Split) : (w.setSplit k sp).exited = w.exited := rfl
@[simp] theorem warp_setSplit_away (w : Warp) (k : Nat) (sp : Split) : (w.setSplit k sp).away = w.away := rfl
@[simp] theorem warp_setSplit_returned (w : Warp) (k : Nat) (sp : Split) : (w.setSplit k sp).returned = w.returned := rfl
@[simp] theorem warp_setSplit_carried (w : Warp) (k : Nat) (sp : Split) : (w.setSplit k sp).carried = w.carried := rfl
@[simp] theorem warp_setSplit_resv (w : Warp) (k : Nat) (sp : Split) : (w.setSplit k sp).resv = w.resv := rfl
@[simp] theorem warp_setSplit_region (w : Warp) (k : Nat) (sp : Split) : (w.setSplit k sp).region = w.region := rfl
@[simp] theorem warp_setSplit_sfr (w : Warp) (k : Nat) (sp : Split) : (w.setSplit k sp).sfr = w.sfr := rfl
@[simp] theorem warp_setSplit_closeReq (w : Warp) (k : Nat) (sp : Split) : (w.setSplit k sp).closeReq = w.closeReq := rfl
@[simp] theorem warp_setSplit_expired (w : Warp) (k : Nat) (sp : Split) : (w.setSplit k sp).expired = w.expired := rfl
@[simp] theorem warp_setSplit_replay (w : Warp) (k : Nat) (sp : Split) : (w.setSplit k sp).replay = w.replay := rfl
@[simp] theorem warp_setSplit_homes (w : Warp) (k : Nat) (sp : Split) : (w.setSplit k sp).homes = w.homes := rfl
@[simp] theorem warp_setSplit_parked (w : Warp) (k : Nat) (sp : Split) : (w.setSplit k sp).parked = w.parked := rfl
@[simp] theorem warp_setSplit_wave (w : Warp) (k : Nat) (sp : Split) : (w.setSplit k sp).wave = w.wave := rfl
@[simp] theorem warp_setSplit_slab (w : Warp) (k : Nat) (sp : Split) : (w.setSplit k sp).slab = w.slab := rfl
@[simp] theorem warp_setSplit_guest (w : Warp) (k : Nat) (sp : Split) : (w.setSplit k sp).guest = w.guest := rfl
@[simp] theorem warp_setSplit_lds (w : Warp) (k : Nat) (sp : Split) : (w.setSplit k sp).lds = w.lds := rfl
@[simp] theorem warp_setSplit_ldsSize (w : Warp) (k : Nat) (sp : Split) : (w.setSplit k sp).ldsSize = w.ldsSize := rfl
@[simp] theorem warp_setSplit_gone (w : Warp) (k : Nat) (sp : Split) : (w.setSplit k sp).gone = w.gone := rfl
@[simp] theorem warp_setSplit_age (w : Warp) (k : Nat) (sp : Split) : (w.setSplit k sp).age = w.age := rfl
@[simp] theorem warp_setSplit_missed (w : Warp) (k : Nat) (sp : Split) : (w.setSplit k sp).missed = w.missed := rfl
@[simp] theorem warp_setSplit_faulty (w : Warp) (k : Nat) (sp : Split) : (w.setSplit k sp).faulty = w.faulty := rfl

/-! ### Warp.putV -/

@[simp] theorem warp_putV_uid (w : Warp) (r : Nat) (m : Mask) (x : List Word) (p : Mask) : (w.putV r m x p).uid = w.uid := rfl
@[simp] theorem warp_putV_kind (w : Warp) (r : Nat) (m : Mask) (x : List Word) (p : Mask) : (w.putV r m x p).kind = w.kind := rfl
@[simp] theorem warp_putV_launch (w : Warp) (r : Nat) (m : Mask) (x : List Word) (p : Mask) : (w.putV r m x p).launch = w.launch := rfl
@[simp] theorem warp_putV_block (w : Warp) (r : Nat) (m : Mask) (x : List Word) (p : Mask) : (w.putV r m x p).block = w.block := rfl
@[simp] theorem warp_putV_idx (w : Warp) (r : Nat) (m : Mask) (x : List Word) (p : Mask) : (w.putV r m x p).idx = w.idx := rfl
@[simp] theorem warp_putV_core (w : Warp) (r : Nat) (m : Mask) (x : List Word) (p : Mask) : (w.putV r m x p).core = w.core := rfl
@[simp] theorem warp_putV_slot (w : Warp) (r : Nat) (m : Mask) (x : List Word) (p : Mask) : (w.putV r m x p).slot = w.slot := rfl
@[simp] theorem warp_putV_s (w : Warp) (r : Nat) (m : Mask) (x : List Word) (p : Mask) : (w.putV r m x p).s = w.s := rfl
@[simp] theorem warp_putV_spoison (w : Warp) (r : Nat) (m : Mask) (x : List Word) (p : Mask) : (w.putV r m x p).spoison = w.spoison := rfl
@[simp] theorem warp_putV_p (w : Warp) (r : Nat) (m : Mask) (x : List Word) (p : Mask) : (w.putV r m x p).p = w.p := rfl
@[simp] theorem warp_putV_f (w : Warp) (r : Nat) (m : Mask) (x : List Word) (p : Mask) : (w.putV r m x p).f = w.f := rfl
@[simp] theorem warp_putV_hazards (w : Warp) (r : Nat) (m : Mask) (x : List Word) (p : Mask) : (w.putV r m x p).hazards = w.hazards := rfl
@[simp] theorem warp_putV_ops (w : Warp) (r : Nat) (m : Mask) (x : List Word) (p : Mask) : (w.putV r m x p).ops = w.ops := rfl
@[simp] theorem warp_putV_m (w : Warp) (r : Nat) (m : Mask) (x : List Word) (p : Mask) : (w.putV r m x p).m = w.m := rfl
@[simp] theorem warp_putV_shadow (w : Warp) (r : Nat) (m : Mask) (x : List Word) (p : Mask) : (w.putV r m x p).shadow = w.shadow := rfl
@[simp] theorem warp_putV_ms (w : Warp) (r : Nat) (m : Mask) (x : List Word) (p : Mask) : (w.putV r m x p).ms = w.ms := rfl
@[simp] theorem warp_putV_carryV (w : Warp) (r : Nat) (m : Mask) (x : List Word) (p : Mask) : (w.putV r m x p).carryV = w.carryV := rfl
@[simp] theorem warp_putV_carryS (w : Warp) (r : Nat) (m : Mask) (x : List Word) (p : Mask) : (w.putV r m x p).carryS = w.carryS := rfl
@[simp] theorem warp_putV_sticky (w : Warp) (r : Nat) (m : Mask) (x : List Word) (p : Mask) : (w.putV r m x p).sticky = w.sticky := rfl
@[simp] theorem warp_putV_quota (w : Warp) (r : Nat) (m : Mask) (x : List Word) (p : Mask) : (w.putV r m x p).quota = w.quota := rfl
@[simp] theorem warp_putV_trapcause (w : Warp) (r : Nat) (m : Mask) (x : List Word) (p : Mask) : (w.putV r m x p).trapcause = w.trapcause := rfl
@[simp] theorem warp_putV_trappc (w : Warp) (r : Nat) (m : Mask) (x : List Word) (p : Mask) : (w.putV r m x p).trappc = w.trappc := rfl
@[simp] theorem warp_putV_trapinfo (w : Warp) (r : Nat) (m : Mask) (x : List Word) (p : Mask) : (w.putV r m x p).trapinfo = w.trapinfo := rfl
@[simp] theorem warp_putV_splits (w : Warp) (r : Nat) (m : Mask) (x : List Word) (p : Mask) : (w.putV r m x p).splits = w.splits := rfl
@[simp] theorem warp_putV_running (w : Warp) (r : Nat) (m : Mask) (x : List Word) (p : Mask) : (w.putV r m x p).running = w.running := rfl
@[simp] theorem warp_putV_idle (w : Warp) (r : Nat) (m : Mask) (x : List Word) (p : Mask) : (w.putV r m x p).idle = w.idle := rfl
@[simp] theorem warp_putV_handler (w : Warp) (r : Nat) (m : Mask) (x : List Word) (p : Mask) : (w.putV r m x p).handler = w.handler := rfl
@[simp] theorem warp_putV_exited (w : Warp) (r : Nat) (m : Mask) (x : List Word) (p : Mask) : (w.putV r m x p).exited = w.exited := rfl
@[simp] theorem warp_putV_away (w : Warp) (r : Nat) (m : Mask) (x : List Word) (p : Mask) : (w.putV r m x p).away = w.away := rfl
@[simp] theorem warp_putV_returned (w : Warp) (r : Nat) (m : Mask) (x : List Word) (p : Mask) : (w.putV r m x p).returned = w.returned := rfl
@[simp] theorem warp_putV_carried (w : Warp) (r : Nat) (m : Mask) (x : List Word) (p : Mask) : (w.putV r m x p).carried = w.carried := rfl
@[simp] theorem warp_putV_resv (w : Warp) (r : Nat) (m : Mask) (x : List Word) (p : Mask) : (w.putV r m x p).resv = w.resv := rfl
@[simp] theorem warp_putV_region (w : Warp) (r : Nat) (m : Mask) (x : List Word) (p : Mask) : (w.putV r m x p).region = w.region := rfl
@[simp] theorem warp_putV_sfr (w : Warp) (r : Nat) (m : Mask) (x : List Word) (p : Mask) : (w.putV r m x p).sfr = w.sfr := rfl
@[simp] theorem warp_putV_closeReq (w : Warp) (r : Nat) (m : Mask) (x : List Word) (p : Mask) : (w.putV r m x p).closeReq = w.closeReq := rfl
@[simp] theorem warp_putV_expired (w : Warp) (r : Nat) (m : Mask) (x : List Word) (p : Mask) : (w.putV r m x p).expired = w.expired := rfl
@[simp] theorem warp_putV_replay (w : Warp) (r : Nat) (m : Mask) (x : List Word) (p : Mask) : (w.putV r m x p).replay = w.replay := rfl
@[simp] theorem warp_putV_homes (w : Warp) (r : Nat) (m : Mask) (x : List Word) (p : Mask) : (w.putV r m x p).homes = w.homes := rfl
@[simp] theorem warp_putV_parked (w : Warp) (r : Nat) (m : Mask) (x : List Word) (p : Mask) : (w.putV r m x p).parked = w.parked := rfl
@[simp] theorem warp_putV_wave (w : Warp) (r : Nat) (m : Mask) (x : List Word) (p : Mask) : (w.putV r m x p).wave = w.wave := rfl
@[simp] theorem warp_putV_slab (w : Warp) (r : Nat) (m : Mask) (x : List Word) (p : Mask) : (w.putV r m x p).slab = w.slab := rfl
@[simp] theorem warp_putV_guest (w : Warp) (r : Nat) (m : Mask) (x : List Word) (p : Mask) : (w.putV r m x p).guest = w.guest := rfl
@[simp] theorem warp_putV_lds (w : Warp) (r : Nat) (m : Mask) (x : List Word) (p : Mask) : (w.putV r m x p).lds = w.lds := rfl
@[simp] theorem warp_putV_ldsSize (w : Warp) (r : Nat) (m : Mask) (x : List Word) (p : Mask) : (w.putV r m x p).ldsSize = w.ldsSize := rfl
@[simp] theorem warp_putV_gone (w : Warp) (r : Nat) (m : Mask) (x : List Word) (p : Mask) : (w.putV r m x p).gone = w.gone := rfl
@[simp] theorem warp_putV_age (w : Warp) (r : Nat) (m : Mask) (x : List Word) (p : Mask) : (w.putV r m x p).age = w.age := rfl
@[simp] theorem warp_putV_missed (w : Warp) (r : Nat) (m : Mask) (x : List Word) (p : Mask) : (w.putV r m x p).missed = w.missed := rfl
@[simp] theorem warp_putV_faulty (w : Warp) (r : Nat) (m : Mask) (x : List Word) (p : Mask) : (w.putV r m x p).faulty = w.faulty := rfl

/-! ### Warp.free -/

@[simp] theorem warp_free_uid (w : Warp) (r : Nat) : (w.free r).uid = w.uid := rfl
@[simp] theorem warp_free_kind (w : Warp) (r : Nat) : (w.free r).kind = w.kind := rfl
@[simp] theorem warp_free_launch (w : Warp) (r : Nat) : (w.free r).launch = w.launch := rfl
@[simp] theorem warp_free_block (w : Warp) (r : Nat) : (w.free r).block = w.block := rfl
@[simp] theorem warp_free_idx (w : Warp) (r : Nat) : (w.free r).idx = w.idx := rfl
@[simp] theorem warp_free_core (w : Warp) (r : Nat) : (w.free r).core = w.core := rfl
@[simp] theorem warp_free_slot (w : Warp) (r : Nat) : (w.free r).slot = w.slot := rfl
@[simp] theorem warp_free_s (w : Warp) (r : Nat) : (w.free r).s = w.s := rfl
@[simp] theorem warp_free_spoison (w : Warp) (r : Nat) : (w.free r).spoison = w.spoison := rfl
@[simp] theorem warp_free_p (w : Warp) (r : Nat) : (w.free r).p = w.p := rfl
@[simp] theorem warp_free_f (w : Warp) (r : Nat) : (w.free r).f = w.f := rfl
@[simp] theorem warp_free_hazards (w : Warp) (r : Nat) : (w.free r).hazards = w.hazards := rfl
@[simp] theorem warp_free_ops (w : Warp) (r : Nat) : (w.free r).ops = w.ops := rfl
@[simp] theorem warp_free_m (w : Warp) (r : Nat) : (w.free r).m = w.m := rfl
@[simp] theorem warp_free_shadow (w : Warp) (r : Nat) : (w.free r).shadow = w.shadow := rfl
@[simp] theorem warp_free_ms (w : Warp) (r : Nat) : (w.free r).ms = w.ms := rfl
@[simp] theorem warp_free_carryV (w : Warp) (r : Nat) : (w.free r).carryV = w.carryV := rfl
@[simp] theorem warp_free_carryS (w : Warp) (r : Nat) : (w.free r).carryS = w.carryS := rfl
@[simp] theorem warp_free_sticky (w : Warp) (r : Nat) : (w.free r).sticky = w.sticky := rfl
@[simp] theorem warp_free_quota (w : Warp) (r : Nat) : (w.free r).quota = w.quota := rfl
@[simp] theorem warp_free_trapcause (w : Warp) (r : Nat) : (w.free r).trapcause = w.trapcause := rfl
@[simp] theorem warp_free_trappc (w : Warp) (r : Nat) : (w.free r).trappc = w.trappc := rfl
@[simp] theorem warp_free_trapinfo (w : Warp) (r : Nat) : (w.free r).trapinfo = w.trapinfo := rfl
@[simp] theorem warp_free_splits (w : Warp) (r : Nat) : (w.free r).splits = w.splits := rfl
@[simp] theorem warp_free_running (w : Warp) (r : Nat) : (w.free r).running = w.running := rfl
@[simp] theorem warp_free_idle (w : Warp) (r : Nat) : (w.free r).idle = w.idle := rfl
@[simp] theorem warp_free_handler (w : Warp) (r : Nat) : (w.free r).handler = w.handler := rfl
@[simp] theorem warp_free_exited (w : Warp) (r : Nat) : (w.free r).exited = w.exited := rfl
@[simp] theorem warp_free_away (w : Warp) (r : Nat) : (w.free r).away = w.away := rfl
@[simp] theorem warp_free_returned (w : Warp) (r : Nat) : (w.free r).returned = w.returned := rfl
@[simp] theorem warp_free_carried (w : Warp) (r : Nat) : (w.free r).carried = w.carried := rfl
@[simp] theorem warp_free_resv (w : Warp) (r : Nat) : (w.free r).resv = w.resv := rfl
@[simp] theorem warp_free_region (w : Warp) (r : Nat) : (w.free r).region = w.region := rfl
@[simp] theorem warp_free_sfr (w : Warp) (r : Nat) : (w.free r).sfr = w.sfr := rfl
@[simp] theorem warp_free_closeReq (w : Warp) (r : Nat) : (w.free r).closeReq = w.closeReq := rfl
@[simp] theorem warp_free_expired (w : Warp) (r : Nat) : (w.free r).expired = w.expired := rfl
@[simp] theorem warp_free_replay (w : Warp) (r : Nat) : (w.free r).replay = w.replay := rfl
@[simp] theorem warp_free_homes (w : Warp) (r : Nat) : (w.free r).homes = w.homes := rfl
@[simp] theorem warp_free_parked (w : Warp) (r : Nat) : (w.free r).parked = w.parked := rfl
@[simp] theorem warp_free_wave (w : Warp) (r : Nat) : (w.free r).wave = w.wave := rfl
@[simp] theorem warp_free_slab (w : Warp) (r : Nat) : (w.free r).slab = w.slab := rfl
@[simp] theorem warp_free_guest (w : Warp) (r : Nat) : (w.free r).guest = w.guest := rfl
@[simp] theorem warp_free_lds (w : Warp) (r : Nat) : (w.free r).lds = w.lds := rfl
@[simp] theorem warp_free_ldsSize (w : Warp) (r : Nat) : (w.free r).ldsSize = w.ldsSize := rfl
@[simp] theorem warp_free_gone (w : Warp) (r : Nat) : (w.free r).gone = w.gone := rfl
@[simp] theorem warp_free_age (w : Warp) (r : Nat) : (w.free r).age = w.age := rfl
@[simp] theorem warp_free_missed (w : Warp) (r : Nat) : (w.free r).missed = w.missed := rfl
@[simp] theorem warp_free_faulty (w : Warp) (r : Nat) : (w.free r).faulty = w.faulty := rfl

/-! ### Warp.alloc -/

@[simp] theorem warp_alloc_uid (w : Warp) (r : Nat) : (w.alloc r).uid = w.uid := rfl
@[simp] theorem warp_alloc_kind (w : Warp) (r : Nat) : (w.alloc r).kind = w.kind := rfl
@[simp] theorem warp_alloc_launch (w : Warp) (r : Nat) : (w.alloc r).launch = w.launch := rfl
@[simp] theorem warp_alloc_block (w : Warp) (r : Nat) : (w.alloc r).block = w.block := rfl
@[simp] theorem warp_alloc_idx (w : Warp) (r : Nat) : (w.alloc r).idx = w.idx := rfl
@[simp] theorem warp_alloc_core (w : Warp) (r : Nat) : (w.alloc r).core = w.core := rfl
@[simp] theorem warp_alloc_slot (w : Warp) (r : Nat) : (w.alloc r).slot = w.slot := rfl
@[simp] theorem warp_alloc_s (w : Warp) (r : Nat) : (w.alloc r).s = w.s := rfl
@[simp] theorem warp_alloc_spoison (w : Warp) (r : Nat) : (w.alloc r).spoison = w.spoison := rfl
@[simp] theorem warp_alloc_p (w : Warp) (r : Nat) : (w.alloc r).p = w.p := rfl
@[simp] theorem warp_alloc_f (w : Warp) (r : Nat) : (w.alloc r).f = w.f := rfl
@[simp] theorem warp_alloc_hazards (w : Warp) (r : Nat) : (w.alloc r).hazards = w.hazards := rfl
@[simp] theorem warp_alloc_ops (w : Warp) (r : Nat) : (w.alloc r).ops = w.ops := rfl
@[simp] theorem warp_alloc_m (w : Warp) (r : Nat) : (w.alloc r).m = w.m := rfl
@[simp] theorem warp_alloc_shadow (w : Warp) (r : Nat) : (w.alloc r).shadow = w.shadow := rfl
@[simp] theorem warp_alloc_ms (w : Warp) (r : Nat) : (w.alloc r).ms = w.ms := rfl
@[simp] theorem warp_alloc_carryV (w : Warp) (r : Nat) : (w.alloc r).carryV = w.carryV := rfl
@[simp] theorem warp_alloc_carryS (w : Warp) (r : Nat) : (w.alloc r).carryS = w.carryS := rfl
@[simp] theorem warp_alloc_sticky (w : Warp) (r : Nat) : (w.alloc r).sticky = w.sticky := rfl
@[simp] theorem warp_alloc_quota (w : Warp) (r : Nat) : (w.alloc r).quota = w.quota := rfl
@[simp] theorem warp_alloc_trapcause (w : Warp) (r : Nat) : (w.alloc r).trapcause = w.trapcause := rfl
@[simp] theorem warp_alloc_trappc (w : Warp) (r : Nat) : (w.alloc r).trappc = w.trappc := rfl
@[simp] theorem warp_alloc_trapinfo (w : Warp) (r : Nat) : (w.alloc r).trapinfo = w.trapinfo := rfl
@[simp] theorem warp_alloc_splits (w : Warp) (r : Nat) : (w.alloc r).splits = w.splits := rfl
@[simp] theorem warp_alloc_running (w : Warp) (r : Nat) : (w.alloc r).running = w.running := rfl
@[simp] theorem warp_alloc_idle (w : Warp) (r : Nat) : (w.alloc r).idle = w.idle := rfl
@[simp] theorem warp_alloc_handler (w : Warp) (r : Nat) : (w.alloc r).handler = w.handler := rfl
@[simp] theorem warp_alloc_exited (w : Warp) (r : Nat) : (w.alloc r).exited = w.exited := rfl
@[simp] theorem warp_alloc_away (w : Warp) (r : Nat) : (w.alloc r).away = w.away := rfl
@[simp] theorem warp_alloc_returned (w : Warp) (r : Nat) : (w.alloc r).returned = w.returned := rfl
@[simp] theorem warp_alloc_carried (w : Warp) (r : Nat) : (w.alloc r).carried = w.carried := rfl
@[simp] theorem warp_alloc_resv (w : Warp) (r : Nat) : (w.alloc r).resv = w.resv := rfl
@[simp] theorem warp_alloc_region (w : Warp) (r : Nat) : (w.alloc r).region = w.region := rfl
@[simp] theorem warp_alloc_sfr (w : Warp) (r : Nat) : (w.alloc r).sfr = w.sfr := rfl
@[simp] theorem warp_alloc_closeReq (w : Warp) (r : Nat) : (w.alloc r).closeReq = w.closeReq := rfl
@[simp] theorem warp_alloc_expired (w : Warp) (r : Nat) : (w.alloc r).expired = w.expired := rfl
@[simp] theorem warp_alloc_replay (w : Warp) (r : Nat) : (w.alloc r).replay = w.replay := rfl
@[simp] theorem warp_alloc_homes (w : Warp) (r : Nat) : (w.alloc r).homes = w.homes := rfl
@[simp] theorem warp_alloc_parked (w : Warp) (r : Nat) : (w.alloc r).parked = w.parked := rfl
@[simp] theorem warp_alloc_wave (w : Warp) (r : Nat) : (w.alloc r).wave = w.wave := rfl
@[simp] theorem warp_alloc_slab (w : Warp) (r : Nat) : (w.alloc r).slab = w.slab := rfl
@[simp] theorem warp_alloc_guest (w : Warp) (r : Nat) : (w.alloc r).guest = w.guest := rfl
@[simp] theorem warp_alloc_lds (w : Warp) (r : Nat) : (w.alloc r).lds = w.lds := rfl
@[simp] theorem warp_alloc_ldsSize (w : Warp) (r : Nat) : (w.alloc r).ldsSize = w.ldsSize := rfl
@[simp] theorem warp_alloc_gone (w : Warp) (r : Nat) : (w.alloc r).gone = w.gone := rfl
@[simp] theorem warp_alloc_age (w : Warp) (r : Nat) : (w.alloc r).age = w.age := rfl
@[simp] theorem warp_alloc_missed (w : Warp) (r : Nat) : (w.alloc r).missed = w.missed := rfl
@[simp] theorem warp_alloc_faulty (w : Warp) (r : Nat) : (w.alloc r).faulty = w.faulty := rfl

/-! ### Warp.putP -/

@[simp] theorem warp_putP_uid (w : Warp) (r : Nat) (m x : Mask) : (w.putP r m x).uid = w.uid := rfl
@[simp] theorem warp_putP_kind (w : Warp) (r : Nat) (m x : Mask) : (w.putP r m x).kind = w.kind := rfl
@[simp] theorem warp_putP_launch (w : Warp) (r : Nat) (m x : Mask) : (w.putP r m x).launch = w.launch := rfl
@[simp] theorem warp_putP_block (w : Warp) (r : Nat) (m x : Mask) : (w.putP r m x).block = w.block := rfl
@[simp] theorem warp_putP_idx (w : Warp) (r : Nat) (m x : Mask) : (w.putP r m x).idx = w.idx := rfl
@[simp] theorem warp_putP_core (w : Warp) (r : Nat) (m x : Mask) : (w.putP r m x).core = w.core := rfl
@[simp] theorem warp_putP_slot (w : Warp) (r : Nat) (m x : Mask) : (w.putP r m x).slot = w.slot := rfl
@[simp] theorem warp_putP_v (w : Warp) (r : Nat) (m x : Mask) : (w.putP r m x).v = w.v := rfl
@[simp] theorem warp_putP_s (w : Warp) (r : Nat) (m x : Mask) : (w.putP r m x).s = w.s := rfl
@[simp] theorem warp_putP_spoison (w : Warp) (r : Nat) (m x : Mask) : (w.putP r m x).spoison = w.spoison := rfl
@[simp] theorem warp_putP_f (w : Warp) (r : Nat) (m x : Mask) : (w.putP r m x).f = w.f := rfl
@[simp] theorem warp_putP_hazards (w : Warp) (r : Nat) (m x : Mask) : (w.putP r m x).hazards = w.hazards := rfl
@[simp] theorem warp_putP_ops (w : Warp) (r : Nat) (m x : Mask) : (w.putP r m x).ops = w.ops := rfl
@[simp] theorem warp_putP_m (w : Warp) (r : Nat) (m x : Mask) : (w.putP r m x).m = w.m := rfl
@[simp] theorem warp_putP_shadow (w : Warp) (r : Nat) (m x : Mask) : (w.putP r m x).shadow = w.shadow := rfl
@[simp] theorem warp_putP_ms (w : Warp) (r : Nat) (m x : Mask) : (w.putP r m x).ms = w.ms := rfl
@[simp] theorem warp_putP_carryV (w : Warp) (r : Nat) (m x : Mask) : (w.putP r m x).carryV = w.carryV := rfl
@[simp] theorem warp_putP_carryS (w : Warp) (r : Nat) (m x : Mask) : (w.putP r m x).carryS = w.carryS := rfl
@[simp] theorem warp_putP_sticky (w : Warp) (r : Nat) (m x : Mask) : (w.putP r m x).sticky = w.sticky := rfl
@[simp] theorem warp_putP_quota (w : Warp) (r : Nat) (m x : Mask) : (w.putP r m x).quota = w.quota := rfl
@[simp] theorem warp_putP_trapcause (w : Warp) (r : Nat) (m x : Mask) : (w.putP r m x).trapcause = w.trapcause := rfl
@[simp] theorem warp_putP_trappc (w : Warp) (r : Nat) (m x : Mask) : (w.putP r m x).trappc = w.trappc := rfl
@[simp] theorem warp_putP_trapinfo (w : Warp) (r : Nat) (m x : Mask) : (w.putP r m x).trapinfo = w.trapinfo := rfl
@[simp] theorem warp_putP_splits (w : Warp) (r : Nat) (m x : Mask) : (w.putP r m x).splits = w.splits := rfl
@[simp] theorem warp_putP_running (w : Warp) (r : Nat) (m x : Mask) : (w.putP r m x).running = w.running := rfl
@[simp] theorem warp_putP_idle (w : Warp) (r : Nat) (m x : Mask) : (w.putP r m x).idle = w.idle := rfl
@[simp] theorem warp_putP_handler (w : Warp) (r : Nat) (m x : Mask) : (w.putP r m x).handler = w.handler := rfl
@[simp] theorem warp_putP_exited (w : Warp) (r : Nat) (m x : Mask) : (w.putP r m x).exited = w.exited := rfl
@[simp] theorem warp_putP_away (w : Warp) (r : Nat) (m x : Mask) : (w.putP r m x).away = w.away := rfl
@[simp] theorem warp_putP_returned (w : Warp) (r : Nat) (m x : Mask) : (w.putP r m x).returned = w.returned := rfl
@[simp] theorem warp_putP_carried (w : Warp) (r : Nat) (m x : Mask) : (w.putP r m x).carried = w.carried := rfl
@[simp] theorem warp_putP_resv (w : Warp) (r : Nat) (m x : Mask) : (w.putP r m x).resv = w.resv := rfl
@[simp] theorem warp_putP_region (w : Warp) (r : Nat) (m x : Mask) : (w.putP r m x).region = w.region := rfl
@[simp] theorem warp_putP_sfr (w : Warp) (r : Nat) (m x : Mask) : (w.putP r m x).sfr = w.sfr := rfl
@[simp] theorem warp_putP_closeReq (w : Warp) (r : Nat) (m x : Mask) : (w.putP r m x).closeReq = w.closeReq := rfl
@[simp] theorem warp_putP_expired (w : Warp) (r : Nat) (m x : Mask) : (w.putP r m x).expired = w.expired := rfl
@[simp] theorem warp_putP_replay (w : Warp) (r : Nat) (m x : Mask) : (w.putP r m x).replay = w.replay := rfl
@[simp] theorem warp_putP_homes (w : Warp) (r : Nat) (m x : Mask) : (w.putP r m x).homes = w.homes := rfl
@[simp] theorem warp_putP_parked (w : Warp) (r : Nat) (m x : Mask) : (w.putP r m x).parked = w.parked := rfl
@[simp] theorem warp_putP_wave (w : Warp) (r : Nat) (m x : Mask) : (w.putP r m x).wave = w.wave := rfl
@[simp] theorem warp_putP_slab (w : Warp) (r : Nat) (m x : Mask) : (w.putP r m x).slab = w.slab := rfl
@[simp] theorem warp_putP_guest (w : Warp) (r : Nat) (m x : Mask) : (w.putP r m x).guest = w.guest := rfl
@[simp] theorem warp_putP_lds (w : Warp) (r : Nat) (m x : Mask) : (w.putP r m x).lds = w.lds := rfl
@[simp] theorem warp_putP_ldsSize (w : Warp) (r : Nat) (m x : Mask) : (w.putP r m x).ldsSize = w.ldsSize := rfl
@[simp] theorem warp_putP_gone (w : Warp) (r : Nat) (m x : Mask) : (w.putP r m x).gone = w.gone := rfl
@[simp] theorem warp_putP_age (w : Warp) (r : Nat) (m x : Mask) : (w.putP r m x).age = w.age := rfl
@[simp] theorem warp_putP_missed (w : Warp) (r : Nat) (m x : Mask) : (w.putP r m x).missed = w.missed := rfl
@[simp] theorem warp_putP_faulty (w : Warp) (r : Nat) (m x : Mask) : (w.putP r m x).faulty = w.faulty := rfl

end Sys2Proof.Laws
end

