-- ==== Sys2Proof/Laws/Issue.lean ====
section
/-! SUPPORT. What issue can do, said once: an admitted instruction reaches its body; a body that is done retires; an access
that nothing holds back is done; a retirement changes one warp. -/

namespace Sys2Proof.Laws

open Sys2Proof.Machine

/-! ### Checks and issue -/

/-- An admitted instruction whose own description has no objection passes every check (R58). -/
theorem checks_go {c : Ctx} {opc : Nat} {uses : List Use} (h : Admitted c opc uses) : c.checks opc uses none = .go := by
  obtain ⟨h1, h2, h3, h4, h5, h6, h7, h8, h9, h10⟩ := h
  have f1 : uses.findSome? Use.bad = none := List.findSome?_eq_none_iff.2 h6
  have f2 : uses.findSome? c.w.hazardOf = none := List.findSome?_eq_none_iff.2 h7
  have f3 : (sortBy id (uses.filterMap c.poisonLane)).head? = none := by
    rw [List.filterMap_eq_nil_iff.2 h8]
    rfl
  have g : (c.guest && (opcodeProfile opc == .main || opcodeProfile opc == .native || opcodeProfile opc == .notGuest || false)) = false := by
    cases hg : c.guest
    · rfl
    · rw [h1 hg]; rfl
  have g3 : ((opcodeProfile opc == .main && c.native) || (opcodeProfile opc == .native && !c.native)) = false := by
    cases hp : opcodeProfile opc
    · rfl
    · rw [h3 hp]; rfl
    · rw [h4 hp]; rfl
    · rfl
  have g5 : (opcodePrivileged opc && c.w.tenant) = false := by
    cases hp : opcodePrivileged opc
    · rfl
    · rw [h5 hp]; rfl
  have g9 : (c.st.debugOf c.w && !((List.range 32).filter fun r => (uses.flatMap c.unallocated).contains r).isEmpty) = false := by
    cases hd : c.st.debugOf c.w
    · rfl
    · have : uses.flatMap c.unallocated = [] := List.flatMap_eq_nil_iff.2 (h9 hd)
      simp [this]
  unfold Ctx.checks
  simp only [g, h2, g3, g5, f1, f2, f3, g9, Bool.false_eq_true, if_false]
  cases hr : c.w.renames
  · rfl
  · have : (c.st.owners c.w (c.written uses)).findSome? (fun h => h.quotaFail (writtenNames uses)) = none := List.findSome?_eq_none_iff.2 (h10 hr)
    simp [this]

/-- An admitted instruction answers what its body makes of the state. -/
theorem issue_go {opc : Nat} {s : State} {uses : Ctx → List Use} {own : Ctx → Option (Nat × Word)} {body : Ctx → Act} {c : Ctx}
    (hc : s.ctx? = some c) (h : Admitted c opc (uses c)) (ho : own c = none) :
    issue opc s uses own body = .next (c.finish opc (uses c) (body c)) := by
  unfold issue
  rw [hc]
  simp only [ho, checks_go h]

/-- A body that is done retires. -/
theorem issue_done {opc : Nat} {s : State} {uses : Ctx → List Use} {own : Ctx → Option (Nat × Word)} {body : Ctx → Act} {c : Ctx}
    {s1 : State} {ws : List LaneWrite} {st : BitVec 8}
    (hc : s.ctx? = some c) (h : Admitted c opc (uses c)) (ho : own c = none) (hb : body c = .done s1 ws st) :
    issue opc s uses own body = .next (c.retire opc (uses c) s1 ws st) := by
  rw [issue_go hc h ho, hb]
  rfl

/-- The context that an agent issues in holds the state itself. -/
theorem ctx_st {s : State} {c : Ctx} (h : s.ctx? = some c) : c.st = s := by
  unfold State.ctx? at h
  split at h
  · cases h
  · split at h
    · cases h
    · split at h
      · cases h
      · split at h
        · cases h
        · cases h; rfl

/-- The context names a warp of the machine, its running split, and it has not ended. -/
theorem ctx_warp {s : State} {c : Ctx} (h : s.ctx? = some c) :
    s.warp? c.w.uid = some c.w ∧ c.w.splits[c.k]? = some c.sp ∧ c.k = c.w.running ∧ c.w.gone = false ∧ s.cur = some c.w.uid := by
  unfold State.ctx? at h
  split at h
  · cases h
  · rename_i u hu
    split at h
    · cases h
    · rename_i w hw
      split at h
      · cases h
      · rename_i sp hsp
        split at h
        · cases h
        · rename_i hg
          cases h
          have : w.uid = u := by
            have := List.find?_some hw
            simpa using this
          subst this
          exact ⟨hw, hsp, rfl, by simpa using hg, hu⟩

/-! ### Results -/

/-- A result computed in the active lanes. -/
theorem vresult_done (c : Ctx) (d : Nat) (pair : Bool) (f : Nat → Res) :
    c.vresult d pair f = .done c.st (vwrite d pair c.act fun l => (f l).1) (c.stickyOf f) := by
  have hv : ∀ (g h : Nat → Nat), (∀ i, i < 32 → hasLane c.act i = true → g i = h i) → vwrite d pair c.act g = vwrite d pair c.act h := by
    intro g h hgh
    have : ∀ (t : Nat → Nat), perLane (fun i => if hasLane c.act i then Machine.word (t (g i)) else 0)
        = perLane (fun i => if hasLane c.act i then Machine.word (t (h i)) else 0) := by
      intro t
      unfold perLane
      apply List.map_congr_left
      intro i hi
      have hi : i < 32 := List.mem_range.1 hi
      by_cases ha : hasLane c.act i = true
      · simp [ha, hgh i hi ha]
      · simp [ha]
    unfold vwrite
    have h1 := this id
    have h2 := this (· / 2 ^ 32)
    simp only [id] at h1
    simp only [h1, h2]
  have hs : ∀ (l : List Nat) (a : BitVec 8), (l.map fun i => if hasLane c.act i then f i else (0, 0)).foldl (fun a r => a ||| r.2) a
      = (l.filter (hasLane c.act)).foldl (fun a i => a ||| (f i).2) a := by
    intro l
    induction l with
    | nil => intro a; rfl
    | cons i l ih =>
      intro a
      cases ha : hasLane c.act i
      · simp only [List.map_cons, List.foldl_cons, List.filter_cons, ha, Bool.false_eq_true, if_false]
        rw [show a ||| (0 : BitVec 8) = a from BitVec.or_zero]
        exact ih a
      · simp only [List.map_cons, List.foldl_cons, List.filter_cons, ha, if_true]
        exact ih _
  unfold Ctx.vresult
  dsimp only
  rw [hs]
  rw [hv _ (fun l => (f l).1) (fun i hi ha => by simp [hi, ha])]
  rfl

/-- A mask depends only on its 32 lanes. -/
theorem maskOf_congr {f g : Nat → Bool} (h : ∀ i, i < 32 → f i = g i) : maskOf f = maskOf g := by
  have : ∀ l : List Nat, (∀ i ∈ l, i < 32) →
      l.foldr (fun i acc => (if f i then 1 else 0) + 2 * acc) 0 = l.foldr (fun i acc => (if g i then 1 else 0) + 2 * acc) 0 := by
    intro l
    induction l with
    | nil => intro; rfl
    | cons i l ih =>
      intro hl
      simp only [List.foldr_cons, h i (hl i (List.mem_cons_self ..)), ih fun j hj => hl j (List.mem_cons_of_mem _ hj)]
  unfold maskOf
  rw [this _ fun i hi => List.mem_range.1 hi]

/-- A predicate computed in the active lanes. -/
theorem presult_done (c : Ctx) (p : Nat) (f : Nat → Bool × BitVec 8) :
    c.presult p f = .done c.st (pwriteAct p c.act (maskOf fun l => hasLane c.act l && (f l).1)) (c.stickyOf fun l => (0, (f l).2)) := by
  have hs : ∀ (l : List Nat) (a : BitVec 8), (l.map fun i => if hasLane c.act i then f i else (false, 0)).foldl (fun a r => a ||| r.2) a
      = (l.filter (hasLane c.act)).foldl (fun a i => a ||| (f i).2) a := by
    intro l
    induction l with
    | nil => intro a; rfl
    | cons i l ih =>
      intro a
      cases ha : hasLane c.act i
      · simp only [List.map_cons, List.foldl_cons, List.filter_cons, ha, Bool.false_eq_true, if_false]
        rw [show a ||| (0 : BitVec 8) = a from BitVec.or_zero]
        exact ih a
      · simp only [List.map_cons, List.foldl_cons, List.filter_cons, ha, if_true]
        exact ih _
  have hm : (maskOf fun i => (((List.range 32).map fun i => if hasLane c.act i then f i else (false, 0))[i]?.getD (false, 0)).1)
      = maskOf fun l => hasLane c.act l && (f l).1 := by
    refine maskOf_congr fun i hi => ?_
    by_cases ha : hasLane c.act i = true
    · simp [hi, ha]
    · simp [hi, ha]
  unfold Ctx.presult
  dsimp only
  rw [hs, hm]
  rfl

/-! ### Accesses -/

/-- An access that nothing holds back is done (R127, R176, R264, R269). -/
theorem access_done {c : Ctx} {kind : MemKind} {lanes : List Nat} {target : Nat → Option Dest}
    {address : State → Nat → Except AFault (State × Acc)} {effect : State → List Acc → MemResult} {s1 : State} {as : List Acc}
    (h : Unhindered c kind lanes target address s1 as) :
    c.access kind lanes target address effect =
      .done (effect (c.entered kind s1 as) as).1 (effect (c.entered kind s1 as) as).2.1 (effect (c.entered kind s1 as) as).2.2 := by
  obtain ⟨h1, h2, h3, h4, hw, h5, h6, h7, h8⟩ := h
  have hp : (if kind.migrates then c.plan kind.names target false else .go [] []) = Plan.go [] [] := by
    cases hk : kind.migrates
    · rfl
    · simpa using h1 hk
  have hh : (if kind.write then s1.heldAcc as else none) = none := by
    cases hk : kind.write
    · rfl
    · simpa using h5 hk
  have hf : (if kind.strong || kind.ends then none else s1.fullLine c.w.uid as) = none := by
    cases hk : kind.strong <;> cases he : kind.ends <;> simp
    exact h8 hk he
  have hl : (as.filter fun a => !([] : List (Nat × Dest)).any (·.1 == a.lane)) = as := by simp
  unfold Ctx.access
  rw [hp]
  simp only [hl, h2]
  unfold Ctx.perform
  simp only [h3, h4, hw, hh, h6, h7, hf, List.isEmpty_nil, Bool.not_true, Bool.and_false, if_true, Bool.false_eq_true, if_false]

/-! ### The shapes of completion -/

/-- An instruction that is issued completes as its body says. -/
theorem completes_of {i : Instr} {opc : Nat} {uses : Ctx → List Use} {ok : Ctx → Prop} {out : Ctx → State} {own : Ctx → Option (Nat × Word)}
    {body : Ctx → Act} (he : ∀ s, exec i s = issue opc s uses own body) (ho : ∀ c, ok c → own c = none)
    (hb : ∀ c, ok c → c.finish opc (uses c) (body c) = out c) : Completes i opc uses ok out := by
  intro s c hc ha hok
  rw [he, issue_go hc ha (ho c hok), hb c hok]

/-- A body that is done makes its instruction retire. -/
theorem retires_of {i : Instr} {opc : Nat} {uses : Ctx → List Use} {ok : Ctx → Prop} {out : Ctx → State} {ws : Ctx → List LaneWrite}
    {fl : Ctx → BitVec 8} {own : Ctx → Option (Nat × Word)} {body : Ctx → Act} (he : ∀ s, exec i s = issue opc s uses own body)
    (ho : ∀ c, ok c → own c = none) (hb : ∀ c, ok c → body c = .done (out c) (ws c) (fl c)) : Retires i opc uses ok out ws fl :=
  completes_of he ho fun c h => by rw [hb c h]; rfl

/-- A body that computes a value per lane. -/
theorem lanes_of {i : Instr} {opc : Nat} {uses : Ctx → List Use} {ok : Ctx → Prop} {d : Nat} {pair : Ctx → Bool} {f : Ctx → Nat → Res}
    {own : Ctx → Option (Nat × Word)} {body : Ctx → Act} (he : ∀ s, exec i s = issue opc s uses own body) (ho : ∀ c, ok c → own c = none)
    (hb : ∀ c, ok c → body c = c.vresult d (pair c) (f c)) : Lanes i opc uses ok d pair f :=
  retires_of he ho fun c h => (hb c h).trans (vresult_done c d (pair c) (f c))

/-- A body that computes a predicate bit per lane. -/
theorem preds_of {i : Instr} {opc : Nat} {uses : Ctx → List Use} {ok : Ctx → Prop} {p : Nat} {f : Ctx → Nat → Bool × BitVec 8}
    {own : Ctx → Option (Nat × Word)} {body : Ctx → Act} (he : ∀ s, exec i s = issue opc s uses own body) (ho : ∀ c, ok c → own c = none)
    (hb : ∀ c, ok c → body c = c.presult p (f c)) : Preds i opc uses ok p f :=
  retires_of he ho fun c h => (hb c h).trans (presult_done c p (f c))

/-- A body that has set its split's place. -/
theorem jumps_of {i : Instr} {opc : Nat} {uses : Ctx → List Use} {ok : Ctx → Prop} {out : Ctx → State} {own : Ctx → Option (Nat × Word)}
    {body : Ctx → Act} (he : ∀ s, exec i s = issue opc s uses own body) (ho : ∀ c, ok c → own c = none)
    (hb : ∀ c, ok c → body c = .jump (out c)) : Jumps i opc uses ok out :=
  completes_of he ho fun c h => by rw [hb c h]; rfl

/-- A body that waits. -/
theorem blocks_of {i : Instr} {opc : Nat} {uses : Ctx → List Use} {ok : Ctx → Prop} {out : Ctx → State} {st : Ctx → Status}
    {own : Ctx → Option (Nat × Word)} {body : Ctx → Act} (he : ∀ s, exec i s = issue opc s uses own body) (ho : ∀ c, ok c → own c = none)
    (hb : ∀ c, ok c → body c = .wait (out c) (st c)) : Blocks i opc uses ok out st :=
  completes_of he ho fun c h => by rw [hb c h]; rfl

/-- A body that is an access, which writes vector registers. -/
theorem accessesTo_of {i : Instr} {opc : Nat} {uses : Ctx → List Use} {ok : Ctx → Prop} {kind : MemKind} {names : Ctx → List Nat}
    {lanes : Ctx → List Nat} {target : Ctx → Nat → Option Dest} {address : Ctx → State → Nat → Except AFault (State × Acc)}
    {effect : Ctx → State → List Acc → MemResult} {own : Ctx → Option (Nat × Word)} {body : Ctx → Act}
    (he : ∀ s, exec i s = issue opc s uses own body) (ho : ∀ c, ok c → own c = none)
    (hb : ∀ c, ok c → body c = c.access { kind with names := names c } (lanes c) (target c) (address c) (effect c)) :
    AccessesTo names i opc uses ok kind lanes target address effect := by
  intro s c s1 as hc ha hok hu
  exact (he s).trans (issue_done hc ha (ho c hok) ((hb c hok).trans (access_done hu)))

/-- A body that is an access. -/
theorem accesses_of {i : Instr} {opc : Nat} {uses : Ctx → List Use} {ok : Ctx → Prop} {kind : MemKind} {lanes : Ctx → List Nat}
    {target : Ctx → Nat → Option Dest} {address : Ctx → State → Nat → Except AFault (State × Acc)} {effect : Ctx → State → List Acc → MemResult}
    {own : Ctx → Option (Nat × Word)} {body : Ctx → Act} (he : ∀ s, exec i s = issue opc s uses own body) (ho : ∀ c, ok c → own c = none)
    (hn : kind.names = []) (hb : ∀ c, ok c → body c = c.access kind (lanes c) (target c) (address c) (effect c)) :
    Accesses i opc uses ok kind lanes target address effect :=
  accessesTo_of he ho fun c h => by rw [hb c h, ← hn]

/-- A TYPE that the instruction accepts passes its check (R85). -/
theorem ty_ok {opc : Nat} {ok : Ty → Bool} {c : Ctx} (h : ok c.ty = true) : tyCheck opc ok c = none := by simp [tyCheck, h]

end Sys2Proof.Laws
end

