-- ==== Sys2Proof/Laws/Memory.lean ====
section
/-! SUPPORT. The laws of byte memories: every operation keeps the canonical form, a byte read after a write is the byte written, and a
write leaves every other byte as it was. -/

namespace Sys2Proof.Laws

open Sys2Proof.Machine

/-- The canonical form in two clauses: rising addresses, and no listed zero. -/
theorem wf_iff (m : Memory) : m.wf = true ↔ m.Pairwise (fun x y => x.1 < y.1) ∧ ∀ x ∈ m, x.2 ≠ 0 := by
  induction m with
  | nil => simp [Memory.wf]
  | cons c m ih =>
    cases m with
    | nil => simp [Memory.wf]
    | cons d m =>
      simp only [Memory.wf, Bool.and_eq_true, bne_iff_ne, decide_eq_true_eq, ih, List.pairwise_cons, List.mem_cons, forall_eq_or_imp]
      constructor
      · rintro ⟨⟨h1, h2⟩, ⟨h3, h4⟩, h5, h6⟩
        exact ⟨⟨⟨h2, fun x hx => Nat.lt_trans h2 (h3 x hx)⟩, h3, h4⟩, h1, h5, h6⟩
      · rintro ⟨⟨⟨h2, -⟩, h3, h4⟩, h1, h5, h6⟩
        exact ⟨⟨h1, h2⟩, ⟨h3, h4⟩, h5, h6⟩

@[simp] theorem wf_nil : Memory.wf [] = true := rfl

/-- What lies in a memory after a write lay there before, or is what was written. -/
theorem mem_put {m : Memory} {a : Nat} {b : Byte} {x : Host.Cell} (h : x ∈ Memory.put m a b) : x ∈ m ∨ (x = (a, b) ∧ b ≠ 0) := by
  induction m with
  | nil => unfold Memory.put at h; split at h <;> simp_all
  | cons c m ih =>
    unfold Memory.put at h
    split at h
    · split at h <;> simp_all; tauto
    · split at h
      · split at h <;> simp_all; tauto
      · simp only [List.mem_cons] at h ⊢
        rcases h with h | h
        · exact .inl (.inl h)
        · rcases ih h with h | h
          · exact .inl (.inr h)
          · exact .inr h

/-- A write keeps the canonical form. -/
theorem wf_put {m : Memory} (h : m.wf = true) (a : Nat) (b : Byte) : (Memory.put m a b).wf = true := by
  rw [wf_iff] at h ⊢
  refine ⟨?_, fun x hx => ?_⟩
  · induction m with
    | nil => unfold Memory.put; split <;> simp
    | cons c m ih =>
      obtain ⟨hp, hz⟩ := h
      rw [List.pairwise_cons] at hp
      unfold Memory.put
      split
      · rename_i hlt
        split
        · exact List.pairwise_cons.2 hp
        · refine List.pairwise_cons.2 ⟨fun x hx => ?_, List.pairwise_cons.2 hp⟩
          rcases List.mem_cons.1 hx with rfl | hx
          · exact hlt
          · exact Nat.lt_trans hlt (hp.1 x hx)
      · split
        · rename_i he
          subst he
          split
          · exact hp.2
          · exact List.pairwise_cons.2 ⟨hp.1, hp.2⟩
        · refine List.pairwise_cons.2 ⟨fun x hx => ?_, ih ⟨hp.2, fun x hx => hz x (List.mem_cons_of_mem _ hx)⟩⟩
          rcases mem_put hx with hx | ⟨rfl, -⟩
          · exact hp.1 x hx
          · simp only; omega
  · rcases mem_put hx with hx | ⟨rfl, hb⟩
    · exact h.2 x hx
    · exact hb

/-- So do several writes. -/
theorem wf_putBytes {m : Memory} (h : m.wf = true) (a : Nat) (bs : List Byte) : (Memory.putBytes m a bs).wf = true := by
  induction bs generalizing m a with
  | nil => exact h
  | cons b bs ih => exact ih (wf_put h a b) (a + 1)

/-- Part of a memory in canonical form is in canonical form. -/
theorem wf_filter {m : Memory} (h : m.wf = true) (p : Host.Cell → Bool) : Memory.wf (m.filter p) = true := by
  rw [wf_iff] at h ⊢
  exact ⟨h.1.filter _, fun x hx => h.2 x (List.mem_filter.1 hx).1⟩

/-- A wipe keeps the canonical form. -/
theorem wf_wipe {m : Memory} (h : m.wf = true) (lo hi : Nat) : (Memory.wipe m lo hi).wf = true := wf_filter h _

/-- A page's move between two memories keeps the canonical form. -/
theorem wf_moveCells {src dst : Memory} (h : dst.wf = true) (old new n : Nat) : (moveCells src dst old new n).wf = true := by
  unfold moveCells
  have step : ∀ (l : List Host.Cell) (m : Memory), m.wf = true →
      Memory.wf (l.foldl (fun m c => Memory.put m (c.1 - old + new) c.2) m) = true := by
    intro l
    induction l with
    | nil => exact fun _ hm => hm
    | cons c l ih => exact fun m hm => ih _ (wf_put hm _ _)
  exact step _ _ (wf_wipe h _ _)

/-- Both memories of the package after reset have the canonical form. -/
theorem wf_reset : State.reset.mem.wf = true ∧ State.reset.hostMem.wf = true := ⟨rfl, rfl⟩

/-- Reading below every listed address gives zero. -/
theorem get_below {m : Memory} {a : Nat} (h : ∀ x ∈ m, a < x.1) : Memory.get m a = 0 := by
  cases m with
  | nil => rfl
  | cons c m =>
    have := h c (List.mem_cons_self ..)
    unfold Memory.get
    rw [if_neg (by omega), if_pos this]

/-- A byte read after a write: the byte written at its own address, every other byte as before. -/
theorem get_put {m : Memory} (h : m.wf = true) (a x : Nat) (b : Byte) :
    Memory.get (Memory.put m a b) x = if x = a then b else Memory.get m x := by
  rw [wf_iff] at h
  obtain ⟨hp, -⟩ := h
  induction m with
  | nil =>
    unfold Memory.put
    by_cases hb : b = 0
    · rw [if_pos hb, hb]
      split <;> rfl
    · rw [if_neg hb]
      show (if a = x then b else if x < a then 0 else 0) = if x = a then b else 0
      by_cases hx : x = a
      · rw [if_pos hx, if_pos hx.symm]
      · rw [if_neg hx, if_neg (Ne.symm hx)]
        split <;> rfl
  | cons c m ih =>
    obtain ⟨k, v⟩ := c
    rw [List.pairwise_cons] at hp
    unfold Memory.put
    split
    · rename_i hlt
      have hlt : a < k := hlt
      by_cases hb : b = 0
      · subst hb
        rw [if_pos rfl]
        by_cases hx : x = a
        · subst hx
          rw [if_pos rfl]
          exact get_below fun y hy => by
            rcases List.mem_cons.1 hy with rfl | hy
            · exact hlt
            · exact Nat.lt_trans hlt (hp.1 y hy)
        · rw [if_neg hx]
      · rw [if_neg hb]
        show (if a = x then b else if x < a then 0 else Memory.get ((k, v) :: m) x) = _
        by_cases hx : x = a
        · subst hx; simp
        · rw [if_neg (Ne.symm hx), if_neg hx]
          split
          · rename_i hlt2
            exact (get_below fun y hy => by
              rcases List.mem_cons.1 hy with rfl | hy
              · exact Nat.lt_trans hlt2 hlt
              · exact Nat.lt_trans (Nat.lt_trans hlt2 hlt) (hp.1 y hy)).symm
          · rfl
    · rename_i hge
      have hge : ¬ a < k := hge
      split
      · rename_i he
        have he : a = k := he
        subst he
        by_cases hb : b = 0
        · subst hb
          rw [if_pos rfl]
          by_cases hx : x = a
          · subst hx
            rw [if_pos rfl]
            exact get_below hp.1
          · rw [if_neg hx]
            show _ = (if a = x then v else if x < a then 0 else Memory.get m x)
            rw [if_neg (Ne.symm hx)]
            split
            · rename_i hlt
              exact get_below fun y hy => Nat.lt_trans hlt (hp.1 y hy)
            · rfl
        · rw [if_neg hb]
          show (if a = x then b else if x < a then 0 else Memory.get m x) = if x = a then b else
            (if a = x then v else if x < a then 0 else Memory.get m x)
          by_cases hx : x = a
          · subst hx; simp
          · simp [hx, Ne.symm hx]
      · rename_i hne
        have hne : ¬ a = k := hne
        show (if k = x then v else if x < k then 0 else Memory.get (Memory.put m a b) x) = _
        rw [ih hp.2]
        show _ = if x = a then b else (if k = x then v else if x < k then 0 else Memory.get m x)
        by_cases hx : x = a
        · subst hx
          rw [if_neg (Ne.symm hne), if_neg hge]
          simp
        · simp only [if_neg hx]

end Sys2Proof.Laws
end

