-- ==== Sys2Proof/Laws/PerInstr.lean ====
section
/-! SUPPORT. Statements about every instruction, one lemma for each constructor.  Encoding: the decoder gives back every well-formed
instruction that has a word (R48 to R56). -/

namespace Sys2Proof.Laws

/-- A word's number. -/
theorem word_toNat (op bits : Nat) (ho : op < 256) (hb : bits < 2 ^ 24) : (word op bits).toNat = op * 2 ^ 24 + bits := by
  unfold word
  rw [BitVec.toNat_ofNat]
  exact Nat.mod_eq_of_lt (by omega)

/-- A word's opcode (R48). -/
theorem word_opcode (op bits : Nat) (ho : op < 256) (hb : bits < 2 ^ 24) : (word op bits).opcode = op := by
  unfold Word.opcode
  rw [word_toNat op bits ho hb]
  omega

/-- A decoded word whose instruction is well formed and has that word. -/
theorem decode_of {i : Instr} {w : Word} (h : decodeFields w = i) (he : encode i = some w) (hw : i.wellFormed = true) : decode w = .ok i := by
  unfold decode
  rw [h, if_pos he, if_pos hw]

/-! ### The formats (R49) -/

/-- A Boolean field is one bit. -/
theorem bitNat_lt (b : Bool) : bitNat b < 2 := by cases b <;> decide

/-- A flag read back. -/
theorem flag_eq (n : Nat) (b : Bool) (h : n = bitNat b) : (n == 1) = b := by subst h; cases b <;> rfl

/-- A field read back. -/
theorem field_eq {k : Nat} (n : Nat) (x : BitVec k) (h : n % 2 ^ k = x.toNat) : BitVec.ofNat k n = x := by
  apply BitVec.eq_of_toNat_eq
  rw [BitVec.toNat_ofNat, h]

theorem V3_lt (o : V3) : o.toBits < 2 ^ 24 := by
  obtain ⟨d, a, pa, la, b, pb, lb, bs⟩ := o
  have h_d := d.isLt
  have h_a := a.isLt
  have h_pa := pa.isLt
  have h_la := bitNat_lt la
  have h_b := b.isLt
  have h_pb := pb.isLt
  have h_lb := bitNat_lt lb
  have h_bs := bitNat_lt bs
  show d.toNat * 2 ^ 19 + a.toNat * 2 ^ 14 + pa.toNat * 2 ^ 11 + bitNat la * 2 ^ 10 + b.toNat * 2 ^ 5 + pb.toNat * 2 ^ 2 + bitNat lb * 2 ^ 1 + bitNat bs < 2 ^ 24
  omega

theorem V3_ofWord (op : Nat) (ho : op < 256) (o : V3) : V3.ofWord (word op o.toBits) = o := by
  obtain ⟨d, a, pa, la, b, pb, lb, bs⟩ := o
  have h_d := d.isLt
  have h_a := a.isLt
  have h_pa := pa.isLt
  have h_la := bitNat_lt la
  have h_b := b.isLt
  have h_pb := pb.isLt
  have h_lb := bitNat_lt lb
  have h_bs := bitNat_lt bs
  have hn : (word op (V3.toBits ⟨d, a, pa, la, b, pb, lb, bs⟩)).toNat = op * 2 ^ 24 +
    (d.toNat * 2 ^ 19 + a.toNat * 2 ^ 14 + pa.toNat * 2 ^ 11 + bitNat la * 2 ^ 10 + b.toNat * 2 ^ 5 + pb.toNat * 2 ^ 2 + bitNat lb * 2 ^ 1 + bitNat bs) := word_toNat op _ ho (V3_lt ⟨d, a, pa, la, b, pb, lb, bs⟩)
  unfold V3.ofWord Word.field Word.flag
  rw [hn]
  rw [V3.mk.injEq]
  exact ⟨field_eq _ _ (by omega), field_eq _ _ (by omega), field_eq _ _ (by omega), flag_eq _ _ (by omega), field_eq _ _
    (by omega), field_eq _ _ (by omega), flag_eq _ _ (by omega), flag_eq _ _ (by omega)⟩

theorem VI_lt (o : VI) : o.toBits < 2 ^ 24 := by
  obtain ⟨d, a, pa, la, imm⟩ := o
  have h_d := d.isLt
  have h_a := a.isLt
  have h_pa := pa.isLt
  have h_la := bitNat_lt la
  have h_imm := imm.isLt
  show d.toNat * 2 ^ 19 + a.toNat * 2 ^ 14 + pa.toNat * 2 ^ 11 + bitNat la * 2 ^ 10 + imm.toNat < 2 ^ 24
  omega

theorem VI_ofWord (op : Nat) (ho : op < 256) (o : VI) : VI.ofWord (word op o.toBits) = o := by
  obtain ⟨d, a, pa, la, imm⟩ := o
  have h_d := d.isLt
  have h_a := a.isLt
  have h_pa := pa.isLt
  have h_la := bitNat_lt la
  have h_imm := imm.isLt
  have hn : (word op (VI.toBits ⟨d, a, pa, la, imm⟩)).toNat = op * 2 ^ 24 +
    (d.toNat * 2 ^ 19 + a.toNat * 2 ^ 14 + pa.toNat * 2 ^ 11 + bitNat la * 2 ^ 10 + imm.toNat) := word_toNat op _ ho (VI_lt ⟨d, a, pa, la, imm⟩)
  unfold VI.ofWord Word.field Word.flag
  rw [hn]
  rw [VI.mk.injEq]
  exact ⟨field_eq _ _ (by omega), field_eq _ _ (by omega), field_eq _ _ (by omega), flag_eq _ _ (by omega), field_eq _ _ (by omega)⟩

theorem S3_lt (o : S3) : o.toBits < 2 ^ 24 := by
  obtain ⟨d, a, b⟩ := o
  have h_d := d.isLt
  have h_a := a.isLt
  have h_b := b.isLt
  show d.toNat * 2 ^ 19 + a.toNat * 2 ^ 14 + b.toNat * 2 ^ 9 < 2 ^ 24
  omega

theorem S3_ofWord (op : Nat) (ho : op < 256) (o : S3) : S3.ofWord (word op o.toBits) = o := by
  obtain ⟨d, a, b⟩ := o
  have h_d := d.isLt
  have h_a := a.isLt
  have h_b := b.isLt
  have hn : (word op (S3.toBits ⟨d, a, b⟩)).toNat = op * 2 ^ 24 +
    (d.toNat * 2 ^ 19 + a.toNat * 2 ^ 14 + b.toNat * 2 ^ 9) := word_toNat op _ ho (S3_lt ⟨d, a, b⟩)
  unfold S3.ofWord Word.field
  rw [hn]
  rw [S3.mk.injEq]
  exact ⟨field_eq _ _ (by omega), field_eq _ _ (by omega), field_eq _ _ (by omega)⟩

theorem SI_lt (o : SI) : o.toBits < 2 ^ 24 := by
  obtain ⟨d, a, imm⟩ := o
  have h_d := d.isLt
  have h_a := a.isLt
  have h_imm := imm.isLt
  show d.toNat * 2 ^ 19 + a.toNat * 2 ^ 14 + imm.toNat < 2 ^ 24
  omega

theorem SI_ofWord (op : Nat) (ho : op < 256) (o : SI) : SI.ofWord (word op o.toBits) = o := by
  obtain ⟨d, a, imm⟩ := o
  have h_d := d.isLt
  have h_a := a.isLt
  have h_imm := imm.isLt
  have hn : (word op (SI.toBits ⟨d, a, imm⟩)).toNat = op * 2 ^ 24 +
    (d.toNat * 2 ^ 19 + a.toNat * 2 ^ 14 + imm.toNat) := word_toNat op _ ho (SI_lt ⟨d, a, imm⟩)
  unfold SI.ofWord Word.field
  rw [hn]
  rw [SI.mk.injEq]
  exact ⟨field_eq _ _ (by omega), field_eq _ _ (by omega), field_eq _ _ (by omega)⟩

theorem SL_lt (o : SL) : o.toBits < 2 ^ 24 := by
  obtain ⟨d, imm⟩ := o
  have h_d := d.isLt
  have h_imm := imm.isLt
  show d.toNat * 2 ^ 19 + imm.toNat < 2 ^ 24
  omega

theorem SL_ofWord (op : Nat) (ho : op < 256) (o : SL) : SL.ofWord (word op o.toBits) = o := by
  obtain ⟨d, imm⟩ := o
  have h_d := d.isLt
  have h_imm := imm.isLt
  have hn : (word op (SL.toBits ⟨d, imm⟩)).toNat = op * 2 ^ 24 + (d.toNat * 2 ^ 19 + imm.toNat) := word_toNat op _ ho (SL_lt ⟨d, imm⟩)
  unfold SL.ofWord Word.field
  rw [hn]
  rw [SL.mk.injEq]
  exact ⟨field_eq _ _ (by omega), field_eq _ _ (by omega)⟩

theorem B_lt (o : B) : o.toBits < 2 ^ 24 := by
  obtain ⟨imm⟩ := o
  have h_imm := imm.isLt
  show imm.toNat < 2 ^ 24
  omega

theorem B_ofWord (op : Nat) (ho : op < 256) (o : B) : B.ofWord (word op o.toBits) = o := by
  obtain ⟨imm⟩ := o
  have h_imm := imm.isLt
  have hn : (word op (B.toBits ⟨imm⟩)).toNat = op * 2 ^ 24 + (imm.toNat) := word_toNat op _ ho (B_lt ⟨imm⟩)
  unfold B.ofWord Word.field
  rw [hn]
  exact congrArg B.mk (field_eq _ _ (by omega))

theorem BX_lt (o : BX) : o.toBits < 2 ^ 24 := by
  obtain ⟨s⟩ := o
  have h_s := s.isLt
  show s.toNat * 2 ^ 19 < 2 ^ 24
  omega

theorem BX_ofWord (op : Nat) (ho : op < 256) (o : BX) : BX.ofWord (word op o.toBits) = o := by
  obtain ⟨s⟩ := o
  have h_s := s.isLt
  have hn : (word op (BX.toBits ⟨s⟩)).toNat = op * 2 ^ 24 + (s.toNat * 2 ^ 19) := word_toNat op _ ho (BX_lt ⟨s⟩)
  unfold BX.ofWord Word.field
  rw [hn]
  exact congrArg BX.mk (field_eq _ _ (by omega))

theorem M_lt (o : M) : o.toBits < 2 ^ 24 := by
  obtain ⟨d, base, lb, imm⟩ := o
  have h_d := d.isLt
  have h_base := base.isLt
  have h_lb := bitNat_lt lb
  have h_imm := imm.isLt
  show d.toNat * 2 ^ 19 + base.toNat * 2 ^ 14 + bitNat lb * 2 ^ 13 + imm.toNat < 2 ^ 24
  omega

theorem M_ofWord (op : Nat) (ho : op < 256) (o : M) : M.ofWord (word op o.toBits) = o := by
  obtain ⟨d, base, lb, imm⟩ := o
  have h_d := d.isLt
  have h_base := base.isLt
  have h_lb := bitNat_lt lb
  have h_imm := imm.isLt
  have hn : (word op (M.toBits ⟨d, base, lb, imm⟩)).toNat = op * 2 ^ 24 +
    (d.toNat * 2 ^ 19 + base.toNat * 2 ^ 14 + bitNat lb * 2 ^ 13 + imm.toNat) := word_toNat op _ ho (M_lt ⟨d, base, lb, imm⟩)
  unfold M.ofWord Word.field Word.flag
  rw [hn]
  rw [M.mk.injEq]
  exact ⟨field_eq _ _ (by omega), field_eq _ _ (by omega), flag_eq _ _ (by omega), field_eq _ _ (by omega)⟩

theorem MC_lt (o : MC) : o.toBits < 2 ^ 24 := by
  obtain ⟨d, h, c, lc, imm⟩ := o
  have h_d := d.isLt
  have h_h := h.isLt
  have h_c := c.isLt
  have h_lc := bitNat_lt lc
  have h_imm := imm.isLt
  show d.toNat * 2 ^ 19 + h.toNat * 2 ^ 14 + c.toNat * 2 ^ 9 + bitNat lc * 2 ^ 8 + imm.toNat < 2 ^ 24
  omega

theorem MC_ofWord (op : Nat) (ho : op < 256) (o : MC) : MC.ofWord (word op o.toBits) = o := by
  obtain ⟨d, h, c, lc, imm⟩ := o
  have h_d := d.isLt
  have h_h := h.isLt
  have h_c := c.isLt
  have h_lc := bitNat_lt lc
  have h_imm := imm.isLt
  have hn : (word op (MC.toBits ⟨d, h, c, lc, imm⟩)).toNat = op * 2 ^ 24 +
    (d.toNat * 2 ^ 19 + h.toNat * 2 ^ 14 + c.toNat * 2 ^ 9 + bitNat lc * 2 ^ 8 + imm.toNat) := word_toNat op _ ho (MC_lt ⟨d, h, c, lc, imm⟩)
  unfold MC.ofWord Word.field Word.flag
  rw [hn]
  rw [MC.mk.injEq]
  exact ⟨field_eq _ _ (by omega), field_eq _ _ (by omega), field_eq _ _ (by omega), flag_eq _ _ (by omega), field_eq _ _ (by omega)⟩

theorem MA_lt (o : MA) : o.toBits < 2 ^ 24 := by
  obtain ⟨d, a, la, o, lo, z⟩ := o
  have h_d := d.isLt
  have h_a := a.isLt
  have h_la := bitNat_lt la
  have h_o := o.isLt
  have h_lo := bitNat_lt lo
  have h_z := z.isLt
  show d.toNat * 2 ^ 19 + a.toNat * 2 ^ 14 + bitNat la * 2 ^ 13 + o.toNat * 2 ^ 8 + bitNat lo * 2 ^ 7 + z.toNat < 2 ^ 24
  omega

theorem MA_ofWord (op : Nat) (ho : op < 256) (o : MA) : MA.ofWord (word op o.toBits) = o := by
  obtain ⟨d, a, la, o, lo, z⟩ := o
  have h_d := d.isLt
  have h_a := a.isLt
  have h_la := bitNat_lt la
  have h_o := o.isLt
  have h_lo := bitNat_lt lo
  have h_z := z.isLt
  have hn : (word op (MA.toBits ⟨d, a, la, o, lo, z⟩)).toNat = op * 2 ^ 24 +
    (d.toNat * 2 ^ 19 + a.toNat * 2 ^ 14 + bitNat la * 2 ^ 13 + o.toNat * 2 ^ 8 + bitNat lo * 2 ^ 7 + z.toNat) := word_toNat op _ ho
      (MA_lt ⟨d, a, la, o, lo, z⟩)
  unfold MA.ofWord Word.field Word.flag
  rw [hn]
  rw [MA.mk.injEq]
  exact ⟨field_eq _ _ (by omega), field_eq _ _ (by omega), flag_eq _ _ (by omega), field_eq _ _ (by omega), flag_eq _ _
    (by omega), field_eq _ _ (by omega)⟩

theorem X_lt (o : X) : o.toBits < 2 ^ 24 := by
  obtain ⟨x, y, z, imm⟩ := o
  have h_x := x.isLt
  have h_y := y.isLt
  have h_z := z.isLt
  have h_imm := imm.isLt
  show x.toNat * 2 ^ 19 + y.toNat * 2 ^ 14 + z.toNat * 2 ^ 9 + imm.toNat < 2 ^ 24
  omega

theorem X_ofWord (op : Nat) (ho : op < 256) (o : X) : X.ofWord (word op o.toBits) = o := by
  obtain ⟨x, y, z, imm⟩ := o
  have h_x := x.isLt
  have h_y := y.isLt
  have h_z := z.isLt
  have h_imm := imm.isLt
  have hn : (word op (X.toBits ⟨x, y, z, imm⟩)).toNat = op * 2 ^ 24 +
    (x.toNat * 2 ^ 19 + y.toNat * 2 ^ 14 + z.toNat * 2 ^ 9 + imm.toNat) := word_toNat op _ ho (X_lt ⟨x, y, z, imm⟩)
  unfold X.ofWord Word.field
  rw [hn]
  rw [X.mk.injEq]
  exact ⟨field_eq _ _ (by omega), field_eq _ _ (by omega), field_eq _ _ (by omega), field_eq _ _ (by omega)⟩

theorem MM_lt (o : MM) : o.toBits < 2 ^ 24 := by
  obtain ⟨acc, a, b⟩ := o
  have h_acc := acc.isLt
  have h_a := a.isLt
  have h_b := b.isLt
  show acc.toNat * 2 ^ 20 + a.toNat * 2 ^ 15 + b.toNat * 2 ^ 10 < 2 ^ 24
  omega

theorem MM_ofWord (op : Nat) (ho : op < 256) (o : MM) : MM.ofWord (word op o.toBits) = o := by
  obtain ⟨acc, a, b⟩ := o
  have h_acc := acc.isLt
  have h_a := a.isLt
  have h_b := b.isLt
  have hn : (word op (MM.toBits ⟨acc, a, b⟩)).toNat = op * 2 ^ 24 +
    (acc.toNat * 2 ^ 20 + a.toNat * 2 ^ 15 + b.toNat * 2 ^ 10) := word_toNat op _ ho (MM_lt ⟨acc, a, b⟩)
  unfold MM.ofWord Word.field
  rw [hn]
  rw [MM.mk.injEq]
  exact ⟨field_eq _ _ (by omega), field_eq _ _ (by omega), field_eq _ _ (by omega)⟩

end Sys2Proof.Laws

namespace Sys2Proof.Laws.Encoding

/-- A well-formed instruction that has a word is what the decoder reads from that word. -/
def Statement (i : Instr) : Prop := i.wellFormed = true → ∀ w, encode i = some w → decode w = .ok i

/-- An event or a command has no word. -/
theorem of_none {i : Instr} (h : encode i = none) : Statement i := fun _ _ he => by rw [h] at he; cases he

/-- An instruction whose word reads back. -/
theorem of_word {i : Instr} {w : Word} (he : encode i = some w) (h : decodeFields w = i) : Statement i := fun hw _ hx => by
  rw [he] at hx
  cases hx
  exact decode_of h he hw

theorem nop : Statement .nop := of_word (w := word 0x00 0) rfl (by decide)
theorem bra (o : B) : Statement (.bra o) := of_word (w := word 0x01 o.toBits) rfl (by
  unfold decodeFields
  rw [word_opcode 0x01 _ (by decide) (B_lt o)]
  exact congrArg Instr.bra (B_ofWord 0x01 (by decide) o))
theorem brau (o : B) : Statement (.brau o) := of_word (w := word 0x02 o.toBits) rfl (by
  unfold decodeFields
  rw [word_opcode 0x02 _ (by decide) (B_lt o)]
  exact congrArg Instr.brau (B_ofWord 0x02 (by decide) o))
theorem brx (o : BX) : Statement (.brx o) := of_word (w := word 0x03 o.toBits) rfl (by
  unfold decodeFields
  rw [word_opcode 0x03 _ (by decide) (BX_lt o)]
  exact congrArg Instr.brx (BX_ofWord 0x03 (by decide) o))
theorem call (o : B) : Statement (.call o) := of_word (w := word 0x04 o.toBits) rfl (by
  unfold decodeFields
  rw [word_opcode 0x04 _ (by decide) (B_lt o)]
  exact congrArg Instr.call (B_ofWord 0x04 (by decide) o))
theorem ret (o : BX) : Statement (.ret o) := of_word (w := word 0x05 o.toBits) rfl (by
  unfold decodeFields
  rw [word_opcode 0x05 _ (by decide) (BX_lt o)]
  exact congrArg Instr.ret (BX_ofWord 0x05 (by decide) o))
theorem join : Statement .join := of_word (w := word 0x06 0) rfl (by decide)
theorem bblk (o : B) : Statement (.bblk o) := of_word (w := word 0x07 o.toBits) rfl (by
  unfold decodeFields
  rw [word_opcode 0x07 _ (by decide) (B_lt o)]
  exact congrArg Instr.bblk (B_ofWord 0x07 (by decide) o))
theorem bjoin : Statement .bjoin := of_word (w := word 0x08 0) rfl (by decide)
theorem exit : Statement .exit := of_word (w := word 0x09 0) rfl (by decide)
theorem trap (i : BitVec 24) : Statement (.trap i) := of_word (w := word 0x0A i.toNat) rfl (by
  unfold decodeFields
  rw [word_opcode 0x0A _ (by decide) i.isLt]
  refine congrArg Instr.trap ?_
  unfold Word.field
  rw [word_toNat 0x0A _ (by decide) i.isLt]
  apply BitVec.eq_of_toNat_eq
  rw [BitVec.toNat_ofNat]
  have := i.isLt
  omega)
theorem tret : Statement .tret := of_word (w := word 0x0B 0) rfl (by decide)
theorem sysrd (o : X) : Statement (.sysrd o) := of_word (w := word 0x0C o.toBits) rfl (by
  unfold decodeFields
  rw [word_opcode 0x0C _ (by decide) (X_lt o)]
  exact congrArg Instr.sysrd (X_ofWord 0x0C (by decide) o))
theorem syswr (o : X) : Statement (.syswr o) := of_word (w := word 0x0D o.toBits) rfl (by
  unfold decodeFields
  rw [word_opcode 0x0D _ (by decide) (X_lt o)]
  exact congrArg Instr.syswr (X_ofWord 0x0D (by decide) o))
theorem iadd (o : V3) : Statement (.iadd o) := of_word (w := word 0x10 o.toBits) rfl (by
  unfold decodeFields
  rw [word_opcode 0x10 _ (by decide) (V3_lt o)]
  exact congrArg Instr.iadd (V3_ofWord 0x10 (by decide) o))
theorem isub (o : V3) : Statement (.isub o) := of_word (w := word 0x11 o.toBits) rfl (by
  unfold decodeFields
  rw [word_opcode 0x11 _ (by decide) (V3_lt o)]
  exact congrArg Instr.isub (V3_ofWord 0x11 (by decide) o))
theorem imul (o : V3) : Statement (.imul o) := of_word (w := word 0x12 o.toBits) rfl (by
  unfold decodeFields
  rw [word_opcode 0x12 _ (by decide) (V3_lt o)]
  exact congrArg Instr.imul (V3_ofWord 0x12 (by decide) o))
theorem imulh (o : V3) : Statement (.imulh o) := of_word (w := word 0x13 o.toBits) rfl (by
  unfold decodeFields
  rw [word_opcode 0x13 _ (by decide) (V3_lt o)]
  exact congrArg Instr.imulh (V3_ofWord 0x13 (by decide) o))
theorem imad (o : V3) : Statement (.imad o) := of_word (w := word 0x14 o.toBits) rfl (by
  unfold decodeFields
  rw [word_opcode 0x14 _ (by decide) (V3_lt o)]
  exact congrArg Instr.imad (V3_ofWord 0x14 (by decide) o))
theorem imin (o : V3) : Statement (.imin o) := of_word (w := word 0x15 o.toBits) rfl (by
  unfold decodeFields
  rw [word_opcode 0x15 _ (by decide) (V3_lt o)]
  exact congrArg Instr.imin (V3_ofWord 0x15 (by decide) o))
theorem imax (o : V3) : Statement (.imax o) := of_word (w := word 0x16 o.toBits) rfl (by
  unfold decodeFields
  rw [word_opcode 0x16 _ (by decide) (V3_lt o)]
  exact congrArg Instr.imax (V3_ofWord 0x16 (by decide) o))
theorem and (o : V3) : Statement (.and o) := of_word (w := word 0x17 o.toBits) rfl (by
  unfold decodeFields
  rw [word_opcode 0x17 _ (by decide) (V3_lt o)]
  exact congrArg Instr.and (V3_ofWord 0x17 (by decide) o))
theorem or (o : V3) : Statement (.or o) := of_word (w := word 0x18 o.toBits) rfl (by
  unfold decodeFields
  rw [word_opcode 0x18 _ (by decide) (V3_lt o)]
  exact congrArg Instr.or (V3_ofWord 0x18 (by decide) o))
theorem xor (o : V3) : Statement (.xor o) := of_word (w := word 0x19 o.toBits) rfl (by
  unfold decodeFields
  rw [word_opcode 0x19 _ (by decide) (V3_lt o)]
  exact congrArg Instr.xor (V3_ofWord 0x19 (by decide) o))
theorem andn (o : V3) : Statement (.andn o) := of_word (w := word 0x1A o.toBits) rfl (by
  unfold decodeFields
  rw [word_opcode 0x1A _ (by decide) (V3_lt o)]
  exact congrArg Instr.andn (V3_ofWord 0x1A (by decide) o))
theorem shl (o : V3) : Statement (.shl o) := of_word (w := word 0x1B o.toBits) rfl (by
  unfold decodeFields
  rw [word_opcode 0x1B _ (by decide) (V3_lt o)]
  exact congrArg Instr.shl (V3_ofWord 0x1B (by decide) o))
theorem shr (o : V3) : Statement (.shr o) := of_word (w := word 0x1C o.toBits) rfl (by
  unfold decodeFields
  rw [word_opcode 0x1C _ (by decide) (V3_lt o)]
  exact congrArg Instr.shr (V3_ofWord 0x1C (by decide) o))
theorem sar (o : V3) : Statement (.sar o) := of_word (w := word 0x1D o.toBits) rfl (by
  unfold decodeFields
  rw [word_opcode 0x1D _ (by decide) (V3_lt o)]
  exact congrArg Instr.sar (V3_ofWord 0x1D (by decide) o))
theorem sel (o : V3) : Statement (.sel o) := of_word (w := word 0x1E o.toBits) rfl (by
  unfold decodeFields
  rw [word_opcode 0x1E _ (by decide) (V3_lt o)]
  exact congrArg Instr.sel (V3_ofWord 0x1E (by decide) o))
theorem iabs (o : V3) : Statement (.iabs o) := of_word (w := word 0x1F o.toBits) rfl (by
  unfold decodeFields
  rw [word_opcode 0x1F _ (by decide) (V3_lt o)]
  exact congrArg Instr.iabs (V3_ofWord 0x1F (by decide) o))
theorem popc (o : V3) : Statement (.popc o) := of_word (w := word 0x20 o.toBits) rfl (by
  unfold decodeFields
  rw [word_opcode 0x20 _ (by decide) (V3_lt o)]
  exact congrArg Instr.popc (V3_ofWord 0x20 (by decide) o))
theorem clz (o : V3) : Statement (.clz o) := of_word (w := word 0x21 o.toBits) rfl (by
  unfold decodeFields
  rw [word_opcode 0x21 _ (by decide) (V3_lt o)]
  exact congrArg Instr.clz (V3_ofWord 0x21 (by decide) o))
theorem brev (o : V3) : Statement (.brev o) := of_word (w := word 0x22 o.toBits) rfl (by
  unfold decodeFields
  rw [word_opcode 0x22 _ (by decide) (V3_lt o)]
  exact congrArg Instr.brev (V3_ofWord 0x22 (by decide) o))
theorem isetpEq (o : V3) : Statement (.isetpEq o) := of_word (w := word 0x23 o.toBits) rfl (by
  unfold decodeFields
  rw [word_opcode 0x23 _ (by decide) (V3_lt o)]
  exact congrArg Instr.isetpEq (V3_ofWord 0x23 (by decide) o))
theorem isetpNe (o : V3) : Statement (.isetpNe o) := of_word (w := word 0x24 o.toBits) rfl (by
  unfold decodeFields
  rw [word_opcode 0x24 _ (by decide) (V3_lt o)]
  exact congrArg Instr.isetpNe (V3_ofWord 0x24 (by decide) o))
theorem isetpLt (o : V3) : Statement (.isetpLt o) := of_word (w := word 0x25 o.toBits) rfl (by
  unfold decodeFields
  rw [word_opcode 0x25 _ (by decide) (V3_lt o)]
  exact congrArg Instr.isetpLt (V3_ofWord 0x25 (by decide) o))
theorem isetpLe (o : V3) : Statement (.isetpLe o) := of_word (w := word 0x26 o.toBits) rfl (by
  unfold decodeFields
  rw [word_opcode 0x26 _ (by decide) (V3_lt o)]
  exact congrArg Instr.isetpLe (V3_ofWord 0x26 (by decide) o))
theorem isetpGt (o : V3) : Statement (.isetpGt o) := of_word (w := word 0x27 o.toBits) rfl (by
  unfold decodeFields
  rw [word_opcode 0x27 _ (by decide) (V3_lt o)]
  exact congrArg Instr.isetpGt (V3_ofWord 0x27 (by decide) o))
theorem isetpGe (o : V3) : Statement (.isetpGe o) := of_word (w := word 0x28 o.toBits) rfl (by
  unfold decodeFields
  rw [word_opcode 0x28 _ (by decide) (V3_lt o)]
  exact congrArg Instr.isetpGe (V3_ofWord 0x28 (by decide) o))
theorem iaddi (o : VI) : Statement (.iaddi o) := of_word (w := word 0x29 o.toBits) rfl (by
  unfold decodeFields
  rw [word_opcode 0x29 _ (by decide) (VI_lt o)]
  exact congrArg Instr.iaddi (VI_ofWord 0x29 (by decide) o))
theorem andi (o : VI) : Statement (.andi o) := of_word (w := word 0x2A o.toBits) rfl (by
  unfold decodeFields
  rw [word_opcode 0x2A _ (by decide) (VI_lt o)]
  exact congrArg Instr.andi (VI_ofWord 0x2A (by decide) o))
theorem ori (o : VI) : Statement (.ori o) := of_word (w := word 0x2B o.toBits) rfl (by
  unfold decodeFields
  rw [word_opcode 0x2B _ (by decide) (VI_lt o)]
  exact congrArg Instr.ori (VI_ofWord 0x2B (by decide) o))
theorem xori (o : VI) : Statement (.xori o) := of_word (w := word 0x2C o.toBits) rfl (by
  unfold decodeFields
  rw [word_opcode 0x2C _ (by decide) (VI_lt o)]
  exact congrArg Instr.xori (VI_ofWord 0x2C (by decide) o))
theorem shli (o : VI) : Statement (.shli o) := of_word (w := word 0x2D o.toBits) rfl (by
  unfold decodeFields
  rw [word_opcode 0x2D _ (by decide) (VI_lt o)]
  exact congrArg Instr.shli (VI_ofWord 0x2D (by decide) o))
theorem shri (o : VI) : Statement (.shri o) := of_word (w := word 0x2E o.toBits) rfl (by
  unfold decodeFields
  rw [word_opcode 0x2E _ (by decide) (VI_lt o)]
  exact congrArg Instr.shri (VI_ofWord 0x2E (by decide) o))
theorem sari (o : VI) : Statement (.sari o) := of_word (w := word 0x2F o.toBits) rfl (by
  unfold decodeFields
  rw [word_opcode 0x2F _ (by decide) (VI_lt o)]
  exact congrArg Instr.sari (VI_ofWord 0x2F (by decide) o))
theorem movi (o : SL) : Statement (.movi o) := of_word (w := word 0x30 o.toBits) rfl (by
  unfold decodeFields
  rw [word_opcode 0x30 _ (by decide) (SL_lt o)]
  exact congrArg Instr.movi (SL_ofWord 0x30 (by decide) o))
theorem movhi (o : SL) : Statement (.movhi o) := of_word (w := word 0x31 o.toBits) rfl (by
  unfold decodeFields
  rw [word_opcode 0x31 _ (by decide) (SL_lt o)]
  exact congrArg Instr.movhi (SL_ofWord 0x31 (by decide) o))
theorem sadd (o : S3) : Statement (.sadd o) := of_word (w := word 0x32 o.toBits) rfl (by
  unfold decodeFields
  rw [word_opcode 0x32 _ (by decide) (S3_lt o)]
  exact congrArg Instr.sadd (S3_ofWord 0x32 (by decide) o))
theorem ssub (o : S3) : Statement (.ssub o) := of_word (w := word 0x33 o.toBits) rfl (by
  unfold decodeFields
  rw [word_opcode 0x33 _ (by decide) (S3_lt o)]
  exact congrArg Instr.ssub (S3_ofWord 0x33 (by decide) o))
theorem smul (o : S3) : Statement (.smul o) := of_word (w := word 0x34 o.toBits) rfl (by
  unfold decodeFields
  rw [word_opcode 0x34 _ (by decide) (S3_lt o)]
  exact congrArg Instr.smul (S3_ofWord 0x34 (by decide) o))
theorem sand (o : S3) : Statement (.sand o) := of_word (w := word 0x35 o.toBits) rfl (by
  unfold decodeFields
  rw [word_opcode 0x35 _ (by decide) (S3_lt o)]
  exact congrArg Instr.sand (S3_ofWord 0x35 (by decide) o))
theorem sor (o : S3) : Statement (.sor o) := of_word (w := word 0x36 o.toBits) rfl (by
  unfold decodeFields
  rw [word_opcode 0x36 _ (by decide) (S3_lt o)]
  exact congrArg Instr.sor (S3_ofWord 0x36 (by decide) o))
theorem sxor (o : S3) : Statement (.sxor o) := of_word (w := word 0x37 o.toBits) rfl (by
  unfold decodeFields
  rw [word_opcode 0x37 _ (by decide) (S3_lt o)]
  exact congrArg Instr.sxor (S3_ofWord 0x37 (by decide) o))
theorem sshl (o : S3) : Statement (.sshl o) := of_word (w := word 0x38 o.toBits) rfl (by
  unfold decodeFields
  rw [word_opcode 0x38 _ (by decide) (S3_lt o)]
  exact congrArg Instr.sshl (S3_ofWord 0x38 (by decide) o))
theorem sshr (o : S3) : Statement (.sshr o) := of_word (w := word 0x39 o.toBits) rfl (by
  unfold decodeFields
  rw [word_opcode 0x39 _ (by decide) (S3_lt o)]
  exact congrArg Instr.sshr (S3_ofWord 0x39 (by decide) o))
theorem saddi (o : SI) : Statement (.saddi o) := of_word (w := word 0x3A o.toBits) rfl (by
  unfold decodeFields
  rw [word_opcode 0x3A _ (by decide) (SI_lt o)]
  exact congrArg Instr.saddi (SI_ofWord 0x3A (by decide) o))
theorem smovi (o : SL) : Statement (.smovi o) := of_word (w := word 0x3B o.toBits) rfl (by
  unfold decodeFields
  rw [word_opcode 0x3B _ (by decide) (SL_lt o)]
  exact congrArg Instr.smovi (SL_ofWord 0x3B (by decide) o))
theorem fadd (o : V3) : Statement (.fadd o) := of_word (w := word 0x40 o.toBits) rfl (by
  unfold decodeFields
  rw [word_opcode 0x40 _ (by decide) (V3_lt o)]
  exact congrArg Instr.fadd (V3_ofWord 0x40 (by decide) o))
theorem fsub (o : V3) : Statement (.fsub o) := of_word (w := word 0x41 o.toBits) rfl (by
  unfold decodeFields
  rw [word_opcode 0x41 _ (by decide) (V3_lt o)]
  exact congrArg Instr.fsub (V3_ofWord 0x41 (by decide) o))
theorem fmul (o : V3) : Statement (.fmul o) := of_word (w := word 0x42 o.toBits) rfl (by
  unfold decodeFields
  rw [word_opcode 0x42 _ (by decide) (V3_lt o)]
  exact congrArg Instr.fmul (V3_ofWord 0x42 (by decide) o))
theorem ffma (o : V3) : Statement (.ffma o) := of_word (w := word 0x43 o.toBits) rfl (by
  unfold decodeFields
  rw [word_opcode 0x43 _ (by decide) (V3_lt o)]
  exact congrArg Instr.ffma (V3_ofWord 0x43 (by decide) o))
theorem ffms (o : V3) : Statement (.ffms o) := of_word (w := word 0x44 o.toBits) rfl (by
  unfold decodeFields
  rw [word_opcode 0x44 _ (by decide) (V3_lt o)]
  exact congrArg Instr.ffms (V3_ofWord 0x44 (by decide) o))
theorem fnma (o : V3) : Statement (.fnma o) := of_word (w := word 0x45 o.toBits) rfl (by
  unfold decodeFields
  rw [word_opcode 0x45 _ (by decide) (V3_lt o)]
  exact congrArg Instr.fnma (V3_ofWord 0x45 (by decide) o))
theorem fmin (o : V3) : Statement (.fmin o) := of_word (w := word 0x46 o.toBits) rfl (by
  unfold decodeFields
  rw [word_opcode 0x46 _ (by decide) (V3_lt o)]
  exact congrArg Instr.fmin (V3_ofWord 0x46 (by decide) o))
theorem fmax (o : V3) : Statement (.fmax o) := of_word (w := word 0x47 o.toBits) rfl (by
  unfold decodeFields
  rw [word_opcode 0x47 _ (by decide) (V3_lt o)]
  exact congrArg Instr.fmax (V3_ofWord 0x47 (by decide) o))
theorem fabsd (o : V3) : Statement (.fabsd o) := of_word (w := word 0x48 o.toBits) rfl (by
  unfold decodeFields
  rw [word_opcode 0x48 _ (by decide) (V3_lt o)]
  exact congrArg Instr.fabsd (V3_ofWord 0x48 (by decide) o))
theorem fdot2 (o : V3) : Statement (.fdot2 o) := of_word (w := word 0x49 o.toBits) rfl (by
  unfold decodeFields
  rw [word_opcode 0x49 _ (by decide) (V3_lt o)]
  exact congrArg Instr.fdot2 (V3_ofWord 0x49 (by decide) o))
theorem fabs (o : V3) : Statement (.fabs o) := of_word (w := word 0x4A o.toBits) rfl (by
  unfold decodeFields
  rw [word_opcode 0x4A _ (by decide) (V3_lt o)]
  exact congrArg Instr.fabs (V3_ofWord 0x4A (by decide) o))
theorem fneg (o : V3) : Statement (.fneg o) := of_word (w := word 0x4B o.toBits) rfl (by
  unfold decodeFields
  rw [word_opcode 0x4B _ (by decide) (V3_lt o)]
  exact congrArg Instr.fneg (V3_ofWord 0x4B (by decide) o))
theorem frnd (o : V3) : Statement (.frnd o) := of_word (w := word 0x4C o.toBits) rfl (by
  unfold decodeFields
  rw [word_opcode 0x4C _ (by decide) (V3_lt o)]
  exact congrArg Instr.frnd (V3_ofWord 0x4C (by decide) o))
theorem fclass (o : V3) : Statement (.fclass o) := of_word (w := word 0x4D o.toBits) rfl (by
  unfold decodeFields
  rw [word_opcode 0x4D _ (by decide) (V3_lt o)]
  exact congrArg Instr.fclass (V3_ofWord 0x4D (by decide) o))
theorem fldexp (o : V3) : Statement (.fldexp o) := of_word (w := word 0x4E o.toBits) rfl (by
  unfold decodeFields
  rw [word_opcode 0x4E _ (by decide) (V3_lt o)]
  exact congrArg Instr.fldexp (V3_ofWord 0x4E (by decide) o))
theorem fexpt (o : V3) : Statement (.fexpt o) := of_word (w := word 0x4F o.toBits) rfl (by
  unfold decodeFields
  rw [word_opcode 0x4F _ (by decide) (V3_lt o)]
  exact congrArg Instr.fexpt (V3_ofWord 0x4F (by decide) o))
theorem fcpys (o : V3) : Statement (.fcpys o) := of_word (w := word 0x50 o.toBits) rfl (by
  unfold decodeFields
  rw [word_opcode 0x50 _ (by decide) (V3_lt o)]
  exact congrArg Instr.fcpys (V3_ofWord 0x50 (by decide) o))
theorem fsat (o : V3) : Statement (.fsat o) := of_word (w := word 0x51 o.toBits) rfl (by
  unfold decodeFields
  rw [word_opcode 0x51 _ (by decide) (V3_lt o)]
  exact congrArg Instr.fsat (V3_ofWord 0x51 (by decide) o))
theorem frcp (o : V3) : Statement (.frcp o) := of_word (w := word 0x52 o.toBits) rfl (by
  unfold decodeFields
  rw [word_opcode 0x52 _ (by decide) (V3_lt o)]
  exact congrArg Instr.frcp (V3_ofWord 0x52 (by decide) o))
theorem frsq (o : V3) : Statement (.frsq o) := of_word (w := word 0x53 o.toBits) rfl (by
  unfold decodeFields
  rw [word_opcode 0x53 _ (by decide) (V3_lt o)]
  exact congrArg Instr.frsq (V3_ofWord 0x53 (by decide) o))
theorem fsqrt (o : V3) : Statement (.fsqrt o) := of_word (w := word 0x54 o.toBits) rfl (by
  unfold decodeFields
  rw [word_opcode 0x54 _ (by decide) (V3_lt o)]
  exact congrArg Instr.fsqrt (V3_ofWord 0x54 (by decide) o))
theorem fexp2 (o : V3) : Statement (.fexp2 o) := of_word (w := word 0x55 o.toBits) rfl (by
  unfold decodeFields
  rw [word_opcode 0x55 _ (by decide) (V3_lt o)]
  exact congrArg Instr.fexp2 (V3_ofWord 0x55 (by decide) o))
theorem flog2 (o : V3) : Statement (.flog2 o) := of_word (w := word 0x56 o.toBits) rfl (by
  unfold decodeFields
  rw [word_opcode 0x56 _ (by decide) (V3_lt o)]
  exact congrArg Instr.flog2 (V3_ofWord 0x56 (by decide) o))
theorem fsin (o : V3) : Statement (.fsin o) := of_word (w := word 0x57 o.toBits) rfl (by
  unfold decodeFields
  rw [word_opcode 0x57 _ (by decide) (V3_lt o)]
  exact congrArg Instr.fsin (V3_ofWord 0x57 (by decide) o))
theorem fcos (o : V3) : Statement (.fcos o) := of_word (w := word 0x58 o.toBits) rfl (by
  unfold decodeFields
  rw [word_opcode 0x58 _ (by decide) (V3_lt o)]
  exact congrArg Instr.fcos (V3_ofWord 0x58 (by decide) o))
theorem ftanh (o : V3) : Statement (.ftanh o) := of_word (w := word 0x59 o.toBits) rfl (by
  unfold decodeFields
  rw [word_opcode 0x59 _ (by decide) (V3_lt o)]
  exact congrArg Instr.ftanh (V3_ofWord 0x59 (by decide) o))
theorem fdiv (o : V3) : Statement (.fdiv o) := of_word (w := word 0x5A o.toBits) rfl (by
  unfold decodeFields
  rw [word_opcode 0x5A _ (by decide) (V3_lt o)]
  exact congrArg Instr.fdiv (V3_ofWord 0x5A (by decide) o))
theorem fsetpEq (o : V3) : Statement (.fsetpEq o) := of_word (w := word 0x5B o.toBits) rfl (by
  unfold decodeFields
  rw [word_opcode 0x5B _ (by decide) (V3_lt o)]
  exact congrArg Instr.fsetpEq (V3_ofWord 0x5B (by decide) o))
theorem fsetpNe (o : V3) : Statement (.fsetpNe o) := of_word (w := word 0x5C o.toBits) rfl (by
  unfold decodeFields
  rw [word_opcode 0x5C _ (by decide) (V3_lt o)]
  exact congrArg Instr.fsetpNe (V3_ofWord 0x5C (by decide) o))
theorem fsetpLt (o : V3) : Statement (.fsetpLt o) := of_word (w := word 0x5D o.toBits) rfl (by
  unfold decodeFields
  rw [word_opcode 0x5D _ (by decide) (V3_lt o)]
  exact congrArg Instr.fsetpLt (V3_ofWord 0x5D (by decide) o))
theorem fsetpLe (o : V3) : Statement (.fsetpLe o) := of_word (w := word 0x5E o.toBits) rfl (by
  unfold decodeFields
  rw [word_opcode 0x5E _ (by decide) (V3_lt o)]
  exact congrArg Instr.fsetpLe (V3_ofWord 0x5E (by decide) o))
theorem fsetpGt (o : V3) : Statement (.fsetpGt o) := of_word (w := word 0x5F o.toBits) rfl (by
  unfold decodeFields
  rw [word_opcode 0x5F _ (by decide) (V3_lt o)]
  exact congrArg Instr.fsetpGt (V3_ofWord 0x5F (by decide) o))
theorem fsetpGe (o : V3) : Statement (.fsetpGe o) := of_word (w := word 0x60 o.toBits) rfl (by
  unfold decodeFields
  rw [word_opcode 0x60 _ (by decide) (V3_lt o)]
  exact congrArg Instr.fsetpGe (V3_ofWord 0x60 (by decide) o))
theorem fsetpUn (o : V3) : Statement (.fsetpUn o) := of_word (w := word 0x61 o.toBits) rfl (by
  unfold decodeFields
  rw [word_opcode 0x61 _ (by decide) (V3_lt o)]
  exact congrArg Instr.fsetpUn (V3_ofWord 0x61 (by decide) o))
theorem fredAdd (o : V3) : Statement (.fredAdd o) := of_word (w := word 0x62 o.toBits) rfl (by
  unfold decodeFields
  rw [word_opcode 0x62 _ (by decide) (V3_lt o)]
  exact congrArg Instr.fredAdd (V3_ofWord 0x62 (by decide) o))
theorem fredMax (o : V3) : Statement (.fredMax o) := of_word (w := word 0x63 o.toBits) rfl (by
  unfold decodeFields
  rw [word_opcode 0x63 _ (by decide) (V3_lt o)]
  exact congrArg Instr.fredMax (V3_ofWord 0x63 (by decide) o))
theorem fredMin (o : V3) : Statement (.fredMin o) := of_word (w := word 0x64 o.toBits) rfl (by
  unfold decodeFields
  rw [word_opcode 0x64 _ (by decide) (V3_lt o)]
  exact congrArg Instr.fredMin (V3_ofWord 0x64 (by decide) o))
theorem fredAmax (o : V3) : Statement (.fredAmax o) := of_word (w := word 0x65 o.toBits) rfl (by
  unfold decodeFields
  rw [word_opcode 0x65 _ (by decide) (V3_lt o)]
  exact congrArg Instr.fredAmax (V3_ofWord 0x65 (by decide) o))
theorem fscanAdd (o : V3) : Statement (.fscanAdd o) := of_word (w := word 0x66 o.toBits) rfl (by
  unfold decodeFields
  rw [word_opcode 0x66 _ (by decide) (V3_lt o)]
  exact congrArg Instr.fscanAdd (V3_ofWord 0x66 (by decide) o))
theorem fscanMax (o : V3) : Statement (.fscanMax o) := of_word (w := word 0x67 o.toBits) rfl (by
  unfold decodeFields
  rw [word_opcode 0x67 _ (by decide) (V3_lt o)]
  exact congrArg Instr.fscanMax (V3_ofWord 0x67 (by decide) o))
theorem fxacc (o : V3) : Statement (.fxacc o) := of_word (w := word 0x68 o.toBits) rfl (by
  unfold decodeFields
  rw [word_opcode 0x68 _ (by decide) (V3_lt o)]
  exact congrArg Instr.fxacc (V3_ofWord 0x68 (by decide) o))
theorem fxcvt (o : V3) : Statement (.fxcvt o) := of_word (w := word 0x69 o.toBits) rfl (by
  unfold decodeFields
  rw [word_opcode 0x69 _ (by decide) (V3_lt o)]
  exact congrArg Instr.fxcvt (V3_ofWord 0x69 (by decide) o))
theorem fpack (o : V3) : Statement (.fpack o) := of_word (w := word 0x6A o.toBits) rfl (by
  unfold decodeFields
  rw [word_opcode 0x6A _ (by decide) (V3_lt o)]
  exact congrArg Instr.fpack (V3_ofWord 0x6A (by decide) o))
theorem funpk (o : V3) : Statement (.funpk o) := of_word (w := word 0x6B o.toBits) rfl (by
  unfold decodeFields
  rw [word_opcode 0x6B _ (by decide) (V3_lt o)]
  exact congrArg Instr.funpk (V3_ofWord 0x6B (by decide) o))
theorem cvt (o : VI) : Statement (.cvt o) := of_word (w := word 0x70 o.toBits) rfl (by
  unfold decodeFields
  rw [word_opcode 0x70 _ (by decide) (VI_lt o)]
  exact congrArg Instr.cvt (VI_ofWord 0x70 (by decide) o))
theorem dsbscal (o : VI) : Statement (.dsbscal o) := of_word (w := word 0x71 o.toBits) rfl (by
  unfold decodeFields
  rw [word_opcode 0x71 _ (by decide) (VI_lt o)]
  exact congrArg Instr.dsbscal (VI_ofWord 0x71 (by decide) o))
theorem dsbenc (o : VI) : Statement (.dsbenc o) := of_word (w := word 0x72 o.toBits) rfl (by
  unfold decodeFields
  rw [word_opcode 0x72 _ (by decide) (VI_lt o)]
  exact congrArg Instr.dsbenc (VI_ofWord 0x72 (by decide) o))
theorem dsbdec (o : VI) : Statement (.dsbdec o) := of_word (w := word 0x73 o.toBits) rfl (by
  unfold decodeFields
  rw [word_opcode 0x73 _ (by decide) (VI_lt o)]
  exact congrArg Instr.dsbdec (VI_ofWord 0x73 (by decide) o))
theorem matchV (o : V3) : Statement (.matchV o) := of_word (w := word 0x74 o.toBits) rfl (by
  unfold decodeFields
  rw [word_opcode 0x74 _ (by decide) (V3_lt o)]
  exact congrArg Instr.matchV (V3_ofWord 0x74 (by decide) o))
theorem vote (o : V3) : Statement (.vote o) := of_word (w := word 0x75 o.toBits) rfl (by
  unfold decodeFields
  rw [word_opcode 0x75 _ (by decide) (V3_lt o)]
  exact congrArg Instr.vote (V3_ofWord 0x75 (by decide) o))
theorem plop (o : X) : Statement (.plop o) := of_word (w := word 0x76 o.toBits) rfl (by
  unfold decodeFields
  rw [word_opcode 0x76 _ (by decide) (X_lt o)]
  exact congrArg Instr.plop (X_ofWord 0x76 (by decide) o))
theorem pmov (o : X) : Statement (.pmov o) := of_word (w := word 0x77 o.toBits) rfl (by
  unfold decodeFields
  rw [word_opcode 0x77 _ (by decide) (X_lt o)]
  exact congrArg Instr.pmov (X_ofWord 0x77 (by decide) o))
theorem shuf (o : V3) : Statement (.shuf o) := of_word (w := word 0x78 o.toBits) rfl (by
  unfold decodeFields
  rw [word_opcode 0x78 _ (by decide) (V3_lt o)]
  exact congrArg Instr.shuf (V3_ofWord 0x78 (by decide) o))
theorem ired (o : V3) : Statement (.ired o) := of_word (w := word 0x79 o.toBits) rfl (by
  unfold decodeFields
  rw [word_opcode 0x79 _ (by decide) (V3_lt o)]
  exact congrArg Instr.ired (V3_ofWord 0x79 (by decide) o))
theorem iscan (o : V3) : Statement (.iscan o) := of_word (w := word 0x7A o.toBits) rfl (by
  unfold decodeFields
  rw [word_opcode 0x7A _ (by decide) (V3_lt o)]
  exact congrArg Instr.iscan (V3_ofWord 0x7A (by decide) o))
theorem mode (i : BitVec 24) : Statement (.mode i) := of_word (w := word 0x7B i.toNat) rfl (by
  unfold decodeFields
  rw [word_opcode 0x7B _ (by decide) i.isLt]
  refine congrArg Instr.mode ?_
  unfold Word.field
  rw [word_toNat 0x7B _ (by decide) i.isLt]
  apply BitVec.eq_of_toNat_eq
  rw [BitVec.toNat_ofNat]
  have := i.isLt
  omega)
theorem mshape (i : BitVec 24) : Statement (.mshape i) := of_word (w := word 0x7C i.toNat) rfl (by
  unfold decodeFields
  rw [word_opcode 0x7C _ (by decide) i.isLt]
  refine congrArg Instr.mshape ?_
  unfold Word.field
  rw [word_toNat 0x7C _ (by decide) i.isLt]
  apply BitVec.eq_of_toNat_eq
  rw [BitVec.toNat_ofNat]
  have := i.isLt
  omega)
theorem carry (o : X) : Statement (.carry o) := of_word (w := word 0x7D o.toBits) rfl (by
  unfold decodeFields
  rw [word_opcode 0x7D _ (by decide) (X_lt o)]
  exact congrArg Instr.carry (X_ofWord 0x7D (by decide) o))
theorem ld (o : M) : Statement (.ld o) := of_word (w := word 0x80 o.toBits) rfl (by
  unfold decodeFields
  rw [word_opcode 0x80 _ (by decide) (M_lt o)]
  exact congrArg Instr.ld (M_ofWord 0x80 (by decide) o))
theorem ld4 (o : M) : Statement (.ld4 o) := of_word (w := word 0x81 o.toBits) rfl (by
  unfold decodeFields
  rw [word_opcode 0x81 _ (by decide) (M_lt o)]
  exact congrArg Instr.ld4 (M_ofWord 0x81 (by decide) o))
theorem st (o : M) : Statement (.st o) := of_word (w := word 0x82 o.toBits) rfl (by
  unfold decodeFields
  rw [word_opcode 0x82 _ (by decide) (M_lt o)]
  exact congrArg Instr.st (M_ofWord 0x82 (by decide) o))
theorem st4 (o : M) : Statement (.st4 o) := of_word (w := word 0x83 o.toBits) rfl (by
  unfold decodeFields
  rw [word_opcode 0x83 _ (by decide) (M_lt o)]
  exact congrArg Instr.st4 (M_ofWord 0x83 (by decide) o))
theorem sld (o : M) : Statement (.sld o) := of_word (w := word 0x84 o.toBits) rfl (by
  unfold decodeFields
  rw [word_opcode 0x84 _ (by decide) (M_lt o)]
  exact congrArg Instr.sld (M_ofWord 0x84 (by decide) o))
theorem sst (o : M) : Statement (.sst o) := of_word (w := word 0x85 o.toBits) rfl (by
  unfold decodeFields
  rw [word_opcode 0x85 _ (by decide) (M_lt o)]
  exact congrArg Instr.sst (M_ofWord 0x85 (by decide) o))
theorem lds (o : M) : Statement (.lds o) := of_word (w := word 0x86 o.toBits) rfl (by
  unfold decodeFields
  rw [word_opcode 0x86 _ (by decide) (M_lt o)]
  exact congrArg Instr.lds (M_ofWord 0x86 (by decide) o))
theorem sts (o : M) : Statement (.sts o) := of_word (w := word 0x87 o.toBits) rfl (by
  unfold decodeFields
  rw [word_opcode 0x87 _ (by decide) (M_lt o)]
  exact congrArg Instr.sts (M_ofWord 0x87 (by decide) o))
theorem gather (o : MA) : Statement (.gather o) := of_word (w := word 0x88 o.toBits) rfl (by
  unfold decodeFields
  rw [word_opcode 0x88 _ (by decide) (MA_lt o)]
  exact congrArg Instr.gather (MA_ofWord 0x88 (by decide) o))
theorem scatter (o : MA) : Statement (.scatter o) := of_word (w := word 0x89 o.toBits) rfl (by
  unfold decodeFields
  rw [word_opcode 0x89 _ (by decide) (MA_lt o)]
  exact congrArg Instr.scatter (MA_ofWord 0x89 (by decide) o))
theorem spill (o : M) : Statement (.spill o) := of_word (w := word 0x8A o.toBits) rfl (by
  unfold decodeFields
  rw [word_opcode 0x8A _ (by decide) (M_lt o)]
  exact congrArg Instr.spill (M_ofWord 0x8A (by decide) o))
theorem fill (o : M) : Statement (.fill o) := of_word (w := word 0x8B o.toBits) rfl (by
  unfold decodeFields
  rw [word_opcode 0x8B _ (by decide) (M_lt o)]
  exact congrArg Instr.fill (M_ofWord 0x8B (by decide) o))
theorem ldc (o : MC) : Statement (.ldc o) := of_word (w := word 0x8C o.toBits) rfl (by
  unfold decodeFields
  rw [word_opcode 0x8C _ (by decide) (MC_lt o)]
  exact congrArg Instr.ldc (MC_ofWord 0x8C (by decide) o))
theorem stc (o : MC) : Statement (.stc o) := of_word (w := word 0x8D o.toBits) rfl (by
  unfold decodeFields
  rw [word_opcode 0x8D _ (by decide) (MC_lt o)]
  exact congrArg Instr.stc (MC_ofWord 0x8D (by decide) o))
theorem atomAdd (o : MA) : Statement (.atomAdd o) := of_word (w := word 0x8E o.toBits) rfl (by
  unfold decodeFields
  rw [word_opcode 0x8E _ (by decide) (MA_lt o)]
  exact congrArg Instr.atomAdd (MA_ofWord 0x8E (by decide) o))
theorem atomMin (o : MA) : Statement (.atomMin o) := of_word (w := word 0x8F o.toBits) rfl (by
  unfold decodeFields
  rw [word_opcode 0x8F _ (by decide) (MA_lt o)]
  exact congrArg Instr.atomMin (MA_ofWord 0x8F (by decide) o))
theorem atomMax (o : MA) : Statement (.atomMax o) := of_word (w := word 0x90 o.toBits) rfl (by
  unfold decodeFields
  rw [word_opcode 0x90 _ (by decide) (MA_lt o)]
  exact congrArg Instr.atomMax (MA_ofWord 0x90 (by decide) o))
theorem atomAnd (o : MA) : Statement (.atomAnd o) := of_word (w := word 0x91 o.toBits) rfl (by
  unfold decodeFields
  rw [word_opcode 0x91 _ (by decide) (MA_lt o)]
  exact congrArg Instr.atomAnd (MA_ofWord 0x91 (by decide) o))
theorem atomOr (o : MA) : Statement (.atomOr o) := of_word (w := word 0x92 o.toBits) rfl (by
  unfold decodeFields
  rw [word_opcode 0x92 _ (by decide) (MA_lt o)]
  exact congrArg Instr.atomOr (MA_ofWord 0x92 (by decide) o))
theorem atomXor (o : MA) : Statement (.atomXor o) := of_word (w := word 0x93 o.toBits) rfl (by
  unfold decodeFields
  rw [word_opcode 0x93 _ (by decide) (MA_lt o)]
  exact congrArg Instr.atomXor (MA_ofWord 0x93 (by decide) o))
theorem atomExch (o : MA) : Statement (.atomExch o) := of_word (w := word 0x94 o.toBits) rfl (by
  unfold decodeFields
  rw [word_opcode 0x94 _ (by decide) (MA_lt o)]
  exact congrArg Instr.atomExch (MA_ofWord 0x94 (by decide) o))
theorem atomFadd (o : MA) : Statement (.atomFadd o) := of_word (w := word 0x95 o.toBits) rfl (by
  unfold decodeFields
  rw [word_opcode 0x95 _ (by decide) (MA_lt o)]
  exact congrArg Instr.atomFadd (MA_ofWord 0x95 (by decide) o))
theorem cas (o : MA) : Statement (.cas o) := of_word (w := word 0x96 o.toBits) rfl (by
  unfold decodeFields
  rw [word_opcode 0x96 _ (by decide) (MA_lt o)]
  exact congrArg Instr.cas (MA_ofWord 0x96 (by decide) o))
theorem atomrfAdd (o : MA) : Statement (.atomrfAdd o) := of_word (w := word 0x97 o.toBits) rfl (by
  unfold decodeFields
  rw [word_opcode 0x97 _ (by decide) (MA_lt o)]
  exact congrArg Instr.atomrfAdd (MA_ofWord 0x97 (by decide) o))
theorem atomrfFadd (o : MA) : Statement (.atomrfFadd o) := of_word (w := word 0x98 o.toBits) rfl (by
  unfold decodeFields
  rw [word_opcode 0x98 _ (by decide) (MA_lt o)]
  exact congrArg Instr.atomrfFadd (MA_ofWord 0x98 (by decide) o))
theorem atomrfMax (o : MA) : Statement (.atomrfMax o) := of_word (w := word 0x99 o.toBits) rfl (by
  unfold decodeFields
  rw [word_opcode 0x99 _ (by decide) (MA_lt o)]
  exact congrArg Instr.atomrfMax (MA_ofWord 0x99 (by decide) o))
theorem atomrfMin (o : MA) : Statement (.atomrfMin o) := of_word (w := word 0x9A o.toBits) rfl (by
  unfold decodeFields
  rw [word_opcode 0x9A _ (by decide) (MA_lt o)]
  exact congrArg Instr.atomrfMin (MA_ofWord 0x9A (by decide) o))
theorem atomx (o : MA) : Statement (.atomx o) := of_word (w := word 0x9B o.toBits) rfl (by
  unfold decodeFields
  rw [word_opcode 0x9B _ (by decide) (MA_lt o)]
  exact congrArg Instr.atomx (MA_ofWord 0x9B (by decide) o))
theorem atomc (o : MC) : Statement (.atomc o) := of_word (w := word 0x9C o.toBits) rfl (by
  unfold decodeFields
  rw [word_opcode 0x9C _ (by decide) (MC_lt o)]
  exact congrArg Instr.atomc (MC_ofWord 0x9C (by decide) o))
theorem atomcrf (o : MC) : Statement (.atomcrf o) := of_word (w := word 0x9D o.toBits) rfl (by
  unfold decodeFields
  rw [word_opcode 0x9D _ (by decide) (MC_lt o)]
  exact congrArg Instr.atomcrf (MC_ofWord 0x9D (by decide) o))
theorem atoms (o : MA) : Statement (.atoms o) := of_word (w := word 0x9E o.toBits) rfl (by
  unfold decodeFields
  rw [word_opcode 0x9E _ (by decide) (MA_lt o)]
  exact congrArg Instr.atoms (MA_ofWord 0x9E (by decide) o))
theorem lr (o : MA) : Statement (.lr o) := of_word (w := word 0x9F o.toBits) rfl (by
  unfold decodeFields
  rw [word_opcode 0x9F _ (by decide) (MA_lt o)]
  exact congrArg Instr.lr (MA_ofWord 0x9F (by decide) o))
theorem sc (o : MA) : Statement (.sc o) := of_word (w := word 0xA0 o.toBits) rfl (by
  unfold decodeFields
  rw [word_opcode 0xA0 _ (by decide) (MA_lt o)]
  exact congrArg Instr.sc (MA_ofWord 0xA0 (by decide) o))
theorem rdord (o : X) : Statement (.rdord o) := of_word (w := word 0xA1 o.toBits) rfl (by
  unfold decodeFields
  rw [word_opcode 0xA1 _ (by decide) (X_lt o)]
  exact congrArg Instr.rdord (X_ofWord 0xA1 (by decide) o))
theorem pinord (o : X) : Statement (.pinord o) := of_word (w := word 0xA2 o.toBits) rfl (by
  unfold decodeFields
  rw [word_opcode 0xA2 _ (by decide) (X_lt o)]
  exact congrArg Instr.pinord (X_ofWord 0xA2 (by decide) o))
theorem advord (o : X) : Statement (.advord o) := of_word (w := word 0xA3 o.toBits) rfl (by
  unfold decodeFields
  rw [word_opcode 0xA3 _ (by decide) (X_lt o)]
  exact congrArg Instr.advord (X_ofWord 0xA3 (by decide) o))
theorem pref (o : M) : Statement (.pref o) := of_word (w := word 0xA4 o.toBits) rfl (by
  unfold decodeFields
  rw [word_opcode 0xA4 _ (by decide) (M_lt o)]
  exact congrArg Instr.pref (M_ofWord 0xA4 (by decide) o))
theorem probe (o : X) : Statement (.probe o) := of_word (w := word 0xA5 o.toBits) rfl (by
  unfold decodeFields
  rw [word_opcode 0xA5 _ (by decide) (X_lt o)]
  exact congrArg Instr.probe (X_ofWord 0xA5 (by decide) o))
theorem fenceAcq (o : X) : Statement (.fenceAcq o) := of_word (w := word 0xA8 o.toBits) rfl (by
  unfold decodeFields
  rw [word_opcode 0xA8 _ (by decide) (X_lt o)]
  exact congrArg Instr.fenceAcq (X_ofWord 0xA8 (by decide) o))
theorem fenceRel (o : X) : Statement (.fenceRel o) := of_word (w := word 0xA9 o.toBits) rfl (by
  unfold decodeFields
  rw [word_opcode 0xA9 _ (by decide) (X_lt o)]
  exact congrArg Instr.fenceRel (X_ofWord 0xA9 (by decide) o))
theorem fenceAr (o : X) : Statement (.fenceAr o) := of_word (w := word 0xAA o.toBits) rfl (by
  unfold decodeFields
  rw [word_opcode 0xAA _ (by decide) (X_lt o)]
  exact congrArg Instr.fenceAr (X_ofWord 0xAA (by decide) o))
theorem fenceRf (o : X) : Statement (.fenceRf o) := of_word (w := word 0xAB o.toBits) rfl (by
  unfold decodeFields
  rw [word_opcode 0xAB _ (by decide) (X_lt o)]
  exact congrArg Instr.fenceRf (X_ofWord 0xAB (by decide) o))
theorem bar (o : X) : Statement (.bar o) := of_word (w := word 0xAC o.toBits) rfl (by
  unfold decodeFields
  rw [word_opcode 0xAC _ (by decide) (X_lt o)]
  exact congrArg Instr.bar (X_ofWord 0xAC (by decide) o))
theorem bara (o : X) : Statement (.bara o) := of_word (w := word 0xAD o.toBits) rfl (by
  unfold decodeFields
  rw [word_opcode 0xAD _ (by decide) (X_lt o)]
  exact congrArg Instr.bara (X_ofWord 0xAD (by decide) o))
theorem barw (o : X) : Statement (.barw o) := of_word (w := word 0xAE o.toBits) rfl (by
  unfold decodeFields
  rw [word_opcode 0xAE _ (by decide) (X_lt o)]
  exact congrArg Instr.barw (X_ofWord 0xAE (by decide) o))
theorem clbar (o : X) : Statement (.clbar o) := of_word (w := word 0xAF o.toBits) rfl (by
  unfold decodeFields
  rw [word_opcode 0xAF _ (by decide) (X_lt o)]
  exact congrArg Instr.clbar (X_ofWord 0xAF (by decide) o))
theorem gbar : Statement .gbar := of_word (w := word 0xB0 0) rfl (by decide)
theorem waitge (o : X) : Statement (.waitge o) := of_word (w := word 0xB1 o.toBits) rfl (by
  unfold decodeFields
  rw [word_opcode 0xB1 _ (by decide) (X_lt o)]
  exact congrArg Instr.waitge (X_ofWord 0xB1 (by decide) o))
theorem waitne (o : X) : Statement (.waitne o) := of_word (w := word 0xB2 o.toBits) rfl (by
  unfold decodeFields
  rw [word_opcode 0xB2 _ (by decide) (X_lt o)]
  exact congrArg Instr.waitne (X_ofWord 0xB2 (by decide) o))
theorem tlwait (o : X) : Statement (.tlwait o) := of_word (w := word 0xB3 o.toBits) rfl (by
  unfold decodeFields
  rw [word_opcode 0xB3 _ (by decide) (X_lt o)]
  exact congrArg Instr.tlwait (X_ofWord 0xB3 (by decide) o))
theorem tlread (o : X) : Statement (.tlread o) := of_word (w := word 0xB4 o.toBits) rfl (by
  unfold decodeFields
  rw [word_opcode 0xB4 _ (by decide) (X_lt o)]
  exact congrArg Instr.tlread (X_ofWord 0xB4 (by decide) o))
theorem ctrarm (o : X) : Statement (.ctrarm o) := of_word (w := word 0xB5 o.toBits) rfl (by
  unfold decodeFields
  rw [word_opcode 0xB5 _ (by decide) (X_lt o)]
  exact congrArg Instr.ctrarm (X_ofWord 0xB5 (by decide) o))
theorem ctrwait (o : X) : Statement (.ctrwait o) := of_word (w := word 0xB6 o.toBits) rfl (by
  unfold decodeFields
  rw [word_opcode 0xB6 _ (by decide) (X_lt o)]
  exact congrArg Instr.ctrwait (X_ofWord 0xB6 (by decide) o))
theorem region : Statement .region := of_word (w := word 0xB7 0) rfl (by decide)
theorem grow (o : X) : Statement (.grow o) := of_word (w := word 0xB8 o.toBits) rfl (by
  unfold decodeFields
  rw [word_opcode 0xB8 _ (by decide) (X_lt o)]
  exact congrArg Instr.grow (X_ofWord 0xB8 (by decide) o))
theorem shrink (o : X) : Statement (.shrink o) := of_word (w := word 0xB9 o.toBits) rfl (by
  unfold decodeFields
  rw [word_opcode 0xB9 _ (by decide) (X_lt o)]
  exact congrArg Instr.shrink (X_ofWord 0xB9 (by decide) o))
theorem yield : Statement .yield := of_word (w := word 0xBA 0) rfl (by decide)
theorem strel (o : M) : Statement (.strel o) := of_word (w := word 0xBB o.toBits) rfl (by
  unfold decodeFields
  rw [word_opcode 0xBB _ (by decide) (M_lt o)]
  exact congrArg Instr.strel (M_ofWord 0xBB (by decide) o))
theorem ldacq (o : M) : Statement (.ldacq o) := of_word (w := word 0xBC o.toBits) rfl (by
  unfold decodeFields
  rw [word_opcode 0xBC _ (by decide) (M_lt o)]
  exact congrArg Instr.ldacq (M_ofWord 0xBC (by decide) o))
theorem home : Statement .home := of_word (w := word 0xBD 0) rfl (by decide)
theorem mmat (o : MM) : Statement (.mmat o) := of_word (w := word 0xC0 o.toBits) rfl (by
  unfold decodeFields
  rw [word_opcode 0xC0 _ (by decide) (MM_lt o)]
  exact congrArg Instr.mmat (MM_ofWord 0xC0 (by decide) o))
theorem mmatz (o : MM) : Statement (.mmatz o) := of_word (w := word 0xC1 o.toBits) rfl (by
  unfold decodeFields
  rw [word_opcode 0xC1 _ (by decide) (MM_lt o)]
  exact congrArg Instr.mmatz (MM_ofWord 0xC1 (by decide) o))
theorem mmatar (o : MM) : Statement (.mmatar o) := of_word (w := word 0xC2 o.toBits) rfl (by
  unfold decodeFields
  rw [word_opcode 0xC2 _ (by decide) (MM_lt o)]
  exact congrArg Instr.mmatar (MM_ofWord 0xC2 (by decide) o))
theorem mmatbr (o : MM) : Statement (.mmatbr o) := of_word (w := word 0xC3 o.toBits) rfl (by
  unfold decodeFields
  rw [word_opcode 0xC3 _ (by decide) (MM_lt o)]
  exact congrArg Instr.mmatbr (MM_ofWord 0xC3 (by decide) o))
theorem commit (o : X) : Statement (.commit o) := of_word (w := word 0xC4 o.toBits) rfl (by
  unfold decodeFields
  rw [word_opcode 0xC4 _ (by decide) (X_lt o)]
  exact congrArg Instr.commit (X_ofWord 0xC4 (by decide) o))
theorem waitb (o : X) : Statement (.waitb o) := of_word (w := word 0xC5 o.toBits) rfl (by
  unfold decodeFields
  rw [word_opcode 0xC5 _ (by decide) (X_lt o)]
  exact congrArg Instr.waitb (X_ofWord 0xC5 (by decide) o))
theorem accz (o : X) : Statement (.accz o) := of_word (w := word 0xC6 o.toBits) rfl (by
  unfold decodeFields
  rw [word_opcode 0xC6 _ (by decide) (X_lt o)]
  exact congrArg Instr.accz (X_ofWord 0xC6 (by decide) o))
theorem accrd (o : X) : Statement (.accrd o) := of_word (w := word 0xC7 o.toBits) rfl (by
  unfold decodeFields
  rw [word_opcode 0xC7 _ (by decide) (X_lt o)]
  exact congrArg Instr.accrd (X_ofWord 0xC7 (by decide) o))
theorem accwr (o : X) : Statement (.accwr o) := of_word (w := word 0xC8 o.toBits) rfl (by
  unfold decodeFields
  rw [word_opcode 0xC8 _ (by decide) (X_lt o)]
  exact congrArg Instr.accwr (X_ofWord 0xC8 (by decide) o))
theorem accst (o : X) : Statement (.accst o) := of_word (w := word 0xC9 o.toBits) rfl (by
  unfold decodeFields
  rw [word_opcode 0xC9 _ (by decide) (X_lt o)]
  exact congrArg Instr.accst (X_ofWord 0xC9 (by decide) o))
theorem accld (o : X) : Statement (.accld o) := of_word (w := word 0xCA o.toBits) rfl (by
  unfold decodeFields
  rw [word_opcode 0xCA _ (by decide) (X_lt o)]
  exact congrArg Instr.accld (X_ofWord 0xCA (by decide) o))
theorem mqry (o : X) : Statement (.mqry o) := of_word (w := word 0xCB o.toBits) rfl (by
  unfold decodeFields
  rw [word_opcode 0xCB _ (by decide) (X_lt o)]
  exact congrArg Instr.mqry (X_ofWord 0xCB (by decide) o))
theorem msave (o : X) : Statement (.msave o) := of_word (w := word 0xCC o.toBits) rfl (by
  unfold decodeFields
  rw [word_opcode 0xCC _ (by decide) (X_lt o)]
  exact congrArg Instr.msave (X_ofWord 0xCC (by decide) o))
theorem mrest (o : X) : Statement (.mrest o) := of_word (w := word 0xCD o.toBits) rfl (by
  unfold decodeFields
  rw [word_opcode 0xCD _ (by decide) (X_lt o)]
  exact congrArg Instr.mrest (X_ofWord 0xCD (by decide) o))
theorem mcancel (o : X) : Statement (.mcancel o) := of_word (w := word 0xCE o.toBits) rfl (by
  unfold decodeFields
  rw [word_opcode 0xCE _ (by decide) (X_lt o)]
  exact congrArg Instr.mcancel (X_ofWord 0xCE (by decide) o))
theorem mbudg (o : X) : Statement (.mbudg o) := of_word (w := word 0xCF o.toBits) rfl (by
  unfold decodeFields
  rw [word_opcode 0xCF _ (by decide) (X_lt o)]
  exact congrArg Instr.mbudg (X_ofWord 0xCF (by decide) o))
theorem cring (o : X) : Statement (.cring o) := of_word (w := word 0xD0 o.toBits) rfl (by
  unfold decodeFields
  rw [word_opcode 0xD0 _ (by decide) (X_lt o)]
  exact congrArg Instr.cring (X_ofWord 0xD0 (by decide) o))
theorem send (o : X) : Statement (.send o) := of_word (w := word 0xD1 o.toBits) rfl (by
  unfold decodeFields
  rw [word_opcode 0xD1 _ (by decide) (X_lt o)]
  exact congrArg Instr.send (X_ofWord 0xD1 (by decide) o))
theorem recv (o : X) : Statement (.recv o) := of_word (w := word 0xD2 o.toBits) rfl (by
  unfold decodeFields
  rw [word_opcode 0xD2 _ (by decide) (X_lt o)]
  exact congrArg Instr.recv (X_ofWord 0xD2 (by decide) o))
theorem caprd (o : X) : Statement (.caprd o) := of_word (w := word 0xD3 o.toBits) rfl (by
  unfold decodeFields
  rw [word_opcode 0xD3 _ (by decide) (X_lt o)]
  exact congrArg Instr.caprd (X_ofWord 0xD3 (by decide) o))
theorem launch (o : X) : Statement (.launch o) := of_word (w := word 0xD4 o.toBits) rfl (by
  unfold decodeFields
  rw [word_opcode 0xD4 _ (by decide) (X_lt o)]
  exact congrArg Instr.launch (X_ofWord 0xD4 (by decide) o))
theorem launchu (o : X) : Statement (.launchu o) := of_word (w := word 0xD5 o.toBits) rfl (by
  unfold decodeFields
  rw [word_opcode 0xD5 _ (by decide) (X_lt o)]
  exact congrArg Instr.launchu (X_ofWord 0xD5 (by decide) o))
theorem cancel (o : X) : Statement (.cancel o) := of_word (w := word 0xD6 o.toBits) rfl (by
  unfold decodeFields
  rw [word_opcode 0xD6 _ (by decide) (X_lt o)]
  exact congrArg Instr.cancel (X_ofWord 0xD6 (by decide) o))
theorem distL2 (o : X) : Statement (.distL2 o) := of_word (w := word 0xD7 o.toBits) rfl (by
  unfold decodeFields
  rw [word_opcode 0xD7 _ (by decide) (X_lt o)]
  exact congrArg Instr.distL2 (X_ofWord 0xD7 (by decide) o))
theorem distIp (o : X) : Statement (.distIp o) := of_word (w := word 0xD8 o.toBits) rfl (by
  unfold decodeFields
  rw [word_opcode 0xD8 _ (by decide) (X_lt o)]
  exact congrArg Instr.distIp (X_ofWord 0xD8 (by decide) o))
theorem topkMin (o : X) : Statement (.topkMin o) := of_word (w := word 0xD9 o.toBits) rfl (by
  unfold decodeFields
  rw [word_opcode 0xD9 _ (by decide) (X_lt o)]
  exact congrArg Instr.topkMin (X_ofWord 0xD9 (by decide) o))
theorem topkMax (o : X) : Statement (.topkMax o) := of_word (w := word 0xDA o.toBits) rfl (by
  unfold decodeFields
  rw [word_opcode 0xDA _ (by decide) (X_lt o)]
  exact congrArg Instr.topkMax (X_ofWord 0xDA (by decide) o))
theorem bankop (o : X) : Statement (.bankop o) := of_word (w := word 0xDB o.toBits) rfl (by
  unfold decodeFields
  rw [word_opcode 0xDB _ (by decide) (X_lt o)]
  exact congrArg Instr.bankop (X_ofWord 0xDB (by decide) o))
theorem stkdisp (o : X) : Statement (.stkdisp o) := of_word (w := word 0xDC o.toBits) rfl (by
  unfold decodeFields
  rw [word_opcode 0xDC _ (by decide) (X_lt o)]
  exact congrArg Instr.stkdisp (X_ofWord 0xDC (by decide) o))
theorem migqry (o : X) : Statement (.migqry o) := of_word (w := word 0xDD o.toBits) rfl (by
  unfold decodeFields
  rw [word_opcode 0xDD _ (by decide) (X_lt o)]
  exact congrArg Instr.migqry (X_ofWord 0xDD (by decide) o))
theorem migr (o : X) : Statement (.migr o) := of_word (w := word 0xDE o.toBits) rfl (by
  unfold decodeFields
  rw [word_opcode 0xDE _ (by decide) (X_lt o)]
  exact congrArg Instr.migr (X_ofWord 0xDE (by decide) o))
theorem svc (o : X) : Statement (.svc o) := of_word (w := word 0xDF o.toBits) rfl (by
  unfold decodeFields
  rw [word_opcode 0xDF _ (by decide) (X_lt o)]
  exact congrArg Instr.svc (X_ofWord 0xDF (by decide) o))
theorem abmode (o : X) : Statement (.abmode o) := of_word (w := word 0xE0 o.toBits) rfl (by
  unfold decodeFields
  rw [word_opcode 0xE0 _ (by decide) (X_lt o)]
  exact congrArg Instr.abmode (X_ofWord 0xE0 (by decide) o))
theorem vbcast (o : X) : Statement (.vbcast o) := of_word (w := word 0xE1 o.toBits) rfl (by
  unfold decodeFields
  rw [word_opcode 0xE1 _ (by decide) (X_lt o)]
  exact congrArg Instr.vbcast (X_ofWord 0xE1 (by decide) o))
theorem bmac (o : X) : Statement (.bmac o) := of_word (w := word 0xE2 o.toBits) rfl (by
  unfold decodeFields
  rw [word_opcode 0xE2 _ (by decide) (X_lt o)]
  exact congrArg Instr.bmac (X_ofWord 0xE2 (by decide) o))
theorem bmacx (o : X) : Statement (.bmacx o) := of_word (w := word 0xE3 o.toBits) rfl (by
  unfold decodeFields
  rw [word_opcode 0xE3 _ (by decide) (X_lt o)]
  exact congrArg Instr.bmacx (X_ofWord 0xE3 (by decide) o))
theorem bmacrd (o : X) : Statement (.bmacrd o) := of_word (w := word 0xE4 o.toBits) rfl (by
  unfold decodeFields
  rw [word_opcode 0xE4 _ (by decide) (X_lt o)]
  exact congrArg Instr.bmacrd (X_ofWord 0xE4 (by decide) o))
theorem bmacz (o : X) : Statement (.bmacz o) := of_word (w := word 0xE5 o.toBits) rfl (by
  unfold decodeFields
  rw [word_opcode 0xE5 _ (by decide) (X_lt o)]
  exact congrArg Instr.bmacz (X_ofWord 0xE5 (by decide) o))
theorem rowact (o : X) : Statement (.rowact o) := of_word (w := word 0xE6 o.toBits) rfl (by
  unfold decodeFields
  rw [word_opcode 0xE6 _ (by decide) (X_lt o)]
  exact congrArg Instr.rowact (X_ofWord 0xE6 (by decide) o))
theorem colrd (o : X) : Statement (.colrd o) := of_word (w := word 0xE7 o.toBits) rfl (by
  unfold decodeFields
  rw [word_opcode 0xE7 _ (by decide) (X_lt o)]
  exact congrArg Instr.colrd (X_ofWord 0xE7 (by decide) o))
theorem colwr (o : X) : Statement (.colwr o) := of_word (w := word 0xE8 o.toBits) rfl (by
  unfold decodeFields
  rw [word_opcode 0xE8 _ (by decide) (X_lt o)]
  exact congrArg Instr.colwr (X_ofWord 0xE8 (by decide) o))
theorem ecsrd (o : X) : Statement (.ecsrd o) := of_word (w := word 0xE9 o.toBits) rfl (by
  unfold decodeFields
  rw [word_opcode 0xE9 _ (by decide) (X_lt o)]
  exact congrArg Instr.ecsrd (X_ofWord 0xE9 (by decide) o))
theorem ecsclr (o : X) : Statement (.ecsclr o) := of_word (w := word 0xEA o.toBits) rfl (by
  unfold decodeFields
  rw [word_opcode 0xEA _ (by decide) (X_lt o)]
  exact congrArg Instr.ecsclr (X_ofWord 0xEA (by decide) o))
theorem tmove (o : X) : Statement (.tmove o) := of_word (w := word 0xEB o.toBits) rfl (by
  unfold decodeFields
  rw [word_opcode 0xEB _ (by decide) (X_lt o)]
  exact congrArg Instr.tmove (X_ofWord 0xEB (by decide) o))
theorem tswap (o : X) : Statement (.tswap o) := of_word (w := word 0xEC o.toBits) rfl (by
  unfold decodeFields
  rw [word_opcode 0xEC _ (by decide) (X_lt o)]
  exact congrArg Instr.tswap (X_ofWord 0xEC (by decide) o))
theorem stksave (o : X) : Statement (.stksave o) := of_word (w := word 0xED o.toBits) rfl (by
  unfold decodeFields
  rw [word_opcode 0xED _ (by decide) (X_lt o)]
  exact congrArg Instr.stksave (X_ofWord 0xED (by decide) o))
theorem skyield : Statement .skyield := of_word (w := word 0xEE 0) rfl (by decide)
theorem pchown (o : X) : Statement (.pchown o) := of_word (w := word 0xEF o.toBits) rfl (by
  unfold decodeFields
  rw [word_opcode 0xEF _ (by decide) (X_lt o)]
  exact congrArg Instr.pchown (X_ofWord 0xEF (by decide) o))
theorem clauseBegin : Statement .clauseBegin := of_none rfl
theorem longLatencyCompletion : Statement .longLatencyCompletion := of_none rfl
theorem pageFaultReplay : Statement .pageFaultReplay := of_none rfl
theorem faultServiceFailure : Statement .faultServiceFailure := of_none rfl
theorem shedRetry : Statement .shedRetry := of_none rfl
theorem shuttleLanding : Statement .shuttleLanding := of_none rfl
theorem guestWavefrontFormation : Statement .guestWavefrontFormation := of_none rfl
theorem guestWarpFormation : Statement .guestWarpFormation := of_none rfl
theorem shuttleReturn : Statement .shuttleReturn := of_none rfl
theorem guestPreemption : Statement .guestPreemption := of_none rfl
theorem growGrant : Statement .growGrant := of_none rfl
theorem growDeadlock : Statement .growDeadlock := of_none rfl
theorem warpAgePromotion : Statement .warpAgePromotion := of_none rfl
theorem fairnessTimerExpiry : Statement .fairnessTimerExpiry := of_none rfl
theorem joinFairnessLimit : Statement .joinFairnessLimit := of_none rfl
theorem memoryWaitWake : Statement .memoryWaitWake := of_none rfl
theorem timelineWaitWake : Statement .timelineWaitWake := of_none rfl
theorem counterWaitWake : Statement .counterWaitWake := of_none rfl
theorem batchWaitWake : Statement .batchWaitWake := of_none rfl
theorem svcReplyWake : Statement .svcReplyWake := of_none rfl
theorem recordCloseRequest : Statement .recordCloseRequest := of_none rfl
theorem blockPlacement : Statement .blockPlacement := of_none rfl
theorem blockFree : Statement .blockFree := of_none rfl
theorem queueWriteUpdate : Statement .queueWriteUpdate := of_none rfl
theorem launchRecordConsume : Statement .launchRecordConsume := of_none rfl
theorem launchComplete : Statement .launchComplete := of_none rfl
theorem copyRingNotify : Statement .copyRingNotify := of_none rfl
theorem copyEntryConsume : Statement .copyEntryConsume := of_none rfl
theorem copyUnitLand : Statement .copyUnitLand := of_none rfl
theorem copyCommandDone : Statement .copyCommandDone := of_none rfl
theorem gateReevaluate : Statement .gateReevaluate := of_none rfl
theorem followOnIssue : Statement .followOnIssue := of_none rfl
theorem engineStep : Statement .engineStep := of_none rfl
theorem batchComplete : Statement .batchComplete := of_none rfl
theorem matrixBudgetPeriod : Statement .matrixBudgetPeriod := of_none rfl
theorem ringDoorbell : Statement .ringDoorbell := of_none rfl
theorem sillRingPoll : Statement .sillRingPoll := of_none rfl
theorem wavefrontStart : Statement .wavefrontStart := of_none rfl
theorem level3Save : Statement .level3Save := of_none rfl
theorem wavefrontResume : Statement .wavefrontResume := of_none rfl
theorem wavefrontStarvation : Statement .wavefrontStarvation := of_none rfl
theorem sillPreemptTimeout : Statement .sillPreemptTimeout := of_none rfl
theorem sillDispatchDone : Statement .sillDispatchDone := of_none rfl
theorem allBankModeExpiry : Statement .allBankModeExpiry := of_none rfl
theorem abmodeBlockedEntry : Statement .abmodeBlockedEntry := of_none rfl
theorem bankopRun : Statement .bankopRun := of_none rfl
theorem bankopResultLand : Statement .bankopResultLand := of_none rfl
theorem splitQuiesceEnd : Statement .splitQuiesceEnd := of_none rfl
theorem monitorWindowClose : Statement .monitorWindowClose := of_none rfl
theorem moveStart : Statement .moveStart := of_none rfl
theorem bucketAdmission : Statement .bucketAdmission := of_none rfl
theorem sliceEnd : Statement .sliceEnd := of_none rfl
theorem warpTaken : Statement .warpTaken := of_none rfl
theorem preemptionDeadline : Statement .preemptionDeadline := of_none rfl
theorem blockResumption : Statement .blockResumption := of_none rfl
theorem resumeEpisode : Statement .resumeEpisode := of_none rfl
theorem hostCxlAccess : Statement .hostCxlAccess := of_none rfl
theorem priResponse : Statement .priResponse := of_none rfl
theorem atsInvalidation : Statement .atsInvalidation := of_none rfl
theorem watchArm : Statement .watchArm := of_none rfl
theorem watchFire : Statement .watchFire := of_none rfl
theorem registerWrite : Statement .registerWrite := of_none rfl
theorem messageDelivery : Statement .messageDelivery := of_none rfl
theorem nvmeCompletion : Statement .nvmeCompletion := of_none rfl
theorem nvmeTimeout : Statement .nvmeTimeout := of_none rfl
theorem driveWrite : Statement .driveWrite := of_none rfl
theorem flitReceive : Statement .flitReceive := of_none rfl
theorem laneRepair : Statement .laneRepair := of_none rfl
theorem scrubPeriod : Statement .scrubPeriod := of_none rfl
theorem rowRepair : Statement .rowRepair := of_none rfl
theorem coreLogicError : Statement .coreLogicError := of_none rfl
theorem pseudoChannelRetirement : Statement .pseudoChannelRetirement := of_none rfl
theorem powerLimitStep : Statement .powerLimitStep := of_none rfl
theorem packageReset : Statement .packageReset := of_none rfl
theorem cmdClaim : Statement .cmdClaim := of_none rfl
theorem cmdHandover : Statement .cmdHandover := of_none rfl
theorem cmdRelease : Statement .cmdRelease := of_none rfl
theorem cmdMeasure : Statement .cmdMeasure := of_none rfl
theorem cmdGetcert : Statement .cmdGetcert := of_none rfl
theorem cmdStatus : Statement .cmdStatus := of_none rfl
theorem cmdReadlog : Statement .cmdReadlog := of_none rfl
theorem cmdPartition : Statement .cmdPartition := of_none rfl
theorem cmdFunction : Statement .cmdFunction := of_none rfl
theorem cmdGrant : Statement .cmdGrant := of_none rfl
theorem cmdInval : Statement .cmdInval := of_none rfl
theorem cmdMigrate : Statement .cmdMigrate := of_none rfl
theorem cmdRegion : Statement .cmdRegion := of_none rfl
theorem cmdAlloc : Statement .cmdAlloc := of_none rfl
theorem cmdReserve : Statement .cmdReserve := of_none rfl
theorem cmdSplit : Statement .cmdSplit := of_none rfl
theorem cmdScrub : Statement .cmdScrub := of_none rfl
theorem cmdSlice : Statement .cmdSlice := of_none rfl
theorem cmdBucket : Statement .cmdBucket := of_none rfl
theorem cmdLogctl : Statement .cmdLogctl := of_none rfl
theorem cmdCancel : Statement .cmdCancel := of_none rfl
theorem cmdPower : Statement .cmdPower := of_none rfl
theorem cmdBudget : Statement .cmdBudget := of_none rfl
theorem cmdLifecycle : Statement .cmdLifecycle := of_none rfl
theorem svcSlotFree : Statement .svcSlotFree := of_none rfl
theorem reservedOpcode (w : Word) : Statement (.reservedOpcode w) := fun hw x he => by
  have hx : x = w := by
    have : some w = some x := he
    cases this
    rfl
  subst hx
  refine decode_of ?_ rfl hw
  have hm : x.toNat / 2 ^ 24 ∈ reservedOpcodes := List.contains_iff_mem.1 hw
  have ho : x.opcode = x.toNat / 2 ^ 24 := rfl
  unfold decodeFields
  rw [ho]
  revert hm
  generalize x.toNat / 2 ^ 24 = n
  intro hm
  rw [show reservedOpcodes = [14, 15, 60, 61, 62, 63, 108, 109, 110, 111, 126, 127, 166, 167, 190, 191, 240, 241, 242, 243, 244, 245, 246,
    247, 248, 249, 250, 251, 252, 253, 254, 255] from by decide] at hm
  simp only [List.mem_cons, List.not_mem_nil, or_false] at hm
  rcases hm with rfl | rfl | rfl | rfl | rfl | rfl | rfl | rfl | rfl | rfl | rfl | rfl | rfl | rfl | rfl | rfl | rfl | rfl | rfl | rfl | rfl | rfl | rfl | rfl | rfl | rfl | rfl | rfl | rfl | rfl | rfl | rfl
  all_goals rfl

end Sys2Proof.Laws.Encoding
end

