-- ==== Sys2Proof/Laws/Retire.lean ====
section
/-! SUPPORT. A retirement said once: outside compacted warps it is one change of the agent's warp, and what follows it
changes at most the selection of that warp. Everything else of the machine is as the instruction's effect left it. -/

namespace Sys2Proof.Laws

open Sys2Proof.Machine

/-! ### Objects by uid -/

theorem find_updateFirst {l : List Warp} {u x : Nat} {f : Warp → Warp} (hf : ∀ w, w.uid = u → (f w).uid = u) :
    (updateFirst (·.uid == u) f l).find? (·.uid == x) = if x = u then (l.find? (·.uid == u)).map f else l.find? (·.uid == x) := by
  induction l with
  | nil => simp [updateFirst]
  | cons w l ih =>
    unfold updateFirst
    by_cases hw : w.uid = u
    · have hw' := hf w hw
      by_cases hx : x = u
      · subst hx; simp [hw, hw']
      · have : ¬ u = x := fun h => hx h.symm
        simp [hw, hw', hx, this]
    · by_cases hwx : w.uid = x
      · have : ¬ x = u := fun h => hw (hwx.trans h)
        simp [hwx, this]
      · by_cases hx : x = u
        · subst hx; simpa [hw] using ih
        · simpa [hw, hwx, hx] using ih

/-- A changed warp is found changed; every other one is found as it was. -/
theorem modWarp_warp? (s : State) (u x : Nat) (f : Warp → Warp) (hf : ∀ w, w.uid = u → (f w).uid = u) :
    (s.modWarp u f).warp? x = if x = u then (s.warp? u).map f else s.warp? x := find_updateFirst hf

/-- A replaced warp is found. -/
theorem setWarp_warp? (s : State) (w : Warp) (x : Nat) :
    (s.setWarp w).warp? x = if x = w.uid then (s.warp? w.uid).map (fun _ => w) else s.warp? x :=
  find_updateFirst (f := fun _ => w) fun _ _ => rfl

theorem updateFirst_twice {l : List Warp} {u : Nat} {f g : Warp → Warp} (hf : ∀ w, w.uid = u → (f w).uid = u) :
    updateFirst (·.uid == u) g (updateFirst (·.uid == u) f l) = updateFirst (·.uid == u) (g ∘ f) l := by
  induction l with
  | nil => rfl
  | cons w l ih =>
    by_cases hw : w.uid = u
    · simp [updateFirst, hw, hf w hw]
    · simp [updateFirst, hw, ih]

/-- Two changes of one warp are one. -/
theorem modWarp_twice (s : State) (u : Nat) (f g : Warp → Warp) (hf : ∀ w, w.uid = u → (f w).uid = u) :
    (s.modWarp u f).modWarp u g = s.modWarp u (g ∘ f) := by
  unfold State.modWarp
  simp only [updateFirst_twice hf]

/-- A replacement of the warp that is there is a change of it. -/
theorem setWarp_eq (s : State) (u : Nat) (f : Warp → Warp) (w : Warp) (h : s.warp? u = some w) (hf : ∀ w, w.uid = u → (f w).uid = u) :
    s.setWarp (f w) = s.modWarp u f := by
  have hu : w.uid = u := by simpa using List.find?_some h
  have key : ∀ l : List Warp, l.find? (·.uid == u) = some w → updateFirst (·.uid == u) (fun _ => f w) l = updateFirst (·.uid == u) f l := by
    intro l
    induction l with
    | nil => intro h; cases h
    | cons x l ih =>
      intro h
      by_cases hx : x.uid = u
      · have : x = w := by simpa [hx] using h
        subst this; simp [updateFirst, hx]
      · have : l.find? (·.uid == u) = some w := by simpa [hx] using h
        simp [updateFirst, hx, ih this]
  unfold State.setWarp State.modWarp
  rw [hf w hu, key _ h]

/-! ### Register writes of one warp -/

/-- One register write in a warp that is not compacted. -/
def wrote (w : Warp) (x : LaneWrite) : Warp :=
  match x.cls with
  | 0 => w.putV x.reg x.mask x.vals x.poison
  | 1 => w.putS x.reg (x.vals.headD 0) (x.poison != 0)
  | _ => w.putP x.reg x.mask (x.vals.headD 0)

@[simp] theorem putS_uid (w : Warp) (r : Nat) (v : Word) (p : Bool) : (w.putS r v p).uid = w.uid := by
  unfold Warp.putS; split <;> rfl

@[simp] theorem wrote_uid (w : Warp) (x : LaneWrite) : (wrote w x).uid = w.uid := by
  unfold wrote; split <;> simp

theorem foldl_uid {α : Type} (f : Warp → α → Warp) (hf : ∀ w a, (f w a).uid = w.uid) (l : List α) (w : Warp) : (l.foldl f w).uid = w.uid := by
  induction l generalizing w with
  | nil => rfl
  | cons a l ih => rw [List.foldl_cons, ih, hf]

theorem applyWrite_eq (s : State) (w : Warp) (x : LaneWrite) (h : w.kind ≠ .dense) :
    s.applyWrite w x = s.modWarp w.uid fun v => wrote v x := by
  obtain ⟨cls, reg, mask, vals, poison⟩ := x
  unfold State.applyWrite wrote
  match cls with
  | 0 => simp [h]
  | 1 => simp [h, State.owners]
  | n + 2 => simp [h]

/-- Register writes of an agent that is not compacted are one change of its warp. -/
theorem applyWrites_eq (s : State) (w : Warp) (ws : List LaneWrite) (h : w.kind ≠ .dense) :
    s.applyWrites w ws = s.modWarp w.uid fun v => ws.foldl wrote v := by
  unfold State.applyWrites
  induction ws generalizing s with
  | nil =>
    have : ∀ l : List Warp, updateFirst (fun x => x.uid == w.uid) (fun v => v) l = l := by
      intro l
      induction l with
      | nil => rfl
      | cons x l ih => unfold updateFirst; split <;> simp [ih]
    simp [State.modWarp, this]
  | cons x ws ih =>
    rw [List.foldl_cons, ih, applyWrite_eq s w x h, modWarp_twice _ _ _ _ (by simp)]
    rfl

/-! ### The change that a retirement makes -/

/-- The long-latency form of a retirement. -/
def longOp (opc : Nat) : Bool := opcodeLongReg opc || opcodeLongMem opc

/-- The names that an instruction writes are allocated (R11). -/
def stageAlloc (c : Ctx) (uses : List Use) (w : Warp) : Warp := if c.w.renames then (writtenNames uses).foldl Warp.alloc w else w

/-- READFREE for an unallocated read (R12). -/
def stageFree (c : Ctx) (uses : List Use) (w : Warp) : Warp :=
  if (uses.flatMap c.unallocated).isEmpty then w else { w with sticky := w.sticky ||| stREADFREE }

/-- A short-latency result is written; a long-latency one is begun (R41). -/
def stageWrite (c : Ctx) (opc : Nat) (uses : List Use) (ws : List LaneWrite) (sticky : BitVec 8) (w : Warp) : Warp :=
  if longOp opc then w.begin c.k c.sp.flag (opcodeCounts opc) uses ws sticky
  else { (ws.foldl wrote w) with sticky := (ws.foldl wrote w).sticky ||| sticky }

/-- Last-read names are freed (R13). -/
def stageLast (c : Ctx) (uses : List Use) (w : Warp) : Warp := if c.w.renames then (lastReads uses).foldl Warp.lastRead w else w

/-- The split moves on. -/
def stageStep (c : Ctx) (w : Warp) : Warp :=
  let sp := (w.splits[c.k]?).getD Split.free
  w.setSplit c.k { sp.advance with status := if sp.lanes = 0 ∧ !sp.stack.isEmpty then .wait .away else .ready }

/-- What a retirement makes of its warp. -/
def retiredWarp (c : Ctx) (opc : Nat) (uses : List Use) (ws : List LaneWrite) (sticky : BitVec 8) (w : Warp) : Warp :=
  stageStep c (stageLast c uses (stageWrite c opc uses ws sticky (stageFree c uses (stageAlloc c uses w))))

theorem lastRead_uid (w : Warp) (r : Nat) : (w.lastRead r).uid = w.uid := by
  unfold Warp.lastRead
  split
  · rfl
  · split <;> rfl

@[simp] theorem stageAlloc_uid (c : Ctx) (uses : List Use) (w : Warp) : (stageAlloc c uses w).uid = w.uid := by
  unfold stageAlloc; split
  · exact foldl_uid _ warp_alloc_uid _ _
  · rfl

@[simp] theorem stageFree_uid (c : Ctx) (uses : List Use) (w : Warp) : (stageFree c uses w).uid = w.uid := by
  unfold stageFree; split <;> rfl

@[simp] theorem stageWrite_uid (c : Ctx) (opc : Nat) (uses : List Use) (ws : List LaneWrite) (st : BitVec 8) (w : Warp) :
    (stageWrite c opc uses ws st w).uid = w.uid := by
  unfold stageWrite; split
  · rfl
  · exact foldl_uid _ wrote_uid _ _

@[simp] theorem stageLast_uid (c : Ctx) (uses : List Use) (w : Warp) : (stageLast c uses w).uid = w.uid := by
  unfold stageLast; split
  · exact foldl_uid _ lastRead_uid _ _
  · rfl

@[simp] theorem stageStep_uid (c : Ctx) (w : Warp) : (stageStep c w).uid = w.uid := rfl

theorem modWarp_id (s : State) (u : Nat) : s.modWarp u (fun w => w) = s := by
  have : ∀ l : List Warp, updateFirst (fun x => x.uid == u) (fun v => v) l = l := by
    intro l
    induction l with
    | nil => rfl
    | cons x l ih => unfold updateFirst; split <;> simp [ih]
  simp [State.modWarp, this]

/-- Outside compacted warps a retirement is one change of the agent's warp, and what follows an instruction (R90, R238, R239). -/
theorem retire_eq (c : Ctx) (opc : Nat) (uses : List Use) (s : State) (ws : List LaneWrite) (sticky : BitVec 8)
    (hd : c.w.kind ≠ .dense) (ho : opc ≠ 0xBC) :
    c.retire opc uses s ws sticky = (s.modWarp c.w.uid (retiredWarp c opc uses ws sticky)).after c.w.uid := by
  have h1 : s.allocNames c.w (c.written uses) (writtenNames uses) = s.modWarp c.w.uid (stageAlloc c uses) := by
    unfold State.allocNames State.owners stageAlloc
    by_cases hr : c.w.renames = true
    · simp only [hr, hd, if_true, if_false, List.foldl_cons, List.foldl_nil]
    · simp only [hr, Bool.false_eq_true, if_false, modWarp_id]
  have h2 : ∀ t : State, (if (uses.flatMap c.unallocated).isEmpty then t else t.raise c.w.uid stREADFREE) =
      t.modWarp c.w.uid (stageFree c uses) := by
    intro t
    unfold stageFree State.raise
    split
    · exact (modWarp_id t _).symm
    · rfl
  have h3 : ∀ t : State, (if opcodeLongReg opc || opcodeLongMem opc then
        (if opc = 0xBC then
          (t.modWarp c.w.uid fun w => w.begin c.k c.sp.flag (opcodeCounts opc) uses ws sticky).completeOps
            c.w.uid (·.memory)
         else t.modWarp c.w.uid fun w => w.begin c.k c.sp.flag (opcodeCounts opc) uses ws sticky)
      else (t.applyWrites c.w ws).raise c.w.uid sticky) = t.modWarp c.w.uid (stageWrite c opc uses ws sticky) := by
    intro t
    unfold stageWrite longOp
    split
    · rfl
    · unfold State.raise
      rw [applyWrites_eq t c.w ws hd, modWarp_twice _ _ _ _ fun w h => (foldl_uid _ wrote_uid _ _).trans h]
      rfl
  have h4 : ∀ t : State, (if c.w.renames then
        (t.owners c.w c.sp.lanes).foldl (fun s h => s.modWarp h.uid fun h => (lastReads uses).foldl (fun h r => h.lastRead r) h) t
      else t) = t.modWarp c.w.uid (stageLast c uses) := by
    intro t
    unfold State.owners stageLast
    by_cases hr : c.w.renames = true
    · simp only [hr, hd, if_true, if_false, List.foldl_cons, List.foldl_nil]
    · simp only [hr, Bool.false_eq_true, if_false, modWarp_id]
  have step : c.retire opc uses s ws sticky =
      ((((((s.modWarp c.w.uid (stageAlloc c uses)).modWarp c.w.uid (stageFree c uses)).modWarp c.w.uid
        (stageWrite c opc uses ws sticky)).modWarp c.w.uid (stageLast c uses)).modWarp c.w.uid (stageStep c))).after c.w.uid := by
    rw [← h4, ← h3, ← h2, ← h1]
    rfl
  rw [step, modWarp_twice _ _ _ _ (by simp), modWarp_twice _ _ _ _ (by simp), modWarp_twice _ _ _ _ (by simp), modWarp_twice _ _ _ _ (by simp)]
  rfl

/-! ### What follows an instruction -/

/-- Two warps that differ at most in the selection among their splits: which one runs, how long the others have waited, an expired fairness
timer, and whether a selection is due. -/
def SameBut (w x : Warp) : Prop :=
  ({ x with running := w.running, expired := w.expired, idle := w.idle, splits := w.splits } : Warp) = w ∧
  ∀ k : Nat, (x.splits[k]?).map (fun (sp : Split) => { sp with waited := 0 }) = (w.splits[k]?).map fun (sp : Split) => { sp with waited := 0 }

theorem sameBut_refl (w : Warp) : SameBut w w := ⟨rfl, fun _ => rfl⟩

theorem SameBut.trans' {w x y : Warp} (h : SameBut w x) (g : SameBut x y) : SameBut w y := by
  obtain ⟨h1, h2⟩ := h
  obtain ⟨g1, g2⟩ := g
  refine ⟨?_, fun k => (g2 k).trans (h2 k)⟩
  rw [← h1, ← g1]

theorem SameBut.uid {w x : Warp} (h : SameBut w x) : x.uid = w.uid := by
  rw [← h.1]

theorem zero_sameBut (w : Warp) (k : Nat) : SameBut w (w.setSplit k { ((w.splits[k]?).getD Split.free) with waited := 0 }) := by
  refine ⟨rfl, fun j => ?_⟩
  show ((w.splits.set k _)[j]?).map _ = _
  by_cases hj : k = j
  · subst hj
    by_cases hl : k < w.splits.length
    · simp [hl]
    · simp [Nat.not_lt.1 hl]
  · simp [hj]

/-- A fresh selection changes the selection only (R236, R238). -/
theorem reselect_eq {s : State} {u : Nat} {w : Warp} (h : s.warp? u = some w) (others : Bool) :
    ∃ x, SameBut w x ∧ s.reselect u others = s.modWarp u fun _ => x := by
  have hu : w.uid = u := by simpa using List.find?_some h
  have done : ∀ f : Warp → Warp, (∀ v, v.uid = u → (f v).uid = u) → s.modWarp u f = s.modWarp u fun _ => f w := fun f hf => by
    rw [← setWarp_eq s u f w h hf, ← setWarp_eq s u (fun _ => f w) w h fun _ _ => hf w hu]
  unfold State.reselect
  rw [h]
  dsimp only
  split
  · refine ⟨_, ?_, done _ fun _ h => h⟩
    exact ((zero_sameBut w w.running).trans' (zero_sameBut _ _)).trans' ⟨rfl, fun _ => rfl⟩
  · refine ⟨_, ?_, done _ fun v h => by split <;> exact h⟩
    split
    · exact (zero_sameBut w w.running).trans' ⟨rfl, fun _ => rfl⟩
    · exact ⟨rfl, fun _ => rfl⟩

@[simp] theorem settle_uid (w : Warp) : w.settle.uid = w.uid := by
  unfold Warp.settle; split <;> rfl

theorem settle_splits (w : Warp) : w.settle.splits = w.splits := by
  unfold Warp.settle; split <;> rfl

/-- Where the running split is live and ready, no wait at a JOIN is over. -/
theorem joinStep_ready {s : State} {u k : Nat} {w : Warp} {sp : Split} (h : s.warp? u = some w) (hk : w.splits[k]? = some sp)
    (hl : sp.live = true) (hr : sp.status = .ready) : s.joinStep u = s := by
  have : ∀ j, w.joinOver j = false := by
    intro j
    unfold Warp.joinOver
    rw [Bool.eq_false_iff]
    intro ha
    have := List.all_eq_true.1 ha sp (List.mem_of_getElem? hk)
    simp [hl, hr, Split.atBarrier] at this
  unfold State.joinStep
  rw [h]
  have hf : (w.splits.find? fun sp => sp.live && sp.status == .join && w.joinOver sp.pc) = none := by
    rw [List.find?_eq_none]
    intro x _
    simp [this]
  dsimp only
  rw [hf]

/-- What follows an instruction, where its split goes on: deferred frees, and the selection (R13, R238, R239). -/
theorem after_eq {s : State} {u k : Nat} {w : Warp} {sp : Split} (h : s.warp? u = some w) (hk : w.splits[k]? = some sp)
    (hl : sp.live = true) (hr : sp.status = .ready) : ∃ x, SameBut w.settle x ∧ s.after u = s.modWarp u fun _ => x := by
  have hu : w.uid = u := by simpa using List.find?_some h
  have hset : s.setWarp w.settle = s.modWarp u fun _ => w.settle := setWarp_eq s u (fun _ => w.settle) w h fun _ _ => by simpa using hu
  have hw : (s.setWarp w.settle).warp? u = some w.settle := by
    rw [setWarp_warp?]
    simp [hu, h]
  have twice : ∀ x : Warp, (s.setWarp w.settle).modWarp u (fun _ => x) = s.modWarp u fun _ => x := by
    intro x
    rw [hset, modWarp_twice _ _ _ _ fun _ _ => by simpa using hu]
    rfl
  unfold State.after
  rw [joinStep_ready h hk hl hr, h]
  dsimp only
  rw [hw]
  dsimp only
  split
  · exact ⟨w.settle, sameBut_refl _, hset⟩
  · have again : ∀ others, ∃ x, SameBut w.settle x ∧ (s.setWarp w.settle).reselect u others = s.modWarp u fun _ => x := fun others => by
      obtain ⟨x, hx, hx2⟩ := reselect_eq hw others
      exact ⟨x, hx, by rw [hx2, twice]⟩
    split
    · exact ⟨w.settle, sameBut_refl _, hset⟩
    · split
      · exact again true
      · split
        · exact ⟨w.settle, sameBut_refl _, hset⟩
        · exact again false

/-! ### Retirement, whole -/

theorem foldl_splits {α : Type} (f : Warp → α → Warp) (hf : ∀ w a, (f w a).splits = w.splits) (l : List α) (w : Warp) :
    (l.foldl f w).splits = w.splits := by
  induction l generalizing w with
  | nil => rfl
  | cons a l ih => rw [List.foldl_cons, ih, hf]

theorem wrote_splits (w : Warp) (x : LaneWrite) : (wrote w x).splits = w.splits := by
  unfold wrote; split
  · rfl
  · unfold Warp.putS; split <;> rfl
  · rfl

theorem lastRead_splits (w : Warp) (r : Nat) : (w.lastRead r).splits = w.splits := by
  unfold Warp.lastRead
  split
  · rfl
  · split <;> rfl

/-- Before the split moves on, a retirement leaves the splits alone. -/
theorem stages_splits (c : Ctx) (opc : Nat) (uses : List Use) (ws : List LaneWrite) (st : BitVec 8) (w : Warp) :
    (stageLast c uses (stageWrite c opc uses ws st (stageFree c uses (stageAlloc c uses w)))).splits = w.splits := by
  have h1 : (stageAlloc c uses w).splits = w.splits := by
    unfold stageAlloc; split
    · exact foldl_splits _ warp_alloc_splits _ _
    · rfl
  have h2 : ∀ w, (stageFree c uses w).splits = w.splits := by intro w; unfold stageFree; split <;> rfl
  have h3 : ∀ w, (stageWrite c opc uses ws st w).splits = w.splits := by
    intro w; unfold stageWrite; split
    · rfl
    · exact foldl_splits _ wrote_splits _ _
  have h4 : ∀ w, (stageLast c uses w).splits = w.splits := by
    intro w; unfold stageLast; split
    · exact foldl_splits _ lastRead_splits _ _
    · rfl
  rw [h4, h3, h2, h1]

/-- The split after an instruction that goes on. -/
def movedOn (sp : Split) : Split := { sp.advance with status := .ready }

theorem advance_lanes (sp : Split) : sp.advance.lanes = sp.lanes := by
  unfold Split.advance; split <;> rfl

/-- A retirement in a state that holds the agent's warp (the instruction's own effect has left its split alone): one warp
changes, to the retired one with its deferred frees, but for the selection among its splits. -/
theorem retire_warp {c : Ctx} {opc : Nat} {uses : List Use} {s : State} {ws : List LaneWrite} {st : BitVec 8} {w : Warp} {sp : Split}
    (hd : c.w.kind ≠ .dense) (ho : opc ≠ 0xBC) (hw : s.warp? c.w.uid = some w) (hk : w.splits[c.k]? = some sp) (hl : sp.lanes ≠ 0) :
    ∃ x, SameBut (retiredWarp c opc uses ws st w).settle x ∧ c.retire opc uses s ws st = s.modWarp c.w.uid (fun _ => x) ∧
      (retiredWarp c opc uses ws st w).splits[c.k]? = some (movedOn sp) := by
  have hu : w.uid = c.w.uid := by simpa using List.find?_some hw
  have hr : (retiredWarp c opc uses ws st w).uid = w.uid := by simp [retiredWarp]
  have hsp : (retiredWarp c opc uses ws st w).splits[c.k]? = some (movedOn sp) := by
    have hlt : c.k < w.splits.length := (List.getElem?_eq_some_iff.1 hk).1
    unfold retiredWarp stageStep
    dsimp only
    show ((stageLast c uses _).splits.set c.k _)[c.k]? = _
    rw [stages_splits, hk]
    have hl' : ¬ sp.lanes = 0#32 := hl
    simp [hlt, hl', movedOn]
  have hm : (s.modWarp c.w.uid (retiredWarp c opc uses ws st)).warp? c.w.uid = some (retiredWarp c opc uses ws st w) := by
    rw [modWarp_warp? _ _ _ _ fun v hv => by simp [retiredWarp, hv]]
    simp [hw]
  have hl' : ¬ sp.lanes = 0#32 := hl
  obtain ⟨x, hx, hx2⟩ := after_eq hm hsp (by simp [Split.live, movedOn, advance_lanes, hl']) rfl
  refine ⟨x, hx, ?_, hsp⟩
  rw [retire_eq c opc uses s ws st hd ho, hx2, modWarp_twice _ _ _ _ fun v hv => by simp [retiredWarp, hv]]
  rfl

/-- So a retirement leaves everything but its warp as the instruction's effect left it. -/
theorem retire_only {c : Ctx} {opc : Nat} {uses : List Use} {s : State} {ws : List LaneWrite} {st : BitVec 8} {w : Warp} {sp : Split}
    (hd : c.w.kind ≠ .dense) (ho : opc ≠ 0xBC) (hw : s.warp? c.w.uid = some w) (hk : w.splits[c.k]? = some sp) (hl : sp.lanes ≠ 0) :
    OnlyWarp s (c.retire opc uses s ws st) c.w.uid := by
  obtain ⟨x, hx, h2, -⟩ := retire_warp (uses := uses) (ws := ws) (st := st) hd ho hw hk hl
  have hu : w.uid = c.w.uid := by simpa using List.find?_some hw
  have hxu : x.uid = c.w.uid := by rw [hx.uid]; simp [retiredWarp, hu]
  rw [h2]
  refine ⟨rfl, fun y hy => ?_⟩
  rw [modWarp_warp? _ _ _ _ fun _ _ => hxu]
  simp [hy]

end Sys2Proof.Laws
end

