-- ==== Sys2Proof/Tests/Slice0.lean ====
section
/-! SUPPORT. The model's own tests: ill-formed terms that WellFormed refuses, words that decode, for each statement states
and operands that meet its hypotheses, and single steps whose results are worked out by hand from the spec's rules. -/

open Sys2Proof Sys2Proof.Machine

namespace Sys2Proof.Tests

/-! ### Ill-formed terms, one for each check of each constructor -/

theorem test_illFormed_1 : ([
    .sysrd ⟨0, 1, 0, 0⟩, .sysrd ⟨0, 0, 1, 0⟩, .syswr ⟨1, 0, 0, 0⟩, .syswr ⟨0, 0, 1, 0⟩,
    .iadd ⟨0, 0, 0, false, 0, 1, false, true⟩, .iadd ⟨0, 0, 0, false, 0, 0, true, true⟩, .isub ⟨0, 0, 0, false, 0, 1, false, true⟩,
      .isub ⟨0, 0, 0, false, 0, 0, true, true⟩,
    .imul ⟨0, 0, 0, false, 0, 1, false, true⟩, .imul ⟨0, 0, 0, false, 0, 0, true, true⟩, .imulh ⟨0, 0, 0, false, 0, 1, false, true⟩,
      .imulh ⟨0, 0, 0, false, 0, 0, true, true⟩,
    .imad ⟨0, 0, 0, false, 0, 1, false, true⟩, .imad ⟨0, 0, 0, false, 0, 0, true, true⟩, .imin ⟨0, 0, 0, false, 0, 1, false, true⟩,
      .imin ⟨0, 0, 0, false, 0, 0, true, true⟩,
    .imax ⟨0, 0, 0, false, 0, 1, false, true⟩, .imax ⟨0, 0, 0, false, 0, 0, true, true⟩, .and ⟨0, 0, 0, false, 0, 1, false, true⟩,
      .and ⟨0, 0, 0, false, 0, 0, true, true⟩] : List Instr).all (fun i => !i.wellFormed) = true := by decide

theorem test_illFormed_2 : ([
    .or ⟨0, 0, 0, false, 0, 1, false, true⟩, .or ⟨0, 0, 0, false, 0, 0, true, true⟩, .xor ⟨0, 0, 0, false, 0, 1, false, true⟩,
      .xor ⟨0, 0, 0, false, 0, 0, true, true⟩,
    .andn ⟨0, 0, 0, false, 0, 1, false, true⟩, .andn ⟨0, 0, 0, false, 0, 0, true, true⟩, .shl ⟨0, 0, 0, false, 0, 1, false, true⟩,
      .shl ⟨0, 0, 0, false, 0, 0, true, true⟩,
    .shr ⟨0, 0, 0, false, 0, 1, false, true⟩, .shr ⟨0, 0, 0, false, 0, 0, true, true⟩, .sar ⟨0, 0, 0, false, 0, 1, false, true⟩,
      .sar ⟨0, 0, 0, false, 0, 0, true, true⟩,
    .sel ⟨0, 0, 0, false, 0, 1, false, true⟩, .sel ⟨0, 0, 0, false, 0, 0, true, true⟩, .iabs ⟨0, 0, 0, false, 1, 0, false, false⟩,
      .iabs ⟨0, 0, 0, false, 0, 1, false, false⟩,
    .iabs ⟨0, 0, 0, false, 0, 0, true, false⟩, .iabs ⟨0, 0, 0, false, 0, 0, false, true⟩, .popc ⟨0, 0, 0, false, 1, 0, false, false⟩,
      .popc ⟨0, 0, 0, false, 0, 1, false, false⟩] : List Instr).all (fun i => !i.wellFormed) = true := by decide

theorem test_illFormed_3 : ([
    .popc ⟨0, 0, 0, false, 0, 0, true, false⟩, .popc ⟨0, 0, 0, false, 0, 0, false, true⟩, .clz ⟨0, 0, 0, false, 1, 0, false, false⟩,
      .clz ⟨0, 0, 0, false, 0, 1, false, false⟩,
    .clz ⟨0, 0, 0, false, 0, 0, true, false⟩, .clz ⟨0, 0, 0, false, 0, 0, false, true⟩, .brev ⟨0, 0, 0, false, 1, 0, false, false⟩,
      .brev ⟨0, 0, 0, false, 0, 1, false, false⟩,
    .brev ⟨0, 0, 0, false, 0, 0, true, false⟩, .brev ⟨0, 0, 0, false, 0, 0, false, true⟩, .isetpEq ⟨8, 0, 0, false, 0, 0, false, false⟩,
      .isetpEq ⟨0, 0, 0, false, 0, 1, false, true⟩,
    .isetpEq ⟨0, 0, 0, false, 0, 0, true, true⟩, .isetpNe ⟨8, 0, 0, false, 0, 0, false, false⟩,
      .isetpNe ⟨0, 0, 0, false, 0, 1, false, true⟩, .isetpNe ⟨0, 0, 0, false, 0, 0, true, true⟩,
    .isetpLt ⟨8, 0, 0, false, 0, 0, false, false⟩, .isetpLt ⟨0, 0, 0, false, 0, 1, false, true⟩,
      .isetpLt ⟨0, 0, 0, false, 0, 0, true, true⟩, .isetpLe ⟨8, 0, 0, false, 0, 0, false, false⟩] : List Instr).all
        (fun i => !i.wellFormed) = true := by decide

theorem test_illFormed_4 : ([
    .isetpLe ⟨0, 0, 0, false, 0, 1, false, true⟩, .isetpLe ⟨0, 0, 0, false, 0, 0, true, true⟩,
      .isetpGt ⟨8, 0, 0, false, 0, 0, false, false⟩, .isetpGt ⟨0, 0, 0, false, 0, 1, false, true⟩,
    .isetpGt ⟨0, 0, 0, false, 0, 0, true, true⟩, .isetpGe ⟨8, 0, 0, false, 0, 0, false, false⟩,
      .isetpGe ⟨0, 0, 0, false, 0, 1, false, true⟩, .isetpGe ⟨0, 0, 0, false, 0, 0, true, true⟩,
    .shli ⟨0, 0, 0, false, 64⟩, .shri ⟨0, 0, 0, false, 64⟩, .sari ⟨0, 0, 0, false, 64⟩, .movhi ⟨0, 8192⟩,
    .fadd ⟨0, 0, 0, false, 0, 1, false, true⟩, .fadd ⟨0, 0, 0, false, 0, 0, true, true⟩, .fsub ⟨0, 0, 0, false, 0, 1, false, true⟩,
      .fsub ⟨0, 0, 0, false, 0, 0, true, true⟩,
    .fmul ⟨0, 0, 0, false, 0, 1, false, true⟩, .fmul ⟨0, 0, 0, false, 0, 0, true, true⟩, .ffma ⟨0, 0, 0, false, 0, 1, false, true⟩,
      .ffma ⟨0, 0, 0, false, 0, 0, true, true⟩] : List Instr).all (fun i => !i.wellFormed) = true := by decide

theorem test_illFormed_5 : ([
    .ffms ⟨0, 0, 0, false, 0, 1, false, true⟩, .ffms ⟨0, 0, 0, false, 0, 0, true, true⟩, .fnma ⟨0, 0, 0, false, 0, 1, false, true⟩,
      .fnma ⟨0, 0, 0, false, 0, 0, true, true⟩,
    .fmin ⟨0, 0, 0, false, 0, 1, false, true⟩, .fmin ⟨0, 0, 0, false, 0, 0, true, true⟩, .fmax ⟨0, 0, 0, false, 0, 1, false, true⟩,
      .fmax ⟨0, 0, 0, false, 0, 0, true, true⟩,
    .fabsd ⟨0, 0, 0, false, 0, 1, false, true⟩, .fabsd ⟨0, 0, 0, false, 0, 0, true, true⟩, .fdot2 ⟨0, 0, 0, false, 0, 1, false, true⟩,
      .fdot2 ⟨0, 0, 0, false, 0, 0, true, true⟩,
    .fabs ⟨0, 0, 0, false, 1, 0, false, false⟩, .fabs ⟨0, 0, 0, false, 0, 1, false, false⟩, .fabs ⟨0, 0, 0, false, 0, 0, true, false⟩,
      .fabs ⟨0, 0, 0, false, 0, 0, false, true⟩,
    .fneg ⟨0, 0, 0, false, 1, 0, false, false⟩, .fneg ⟨0, 0, 0, false, 0, 1, false, false⟩, .fneg ⟨0, 0, 0, false, 0, 0, true, false⟩,
      .fneg ⟨0, 0, 0, false, 0, 0, false, true⟩] : List Instr).all (fun i => !i.wellFormed) = true := by decide

theorem test_illFormed_6 : ([
    .frnd ⟨0, 0, 0, false, 1, 0, false, false⟩, .frnd ⟨0, 0, 0, false, 0, 1, false, false⟩, .frnd ⟨0, 0, 0, false, 0, 0, true, false⟩,
      .frnd ⟨0, 0, 0, false, 0, 0, false, true⟩,
    .fclass ⟨0, 0, 0, false, 1, 0, false, false⟩, .fclass ⟨0, 0, 0, false, 0, 1, false, false⟩,
      .fclass ⟨0, 0, 0, false, 0, 0, true, false⟩, .fclass ⟨0, 0, 0, false, 0, 0, false, true⟩,
    .fldexp ⟨0, 0, 0, false, 0, 1, false, true⟩, .fldexp ⟨0, 0, 0, false, 0, 0, true, true⟩, .fexpt ⟨0, 0, 0, false, 1, 0, false, false⟩,
      .fexpt ⟨0, 0, 0, false, 0, 1, false, false⟩,
    .fexpt ⟨0, 0, 0, false, 0, 0, true, false⟩, .fexpt ⟨0, 0, 0, false, 0, 0, false, true⟩, .fcpys ⟨0, 0, 0, false, 0, 1, false, true⟩,
      .fcpys ⟨0, 0, 0, false, 0, 0, true, true⟩,
    .fsat ⟨0, 0, 0, false, 1, 0, false, false⟩, .fsat ⟨0, 0, 0, false, 0, 1, false, false⟩, .fsat ⟨0, 0, 0, false, 0, 0, true, false⟩,
      .fsat ⟨0, 0, 0, false, 0, 0, false, true⟩] : List Instr).all (fun i => !i.wellFormed) = true := by decide

theorem test_illFormed_7 : ([
    .frcp ⟨0, 0, 0, false, 1, 0, false, false⟩, .frcp ⟨0, 0, 0, false, 0, 1, false, false⟩, .frcp ⟨0, 0, 0, false, 0, 0, true, false⟩,
      .frcp ⟨0, 0, 0, false, 0, 0, false, true⟩,
    .frsq ⟨0, 0, 0, false, 1, 0, false, false⟩, .frsq ⟨0, 0, 0, false, 0, 1, false, false⟩, .frsq ⟨0, 0, 0, false, 0, 0, true, false⟩,
      .frsq ⟨0, 0, 0, false, 0, 0, false, true⟩,
    .fsqrt ⟨0, 0, 0, false, 1, 0, false, false⟩, .fsqrt ⟨0, 0, 0, false, 0, 1, false, false⟩, .fsqrt ⟨0, 0, 0, false, 0, 0, true, false⟩,
      .fsqrt ⟨0, 0, 0, false, 0, 0, false, true⟩,
    .fexp2 ⟨0, 0, 0, false, 1, 0, false, false⟩, .fexp2 ⟨0, 0, 0, false, 0, 1, false, false⟩, .fexp2 ⟨0, 0, 0, false, 0, 0, true, false⟩,
      .fexp2 ⟨0, 0, 0, false, 0, 0, false, true⟩,
    .flog2 ⟨0, 0, 0, false, 1, 0, false, false⟩, .flog2 ⟨0, 0, 0, false, 0, 1, false, false⟩, .flog2 ⟨0, 0, 0, false, 0, 0, true, false⟩,
      .flog2 ⟨0, 0, 0, false, 0, 0, false, true⟩] : List Instr).all (fun i => !i.wellFormed) = true := by decide

theorem test_illFormed_8 : ([
    .fsin ⟨0, 0, 0, false, 1, 0, false, false⟩, .fsin ⟨0, 0, 0, false, 0, 1, false, false⟩, .fsin ⟨0, 0, 0, false, 0, 0, true, false⟩,
      .fsin ⟨0, 0, 0, false, 0, 0, false, true⟩,
    .fcos ⟨0, 0, 0, false, 1, 0, false, false⟩, .fcos ⟨0, 0, 0, false, 0, 1, false, false⟩, .fcos ⟨0, 0, 0, false, 0, 0, true, false⟩,
      .fcos ⟨0, 0, 0, false, 0, 0, false, true⟩,
    .ftanh ⟨0, 0, 0, false, 1, 0, false, false⟩, .ftanh ⟨0, 0, 0, false, 0, 1, false, false⟩, .ftanh ⟨0, 0, 0, false, 0, 0, true, false⟩,
      .ftanh ⟨0, 0, 0, false, 0, 0, false, true⟩,
    .fdiv ⟨0, 0, 0, false, 0, 1, false, true⟩, .fdiv ⟨0, 0, 0, false, 0, 0, true, true⟩, .fsetpEq ⟨8, 0, 0, false, 0, 0, false, false⟩,
      .fsetpEq ⟨0, 0, 0, false, 0, 1, false, true⟩,
    .fsetpEq ⟨0, 0, 0, false, 0, 0, true, true⟩, .fsetpNe ⟨8, 0, 0, false, 0, 0, false, false⟩,
      .fsetpNe ⟨0, 0, 0, false, 0, 1, false, true⟩, .fsetpNe ⟨0, 0, 0, false, 0, 0, true, true⟩] : List Instr).all
        (fun i => !i.wellFormed) = true := by decide

theorem test_illFormed_9 : ([
    .fsetpLt ⟨8, 0, 0, false, 0, 0, false, false⟩, .fsetpLt ⟨0, 0, 0, false, 0, 1, false, true⟩,
      .fsetpLt ⟨0, 0, 0, false, 0, 0, true, true⟩, .fsetpLe ⟨8, 0, 0, false, 0, 0, false, false⟩,
    .fsetpLe ⟨0, 0, 0, false, 0, 1, false, true⟩, .fsetpLe ⟨0, 0, 0, false, 0, 0, true, true⟩,
      .fsetpGt ⟨8, 0, 0, false, 0, 0, false, false⟩, .fsetpGt ⟨0, 0, 0, false, 0, 1, false, true⟩,
    .fsetpGt ⟨0, 0, 0, false, 0, 0, true, true⟩, .fsetpGe ⟨8, 0, 0, false, 0, 0, false, false⟩,
      .fsetpGe ⟨0, 0, 0, false, 0, 1, false, true⟩, .fsetpGe ⟨0, 0, 0, false, 0, 0, true, true⟩,
    .fsetpUn ⟨8, 0, 0, false, 0, 0, false, false⟩, .fsetpUn ⟨0, 0, 0, false, 0, 1, false, true⟩,
      .fsetpUn ⟨0, 0, 0, false, 0, 0, true, true⟩, .fredAdd ⟨0, 0, 0, false, 1, 0, false, false⟩,
    .fredAdd ⟨0, 0, 0, false, 0, 1, false, false⟩, .fredAdd ⟨0, 0, 0, false, 0, 0, true, false⟩,
      .fredAdd ⟨0, 0, 0, false, 0, 0, false, true⟩, .fredMax ⟨0, 0, 0, false, 1, 0, false, false⟩] : List Instr).all
        (fun i => !i.wellFormed) = true := by decide

theorem test_illFormed_10 : ([
    .fredMax ⟨0, 0, 0, false, 0, 1, false, false⟩, .fredMax ⟨0, 0, 0, false, 0, 0, true, false⟩,
      .fredMax ⟨0, 0, 0, false, 0, 0, false, true⟩, .fredMin ⟨0, 0, 0, false, 1, 0, false, false⟩,
    .fredMin ⟨0, 0, 0, false, 0, 1, false, false⟩, .fredMin ⟨0, 0, 0, false, 0, 0, true, false⟩,
      .fredMin ⟨0, 0, 0, false, 0, 0, false, true⟩, .fredAmax ⟨0, 0, 0, false, 1, 0, false, false⟩,
    .fredAmax ⟨0, 0, 0, false, 0, 1, false, false⟩, .fredAmax ⟨0, 0, 0, false, 0, 0, true, false⟩,
      .fredAmax ⟨0, 0, 0, false, 0, 0, false, true⟩, .fscanAdd ⟨0, 0, 0, false, 1, 0, false, false⟩,
    .fscanAdd ⟨0, 0, 0, false, 0, 1, false, false⟩, .fscanAdd ⟨0, 0, 0, false, 0, 0, true, false⟩,
      .fscanAdd ⟨0, 0, 0, false, 0, 0, false, true⟩, .fscanMax ⟨0, 0, 0, false, 1, 0, false, false⟩,
    .fscanMax ⟨0, 0, 0, false, 0, 1, false, false⟩, .fscanMax ⟨0, 0, 0, false, 0, 0, true, false⟩,
      .fscanMax ⟨0, 0, 0, false, 0, 0, false, true⟩, .fxacc ⟨0, 0, 0, false, 0, 1, false, true⟩] : List Instr).all
        (fun i => !i.wellFormed) = true := by decide

theorem test_illFormed_11 : ([
    .fxacc ⟨0, 0, 0, false, 0, 0, true, true⟩, .fxcvt ⟨0, 0, 0, false, 1, 0, false, false⟩, .fxcvt ⟨0, 0, 0, false, 0, 1, false, false⟩,
      .fxcvt ⟨0, 0, 0, false, 0, 0, true, false⟩,
    .fxcvt ⟨0, 0, 0, false, 0, 0, false, true⟩, .fpack ⟨0, 0, 0, false, 0, 1, false, true⟩, .fpack ⟨0, 0, 0, false, 0, 0, true, true⟩,
      .funpk ⟨0, 0, 0, false, 1, 0, false, false⟩,
    .funpk ⟨0, 0, 0, false, 0, 1, false, false⟩, .funpk ⟨0, 0, 0, false, 0, 0, true, false⟩, .funpk ⟨0, 0, 0, false, 0, 0, false, true⟩,
      .cvt ⟨0, 0, 0, false, 256⟩,
    .dsbscal ⟨0, 0, 0, false, 64⟩, .dsbenc ⟨0, 0, 0, false, 64⟩, .dsbdec ⟨0, 0, 0, false, 8⟩, .matchV ⟨0, 0, 0, false, 0, 1, false, true⟩,
    .matchV ⟨0, 0, 0, false, 0, 0, true, true⟩, .vote ⟨0, 0, 0, false, 0, 1, false, true⟩, .vote ⟨0, 0, 0, false, 0, 0, true, true⟩,
      .plop ⟨0, 0, 0, 16⟩] : List Instr).all (fun i => !i.wellFormed) = true := by decide

theorem test_illFormed_12 : ([
    .pmov ⟨0, 0, 1, 0⟩, .pmov ⟨0, 0, 0, 2⟩, .shuf ⟨0, 0, 0, false, 0, 1, false, true⟩, .shuf ⟨0, 0, 0, false, 0, 0, true, true⟩,
    .ired ⟨0, 0, 0, false, 1, 0, false, false⟩, .ired ⟨0, 0, 0, false, 0, 1, false, false⟩, .ired ⟨0, 0, 0, false, 0, 0, true, false⟩,
      .ired ⟨0, 0, 0, false, 0, 0, false, true⟩,
    .iscan ⟨0, 0, 0, false, 1, 0, false, false⟩, .iscan ⟨0, 0, 0, false, 0, 1, false, false⟩, .iscan ⟨0, 0, 0, false, 0, 0, true, false⟩,
      .iscan ⟨0, 0, 0, false, 0, 0, false, true⟩,
    .carry ⟨0, 0, 1, 0⟩, .carry ⟨0, 0, 0, 1⟩, .gather ⟨0, 0, true, 0, false, 0⟩, .gather ⟨0, 0, false, 0, false, 1⟩,
    .scatter ⟨0, 0, true, 0, false, 0⟩, .scatter ⟨0, 0, false, 0, false, 1⟩, .atomAdd ⟨0, 0, false, 0, false, 1⟩,
      .atomMin ⟨0, 0, false, 0, false, 1⟩] : List Instr).all (fun i => !i.wellFormed) = true := by decide

theorem test_illFormed_13 : ([
    .atomMax ⟨0, 0, false, 0, false, 1⟩, .atomAnd ⟨0, 0, false, 0, false, 1⟩, .atomOr ⟨0, 0, false, 0, false, 1⟩, .atomXor ⟨0, 0, false, 0, false, 1⟩,
    .atomExch ⟨0, 0, false, 0, false, 1⟩, .atomFadd ⟨0, 0, false, 0, false, 1⟩, .cas ⟨0, 0, false, 0, false, 1⟩,
      .atomrfAdd ⟨1, 0, false, 0, false, 0⟩,
    .atomrfAdd ⟨0, 0, false, 0, false, 1⟩, .atomrfFadd ⟨1, 0, false, 0, false, 0⟩, .atomrfFadd ⟨0, 0, false, 0, false, 1⟩,
      .atomrfMax ⟨1, 0, false, 0, false, 0⟩,
    .atomrfMax ⟨0, 0, false, 0, false, 1⟩, .atomrfMin ⟨1, 0, false, 0, false, 0⟩, .atomrfMin ⟨0, 0, false, 0, false, 1⟩,
      .atomx ⟨1, 0, false, 0, false, 0⟩,
    .atomx ⟨0, 0, false, 0, false, 1⟩, .atoms ⟨0, 0, false, 0, false, 1⟩, .lr ⟨0, 0, false, 1, false, 0⟩,
      .lr ⟨0, 0, false, 0, true, 0⟩] : List Instr).all (fun i => !i.wellFormed) = true := by decide

theorem test_illFormed_14 : ([
    .lr ⟨0, 0, false, 0, false, 1⟩, .sc ⟨0, 0, false, 0, false, 1⟩, .rdord ⟨0, 0, 0, 1⟩, .pinord ⟨0, 0, 0, 2⟩,
    .advord ⟨0, 0, 0, 32⟩, .probe ⟨0, 0, 1, 0⟩, .probe ⟨0, 0, 0, 1⟩, .fenceAcq ⟨1, 0, 0, 0⟩,
    .fenceAcq ⟨0, 1, 0, 0⟩, .fenceAcq ⟨0, 0, 1, 0⟩, .fenceAcq ⟨0, 0, 0, 8⟩, .fenceRel ⟨1, 0, 0, 0⟩,
    .fenceRel ⟨0, 1, 0, 0⟩, .fenceRel ⟨0, 0, 1, 0⟩, .fenceRel ⟨0, 0, 0, 8⟩, .fenceAr ⟨1, 0, 0, 0⟩,
    .fenceAr ⟨0, 1, 0, 0⟩, .fenceAr ⟨0, 0, 1, 0⟩, .fenceAr ⟨0, 0, 0, 8⟩, .fenceRf ⟨1, 0, 0, 0⟩] : List Instr).all
      (fun i => !i.wellFormed) = true := by decide

theorem test_illFormed_15 : ([
    .fenceRf ⟨0, 1, 0, 0⟩, .fenceRf ⟨0, 0, 1, 0⟩, .fenceRf ⟨0, 0, 0, 8⟩, .bar ⟨1, 0, 0, 0⟩,
    .bar ⟨0, 1, 0, 0⟩, .bar ⟨0, 0, 1, 0⟩, .bar ⟨0, 0, 0, 16⟩, .bara ⟨0, 1, 0, 0⟩,
    .bara ⟨0, 0, 1, 0⟩, .bara ⟨0, 0, 0, 16⟩, .barw ⟨1, 0, 0, 0⟩, .barw ⟨0, 0, 1, 0⟩,
    .barw ⟨0, 0, 0, 16⟩, .clbar ⟨1, 0, 0, 0⟩, .clbar ⟨0, 1, 0, 0⟩, .clbar ⟨0, 0, 1, 0⟩,
    .clbar ⟨0, 0, 0, 4⟩, .waitge ⟨0, 0, 1, 0⟩, .waitge ⟨0, 0, 0, 8⟩, .waitne ⟨0, 0, 1, 0⟩] : List Instr).all
      (fun i => !i.wellFormed) = true := by decide

theorem test_illFormed_16 : ([
    .waitne ⟨0, 0, 0, 8⟩, .tlwait ⟨1, 0, 0, 0⟩, .tlwait ⟨0, 0, 1, 0⟩, .tlwait ⟨0, 0, 0, 4⟩,
    .tlread ⟨0, 1, 0, 0⟩, .tlread ⟨0, 0, 1, 0⟩, .tlread ⟨0, 0, 0, 8⟩, .ctrarm ⟨0, 0, 0, 2⟩,
    .ctrwait ⟨0, 0, 1, 0⟩, .ctrwait ⟨0, 0, 0, 1⟩, .grow ⟨0, 0, 1, 0⟩, .grow ⟨0, 0, 0, 2⟩,
    .shrink ⟨0, 0, 1, 0⟩, .shrink ⟨0, 0, 0, 1⟩, .commit ⟨0, 1, 0, 0⟩, .commit ⟨0, 0, 1, 0⟩,
    .commit ⟨0, 0, 0, 1⟩, .waitb ⟨1, 0, 0, 0⟩, .waitb ⟨0, 0, 1, 0⟩, .waitb ⟨0, 0, 0, 1⟩] : List Instr).all
      (fun i => !i.wellFormed) = true := by decide

theorem test_illFormed_17 : ([
    .accz ⟨1, 0, 0, 0⟩, .accz ⟨0, 1, 0, 0⟩, .accz ⟨0, 0, 1, 0⟩, .accz ⟨0, 0, 0, 256⟩,
    .accrd ⟨0, 1, 0, 0⟩, .accrd ⟨0, 0, 1, 0⟩, .accrd ⟨0, 0, 0, 16⟩, .accwr ⟨0, 1, 0, 0⟩,
    .accwr ⟨0, 0, 1, 0⟩, .accwr ⟨0, 0, 0, 16⟩, .accst ⟨0, 0, 1, 0⟩, .accst ⟨0, 0, 0, 16⟩,
    .accld ⟨0, 0, 1, 0⟩, .accld ⟨0, 0, 0, 16⟩, .mqry ⟨0, 1, 0, 0⟩, .mqry ⟨0, 0, 1, 0⟩,
    .mqry ⟨0, 0, 0, 1⟩, .msave ⟨0, 1, 0, 0⟩, .msave ⟨0, 0, 1, 0⟩, .msave ⟨0, 0, 0, 1⟩] : List Instr).all (fun i => !i.wellFormed) = true := by decide

theorem test_illFormed_18 : ([
    .mrest ⟨0, 1, 0, 0⟩, .mrest ⟨0, 0, 1, 0⟩, .mrest ⟨0, 0, 0, 1⟩, .mcancel ⟨0, 1, 0, 0⟩,
    .mcancel ⟨0, 0, 1, 0⟩, .mcancel ⟨0, 0, 0, 1⟩, .mbudg ⟨0, 1, 0, 0⟩, .mbudg ⟨0, 0, 1, 0⟩,
    .mbudg ⟨0, 0, 0, 1⟩, .cring ⟨0, 0, 0, 1⟩, .send ⟨0, 0, 0, 8⟩, .recv ⟨0, 0, 0, 2⟩,
    .caprd ⟨0, 0, 1, 0⟩, .caprd ⟨0, 0, 0, 1⟩, .launch ⟨0, 0, 0, 1⟩, .launchu ⟨0, 0, 0, 1⟩,
    .cancel ⟨0, 0, 0, 4⟩, .distL2 ⟨0, 0, 0, 16⟩, .distIp ⟨0, 0, 0, 16⟩, .topkMin ⟨0, 0, 0, 32⟩] : List Instr).all
      (fun i => !i.wellFormed) = true := by decide

theorem test_illFormed_19 : ([
    .topkMax ⟨0, 0, 0, 32⟩, .bankop ⟨0, 0, 0, 1⟩, .stkdisp ⟨0, 0, 0, 1⟩, .migqry ⟨0, 0, 1, 0⟩,
    .migqry ⟨0, 0, 0, 1⟩, .migr ⟨1, 0, 0, 0⟩, .migr ⟨0, 0, 1, 0⟩, .migr ⟨0, 0, 0, 1⟩,
    .svc ⟨0, 0, 0, 256⟩, .abmode ⟨0, 0, 1, 0⟩, .abmode ⟨0, 0, 0, 4⟩, .vbcast ⟨0, 0, 1, 0⟩,
    .vbcast ⟨0, 0, 0, 1⟩, .bmac ⟨1, 0, 0, 0⟩, .bmac ⟨0, 0, 0, 8⟩, .bmacx ⟨1, 0, 0, 0⟩,
    .bmacx ⟨0, 0, 0, 8⟩, .bmacrd ⟨0, 1, 0, 0⟩, .bmacrd ⟨0, 0, 1, 0⟩, .bmacrd ⟨0, 0, 0, 8⟩] : List Instr).all
      (fun i => !i.wellFormed) = true := by decide

theorem test_illFormed_20 : ([
    .bmacz ⟨1, 0, 0, 0⟩, .bmacz ⟨0, 1, 0, 0⟩, .bmacz ⟨0, 0, 1, 0⟩, .bmacz ⟨0, 0, 0, 16⟩,
    .rowact ⟨1, 0, 0, 0⟩, .rowact ⟨0, 0, 1, 0⟩, .rowact ⟨0, 0, 0, 1⟩, .colrd ⟨0, 0, 1, 0⟩,
    .colrd ⟨0, 0, 0, 1⟩, .colwr ⟨0, 0, 1, 0⟩, .colwr ⟨0, 0, 0, 1⟩, .ecsrd ⟨0, 0, 1, 0⟩,
    .ecsrd ⟨0, 0, 0, 1⟩, .ecsclr ⟨1, 0, 0, 0⟩, .ecsclr ⟨0, 0, 1, 0⟩, .ecsclr ⟨0, 0, 0, 1⟩,
    .tmove ⟨0, 0, 0, 1⟩, .tswap ⟨0, 0, 1, 0⟩, .tswap ⟨0, 0, 0, 1⟩, .stksave ⟨0, 1, 0, 0⟩] : List Instr).all
      (fun i => !i.wellFormed) = true := by decide

theorem test_illFormed_21 : ([
    .stksave ⟨0, 0, 1, 0⟩, .stksave ⟨0, 0, 0, 1⟩, .pchown ⟨0, 0, 1, 0⟩, .pchown ⟨0, 0, 0, 1⟩] : List Instr).all
      (fun i => !i.wellFormed) = true := by decide

/-! ### Words of every format, their fields placed as R49 to R56 place them -/

theorem test_decode_imm24_1 :
    decode 0x00000000#32 = .ok (.nop) ∧
    decode 0x06000000#32 = .ok (.join) ∧
    decode 0x08000000#32 = .ok (.bjoin) ∧
    decode 0x09000000#32 = .ok (.exit) ∧
    decode 0x0B000000#32 = .ok (.tret) ∧
    decode 0xB0000000#32 = .ok (.gbar) ∧
    decode 0xB7000000#32 = .ok (.region) ∧
    decode 0xBA000000#32 = .ok (.yield) ∧
    decode 0xBD000000#32 = .ok (.home) ∧
    decode 0xEE000000#32 = .ok (.skyield) :=
  ⟨rfl, rfl, rfl, rfl, rfl, rfl, rfl, rfl, rfl, rfl⟩

theorem test_decode_b_1 :
    decode 0x01A5CD68#32 = .ok (.bra ⟨10866024⟩) ∧
    decode 0x024D3C1A#32 = .ok (.brau ⟨5061658⟩) ∧
    decode 0x0418B8FF#32 = .ok (.call ⟨1620223⟩) ∧
    decode 0x073031D0#32 = .ok (.bblk ⟨3158480⟩) :=
  ⟨rfl, rfl, rfl, rfl⟩

theorem test_decode_bx_1 :
    decode 0x03C80000#32 = .ok (.brx ⟨25⟩) ∧
    decode 0x05200000#32 = .ok (.ret ⟨4⟩) :=
  ⟨rfl, rfl⟩

theorem test_decode_imm_1 :
    decode 0x0ABB3B93#32 = .ok (.trap 12270483) ∧
    decode 0x7B6FC9E8#32 = .ok (.mode 7326184) ∧
    decode 0x7CDB01BC#32 = .ok (.mshape 14352828) :=
  ⟨rfl, rfl, rfl⟩

theorem test_decode_x_1 :
    decode 0x0C1800DB#32 = .ok (.sysrd ⟨3, 0, 0, 219⟩) ∧
    decode 0x0D008058#32 = .ok (.syswr ⟨0, 2, 0, 88⟩) ∧
    decode 0x763B0209#32 = .ok (.plop ⟨7, 12, 1, 9⟩) ∧
    decode 0x7785C001#32 = .ok (.pmov ⟨16, 23, 0, 1⟩) ∧
    decode 0x7D0E4000#32 = .ok (.carry ⟨1, 25, 0, 0⟩) ∧
    decode 0xA177F400#32 = .ok (.rdord ⟨14, 31, 26, 0⟩) ∧
    decode 0xA21A7201#32 = .ok (.pinord ⟨3, 9, 25, 1⟩) ∧
    decode 0xA368521B#32 = .ok (.advord ⟨13, 1, 9, 27⟩) ∧
    decode 0xA5A1C000#32 = .ok (.probe ⟨20, 7, 0, 0⟩) ∧
    decode 0xA8000001#32 = .ok (.fenceAcq ⟨0, 0, 0, 1⟩) ∧
    decode 0xA9000002#32 = .ok (.fenceRel ⟨0, 0, 0, 2⟩) ∧
    decode 0xAA000005#32 = .ok (.fenceAr ⟨0, 0, 0, 5⟩) :=
  ⟨rfl, rfl, rfl, rfl, rfl, rfl, rfl, rfl, rfl, rfl, rfl, rfl⟩

theorem test_decode_x_2 :
    decode 0xAB000003#32 = .ok (.fenceRf ⟨0, 0, 0, 3⟩) ∧
    decode 0xAC000005#32 = .ok (.bar ⟨0, 0, 0, 5⟩) ∧
    decode 0xADE80001#32 = .ok (.bara ⟨29, 0, 0, 1⟩) ∧
    decode 0xAE04C00C#32 = .ok (.barw ⟨0, 19, 0, 12⟩) ∧
    decode 0xAF000002#32 = .ok (.clbar ⟨0, 0, 0, 2⟩) ∧
    decode 0xB1AF0002#32 = .ok (.waitge ⟨21, 28, 0, 2⟩) ∧
    decode 0xB2304001#32 = .ok (.waitne ⟨6, 1, 0, 1⟩) ∧
    decode 0xB3044001#32 = .ok (.tlwait ⟨0, 17, 0, 1⟩) ∧
    decode 0xB4B00005#32 = .ok (.tlread ⟨22, 0, 0, 5⟩) ∧
    decode 0xB56E2C01#32 = .ok (.ctrarm ⟨13, 24, 22, 1⟩) ∧
    decode 0xB6D94000#32 = .ok (.ctrwait ⟨27, 5, 0, 0⟩) ∧
    decode 0xB81F8001#32 = .ok (.grow ⟨3, 30, 0, 1⟩) :=
  ⟨rfl, rfl, rfl, rfl, rfl, rfl, rfl, rfl, rfl, rfl, rfl, rfl⟩

theorem test_decode_x_3 :
    decode 0xB9BF0000#32 = .ok (.shrink ⟨23, 28, 0, 0⟩) ∧
    decode 0xC4800000#32 = .ok (.commit ⟨16, 0, 0, 0⟩) ∧
    decode 0xC5050000#32 = .ok (.waitb ⟨0, 20, 0, 0⟩) ∧
    decode 0xC6000089#32 = .ok (.accz ⟨0, 0, 0, 137⟩) ∧
    decode 0xC7080002#32 = .ok (.accrd ⟨1, 0, 0, 2⟩) ∧
    decode 0xC8080007#32 = .ok (.accwr ⟨1, 0, 0, 7⟩) ∧
    decode 0xC937800E#32 = .ok (.accst ⟨6, 30, 0, 14⟩) ∧
    decode 0xCAC4000D#32 = .ok (.accld ⟨24, 16, 0, 13⟩) ∧
    decode 0xCBF80000#32 = .ok (.mqry ⟨31, 0, 0, 0⟩) ∧
    decode 0xCC400000#32 = .ok (.msave ⟨8, 0, 0, 0⟩) ∧
    decode 0xCDF80000#32 = .ok (.mrest ⟨31, 0, 0, 0⟩) ∧
    decode 0xCE580000#32 = .ok (.mcancel ⟨11, 0, 0, 0⟩) :=
  ⟨rfl, rfl, rfl, rfl, rfl, rfl, rfl, rfl, rfl, rfl, rfl, rfl⟩

theorem test_decode_x_4 :
    decode 0xCF080000#32 = .ok (.mbudg ⟨1, 0, 0, 0⟩) ∧
    decode 0xD09A5E00#32 = .ok (.cring ⟨19, 9, 15, 0⟩) ∧
    decode 0xD1A53A05#32 = .ok (.send ⟨20, 20, 29, 5⟩) ∧
    decode 0xD22B3201#32 = .ok (.recv ⟨5, 12, 25, 1⟩) ∧
    decode 0xD37E8000#32 = .ok (.caprd ⟨15, 26, 0, 0⟩) ∧
    decode 0xD420BC00#32 = .ok (.launch ⟨4, 2, 30, 0⟩) ∧
    decode 0xD5A2B600#32 = .ok (.launchu ⟨20, 10, 27, 0⟩) ∧
    decode 0xD6312001#32 = .ok (.cancel ⟨6, 4, 16, 1⟩) ∧
    decode 0xD769B40F#32 = .ok (.distL2 ⟨13, 6, 26, 15⟩) ∧
    decode 0xD85B900F#32 = .ok (.distIp ⟨11, 14, 8, 15⟩) ∧
    decode 0xD979E412#32 = .ok (.topkMin ⟨15, 7, 18, 18⟩) ∧
    decode 0xDA8C6E10#32 = .ok (.topkMax ⟨17, 17, 23, 16⟩) :=
  ⟨rfl, rfl, rfl, rfl, rfl, rfl, rfl, rfl, rfl, rfl, rfl, rfl⟩

theorem test_decode_x_5 :
    decode 0xDB833800#32 = .ok (.bankop ⟨16, 12, 28, 0⟩) ∧
    decode 0xDC7ADE00#32 = .ok (.stkdisp ⟨15, 11, 15, 0⟩) ∧
    decode 0xDD7A4000#32 = .ok (.migqry ⟨15, 9, 0, 0⟩) ∧
    decode 0xDE048000#32 = .ok (.migr ⟨0, 18, 0, 0⟩) ∧
    decode 0xDF6508CA#32 = .ok (.svc ⟨12, 20, 4, 202⟩) ∧
    decode 0xE083C003#32 = .ok (.abmode ⟨16, 15, 0, 3⟩) ∧
    decode 0xE1E88000#32 = .ok (.vbcast ⟨29, 2, 0, 0⟩) ∧
    decode 0xE2018207#32 = .ok (.bmac ⟨0, 6, 1, 7⟩) ∧
    decode 0xE303B805#32 = .ok (.bmacx ⟨0, 14, 28, 5⟩) ∧
    decode 0xE4100004#32 = .ok (.bmacrd ⟨2, 0, 0, 4⟩) ∧
    decode 0xE5000009#32 = .ok (.bmacz ⟨0, 0, 0, 9⟩) ∧
    decode 0xE600C000#32 = .ok (.rowact ⟨0, 3, 0, 0⟩) :=
  ⟨rfl, rfl, rfl, rfl, rfl, rfl, rfl, rfl, rfl, rfl, rfl, rfl⟩

theorem test_decode_x_6 :
    decode 0xE7630000#32 = .ok (.colrd ⟨12, 12, 0, 0⟩) ∧
    decode 0xE825C000#32 = .ok (.colwr ⟨4, 23, 0, 0⟩) ∧
    decode 0xE95F0000#32 = .ok (.ecsrd ⟨11, 28, 0, 0⟩) ∧
    decode 0xEA040000#32 = .ok (.ecsclr ⟨0, 16, 0, 0⟩) ∧
    decode 0xEB09AC00#32 = .ok (.tmove ⟨1, 6, 22, 0⟩) ∧
    decode 0xEC688000#32 = .ok (.tswap ⟨13, 2, 0, 0⟩) ∧
    decode 0xEDB80000#32 = .ok (.stksave ⟨23, 0, 0, 0⟩) ∧
    decode 0xEFAA4000#32 = .ok (.pchown ⟨21, 9, 0, 0⟩) :=
  ⟨rfl, rfl, rfl, rfl, rfl, rfl, rfl, rfl⟩

theorem test_decode_v3_1 :
    decode 0x10DE8CBA#32 = .ok (.iadd ⟨27, 26, 1, true, 5, 6, true, false⟩) ∧
    decode 0x1170F5C6#32 = .ok (.isub ⟨14, 3, 6, true, 14, 1, true, false⟩) ∧
    decode 0x12D24D66#32 = .ok (.imul ⟨26, 9, 1, true, 11, 1, true, false⟩) ∧
    decode 0x13310FFA#32 = .ok (.imulh ⟨6, 4, 1, true, 31, 6, true, false⟩) ∧
    decode 0x14EDE56E#32 = .ok (.imad ⟨29, 23, 4, true, 11, 3, true, false⟩) ∧
    decode 0x15FD7C86#32 = .ok (.imin ⟨31, 21, 7, true, 4, 1, true, false⟩) ∧
    decode 0x16AA7C46#32 = .ok (.imax ⟨21, 9, 7, true, 2, 1, true, false⟩) ∧
    decode 0x17B7FCB2#32 = .ok (.and ⟨22, 31, 7, true, 5, 4, true, false⟩) ∧
    decode 0x181CFF16#32 = .ok (.or ⟨3, 19, 7, true, 24, 5, true, false⟩) ∧
    decode 0x19B28C6E#32 = .ok (.xor ⟨22, 10, 1, true, 3, 3, true, false⟩) ∧
    decode 0x1A7E74AA#32 = .ok (.andn ⟨15, 25, 6, true, 5, 2, true, false⟩) ∧
    decode 0x1B8A3756#32 = .ok (.shl ⟨17, 8, 6, true, 26, 5, true, false⟩) :=
  ⟨rfl, rfl, rfl, rfl, rfl, rfl, rfl, rfl, rfl, rfl, rfl, rfl⟩

theorem test_decode_v3_2 :
    decode 0x1C4955CE#32 = .ok (.shr ⟨9, 5, 2, true, 14, 3, true, false⟩) ∧
    decode 0x1D5C253A#32 = .ok (.sar ⟨11, 16, 4, true, 9, 6, true, false⟩) ∧
    decode 0x1E40FF3A#32 = .ok (.sel ⟨8, 3, 7, true, 25, 6, true, false⟩) ∧
    decode 0x1FF64C00#32 = .ok (.iabs ⟨30, 25, 1, true, 0, 0, false, false⟩) ∧
    decode 0x20237C00#32 = .ok (.popc ⟨4, 13, 7, true, 0, 0, false, false⟩) ∧
    decode 0x213D4C00#32 = .ok (.clz ⟨7, 21, 1, true, 0, 0, false, false⟩) ∧
    decode 0x220A4C00#32 = .ok (.brev ⟨1, 9, 1, true, 0, 0, false, false⟩) ∧
    decode 0x23091D32#32 = .ok (.isetpEq ⟨1, 4, 3, true, 9, 4, true, false⟩) ∧
    decode 0x2439CFBE#32 = .ok (.isetpNe ⟨7, 7, 1, true, 29, 7, true, false⟩) ∧
    decode 0x250A4E1E#32 = .ok (.isetpLt ⟨1, 9, 1, true, 16, 7, true, false⟩) ∧
    decode 0x261DD666#32 = .ok (.isetpLe ⟨3, 23, 2, true, 19, 1, true, false⟩) ∧
    decode 0x27159DCE#32 = .ok (.isetpGt ⟨2, 22, 3, true, 14, 3, true, false⟩) :=
  ⟨rfl, rfl, rfl, rfl, rfl, rfl, rfl, rfl, rfl, rfl, rfl, rfl⟩

theorem test_decode_v3_3 :
    decode 0x281B3C26#32 = .ok (.isetpGe ⟨3, 12, 7, true, 1, 1, true, false⟩) ∧
    decode 0x404AD4E6#32 = .ok (.fadd ⟨9, 11, 2, true, 7, 1, true, false⟩) ∧
    decode 0x4130DE26#32 = .ok (.fsub ⟨6, 3, 3, true, 17, 1, true, false⟩) ∧
    decode 0x42093D92#32 = .ok (.fmul ⟨1, 4, 7, true, 12, 4, true, false⟩) ∧
    decode 0x437C1D1A#32 = .ok (.ffma ⟨15, 16, 3, true, 8, 6, true, false⟩) ∧
    decode 0x44E50F66#32 = .ok (.ffms ⟨28, 20, 1, true, 27, 1, true, false⟩) ∧
    decode 0x453A6E0A#32 = .ok (.fnma ⟨7, 9, 5, true, 16, 2, true, false⟩) ∧
    decode 0x46367DCA#32 = .ok (.fmin ⟨6, 25, 7, true, 14, 2, true, false⟩) ∧
    decode 0x47AE9E86#32 = .ok (.fmax ⟨21, 26, 3, true, 20, 1, true, false⟩) ∧
    decode 0x48AF7F16#32 = .ok (.fabsd ⟨21, 29, 7, true, 24, 5, true, false⟩) ∧
    decode 0x493B8E12#32 = .ok (.fdot2 ⟨7, 14, 1, true, 16, 4, true, false⟩) ∧
    decode 0x4A8A3400#32 = .ok (.fabs ⟨17, 8, 6, true, 0, 0, false, false⟩) :=
  ⟨rfl, rfl, rfl, rfl, rfl, rfl, rfl, rfl, rfl, rfl, rfl, rfl⟩

theorem test_decode_v3_4 :
    decode 0x4BCA7C00#32 = .ok (.fneg ⟨25, 9, 7, true, 0, 0, false, false⟩) ∧
    decode 0x4C2C4C00#32 = .ok (.frnd ⟨5, 17, 1, true, 0, 0, false, false⟩) ∧
    decode 0x4DD92400#32 = .ok (.fclass ⟨27, 4, 4, true, 0, 0, false, false⟩) ∧
    decode 0x4E2C0C92#32 = .ok (.fldexp ⟨5, 16, 1, true, 4, 4, true, false⟩) ∧
    decode 0x4F0D7400#32 = .ok (.fexpt ⟨1, 21, 6, true, 0, 0, false, false⟩) ∧
    decode 0x50409D52#32 = .ok (.fcpys ⟨8, 2, 3, true, 10, 4, true, false⟩) ∧
    decode 0x5164E400#32 = .ok (.fsat ⟨12, 19, 4, true, 0, 0, false, false⟩) ∧
    decode 0x52971400#32 = .ok (.frcp ⟨18, 28, 2, true, 0, 0, false, false⟩) ∧
    decode 0x53B06400#32 = .ok (.frsq ⟨22, 1, 4, true, 0, 0, false, false⟩) ∧
    decode 0x54085C00#32 = .ok (.fsqrt ⟨1, 1, 3, true, 0, 0, false, false⟩) ∧
    decode 0x557F0C00#32 = .ok (.fexp2 ⟨15, 28, 1, true, 0, 0, false, false⟩) ∧
    decode 0x56FE6400#32 = .ok (.flog2 ⟨31, 25, 4, true, 0, 0, false, false⟩) :=
  ⟨rfl, rfl, rfl, rfl, rfl, rfl, rfl, rfl, rfl, rfl, rfl, rfl⟩

theorem test_decode_v3_5 :
    decode 0x57755C00#32 = .ok (.fsin ⟨14, 21, 3, true, 0, 0, false, false⟩) ∧
    decode 0x58CD8C00#32 = .ok (.fcos ⟨25, 22, 1, true, 0, 0, false, false⟩) ∧
    decode 0x59092400#32 = .ok (.ftanh ⟨1, 4, 4, true, 0, 0, false, false⟩) ∧
    decode 0x5A50CE4E#32 = .ok (.fdiv ⟨10, 3, 1, true, 18, 3, true, false⟩) ∧
    decode 0x5B3AD786#32 = .ok (.fsetpEq ⟨7, 11, 2, true, 28, 1, true, false⟩) ∧
    decode 0x5C2D1E6E#32 = .ok (.fsetpNe ⟨5, 20, 3, true, 19, 3, true, false⟩) ∧
    decode 0x5D0D77D2#32 = .ok (.fsetpLt ⟨1, 21, 6, true, 30, 4, true, false⟩) ∧
    decode 0x5E09653A#32 = .ok (.fsetpLe ⟨1, 5, 4, true, 9, 6, true, false⟩) ∧
    decode 0x5F0CE4AA#32 = .ok (.fsetpGt ⟨1, 19, 4, true, 5, 2, true, false⟩) ∧
    decode 0x603A645A#32 = .ok (.fsetpGe ⟨7, 9, 4, true, 2, 6, true, false⟩) ∧
    decode 0x61194D16#32 = .ok (.fsetpUn ⟨3, 5, 1, true, 8, 5, true, false⟩) ∧
    decode 0x62E0CC00#32 = .ok (.fredAdd ⟨28, 3, 1, true, 0, 0, false, false⟩) :=
  ⟨rfl, rfl, rfl, rfl, rfl, rfl, rfl, rfl, rfl, rfl, rfl, rfl⟩

theorem test_decode_v3_6 :
    decode 0x63FC0C00#32 = .ok (.fredMax ⟨31, 16, 1, true, 0, 0, false, false⟩) ∧
    decode 0x64214C00#32 = .ok (.fredMin ⟨4, 5, 1, true, 0, 0, false, false⟩) ∧
    decode 0x65812400#32 = .ok (.fredAmax ⟨16, 4, 4, true, 0, 0, false, false⟩) ∧
    decode 0x666BBC00#32 = .ok (.fscanAdd ⟨13, 14, 7, true, 0, 0, false, false⟩) ∧
    decode 0x67C13C00#32 = .ok (.fscanMax ⟨24, 4, 7, true, 0, 0, false, false⟩) ∧
    decode 0x68130EB2#32 = .ok (.fxacc ⟨2, 12, 1, true, 21, 4, true, false⟩) ∧
    decode 0x690F8C00#32 = .ok (.fxcvt ⟨1, 30, 1, true, 0, 0, false, false⟩) ∧
    decode 0x6A899E52#32 = .ok (.fpack ⟨17, 6, 3, true, 18, 4, true, false⟩) ∧
    decode 0x6BE9DC00#32 = .ok (.funpk ⟨29, 7, 3, true, 0, 0, false, false⟩) ∧
    decode 0x740FFE6A#32 = .ok (.matchV ⟨1, 31, 7, true, 19, 2, true, false⟩) ∧
    decode 0x75C50C36#32 = .ok (.vote ⟨24, 20, 1, true, 1, 5, true, false⟩) ∧
    decode 0x78CE0F72#32 = .ok (.shuf ⟨25, 24, 1, true, 27, 4, true, false⟩) :=
  ⟨rfl, rfl, rfl, rfl, rfl, rfl, rfl, rfl, rfl, rfl, rfl, rfl⟩

theorem test_decode_v3_7 :
    decode 0x7930E400#32 = .ok (.ired ⟨6, 3, 4, true, 0, 0, false, false⟩) ∧
    decode 0x7A7C7400#32 = .ok (.iscan ⟨15, 17, 6, true, 0, 0, false, false⟩) :=
  ⟨rfl, rfl⟩

theorem test_decode_vi_1 :
    decode 0x29832ECB#32 = .ok (.iaddi ⟨16, 12, 5, true, 715⟩) ∧
    decode 0x2AB95DD0#32 = .ok (.andi ⟨23, 5, 3, true, 464⟩) ∧
    decode 0x2BF32FDC#32 = .ok (.ori ⟨30, 12, 5, true, 988⟩) ∧
    decode 0x2C0FACF5#32 = .ok (.xori ⟨1, 30, 5, true, 245⟩) ∧
    decode 0x2DC33C37#32 = .ok (.shli ⟨24, 12, 7, true, 55⟩) ∧
    decode 0x2EA97433#32 = .ok (.shri ⟨21, 5, 6, true, 51⟩) ∧
    decode 0x2F2A9403#32 = .ok (.sari ⟨5, 10, 2, true, 3⟩) ∧
    decode 0x702F8CDE#32 = .ok (.cvt ⟨5, 30, 1, true, 222⟩) ∧
    decode 0x718E1C0D#32 = .ok (.dsbscal ⟨17, 24, 3, true, 13⟩) ∧
    decode 0x7285D40D#32 = .ok (.dsbenc ⟨16, 23, 2, true, 13⟩) ∧
    decode 0x73FFF402#32 = .ok (.dsbdec ⟨31, 31, 6, true, 2⟩) :=
  ⟨rfl, rfl, rfl, rfl, rfl, rfl, rfl, rfl, rfl, rfl, rfl⟩

theorem test_decode_sl_1 :
    decode 0x304F7216#32 = .ok (.movi ⟨9, 487958⟩) ∧
    decode 0x31481E5B#32 = .ok (.movhi ⟨9, 7771⟩) ∧
    decode 0x3B58101B#32 = .ok (.smovi ⟨11, 4123⟩) :=
  ⟨rfl, rfl, rfl⟩

theorem test_decode_s3_1 :
    decode 0x32B25000#32 = .ok (.sadd ⟨22, 9, 8⟩) ∧
    decode 0x33084C00#32 = .ok (.ssub ⟨1, 1, 6⟩) ∧
    decode 0x3446D800#32 = .ok (.smul ⟨8, 27, 12⟩) ∧
    decode 0x35686000#32 = .ok (.sand ⟨13, 1, 16⟩) ∧
    decode 0x366C9E00#32 = .ok (.sor ⟨13, 18, 15⟩) ∧
    decode 0x37A43400#32 = .ok (.sxor ⟨20, 16, 26⟩) ∧
    decode 0x3840EC00#32 = .ok (.sshl ⟨8, 3, 22⟩) ∧
    decode 0x39EE9000#32 = .ok (.sshr ⟨29, 26, 8⟩) :=
  ⟨rfl, rfl, rfl, rfl, rfl, rfl, rfl, rfl⟩

theorem test_decode_si_1 :
    decode 0x3A487856#32 = .ok (.saddi ⟨9, 1, 14422⟩) :=
  rfl

theorem test_decode_m_1 :
    decode 0x80697A4B#32 = .ok (.ld ⟨13, 5, true, 6731⟩) ∧
    decode 0x81E23F13#32 = .ok (.ld4 ⟨28, 8, true, 7955⟩) ∧
    decode 0x821A3E38#32 = .ok (.st ⟨3, 8, true, 7736⟩) ∧
    decode 0x83D5730E#32 = .ok (.st4 ⟨26, 21, true, 4878⟩) ∧
    decode 0x84840F46#32 = .ok (.sld ⟨16, 16, false, 3910⟩) ∧
    decode 0x859F87A9#32 = .ok (.sst ⟨19, 30, false, 1961⟩) ∧
    decode 0x8652AD4D#32 = .ok (.lds ⟨10, 10, true, 3405⟩) ∧
    decode 0x87FBB54D#32 = .ok (.sts ⟨31, 14, true, 5453⟩) ∧
    decode 0x8A2D3611#32 = .ok (.spill ⟨5, 20, true, 5649⟩) ∧
    decode 0x8B607B4F#32 = .ok (.fill ⟨12, 1, true, 6991⟩) ∧
    decode 0xA41AFCC6#32 = .ok (.pref ⟨3, 11, true, 7366⟩) ∧
    decode 0xBB6530F8#32 = .ok (.strel ⟨12, 20, true, 4344⟩) :=
  ⟨rfl, rfl, rfl, rfl, rfl, rfl, rfl, rfl, rfl, rfl, rfl, rfl⟩

theorem test_decode_m_2 :
    decode 0xBCD3FC04#32 = .ok (.ldacq ⟨26, 15, true, 7172⟩) :=
  rfl

theorem test_decode_ma_1 :
    decode 0x88E6C880#32 = .ok (.gather ⟨28, 27, false, 8, true, 0⟩) ∧
    decode 0x89794B80#32 = .ok (.scatter ⟨15, 5, false, 11, true, 0⟩) ∧
    decode 0x8E2C7880#32 = .ok (.atomAdd ⟨5, 17, true, 24, true, 0⟩) ∧
    decode 0x8FE6E180#32 = .ok (.atomMin ⟨28, 27, true, 1, true, 0⟩) ∧
    decode 0x9016FF80#32 = .ok (.atomMax ⟨2, 27, true, 31, true, 0⟩) ∧
    decode 0x91267C80#32 = .ok (.atomAnd ⟨4, 25, true, 28, true, 0⟩) ∧
    decode 0x9233A980#32 = .ok (.atomOr ⟨6, 14, true, 9, true, 0⟩) ∧
    decode 0x93E96180#32 = .ok (.atomXor ⟨29, 5, true, 1, true, 0⟩) ∧
    decode 0x9470A880#32 = .ok (.atomExch ⟨14, 2, true, 8, true, 0⟩) ∧
    decode 0x95D9E480#32 = .ok (.atomFadd ⟨27, 7, true, 4, true, 0⟩) ∧
    decode 0x96662E80#32 = .ok (.cas ⟨12, 24, true, 14, true, 0⟩) ∧
    decode 0x97007D80#32 = .ok (.atomrfAdd ⟨0, 1, true, 29, true, 0⟩) :=
  ⟨rfl, rfl, rfl, rfl, rfl, rfl, rfl, rfl, rfl, rfl, rfl, rfl⟩

theorem test_decode_ma_2 :
    decode 0x98053E80#32 = .ok (.atomrfFadd ⟨0, 20, true, 30, true, 0⟩) ∧
    decode 0x9903FA80#32 = .ok (.atomrfMax ⟨0, 15, true, 26, true, 0⟩) ∧
    decode 0x9A00EC80#32 = .ok (.atomrfMin ⟨0, 3, true, 12, true, 0⟩) ∧
    decode 0x9B06B080#32 = .ok (.atomx ⟨0, 26, true, 16, true, 0⟩) ∧
    decode 0x9E236CB0#32 = .ok (.atoms ⟨4, 13, true, 12, true, 48⟩) ∧
    decode 0x9F776000#32 = .ok (.lr ⟨14, 29, true, 0, false, 0⟩) ∧
    decode 0xA084BF80#32 = .ok (.sc ⟨16, 18, true, 31, true, 0⟩) :=
  ⟨rfl, rfl, rfl, rfl, rfl, rfl, rfl⟩

theorem test_decode_mc_1 :
    decode 0x8C6E231F#32 = .ok (.ldc ⟨13, 24, 17, true, 31⟩) ∧
    decode 0x8DFC6F6E#32 = .ok (.stc ⟨31, 17, 23, true, 110⟩) ∧
    decode 0x9CDDDD35#32 = .ok (.atomc ⟨27, 23, 14, true, 53⟩) ∧
    decode 0x9DD5F332#32 = .ok (.atomcrf ⟨26, 23, 25, true, 50⟩) :=
  ⟨rfl, rfl, rfl, rfl⟩

theorem test_decode_mm_1 :
    decode 0xC01E9000#32 = .ok (.mmat ⟨1, 29, 4⟩) ∧
    decode 0xC1183000#32 = .ok (.mmatz ⟨1, 16, 12⟩) ∧
    decode 0xC22ADC00#32 = .ok (.mmatar ⟨2, 21, 23⟩) ∧
    decode 0xC38A8800#32 = .ok (.mmatbr ⟨8, 21, 2⟩) :=
  ⟨rfl, rfl, rfl, rfl⟩

/-! ### The worked examples of the spec: words with their fields as the spec reads them -/

theorem test_decode_examples :
    decode 0x80220010#32 = .ok (.ld ⟨4, 8, false, 16⟩) ∧
    decode 0x40308466#32 = .ok (.fadd ⟨6, 2, 0, true, 3, 1, true, false⟩) ∧
    decode 0x292907FF#32 = .ok (.iaddi ⟨5, 4, 0, true, 0x3FF⟩) ∧
    decode 0x2A080003#32 = .ok (.andi ⟨1, 0, 0, false, 3⟩) ∧
    decode 0x74104401#32 = .ok (.matchV ⟨2, 1, 0, true, 0, 0, false, true⟩) ∧
    decode 0x30180001#32 = .ok (.movi ⟨3, 1⟩) ∧
    decode 0x1B20C402#32 = .ok (.shl ⟨4, 3, 0, true, 0, 0, true, false⟩) ∧
    decode 0x17314440#32 = .ok (.and ⟨6, 5, 0, true, 2, 0, false, false⟩) ∧
    decode 0x20398400#32 = .ok (.popc ⟨7, 6, 0, true, 0, 0, false, false⟩) ∧
    decode 0x9E102180#32 = .ok (.atoms ⟨2, 0, true, 1, true, 0⟩) ∧
    decode 0x87112100#32 = .ok (.sts ⟨2, 4, true, 0x100⟩) ∧
    decode 0x2D20C402#32 = .ok (.shli ⟨4, 3, 0, true, 2⟩) ∧
    decode 0x0C180000#32 = .ok (.sysrd ⟨3, 0, 0, 0⟩) ∧
    decode 0x31100780#32 = .ok (.movhi ⟨2, 0x780⟩) ∧
    decode 0x2B290000#32 = .ok (.ori ⟨5, 4, 0, false, 0⟩) ∧
    decode 0x3B100100#32 = .ok (.smovi ⟨2, 0x100⟩) ∧
    decode 0x7C000000#32 = .ok (.mshape 0) ∧
    decode 0xC2020800#32 = .ok (.mmatar ⟨0, 4, 2⟩) ∧
    decode 0xC4400000#32 = .ok (.commit ⟨8, 0, 0, 0⟩) ∧
    decode 0xC5020000#32 = .ok (.waitb ⟨0, 8, 0, 0⟩) ∧
    decode 0xC7400000#32 = .ok (.accrd ⟨8, 0, 0, 0⟩) ∧
    decode 0x7B800002#32 = .ok (.mode 0x800002) ∧
    decode 0x02FFFFFD#32 = .ok (.brau ⟨-3⟩) ∧
    decode 0xD052D800#32 = .ok (.cring ⟨10, 11, 12, 0⟩) ∧
    decode 0xBB5A9080#32 = .ok (.strel ⟨11, 10, false, 0x1080⟩) ∧
    decode 0xB3058000#32 = .ok (.tlwait ⟨0, 22, 0, 0⟩) ∧
    decode 0xC1021800#32 = .ok (.mmatz ⟨0, 4, 6⟩) ∧
    decode 0xC9E00000#32 = .ok (.accst ⟨28, 0, 0, 0⟩) :=
  ⟨rfl, rfl, rfl, rfl, rfl, rfl, rfl, rfl, rfl, rfl, rfl, rfl, rfl, rfl, rfl, rfl, rfl, rfl, rfl, rfl, rfl, rfl, rfl, rfl, rfl, rfl, rfl, rfl⟩

/-- Words that the decoder refuses: an opcode that R54 reserves is no instruction but a reserved one, and a field that has to
be zero is not. -/
theorem test_decode_refuses :
    decode 0xFF000000#32 = .ok (.reservedOpcode 0xFF000000) ∧ (match decode 0x09000001#32 with | .ok _ => false | .error _ => true) = true ∧
    (match decode 0x101840C1#32 with | .ok _ => false | .error _ => true) = false ∧
      (match decode 0x10184045#32 with | .ok _ => false | .error _ => true) = true :=
  ⟨rfl, rfl, rfl, rfl⟩

/-! ### Small states, and what it is that a state meets a statement's hypotheses -/

/-- A main-core warp of two lanes with every register allocated, under a mode, changed by f. -/
def core (mode : BitVec 22) (f : Warp → Warp) : State :=
  (State.reset.placeWord 0).modWarp 3 fun w => f { w with
    v := List.replicate 32 { VReg.empty with live := true }, exited := 0xFFFFFFFC,
    splits := [{ demoSplit 3 with mode := mode }, Split.free, Split.free, Split.free] }

/-- A native wavefront of two lanes on stack 0, of a function, changed by f. -/
def sill (mode : BitVec 22) (f : Warp → Warp) : State :=
  (State.reset.placeWord 0xE0000000).modWarp 3 fun w => f { w with
    splits := [{ demoSplit 3 with mode := mode }, Split.free, Split.free, Split.free] }

/-- One away lane in a guest slot of stack 0. -/
def away (mode : BitVec 22) (f : Warp → Warp) : State :=
  core mode fun w => f { w with
    kind := .guest, splits := [{ demoSplit 2 with mode := mode }, Split.free, Split.free, Split.free],
    guest := some { home := 9, lane := 1, hops := 1, epoch := 0, modew := false, onStack := true, site := 0, sillCore := 0, slot := some 0, group := 1,
                    age := 1 } }

/-- One scalar of a warp set. -/
def withS (r : Nat) (x : Word) (w : Warp) : Warp := { w with s := w.s.set r x }

/-- Its running split changed. -/
def withSplit (f : Split → Split) (w : Warp) : Warp := w.setSplit 0 (f (w.splits.headD Split.free))

/-- TYPE i32, i64, f32, f16, f64 and dsb8i with guard always; and i32 under guard p0, which is false everywhere. -/
def i32 : BitVec 22 := 0x8
def i64 : BitVec 22 := 0xC8
def f32 : BitVec 22 := 0x108
def f16 : BitVec 22 := 0x128
def f64 : BitVec 22 := 0x168
def dsb8i : BitVec 22 := 0x188
def never : BitVec 22 := 0x0

/-- An instruction is admitted in a state and its own conditions hold. -/
def Meets (s : State) (opc : Nat) (uses : Ctx → List Use) (ok : Ctx → Prop) : Prop :=
  ∃ c, s.ctx? = some c ∧ Admitted c opc (uses c) ∧ ok c

/-- Meets, checked. -/
def admits (s : State) (opc : Nat) (uses : Ctx → List Use) (ok : Ctx → Bool) : Bool :=
  match s.ctx? with
  | none => false
  | some c => decide (Admitted c opc (uses c)) && ok c

theorem meets {s : State} {opc : Nat} {uses : Ctx → List Use} {ok : Ctx → Prop} [DecidablePred ok]
    (h : admits s opc uses (fun c => decide (ok c)) = true) : Meets s opc uses ok := by
  unfold admits at h
  split at h
  · cases h
  · rename_i c hc
    simp only [Bool.and_eq_true, decide_eq_true_eq] at h
    exact ⟨c, hc, h.1, h.2⟩

/-- Several instructions of one shape. -/
theorem meets_all {ops : List Nat} {s : State} {uses : Ctx → List Use} {ok : Ctx → Prop} [DecidablePred ok]
    (h : (ops.all fun opc => admits s opc uses fun c => decide (ok c)) = true) : ∀ opc ∈ ops, Meets s opc uses ok :=
  fun opc ho => meets (List.all_eq_true.mp h opc ho)

/-- An access of an admitted instruction, which writes the vector registers that names gives, meets no obstacle. -/
def ClearTo (names : Ctx → List Nat) (s : State) (opc : Nat) (uses : Ctx → List Use) (ok : Ctx → Prop) (kind : MemKind) (lanes : Ctx → List Nat)
    (target : Ctx → Nat → Option Dest) (address : Ctx → State → Nat → Except AFault (State × Acc)) : Prop :=
  ∃ c s1 as, s.ctx? = some c ∧ Admitted c opc (uses c) ∧ ok c ∧
    Unhindered c { kind with names := names c } (lanes c) (target c) (address c) s1 as ∧ as ≠ []

/-- The same where it writes none, or where no lane departs. -/
def Clear (s : State) (opc : Nat) (uses : Ctx → List Use) (ok : Ctx → Prop) (kind : MemKind) (lanes : Ctx → List Nat)
  (target : Ctx → Nat → Option Dest)
    (address : Ctx → State → Nat → Except AFault (State × Acc)) : Prop := ClearTo (fun _ => []) s opc uses ok kind lanes target address

/-- Unhindered, checked, for at least one access. -/
def unhindered (c : Ctx) (kind : MemKind) (lanes : List Nat) (target : Nat → Option Dest)
    (address : State → Nat → Except AFault (State × Acc)) : Bool :=
  match resolve address lanes c.st with
  | .error _ => false
  | .ok (s1, as) =>
    (!kind.migrates || decide (c.plan kind.names target false = .go [] [])) && (s1.bankWait c.w.uid c.sp.queued as).isNone &&
    (s1.pageBehind c.sp.queued).isNone && (s1.windowWait c.w.block as).isNone && (!kind.write || (s1.heldAcc as).isNone) &&
      (s1.conflictOf (s1.agentOf c.w) kind.write as).isNone &&
    (s1.mixedOf (s1.agentOf c.w) kind.write (kind.strongs as)).isNone && (kind.strong || kind.ends || (s1.fullLine c.w.uid as).isNone) && !as.isEmpty

/-- ClearTo, checked. -/
def accessible (names : Ctx → List Nat) (s : State) (opc : Nat) (uses : Ctx → List Use) (ok : Ctx → Bool) (kind : MemKind) (lanes : Ctx → List Nat)
    (target : Ctx → Nat → Option Dest) (address : Ctx → State → Nat → Except AFault (State × Acc)) : Bool :=
  match s.ctx? with
  | none => false
  | some c => decide (Admitted c opc (uses c)) && ok c && unhindered c { kind with names := names c } (lanes c) (target c) (address c)

theorem unhindered_sound {c : Ctx} {kind : MemKind} {lanes : List Nat} {target : Nat → Option Dest} {address : State → Nat → Except AFault (State × Acc)}
    (h : unhindered c kind lanes target address = true) : ∃ s1 as, Unhindered c kind lanes target address s1 as ∧ as ≠ [] := by
  unfold unhindered at h
  split at h
  · cases h
  · rename_i s1 as hr
    simp only [Bool.and_eq_true, Bool.or_eq_true, Bool.not_eq_true', decide_eq_true_eq, Option.isNone_iff_eq_none,
      List.isEmpty_eq_false_iff] at h
    obtain ⟨⟨⟨⟨⟨⟨⟨⟨h1, h2⟩, h9⟩, h3⟩, h4⟩, h5⟩, h8⟩, h6⟩, h7⟩ := h
    refine ⟨s1, as, ⟨?_, hr, h2, h9, h3, ?_, h5, h8, ?_⟩, h7⟩
    · intro hm; rcases h1 with h1 | h1
      · rw [h1] at hm; cases hm
      · exact h1
    · intro hw; rcases h4 with h4 | h4
      · rw [h4] at hw; cases hw
      · exact h4
    · intro hs he; rcases h6 with (h6 | h6) | h6
      · rw [h6] at hs; cases hs
      · rw [h6] at he; cases he
      · exact h6

theorem clearTo {names : Ctx → List Nat} {s : State} {opc : Nat} {uses : Ctx → List Use} {ok : Ctx → Prop} [DecidablePred ok] {kind : MemKind}
    {lanes : Ctx → List Nat} {target : Ctx → Nat → Option Dest} {address : Ctx → State → Nat → Except AFault (State × Acc)}
    (h : accessible names s opc uses (fun c => decide (ok c)) kind lanes target address = true) :
    ClearTo names s opc uses ok kind lanes target address := by
  unfold accessible at h
  split at h
  · cases h
  · rename_i c hc
    simp only [Bool.and_eq_true, decide_eq_true_eq] at h
    obtain ⟨s1, as, hu, ha⟩ := unhindered_sound h.2
    exact ⟨c, s1, as, hc, h.1.1, h.1.2, hu, ha⟩

theorem clear {s : State} {opc : Nat} {uses : Ctx → List Use} {ok : Ctx → Prop} [DecidablePred ok] {kind : MemKind} {lanes : Ctx → List Nat}
    {target : Ctx → Nat → Option Dest} {address : Ctx → State → Nat → Except AFault (State × Acc)}
    (h : accessible (fun _ => []) s opc uses (fun c => decide (ok c)) kind lanes target address = true) :
    Clear s opc uses ok kind lanes target address := clearTo h

theorem clearTo_all {ops : List Nat} {names : Ctx → List Nat} {s : State} {uses : Ctx → List Use} {ok : Ctx → Prop} [DecidablePred ok] {kind : MemKind}
    {lanes : Ctx → List Nat} {target : Ctx → Nat → Option Dest} {address : Ctx → State → Nat → Except AFault (State × Acc)}
    (h : (ops.all fun opc => accessible names s opc uses (fun c => decide (ok c)) kind lanes target address) = true) :
    ∀ opc ∈ ops, ClearTo names s opc uses ok kind lanes target address :=
  fun opc ho => clearTo (List.all_eq_true.mp h opc ho)

theorem clear_all {ops : List Nat} {s : State} {uses : Ctx → List Use} {ok : Ctx → Prop} [DecidablePred ok] {kind : MemKind} {lanes : Ctx → List Nat}
    {target : Ctx → Nat → Option Dest} {address : Ctx → State → Nat → Except AFault (State × Acc)}
    (h : (ops.all fun opc => accessible (fun _ => []) s opc uses (fun c => decide (ok c)) kind lanes target address) = true) :
    ∀ opc ∈ ops, Clear s opc uses ok kind lanes target address := clearTo_all h

/-! ### Witnesses: what the hypotheses of the statements ask of a state is met -/

/-- v3 of v1 and v2, in format V3 and in VI. -/
def op3 : V3 := ⟨3, 1, 0, false, 2, 0, false, false⟩
def op4 : V3 := ⟨4, 2, 0, false, 6, 0, false, false⟩
def opI : VI := ⟨3, 1, 0, false, 0⟩

theorem wit_IntegerArithmetic :
    (∀ opc ∈ [0x10, 0x11, 0x12, 0x13, 0x15, 0x16, 0x1B, 0x1C, 0x1D], Meets (core i64 id) opc
      (fun c => v3Uses op4 (pairs c.ty.pair) (pairs c.ty.pair) (pairs c.ty.pair)) fun c => c.ty.isInt = true) ∧
    Meets (core i32 id) 0x14 (fun c => v3AccUses op3 (pairs c.ty.pair) (pairs c.ty.pair) (pairs c.ty.pair)) (fun c => c.ty.isInt = true) ∧
    (∀ opc ∈ [0x17, 0x18, 0x19, 0x1A], Meets (core f32 id) opc
      (fun c => v3Uses op3 (pairs c.ty.intPair) (pairs c.ty.intPair) (pairs c.ty.intPair)) always) ∧
    Meets (core i32 id) 0x1E (fun c => (v3Uses op3 (pairs c.ty.intPair) (pairs c.ty.intPair) (pairs c.ty.intPair)).map
      fun u => { u with all := true })
      always :=
  ⟨meets_all (by decide), meets (by decide), meets_all (by decide), meets (by decide)⟩

theorem wit_IntegerUnary : ∀ opc ∈ [0x1F, 0x20, 0x21, 0x22], Meets (core i64 id) opc (fun c => unUses op4 (pairs c.ty.pair) (pairs c.ty.pair))
    fun c => c.ty.isInt = true := meets_all (by decide)

theorem wit_IntegerComparisons : ∀ opc ∈ [0x23, 0x24, 0x25, 0x26, 0x27, 0x28], Meets (core i64 id) opc (fun c => cmpUses op4 (pairs c.ty.pair))
    fun c => c.ty.isInt = true := meets_all (by decide)

theorem wit_ImmediateAndScalarForms :
    (∀ opc ∈ [0x29, 0x2D, 0x2E, 0x2F], Meets (core i32 id) opc (fun c => viUses opI (pairs c.ty.pair) (pairs c.ty.pair)) fun c => c.ty.isInt = true) ∧
    (∀ opc ∈ [0x2A, 0x2B, 0x2C], Meets (core f32 id) opc (fun c => viUses opI (pairs c.ty.intPair) (pairs c.ty.intPair)) always) ∧
    Meets (core i32 id) 0x30 (fun _ => [vdst 3 1]) always ∧ Meets (core i32 id) 0x31 (fun _ => [vacc 3 1]) always ∧
    (∀ opc ∈ [0x32, 0x33, 0x34, 0x35, 0x36, 0x37, 0x38, 0x39], Meets (core i32 id) opc (fun _ => [sdst 0 1, ssrc 1 1, ssrc 31 1]) always) ∧
    Meets (core i32 id) 0x3A (fun _ => [sdst 3 1, ssrc 1 1]) always ∧ Meets (core i32 id) 0x3B (fun _ => [sdst 31 1]) always :=
  ⟨meets_all (by decide), meets_all (by decide), meets (by decide), meets (by decide), meets_all (by decide), meets (by decide), meets (by decide)⟩

theorem wit_FloatArithmetic :
    (∀ opc ∈ [0x40, 0x41, 0x42, 0x46, 0x47, 0x48, 0x50, 0x5A], Meets (core f64 id) opc
      (fun c => v3Uses op4 (pairs c.ty.pair) (pairs c.ty.pair) (pairs c.ty.pair)) fun c => c.ty.isFloat = true) ∧
    (∀ opc ∈ [0x43, 0x44, 0x45], Meets (core f32 id) opc (fun c => v3AccUses op3 (pairs c.ty.pair) (pairs c.ty.pair) (pairs c.ty.pair))
      fun c => c.ty.isFloat = true) ∧
    Meets (core f32 id) 0x49 (fun c => let n := if c.ty = .f32 then 2 else 1; v3Uses op4 1 n n) (fun c => c.ty.isFloat = true ∧ c.ty ≠ .f64) ∧
    Meets (core f32 id) 0x4E (fun c => v3Uses op3 (pairs c.ty.pair) (pairs c.ty.pair) 1) (fun c => c.ty.isFloat = true) ∧
    (∀ opc ∈ [0x4A, 0x4B, 0x4C, 0x51], Meets (core f64 id) opc (fun c => unUses op4 (pairs c.ty.pair) (pairs c.ty.pair))
      fun c => c.ty.isFloat = true) ∧
    ∀ opc ∈ [0x4D, 0x4F], Meets (core f16 id) opc (fun c => unUses op3 1 (pairs c.ty.pair)) fun c => c.ty.isFloat = true :=
  ⟨meets_all (by decide), meets_all (by decide), meets (by decide), meets (by decide), meets_all (by decide), meets_all (by decide)⟩

theorem wit_FloatFunctionsAndComparisons :
    (∀ opc ∈ [0x52, 0x53, 0x54, 0x55, 0x56, 0x57, 0x58, 0x59], Meets (core f32 id) opc (fun c => unUses op3 (pairs c.ty.pair) (pairs c.ty.pair))
      fun c => c.ty.isFloat = true) ∧
    ∀ opc ∈ [0x5B, 0x5C, 0x5D, 0x5E, 0x5F, 0x60, 0x61], Meets (core f64 id) opc (fun c => cmpUses op4 (pairs c.ty.pair))
      fun c => c.ty.isFloat = true :=
  ⟨meets_all (by decide), meets_all (by decide)⟩

theorem wit_ReductionsAndLaneOperations :
    (∀ opc ∈ [0x62, 0x63, 0x64, 0x65, 0x66, 0x67], Meets (core f32 id) opc (fun c => unUses op3 (pairs c.ty.pair) (pairs c.ty.pair))
      fun c => c.ty.isFloat = true ∧ c.act ≠ 0) ∧
    (∀ opc ∈ [0x74, 0x75], Meets (core i32 id) opc (fun c => v3Uses op3 1 (pairs c.ty.intPair) (pairs c.ty.intPair)) always) ∧
    Meets (core i32 id) 0x76 (fun _ => [pwrite 0, pread 7, pread 1]) always ∧
    Meets (core i32 id) 0x77 (fun _ => [pwrite 7, { cls := 0, reg := 31, rd := true }]) always ∧
    Meets (core i32 id) 0x77 (fun _ => [vdst 31 1, pread 0]) always ∧
    Meets (core i32 id) 0x78 (fun c => [vdst 3 (pairs c.ty.intPair), { vsrc 1 0 false (pairs c.ty.intPair) with all := true }, bsrc op3 1]) always ∧
    ∀ opc ∈ [0x79, 0x7A], Meets (core i64 id) opc (fun c => unUses op4 (pairs c.ty.pair) (pairs c.ty.pair)) fun c => c.ty.isInt = true :=
  ⟨meets_all (by decide), meets_all (by decide), meets (by decide), meets (by decide), meets (by decide), meets (by decide), meets_all (by decide)⟩

theorem wit_Conversions :
    Meets (core f32 id) 0x68 (fun _ => v3AccUses op4 4 1 1) (fun c => c.ty = .f32) ∧
    Meets (core f64 id) 0x69 (fun c => [vdst 4 (pairs c.ty.pair), vsrc 8 0 false 4]) (fun c => c.ty = .f32 ∨ c.ty = .f64) ∧
    Meets (core f16 id) 0x6A (fun _ => v3Uses op3 1 1 1) (fun c => c.ty.half = true) ∧
    Meets (core f16 id) 0x6B (fun _ => unUses op4 2 1) (fun c => c.ty.half = true) ∧
    (let o : VI := ⟨3, 1, 0, false, 0⟩
     Meets (core f32 id) 0x70 (fun c => [if c.ty.width < 32 then vacc o.d 1 else vdst o.d (pairs c.ty.pair), vsrc o.a o.pa o.la
       (pairs (cvtSrc o).pair)])
      (fun c => c.ty.isDsb = false ∧ (cvtSrc o).isDsb = false ∧ bitsAt o.imm.toNat 5 4 < (cvtSrc o).count ∧ bitsAt o.imm.toNat 7 6 < c.ty.count)) ∧
    (∀ opc ∈ [0x71, 0x72], Meets (core dsb8i id) opc (fun _ => [vdst 3 1, vsrc 1 0 false 1])
      fun c => c.ty.isDsb = true ∧ bitsAt 1 1 0 < (if c.native then 1 else 2)) ∧
    Meets (core f16 id) 0x73 (fun _ => [vacc 3 1, vsrc 1 0 false 1]) (fun c => c.ty = .f32 ∨ c.ty = .f16 ∨ c.ty = .bf16) :=
  ⟨meets (by decide), meets (by decide), meets (by decide), meets (by decide), meets (by decide), meets_all (by decide), meets (by decide)⟩

theorem wit_ModesAndSystemRegisters :
    Meets (core i32 id) 0x7B (fun _ => []) (fun _ => modeLegal 0x8 = true) ∧
    Meets (core i32 id) 0x7C (fun _ => []) (fun c => c.guest = false ∧ c.native = false ∧ shapeLegal 0 = true) ∧
    Meets (away i32 id) 0x7D (fun _ => [ssrc 1 1, ssrc 2 1]) (fun c => c.native = false) ∧
    Meets (core i32 id) 0x0C (fun _ => [vdst 1 1]) always ∧ Meets (sill i32 id) 0x0C (fun _ => [sdst 1 1]) always ∧
    Meets (core i32 id) 0x0C (fun _ => [sdst 2 2]) always ∧ Meets (core i32 id) 0x0D (fun _ => [ssrc 2 2]) always :=
  ⟨meets (by decide), meets (by decide), meets (by decide), meets (by decide), meets (by decide), meets (by decide), meets (by decide)⟩

/-- A warp whose running split holds entries, and lanes suspended by an overflow. -/
def stacked (es : List MaskEntry) : Warp → Warp := withSplit fun sp => { sp with stack := es }
def entry0 : MaskEntry := { parked := false, pc := 0x10000, mask := 1 }
def parked0 : MaskEntry := { parked := true, pc := 0x10000, mask := 1 }
def parked1 : MaskEntry := { parked := true, pc := 0x10020, mask := 1 }

/-- Predicate p0 true in lane 0 only, so that under guard p0 one of two lanes is active. -/
def half (w : Warp) : Warp := { w with p := w.p.set 0 1 }
def noFree (w : Warp) : Warp := { w with splits := w.splits.map fun sp => if sp.lanes = 0 then { sp with lanes := 4 } else sp }

theorem wit_BranchesAndJoins :
    Meets (core i32 id) 0x00 (fun _ => []) always ∧
    Meets (core i32 id) 0x01 (fun _ => []) (fun c => c.sp.lanes &&& ~~~c.act = 0) ∧
    Meets (core never id) 0x01 (fun _ => []) (fun c => c.act = 0 ∧ c.sp.lanes ≠ 0) ∧
    Meets (core never half) 0x01 (fun _ => []) (fun c => c.act ≠ 0 ∧ c.sp.lanes &&& ~~~c.act ≠ 0 ∧ c.native = false ∧ c.w.freeSplit = some 1) ∧
    Meets (core never fun w => noFree (half (stacked [entry0, entry0, entry0] w))) 0x01 (fun _ => [])
      (fun c => c.act ≠ 0 ∧ c.sp.lanes &&& ~~~c.act ≠ 0 ∧ (c.native = true ∨ c.w.freeSplit = none) ∧ c.sp.stack.length < 4) ∧
    Meets (core never fun w => noFree (half (stacked [entry0, entry0, entry0, entry0] w))) 0x01 (fun _ => [])
      (fun c => c.act ≠ 0 ∧ c.sp.lanes &&& ~~~c.act ≠ 0 ∧ (c.native = true ∨ c.w.freeSplit = none) ∧ 4 ≤ c.sp.stack.length) ∧
    Meets (core i32 (stacked [entry0])) 0x06 (fun _ => []) (fun c => c.sp.stack = [{ parked := false, pc := 0x10000, mask := 1 }]) ∧
    Meets (core i32 (stacked [parked0])) 0x06 (fun _ => []) (fun c => c.sp.stack = [{ parked := true, pc := c.sp.pc, mask := 1 }]) ∧
    Meets (core i32 (stacked [parked1])) 0x06 (fun _ => [])
      (fun c => c.sp.stack = [{ parked := true, pc := 0x10020, mask := 1 }] ∧ 0x10020 ≠ c.sp.pc) ∧
    Meets (core i32 id) 0x06 (fun _ => []) (fun c => c.sp.stack = []) :=
  ⟨meets (by decide), meets (by decide), meets (by decide), meets (by decide), meets (by decide), meets (by decide), meets (by decide),
    meets (by decide), meets (by decide), meets (by decide)⟩

theorem wit_UniformTransfers :
    Meets (core i32 id) 0x02 (fun _ => []) always ∧
    (∀ opc ∈ [0x03, 0x05], Meets (core i32 (withS 3 0x01FFFFFF ∘ withS 2 0xFFFFFFE0)) opc
      (fun c => [{ ssrc 2 2 with rd := c.guard (lowLane c.sp.lanes) }])
      fun c => c.guard (lowLane c.sp.lanes) = true ∧ bitsAt (c.s2 2) 4 0 = 0 ∧ bitsAt (c.s2 2) 63 57 = 0) ∧
    (∀ opc ∈ [0x03, 0x05], Meets (core never id) opc (fun c => [{ ssrc 2 2 with rd := c.guard (lowLane c.sp.lanes) }])
      fun c => c.guard (lowLane c.sp.lanes) = false) ∧
    (∀ opc ∈ [0x03, 0x05], Meets (core i32 (withS 2 16)) opc (fun c => [{ ssrc 2 2 with rd := c.guard (lowLane c.sp.lanes) }])
      fun c => c.guard (lowLane c.sp.lanes) = true ∧ (bitsAt (c.s2 2) 4 0 ≠ 0 ∨ bitsAt (c.s2 2) 63 57 ≠ 0)) ∧
    (∀ opc ∈ [0x03, 0x05], Meets (core i32 (withS 3 0x02000000)) opc (fun c => [{ ssrc 2 2 with rd := c.guard (lowLane c.sp.lanes) }])
      fun c => c.guard (lowLane c.sp.lanes) = true ∧ (bitsAt (c.s2 2) 4 0 ≠ 0 ∨ bitsAt (c.s2 2) 63 57 ≠ 0)) ∧
    Meets (core i32 id) 0x04 (fun c => if c.guard (lowLane c.sp.lanes) = true then [sdst 30 2] else [])
      (fun c => c.guard (lowLane c.sp.lanes) = true) ∧
    Meets (core never id) 0x04 (fun c => if c.guard (lowLane c.sp.lanes) = true then [sdst 30 2] else [])
      (fun c => c.guard (lowLane c.sp.lanes) = false) :=
  ⟨meets (by decide), meets_all (by decide), meets_all (by decide), meets_all (by decide), meets_all (by decide), meets (by decide), meets
    (by decide)⟩

/-- The launch's record with one byte, or a number, changed. -/
def withRecord (at' : Nat) (bs : List Byte) (s : State) : State :=
  { s with launches := s.launches.map fun l => { l with record := l.record.take at' ++ bs ++ l.record.drop (at' + bs.length) } }

/-- A compacted block's dense warp. -/
def denseOf (w : Warp) : Warp := { w with kind := .dense, homes := List.replicate 32 0 }

theorem wit_CompactionAndExits :
    Meets (withRecord 17 [8] (core i32 id)) 0x07 (fun _ => [])
      (fun c => (c.launch?.map (·.compact)).getD false = true ∧ c.dense = false ∧ c.w.liveCount = 1 ∧ c.sp.stackEmpty = true) ∧
    Meets (core i32 denseOf) 0x08 (fun _ => []) (fun c => c.dense = true) ∧
    Meets (withRecord 17 [8] (core i32 noFree)) 0x07 (fun _ => [])
      (fun c => (c.launch?.map (·.compact)).getD false = true ∧ (c.dense = true ∨ c.w.liveCount ≠ 1 ∨ c.sp.stackEmpty = false)) ∧
    Meets (core i32 id) 0x08 (fun _ => []) (fun c => c.dense = false) ∧
    Meets (away never id) 0x09 (fun _ => []) (fun c => c.guest = true ∧ c.act = 0) ∧
      Meets (away i32 id) 0x09 (fun _ => []) (fun c => c.guest = true ∧ c.act ≠ 0) ∧
    Meets (core never half) 0x09 (fun _ => []) (fun c => c.guest = false ∧ c.sp.lanes &&& ~~~c.act ≠ 0) ∧
    Meets (core i32 (stacked [parked0])) 0x09 (fun _ => [])
      (fun c => c.guest = false ∧ c.sp.lanes &&& ~~~c.act = 0 ∧ c.sp.stack = [{ parked := true, pc := 0x10000, mask := 1 }]) ∧
    Meets (core i32 (withSplit fun sp => { sp with overflow := 4 })) 0x09 (fun _ => [])
      (fun c => c.guest = false ∧ c.sp.lanes &&& ~~~c.act = 0 ∧ c.sp.stack = [] ∧ c.sp.overflow ≠ 0) ∧
    Meets (core i32 id) 0x09 (fun _ => []) (fun c => c.guest = false ∧ c.sp.lanes &&& ~~~c.act = 0 ∧ c.sp.stack = [] ∧ c.sp.overflow = 0) :=
  ⟨meets (by decide), meets (by decide), meets (by decide), meets (by decide), meets (by decide), meets (by decide), meets (by decide),
    meets (by decide), meets (by decide), meets (by decide)⟩

/-- Two warps of a path with lanes that overlap. -/
def path2 : PathLanes := [(startWarp 3 .main 0x10000 3, 3), (startWarp 5 .main 0x10000 3, 2)]

theorem wit_CompactionPlacesThreads :
    (path2.map (·.1.uid)).Nodup ∧ (∀ h ∈ path2, h.1.uid ≠ 0) ∧ pathHome path2 0 1 = some 3 ∧ pathHome path2 1 1 = some 5 ∧
    (denseWarp 9 0 0x10020 path2 1).isSome = true := by decide

theorem wit_SoftwareTraps :
    Meets (core i32 id) 0x0A (fun _ => []) (fun c => c.guest = false) ∧ Meets (away i32 id) 0x0A (fun _ => []) (fun c => c.guest = true) ∧
    Meets (core i32 fun w => { w with handler := .trap 0 7 }) 0x0B (fun _ => []) (fun c => c.w.handler = .trap 0 7) ∧
    Meets (core i32 fun w => { w with handler := .save 0 }) 0x0B (fun _ => []) (fun c => c.w.handler = .save 0) ∧
    Meets (core i32 fun w => { w with handler := .restore 0 }) 0x0B (fun _ => []) (fun c => c.w.handler = .restore 0) ∧
    Meets (core i32 id) 0x0B (fun _ => []) (fun c => c.w.handler = .none) ∧
    (opcodeReserved ((0xFF000000 : Word).toNat / 2 ^ 24) = true ∧ ((core i32 id).ctx?.map (·.guest)) = some false ∧
      ((away i32 id).ctx?.map (·.guest)) = some true) :=
  ⟨meets (by decide), meets (by decide), meets (by decide), meets (by decide), meets (by decide), meets (by decide), by decide⟩

theorem wit_TrapEntryAndReturn :
    let s := withRecord 112 (leBytes 8 0x20000) (core i32 id)
    ((s.warp? 3).map fun w => (w.kind, w.splits.length, w.handler)) = some (.main, 4, .none) ∧
    ((s.launch? 1).map (·.trapEntry)) = some 0x20000 ∧ (((core i32 id).launch? 1).map (·.trapEntry)) = some 0 ∧
    (((core i32 fun w => { w with handler := .trap 0 7 }).warp? 3).map fun w => w.handler != .none) = some true ∧
    ((s.warp? 3).map fun w => (w.splits[0]?).isSome) = some true := by decide

theorem wit_TrapRoundTrip :
    let s := withRecord 112 (leBytes 8 0x20000) (core i32 id)
    ((s.warp? 3).map fun w => (w.kind, w.handler, (w.splits[3]?).isSome)) = some (.main, .none, true) ∧
    ((s.launch? 1).map (·.trapEntry)).getD 0 ≠ 0 ∧ bitsAt ((0x01FFFFFFFFFFFFE0 : Dword)).toNat 4 0 = 0 ∧
    bitsAt ((0x01FFFFFFFFFFFFE0 : Dword)).toNat 63 57 = 0 ∧ ((s.takeTrap 3 3 0xFF 7 0x01FFFFFFFFFFFFE0 7).warp? 3).isSome = true := by decide

/-- The verdicts that precede an instruction's effect: an operand that is not legal, one that is hazarded, one that is
poisoned, and a name beyond the quota. -/
theorem wit_IssueChecks :
    let legal (s : State) (u : Use) : Option (Option Nat × Option Hazard × Option Nat × Bool × Bool) :=
      s.ctx?.map fun c => (u.bad, c.w.hazardOf u, c.poisonLane u, c.st.debugOf c.w, c.w.renames)
    let h : Hazard := { cls := 0, reg := 5, flag := 3 }
    (((away i32 id).ctx?.map (·.guest)) = some true ∧ opcodeProfile 0xA1 ≠ .all ∧ opcodeReserved 0xF0 = true) ∧
    (((sill i32 id).ctx?.map fun c => (c.guest, c.native)) = some (false, true) ∧ opcodeReserved 0x07 = false ∧ opcodeProfile 0x07 = .main) ∧
    (((core i32 id).ctx?.map fun c => (c.guest, c.native)) = some (false, false) ∧ opcodeReserved 0xE0 = false ∧ opcodeProfile 0xE0 = .native) ∧
    (((sill i32 id).ctx?.map fun c => c.w.tenant) = some true ∧ opcodeReserved 0xEA = false ∧ opcodeProfile 0xEA = .native ∧
      opcodePrivileged 0xEA = true) ∧
    (vsrc 31 0 false 2).bad = some 27 ∧ (vsrc 1 0 false 2).bad = some 27 ∧ (pread 8).bad = some 26 ∧
    legal (core i32 fun w => { w with hazards := [h] }) (vsrc 5 0 false 1) = some (none, some h, none, false, true) ∧
    legal (core i32 fun w => { w with v := w.v.set 5 { VReg.empty with live := true, poison := 2 } }) (vsrc 5 0 false 1) = some
      (none, none, some 1, false, true) ∧
    ((core i32 fun w => { w with quota := 0, v := List.replicate 32 VReg.empty }).ctx?.map fun c =>
      ((c.st.owners c.w c.act).findSome? fun h => h.quotaFail (writtenNames [vdst 5 1]), c.w.hazardOf (vdst 5 1), c.poisonLane (vdst 5 1))) =
      some (some 5, none, none) ∧
    ((withRecord 17 [32] (core i32 fun w => { w with v := w.v.set 5 VReg.empty })).ctx?.map fun c =>
      (c.st.debugOf c.w, c.unallocated (vsrc 5 0 false 1), c.w.hazardOf (vsrc 5 0 false 1), c.poisonLane (vsrc 5 0 false 1))) =
      some (true, [5], none, none) :=
  ⟨by decide, by decide, by decide, by decide, by decide, by decide, by decide, by decide, by decide, by decide, by decide⟩

/-- A region of rank 1: 32 elements of a type, one slab on stack 2, named by handle 0x00010003. -/
def region1 (etype : Nat) : Region :=
  { fn := 0, index := 3,
    desc := { gen := 1, wlog := 10, view := false, target := false, etype := etype, rank := 1, blen := 0, shape := [32], stride := [1], slabRows := 32,
              place := [2], viewBase := 0, initOrd := 0 },
    slabs := [{ home := 2, cur := 0, target := 0, frontier := 0, ver := 1, state := 0, pin := none, pinnedMove := false, adv := none, cool := 0, win := 0,
                closed := 0, history := [], run := none, decided := none, seen := 0, strides := [], prev := [], old := [], new := [],
                  firstUnits := 1 }] }

/-- A state with that region, and with its handle in s4. -/
def withRegion (etype : Nat) (s : State) : State := { s with regions := [region1 etype] }
def handled : Warp → Warp := withS 4 0x00010003

/-- Registers: data in v2 to v5, base in v8 and v9 or s8 and s9, offsets in v10. -/
def mOp : M := ⟨2, 8, false, 8⟩
def maOp : MA := ⟨4, 8, false, 2, false, 0⟩
def mcOp : MC := ⟨2, 4, 10, false, 0⟩

def loads (migrates strong : Bool) : MemKind := { write := false, strong := strong, migrates := migrates, ends := strong }
def stores (migrates strong : Bool) : MemKind := { write := true, strong := strong, migrates := migrates, ends := strong }

theorem wit_LinearAccesses :
    ClearTo (fun c => regsFrom 2 (pairs c.ty.pair)) (core i64 id) 0x80 (fun c => [vdst 2 (pairs c.ty.pair), vsrc 8 0 false 2])
      (fun c => c.ty.isDsb = false) { write := false, migrates := true } active
      (fun c i => c.st.linearTarget c.fn (wrapTo 64 (c.val true 8 i + 8)))
      (fun c s i => c.linear false false true (c.ty.width / 8) s i (wrapTo 64 (c.val true 8 i + 8))) ∧
    Clear (core i64 id) 0x82 (fun c => [vsrc 2 0 false (pairs c.ty.pair), vsrc 8 0 false 2]) (fun c => c.ty.isDsb = false)
      { write := true, migrates := true } active (fun c i => c.st.linearTarget c.fn (wrapTo 64 (c.val true 8 i + 8)))
      (fun c s i => c.linear true false true (c.ty.width / 8) s i (wrapTo 64 (c.val true 8 i + 8))) ∧
    Clear (core i32 id) 0x81 (fun _ => [vdst 4 4, vsrc 8 0 false 2]) always { write := false } active stays
      (fun c s i => c.linear false false false 16 s i (wrapTo 64 (c.val true 8 i + 16))) ∧
    Clear (core i32 id) 0x83 (fun _ => [vsrc 4 0 false 4, vsrc 8 0 false 2]) always { write := true } active stays
      (fun c s i => c.linear true false false 16 s i (wrapTo 64 (c.val true 8 i + 16))) ∧
    Clear (core i32 id) 0x84 (fun c => [sdst 2 (pairs c.ty.pair), ssrc 8 2]) (fun c => c.ty.pair = false) { write := false } (fun _ => [0]) stays
      (fun c s i => c.linear false false false 4 s i (wrapTo 64 (c.s2 8 + 4))) ∧
    Clear (away i64 id) 0x84 (fun c => [sdst 2 (pairs c.ty.pair), ssrc 8 2]) (fun c => c.ty.pair = true) { write := false }
      (fun c => [lowLane c.sp.lanes]) stays (fun c s i => c.linear false false false 8 s i (wrapTo 64 (c.s2 8 + 8))) ∧
    Clear (core i32 id) 0x85 (fun c => [ssrc 2 (pairs c.ty.pair), ssrc 8 2]) always { write := true } (fun _ => [0]) stays
      (fun c s i => c.linear true false false (if c.ty.pair = true then 8 else 4) s i (wrapTo 64 (c.s2 8 + 8))) ∧
    Clear (core i32 id) 0x88 (fun c => [vdst 4 (pairs c.ty.pair), ssrc 8 2, vsrc 2 0 false 1])
      (fun c => c.ty.isDsb = false) { write := false } active stays
      (fun c s i => c.linear false false false (c.ty.width / 8) s i (wrapTo 64 (c.s2 8 + (c.lane 2 i).toNat))) ∧
    Clear (core i32 id) 0x89 (fun c => [vsrc 4 0 false (pairs c.ty.pair), ssrc 8 2, vsrc 2 0 false 1])
      (fun c => c.ty.isDsb = false) { write := true } active
      stays (fun c s i => c.linear true false false (c.ty.width / 8) s i (wrapTo 64 (c.s2 8 + (c.lane 2 i).toNat))) :=
  ⟨clearTo (by decide), clear (by decide), clear (by decide), clear (by decide), clear (by decide), clear (by decide), clear
    (by decide), clear (by decide),
    clear (by decide)⟩

theorem moves_one {c : Ctx} {write : Bool} {address : Nat → Nat → Nat} (effect : Nat → State → List Acc → MemResult) {j : Nat} {s : State}
    (h : unhindered { c with st := s } { write := write } (lanesOf c.act) (fun _ => none)
      (fun s' i => ({ c with st := s } : Ctx).linear write false false 4 s' i (address j i)) = true) :
    ∃ t ws, Moves c write address effect [j] s t ws := by
  obtain ⟨s1, as, hu, -⟩ := unhindered_sound h
  exact ⟨_, _, s1, as, [], hu, rfl, rfl, rfl⟩

theorem wit_SpillAndFill :
    ∃ c, (core i32 id).ctx? = some c ∧ Admitted c 0x8A [{ cls := 0, reg := 2, cnt := 1, rd := true, quiet := true }, vsrc 8 0 false 2] ∧
      Admitted c 0x8B [{ cls := 0, reg := 2, cnt := 1, wr := true }, vsrc 8 0 false 2] ∧
      (∃ t ws, Moves c true (fun j i => wrapTo 64 (c.val true 8 i + 4 * 8 + 4 * j))
        (fun j => c.storeFrom fun i => (c.lane (2 + j) i).toNat) [0] c.st t ws) ∧
      ∃ t ws, Moves c false (fun j i => wrapTo 64 (c.val true 8 i + 4 * 8 + 4 * j)) (fun j => c.loadTo (2 + j) 1 leNat) [0]
        (c.st.allocNames c.w c.act [2]) t ws := by
  cases h : (core i32 id).ctx? with
  | none => exact absurd h (by decide)
  | some c =>
    have hc : c = ((core i32 id).ctx?).get (by decide) := by simp [h]
    subst hc
    exact ⟨_, rfl, by decide, by decide, moves_one _ (by decide), moves_one _ (by decide)⟩

/-- Coordinate 5 of the region's one dimension in every active lane. -/
def at5 (_ : Nat) : List Int := [5]

theorem wit_ScratchpadAndCoordinateAccesses :
    (∀ opc ∈ [0x86], ClearTo (fun c => regsFrom 2 (pairs c.ty.pair)) (core i32 id) opc
      (fun c => [vdst 2 (pairs c.ty.pair), vsrc 8 0 false 1]) (fun c => c.ty.isDsb = false)
      { write := false, migrates := true } active (fun c _ => c.scratchTarget 8) fun c s i => c.scratch (c.ty.width / 8) s i 8) ∧
    Clear (core i64 id) 0x87 (fun c => [vsrc 2 0 false (pairs c.ty.pair), vsrc 8 0 false 1]) (fun c => c.ty.isDsb = false)
      { write := true, migrates := true } active (fun c _ => c.scratchTarget 8) (fun c s i => c.scratch (c.ty.width / 8) s i 8) ∧
    ClearTo (fun _ => regsFrom 2 (elemRegs (region1 8).desc.etype)) (withRegion 8 (core f32 handled)) 0x8C
      (fun c => [vdst 2 (elemRegs (c.etypeOf 4)), ssrc 4 1, c.coordUse mcOp])
      (fun c => c.st.region? c.fn (c.s 4).toNat = some (region1 8)) { write := false, migrates := true } active
        (fun _ i => (region1 8).target (at5 i))
      (fun c s i => c.element (region1 8) s i (at5 i)) ∧
    ClearTo (fun _ => regsFrom 2 (elemRegs (region1 12).desc.etype)) (withRegion 12 (core dsb8i handled)) 0x8C
      (fun c => [vdst 2 (elemRegs (c.etypeOf 4)), ssrc 4 1, c.coordUse mcOp])
      (fun c => c.st.region? c.fn (c.s 4).toNat = some (region1 12)) { write := false, migrates := true } active
        (fun _ i => (region1 12).target (at5 i))
      (fun c s i => c.element (region1 12) s i (at5 i)) ∧
    Clear (withRegion 11 (core f32 handled)) 0x8D (fun c => [vsrc 2 0 false (elemRegs (c.etypeOf 4)), ssrc 4 1, c.coordUse mcOp])
      (fun c => c.st.region? c.fn (c.s 4).toNat = some (region1 11)) { write := true, migrates := true } active
        (fun _ i => (region1 11).target (at5 i))
      (fun c s i => c.element (region1 11) s i (at5 i)) ∧
    Clear (core i64 id) 0xBB (fun c => [vsrc 2 0 false (pairs c.ty.pair), vsrc 8 0 false 2]) (fun c => c.ty.wide = true ∧ c.strelBar mOp = none)
      { write := true, strong := true, ends := true } active stays (fun c s i => c.linear true true true (c.ty.width / 8) s i 8) ∧
    Clear (core i32 id) 0xBB (fun c => [vsrc 2 0 false (pairs c.ty.pair), vsrc 8 0 false 1])
      (fun c => c.ty.wide = true ∧ c.strelBar { mOp with imm := 0x1008 } = none)
      { write := true, strong := true, ends := true } active stays (fun c s i => c.scratch (c.ty.width / 8) s i 8) ∧
    Clear (core i32 id) 0xBC (fun c => [vdst 2 (pairs c.ty.pair), vsrc 8 0 false 2]) (fun c => c.ty.wide = true)
      { write := false, strong := true, ends := true } active stays (fun c s i => c.linear false true true (c.ty.width / 8) s i 8) :=
  ⟨clearTo_all (by decide), clear (by decide), clearTo (by decide), clearTo (by decide), clear (by decide), clear (by decide), clear (by decide),
    clear (by decide)⟩

theorem wit_AtomicsAndReservations :
    (∀ opc ∈ [0x8E, 0x8F, 0x90, 0x91, 0x92, 0x93, 0x94], ClearTo (fun c => regsFrom 4 (pairs (c.ty.width / 8 == 8))) (core i64 id) opc
      (fun c => [vdst 4 (pairs c.ty.pair), vsrc 8 0 false 2, vsrc 2 0 false (pairs c.ty.pair)])
        (fun c => c.ty.isInt = true ∧ AtomOp.add.accepts c.ty = true)
      (stores true true) active (fun c i => c.st.linearTarget c.fn (c.val true 8 i))
      fun c s i => c.linear true true true (c.ty.width / 8) s i (c.val true 8 i)) ∧
    ClearTo (fun c => regsFrom 4 (pairs (c.ty.width / 8 == 8))) (core f32 id) 0x95
      (fun c => [vdst 4 (pairs c.ty.pair), vsrc 8 0 false 2, vsrc 2 0 false (pairs c.ty.pair)])
      (fun c => AtomOp.fadd.accepts c.ty = true) (stores true true) active (fun c i => c.st.linearTarget c.fn (c.val true 8 i))
      (fun c s i => c.linear true true true (c.ty.width / 8) s i (c.val true 8 i)) ∧
    ClearTo (fun c => regsFrom 4 (pairs (c.ty.width / 8 == 8))) (core i32 id) 0x96
      (fun c => [vacc 4 (pairs c.ty.pair), vsrc 8 0 false 2, vsrc 2 0 false (pairs c.ty.pair)]) (fun c => c.ty.wide = true)
      (stores true true) active (fun c i => c.st.linearTarget c.fn (c.val true 8 i))
      (fun c s i => c.linear true true true (c.ty.width / 8) s i (c.val true 8 i)) ∧
    (∀ opc ∈ [0x97, 0x98, 0x99, 0x9A], Clear (core f32 id) opc (fun c => [vsrc 8 0 false 2, vsrc 2 0 false (pairs c.ty.pair)])
      (fun c => AtomOp.fadd.accepts c.ty = true) (stores true true) active (fun c i => c.st.linearTarget c.fn (c.val true 8 i))
      fun c s i => c.linear true true true (c.ty.width / 8) s i (c.val true 8 i)) ∧
    Clear (core f32 id) 0x9B (fun _ => [vsrc 8 0 false 2, vsrc 2 0 false 1]) (fun c => c.ty = .f32) (stores false true) active stays
      (fun c s i => c.linear true true true 16 s i (c.val true 8 i)) ∧
    ((AtomOp.ofCode (mcOp.imm.toNat / 32)).suits 0 = true ∧
      ClearTo (fun _ => regsFrom 2 (elemRegs (region1 0).desc.etype)) (withRegion 0 (core i32 handled)) 0x9C
        (fun c => [vacc 2 (elemRegs (c.etypeOf 4)), ssrc 4 1, c.coordUse mcOp])
        (fun c => c.act ≠ 0 ∧ c.st.region? c.fn (c.s 4).toNat = some (region1 0)) (stores true true) active (fun _ i => (region1 0).target (at5 i))
        (fun c s i => c.element (region1 0) s i (at5 i))) ∧
    Meets (withRegion 0 (core never handled)) 0x9C (fun c => [vacc 2 (elemRegs (c.etypeOf 4)), ssrc 4 1, c.coordUse mcOp]) (fun c => c.act = 0) ∧
    ((rfCode (mcOp.imm.toNat / 32)).suits 0 = true ∧
      Clear (withRegion 0 (core i32 handled)) 0x9D (fun c => [vsrc 2 0 false (elemRegs (c.etypeOf 4)), ssrc 4 1, c.coordUse mcOp])
        (fun c => c.act ≠ 0 ∧ c.st.region? c.fn (c.s 4).toNat = some (region1 0)) (stores true true) active (fun _ i => (region1 0).target (at5 i))
        (fun c s i => c.element (region1 0) s i (at5 i))) ∧
    ClearTo (fun _ => regsFrom 4 1) (core i32 id) 0x9E (fun _ => [vdst 4 1, vsrc 8 0 false 1, vsrc 2 0 false 1])
      (fun c => c.ty.width = 32 ∧ (AtomOp.ofCode 0).accepts c.ty = true)
      (stores true true) active (fun c i => c.scratchTarget (c.lane 8 i).toNat) (fun c s i => c.scratch 4 s i (c.lane 8 i).toNat) ∧
    Clear (core i64 id) 0x9F (fun c => [vdst 4 (pairs c.ty.pair), vsrc 8 0 false 2]) (fun c => c.ty.wide = true) (loads false true) active stays
      (fun c s i => c.linear false true true (c.ty.width / 8) s i (c.val true 8 i)) ∧
    Clear (core i64 id) 0xA0 (fun c => [vdst 4 1, vsrc 8 0 false 2, vsrc 2 0 false (pairs c.ty.pair)]) (fun c => c.ty.wide = true)
      (stores false true) active
      stays (fun c s i => c.linear true true true (c.ty.width / 8) s i (c.val true 8 i)) :=
  ⟨clearTo_all (by decide), clearTo (by decide), clearTo (by decide), clear_all (by decide), clear (by decide), ⟨by decide, clearTo (by decide)⟩,
    meets (by decide), ⟨by decide, clear (by decide)⟩, clearTo (by decide), clear (by decide), clear (by decide)⟩

/-- An address that is misaligned by 2 in every lane. -/
def at2 (w : Warp) : Warp := { w with v := w.v.set 8 { VReg.empty with live := true, val := List.replicate 32 2 } }

theorem wit_AlignmentTraps :
    (∀ opc ∈ [0x8E, 0x8F, 0x90, 0x91, 0x92, 0x93, 0x94, 0x96, 0x9F, 0xA0], Meets (core i32 at2) opc
      (fun c => [vdst 4 (pairs c.ty.pair), vsrc 8 0 false 2, vsrc 2 0 false (pairs c.ty.pair)])
      fun c => c.ty.isInt = true ∧ c.ty.wide = true ∧ modeMig c.m = 0 ∧ lanesOf c.act = [0, 1] ∧ c.val true 8 0 / 2 ^ 56 ≠ 0xFD ∧
        c.val true 8 0 % (c.ty.width / 8) ≠ 0) ∧
    (∀ opc ∈ [0x97, 0x99, 0x9A], Meets (core i32 at2) opc (fun c => atomUses ⟨4, 8, false, 2, false, 0⟩ (pairs c.ty.pair))
      fun c => AtomOp.accepts .add c.ty = true ∧ modeMig c.m = 0 ∧ c.val true 8 0 % 4 ≠ 0) ∧
    (∀ opc ∈ [0x95, 0x98, 0x9B], Meets (core f32 at2) opc (fun _ => atomUses ⟨4, 8, false, 2, false, 0⟩ 1)
      fun c => AtomOp.accepts .fadd c.ty = true ∧ c.ty = .f32 ∧ modeMig c.m = 0 ∧ c.val true 8 0 % 4 ≠ 0 ∧ c.val true 8 0 % 16 ≠ 0) ∧
    Meets (core i32 at2) 0x9E (fun _ => [vdst 4 1, vsrc 8 0 false 1, vsrc 2 0 false 1])
      (fun c => c.native = false ∧ (c.block?.any fun b => (c.st.scrPlace b (c.lane 8 0).toNat).toOption.isSome) = true ∧
        (c.lane 8 0).toNat % 4 ≠ 0) :=
  ⟨meets_all (by decide), meets_all (by decide), meets_all (by decide), meets (by decide)⟩

theorem wit_PerformedWrites : (∀ p ∈ [(Loc.dev 40, (7 : Byte)), (Loc.host 3, 0), (Loc.dev 40, 8)], ∃ a, p.1 = .dev a ∨ p.1 = .host a) ∧
    State.reset.mem.wf = true ∧ State.reset.hostMem.wf = true ∧
    (([(Loc.dev 40, (7 : Byte)), (Loc.host 3, 0), (Loc.dev 40, 8)].reverse.find? (·.1 == Loc.dev 40)).map (·.2)) = some 8 := by
  refine ⟨fun p hp => ?_, by decide, by decide, by decide⟩
  simp only [List.mem_cons, List.not_mem_nil, or_false] at hp
  rcases hp with rfl | rfl | rfl
  exacts [⟨40, .inl rfl⟩, ⟨3, .inr rfl⟩, ⟨40, .inl rfl⟩]

theorem wit_AtomicSums : (core i32 id).mem.wf = true ∧ (core i32 id).unwatched ∧ (core i32 id).blocks ≠ [] ∧ (core i32 id).admin.fns ≠ [] := by decide

/-- The demonstration block changed; and its launch. -/
def withBlock (f : Block → Block) (s : State) : State := { s with blocks := s.blocks.map f }
def withLaunch (f : Launch → Launch) (s : State) : State := { s with launches := s.launches.map f }
def withMat (f : MatCtx → MatCtx) : State → State := withBlock fun b => { b with mctx := b.mctx.map f }

/-- x, y, z name s2, s4, s6; imm as given. -/
def xOp (imm : BitVec 9) : X := ⟨2, 4, 6, imm⟩

theorem wit_OrderTable :
    let named (c : Ctx) : Prop := c.st.region? c.fn (c.s 4).toNat = some (region1 8)
    let inside (c : Ctx) : Prop := 0 ≤ toSigned 32 (c.s 6).toNat ∧ toSigned 32 (c.s 6).toNat < ((region1 8).desc.shape.headD 1 : Int)
    let s (x z : Word) : State := withRegion 8 (core i32 (withS 6 z ∘ withS 2 x ∘ handled))
    Meets (s 0 31) 0xA1 (fun _ => [sdst 4 4, ssrc 4 1, ssrc 6 1]) (fun c => named c ∧ inside c) ∧
    Meets (s 0xFFFF 0) 0xA2 (fun _ => [ssrc 2 1, ssrc 4 1, ssrc 6 1]) (fun c => named c ∧ inside c ∧ c.s 2 = 0xFFFF) ∧
    (∀ opc ∈ [0xA2, 0xA3], Meets (s 1 31) opc (fun _ => [ssrc 2 1, ssrc 4 1, ssrc 6 1])
      fun c => named c ∧ inside c ∧ (c.s 2).toNat < 65536 ∧ codeValid 1 1 (c.s 2).toNat = true) ∧
    (∀ opc ∈ [0xA1, 0xA2, 0xA3], Meets (core i32 id) opc (fun _ => [ssrc 2 1, ssrc 4 1, ssrc 6 1]) fun c => c.st.region? c.fn (c.s 4).toNat = none) ∧
    Meets (s 0 32) 0xA1 (fun _ => [sdst 4 4, ssrc 4 1, ssrc 6 1])
      (fun c => named c ∧ ((region1 8).desc.shape.headD 1 : Int) ≤ toSigned 32 (c.s 6).toNat) ∧
    Meets (s 0 0xFFFFFFFF) 0xA1 (fun _ => [sdst 4 4, ssrc 4 1, ssrc 6 1]) (fun c => named c ∧ toSigned 32 (c.s 6).toNat < 0) ∧
    (∀ opc ∈ [0xA2, 0xA3], Meets (s 1 32) opc (fun _ => [ssrc 2 1, ssrc 4 1, ssrc 6 1])
      fun c => named c ∧ ((region1 8).desc.shape.headD 1 : Int) ≤ toSigned 32 (c.s 6).toNat ∧ (0 : BitVec 9).getLsbD 0 = false) ∧
    Meets (s 5 0) 0xA3 (fun _ => [ssrc 2 1, ssrc 4 1, ssrc 6 1]) (fun c => named c ∧ inside c ∧ codeValid 1 1 (c.s 2).toNat = false) ∧
    Meets (s 5 0) 0xA2 (fun _ => [ssrc 2 1, ssrc 4 1, ssrc 6 1]) (fun c => named c ∧ c.s 2 ≠ 0xFFFF ∧ codeValid 1 1 (c.s 2).toNat = false) ∧
    Meets (s 0x10000 0) 0xA2 (fun _ => [ssrc 2 1, ssrc 4 1, ssrc 6 1]) (fun c => named c ∧ c.s 2 ≠ 0xFFFF ∧ 65536 ≤ (c.s 2).toNat) :=
  ⟨meets (by decide), meets (by decide), meets_all (by decide), meets_all (by decide), meets (by decide), meets (by decide), meets_all (by decide),
    meets (by decide), meets (by decide), meets (by decide)⟩

theorem wit_FencesAndBarriers :
    let phase (c : Ctx) : Nat := (c.block?.map fun b => (b.barrier 11).2).getD 0
    Meets (core i32 id) 0xA4 (fun _ => [vsrc 8 0 false 2]) always ∧ Meets (core i32 id) 0xA5 (fun _ => [vdst 3 1, vsrc 4 0 false 2]) always ∧
    (∀ opc ∈ [0xA8, 0xA9, 0xAA, 0xAB], Meets (core i32 id) opc (fun _ => []) fun _ => (4 : Nat) % 8 < 5) ∧
    Meets (core i32 id) 0xAC (fun _ => []) (fun c => c.dense = false ∧ (11 : Nat) % 16 < 12 ∧
      (c.block?.map fun b => bitAt (b.barrier 11).1 c.w.idx).getD false = false) ∧
    Meets (core i32 id) 0xAD (fun _ => [sdst 2 1])
      (fun c => c.dense = false ∧ (c.block?.map fun b => bitAt (b.barrier 0).1 c.w.idx).getD false = false) ∧
    Meets (core i32 (withS 4 15)) 0xAE (fun _ => [ssrc 4 1]) (fun c => c.dense = false ∧ phase c ≠ (c.s 4).toNat % 16) ∧
    Meets (core i32 (withS 4 16)) 0xAE (fun _ => [ssrc 4 1]) (fun c => c.dense = false ∧ phase c = (c.s 4).toNat % 16) ∧
    Meets (core i32 id) 0xAF (fun _ => []) (fun c => c.dense = false) ∧
    Meets (withRecord 17 [16] (core i32 id)) 0xB0 (fun _ => []) (fun c => c.dense = false ∧ (c.launch?.map (·.cores)).getD false = true) :=
  ⟨meets (by decide), meets (by decide), meets_all (by decide), meets (by decide), meets (by decide), meets (by decide), meets (by decide),
    meets (by decide), meets (by decide)⟩

/-- Objects 11 and 0 of the block, with the arrival of its one warp. -/
def arrived (obj : Nat) (s : State) : State := withBlock (fun b => b.setBarrier obj 1 15) s

theorem wit_BarrierEpisodes :
    (∀ obj ∈ [0, 11], ((arrived obj (core i32 id)).blocks.map fun b => ((arrived obj (core i32 id)).covered b obj, b.barrier obj, b.scratch.wf)) =
      [(true, (1, 15), true)]) ∧
    ((core i32 id).blocks.map fun b => ((core i32 id).covered b 11, b.barrier 11)) = [(false, (0, 0))] := by decide

/-- Timelines with command 3 done and failed. -/
def ends3 (s : State) : State :=
  withBlock (fun b => { b with copyDone := 3, copyFailed := [(3, 2)] })
    (withMat (fun x => { x with done := 3, open' := 4, failed := [{ batch := 3, cause := 0x12, info := 1 }] }) s)

theorem wit_Waits :
    let v (c : Ctx) : Nat := leNat (c.st.readLocs ((Loc.dev 0).span 8))
    let kind : MemKind := { write := false, strong := true, ends := true }
    let at' (c : Ctx) (s : State) (i : Nat) : Except AFault (State × Acc) := c.linear false true false 8 s i (c.s2 2)
    let range (c : Ctx) : Option Nat := (c.scratch 8 c.st (if c.guest = true then lowLane c.sp.lanes else 0) (c.s 2).toNat).toOption.map fun p =>
      leNat (p.1.readLocs p.2.locs)
    (∀ opc ∈ [0xB1, 0xB2], Clear (core i32 (withS 4 0x1020)) opc (fun _ => [ssrc 2 2, ssrc 4 2]) (fun c => c.s2 4 ≤ v c ∧ v c ≠ c.s2 4) kind
      (fun _ => [0]) stays at') ∧
    Clear (away i32 (withS 4 0x1022)) 0xB1 (fun _ => [ssrc 2 2, ssrc 4 2]) (fun c => ¬c.s2 4 ≤ v c) kind (fun c => [lowLane c.sp.lanes]) stays at' ∧
    Clear (core i32 (withS 4 0x1021)) 0xB2 (fun _ => [ssrc 2 2, ssrc 4 2]) (fun c => ¬v c ≠ c.s2 4) kind (fun _ => [0]) stays at' ∧
    (∀ n ∈ [0, 1, 2, 3], Meets (core i32 id) 0xB3 (fun _ => [ssrc 4 2]) fun c => c.native = false ∧ (c.st.ctxNum c.w).isSome = true ∧
      (c.st.line c.w n).any fun l => c.s2 4 ≤ l.done && l.failed.isEmpty) ∧
    (∀ n ∈ [0, 1, 2, 3], Meets (core i32 (withS 4 1)) 0xB3 (fun _ => [ssrc 4 2]) fun c => (c.st.line c.w n).any fun l => l.done < c.s2 4) ∧
    (∀ n ∈ [0, 1], Meets (ends3 (core i32 (withS 4 3))) 0xB3 (fun _ => [ssrc 4 2]) fun c =>
      (c.st.line c.w n).any fun l => c.s2 4 ≤ l.done && (l.failed.find? fun f => f.num ≤ c.s2 4).isSome) ∧
    Meets (core i32 id) 0xC5 (fun _ => [ssrc 4 2])
      (fun c => c.dense = false ∧ c.mat?.isSome = true ∧ (c.st.line c.w 1).any fun l => c.s2 4 ≤ l.done) ∧
    Meets (core i32 (withS 4 1)) 0xC5 (fun _ => [ssrc 4 2]) (fun c => (c.st.line c.w 1).any fun l => l.done < c.s2 4) ∧
    Meets (ends3 (core i32 (withS 4 3))) 0xC5 (fun _ => [ssrc 4 2]) (fun c =>
      (c.st.line c.w 1).any fun l => c.s2 4 ≤ l.done && (l.failed.find? fun f => f.num ≤ c.s2 4).isSome) ∧
    Meets (core i32 id) 0xB4 (fun _ => [sdst 2 2]) (fun c => c.native = false ∧ (c.st.line c.w 3).isSome = true) ∧
    Meets (core i32 id) 0xB6 (fun _ => [ssrc 2 1, ssrc 4 2]) (fun c => (range c).any fun v => c.s2 4 ≤ v) ∧
    Meets (core i32 (withS 4 1)) 0xB6 (fun _ => [ssrc 2 1, ssrc 4 2]) (fun c => (range c).any fun v => v < c.s2 4) ∧
    Meets (core i32 (withS 6 64 ∘ withS 4 256)) 0xB5 (fun _ => [ssrc 2 1, ssrc 4 1, ssrc 6 1]) (fun c => (range c).isSome = true ∧
      (c.block?.any fun b => (c.st.rangeBad b (c.s 4).toNat (c.s 6).toNat).isNone &&
        !counterRefused (b.counters.filter fun x => x.off != (c.s 2).toNat) (c.s 2).toNat (c.s 4).toNat (c.s 6).toNat) = true) :=
  ⟨clear_all (by decide), clear (by decide), clear (by decide), fun n h => meets (by revert n; decide), fun n h => meets (by revert n; decide),
    fun n h => meets (by revert n; decide), meets (by decide), meets (by decide), meets (by decide), meets (by decide), meets
      (by decide), meets (by decide),
    meets (by decide)⟩

theorem wit_RegionsAndQuota :
    let q (c : Ctx) : Nat := (c.s 4).toNat
    let covered (c : Ctx) : Prop := (q c : Int) - c.w.quota ≤ c.st.poolFree c.w.core
    let queued (c : Ctx) : Prop := ∃ g ∈ c.st.growQ, (c.st.warp? g.warp).map (·.core) = some c.w.core
    let uses : Ctx → List Use := fun _ => [sdst 2 1, ssrc 4 1]
    let full (s : State) : State := { s with warps := s.warps ++ [{ startWarp 7 .main 0 1 with quota := 3071 }] }
    Meets (core i32 id) 0xB7 (fun _ => []) (fun c => c.w.renames = true) ∧ Meets (sill i32 id) 0xB7 (fun _ => []) (fun c => c.w.renames = false) ∧
    (∀ opc ∈ [0xB8, 0xB9], Meets (core i32 id) opc uses fun c => c.dense = false ∧ q c = 0) ∧
    (∀ opc ∈ [0xB8, 0xB9], Meets (core i32 (withS 4 33)) opc uses fun c => c.dense = false ∧ 32 < q c) ∧
    Meets (core i32 (withS 4 32)) 0xB8 uses (fun c => 1 ≤ q c ∧ q c ≤ 32 ∧ q c ≤ c.w.quota) ∧
    Meets (core i32 fun w => { withS 4 32 w with quota := 31 }) 0xB8 uses (fun c => c.w.quota < q c ∧ q c ≤ 32 ∧ covered c ∧ ¬queued c) ∧
    Meets (full (core i32 fun w => { withS 4 32 w with quota := 31 })) 0xB8 uses (fun c => c.w.quota < q c ∧ q c ≤ 32 ∧ ¬covered c) ∧
    Meets (core i32 (withS 4 31)) 0xB9 uses (fun c => 1 ≤ q c ∧ q c ≤ 32 ∧ q c < c.w.held) ∧
    Meets (core i32 (withS 4 32)) 0xB9 uses (fun c => 1 ≤ q c ∧ q c ≤ 32 ∧ c.w.held ≤ q c) ∧
    Meets (core i32 id) 0xBA (fun _ => []) always ∧ Meets (away i32 id) 0xBD (fun _ => []) (fun c => c.guest = true) ∧
    Meets (core i32 id) 0xBD (fun _ => []) (fun c => c.guest = false ∧ c.native = false ∧ c.w.someAway = false) ∧
    Meets (core i32 fun w => { w with away := 4 }) 0xBD (fun _ => []) (fun c => c.guest = false ∧ c.native = false ∧ c.w.someAway = true) :=
  ⟨meets (by decide), meets (by decide), meets_all (by decide), meets_all (by decide), meets (by decide), meets (by decide), meets (by decide),
    meets (by decide), meets (by decide), meets (by decide), meets (by decide), meets (by decide), meets (by decide)⟩

/-- A matrix command that does nothing more than stand in a queue. -/
def cmd0 : MatCmd :=
  { uid := 9, word := 0xC0020800, ms := 0, specA := (0, 0), specB := (0, 0), step := 0, round := 0, ftz := false, batch := 1, regs := [], issuer := 3,
    follow := false }

theorem wit_MatrixCommandsAndState :
    let mm : MM := ⟨15, 4, 2⟩
    let ready (c : Ctx) : Prop := c.dense = false ∧ (c.mat?.any fun p => !p.2.2.stopped && p.2.2.busy.isEmpty && p.2.2.cmds.isEmpty) = true
    (∀ opc ∈ [0xC0, 0xC1, 0xC2, 0xC3], Meets (core i32 id) opc (mmUses opc mm)
      fun c => c.dense = false ∧ ({ c.mmCmd opc mm with regs := c.mmRegs opc mm } : MatCmd).code = none ∧
        (c.mat?.any fun p => decide (p.2.2.cmds.length < 16)) = true) ∧
    Meets (withMat (fun x => { x with cmds := List.replicate 16 cmd0 }) (core i32 id)) 0xC0 (mmUses 0xC0 mm)
      (fun c => c.dense = false ∧ (c.mmCmd 0xC0 mm).code = none ∧ (c.mat?.any fun p => decide (16 ≤ p.2.2.cmds.length)) = true) ∧
    (∀ opc ∈ [0xC9, 0xCA], Meets (core i32 id) opc (fun _ => [ssrc 2 2, ssrc 4 1])
      fun c => c.dense = false ∧ (c.accCmd opc (xOp 0)).code = none ∧ (c.mat?.any fun p => decide (p.2.2.cmds.length < 16)) = true) ∧
    Meets (core i32 id) 0xC4 (fun _ => [sdst 2 2]) (fun c => c.dense = false ∧ (c.mat?.any fun p => !c.st.followPending p.1 p.2.1) = true) ∧
    Meets (core i32 id) 0xC6 (fun _ => []) ready ∧ Meets (core i32 id) 0xC7 (fun _ => [vdst 8 8]) ready ∧
      Meets (core i32 id) 0xC8 (fun _ => [vsrc 8 0 false 8]) ready ∧
    Meets (core i32 id) 0xCB (fun _ => [sdst 4 4]) ready ∧ (∀ opc ∈ [0xCF, 0xCE], Meets (core i32 id) opc (fun _ => [sdst 2 2]) ready) ∧
    Meets (core i32 id) 0xCC (fun _ => [ssrc 2 2]) ready ∧ Meets (core i32 id) 0xCD (fun _ => [ssrc 2 2]) ready :=
  ⟨fun opc h => meets (by revert opc; decide), meets (by decide), fun opc h => meets (by revert opc; decide), meets (by decide), meets (by decide),
    meets (by decide), meets (by decide), meets (by decide), meets_all (by decide), meets (by decide), meets (by decide)⟩

/-- Where MSAVE writes its record, and MREST reads one. -/
theorem wit_MatrixRecord :
    Clear (core i32 id) 0xCC (fun _ => [ssrc 2 2]) always { write := true } (fun _ => [0]) stays (fun c => c.msaveAcc (c.s2 2)) ∧
    Clear (core i32 id) 0xCD (fun _ => [ssrc 2 2]) always { write := false } (fun _ => [0]) stays
      (fun c s i => c.linear false false false 17472 s i (c.s2 2)) ∧ ∀ f, (readContext [1] 5 3 [] f).isSome = true :=
  ⟨clear (by decide +kernel), clear (by decide +kernel), fun _ => rfl⟩

theorem wit_MatrixSteps : (MatCtx.fresh).tiles.length = 16 ∧
  bitsAt cmd0.word.toNat 23 20 + cmd0.step % (msMt cmd0.ms * msNt cmd0.ms) < 16 := by decide

/-- A capability table of one entry at 0x20000: its kind, allowance, address and parameter, with every permission. -/
def capped (kind left addr param : Nat) (s : State) : State :=
  let s1 := withRecord 22 (leBytes 2 1 ++ leBytes 8 0x20000) s
  { s1 with mem := Memory.putBytes s1.mem 0x20000 (leBytes 4 (0xFF01 + 2 * kind) ++ leBytes 4 left ++ leBytes 8 addr ++ leBytes 8 param) }

/-- Bytes in the block's scratchpad, and in device memory. -/
def inScratch (off : Nat) (bs : List Byte) : State → State := withBlock fun b => { b with scratch := Memory.putBytes b.scratch off bs }
def inMem (a : Nat) (bs : List Byte) (s : State) : State := { s with mem := Memory.putBytes s.mem a bs }
/-- Bytes in device memory that stood there when the launch began. -/
def coded (a : Nat) (bs : List Byte) (s : State) : State :=
  let s1 := inMem a bs s
  { s1 with launches := s1.launches.map fun l => { l with code := s1.image } }

/-- The entry that a use finds. -/
def found (c : Ctx) (perm : Nat) (suits : Cap → Bool) (spends : Bool) : Option Cap := (c.cap 0 perm suits spends).toOption
def fencedAt (c : Ctx) (x : Cap) : State := ((c.within x.st).st.completeOps c.w.uid (·.memory)).endSfr c.w.uid

theorem wit_CapabilityChecks :
    let look (s : State) (perm : Nat) : Option (Option Nat × Option (Bool × Bool × Nat)) := s.ctx?.map fun c =>
      (c.capLaunch.map (·.capCount), (c.capRead 0).toOption.map fun x =>
      (bitAt (fieldAt x.bytes 0 4) 0, bitAt (fieldAt x.bytes 0 4) (8 + perm), bitsAt (fieldAt x.bytes 0 4) 3 1))
    look (core i32 id) 0 = some (some 0, none) ∧
      look (inMem 0x20000 (leBytes 4 0) (capped 1 5 0 0 (core i32 id))) 0 = some (some 1, some (false, false, 0)) ∧
    look (inMem 0x20000 (leBytes 4 1) (capped 1 5 0 0 (core i32 id))) 7 = some (some 1, some (true, false, 0)) ∧
    look (capped 2 5 0 0 (core i32 id)) 7 = some (some 1, some (true, true, 2)) := ⟨by decide, by decide, by decide, by decide⟩

/-- A mailbox at 0x21000 whose entries stand at 0x22000: four slots, W written and R read. -/
def mailbox (w r : Nat) : State → State := inMem 0x21000 (leBytes 8 0x22000 ++ leBytes 4 4 ++ leBytes 4 0 ++ leBytes 8 w ++ leBytes 8 r)

theorem wit_RingsAndMessages :
    let sends (c : Ctx) : Option Cap := found c 0 (fun x => x.kind == 0 || x.kind == 2) true
    let mails (c : Ctx) : Option (Nat × Nat) := (found c 1 (fun x => x.kind == 2 && x.param % 65536 == c.st.admin.device) false).map fun x =>
      (fieldAt ((fencedAt c x).readLocs ((Loc.dev x.addr).span 64)) 16 8, fieldAt ((fencedAt c x).readLocs ((Loc.dev x.addr).span 64)) 24 8)
    let full (c : Ctx) (x : Cap) : Bool := (fencedAt c x).endpointFull (x.kind == 0) (x.param % 65536) x.addr
    let send : Ctx → List Use := fun _ => [sdst 2 1, ssrc 4 1, ssrc 8 8]
    let recv : Ctx → List Use := fun _ => [sdst 2 1, ssrc 4 1, sdst 8 8]
    Meets (core i32 (withS 6 0x400 ∘ withS 4 8 ∘ withS 2 256)) 0xD0 (fun _ => [ssrc 2 1, ssrc 4 1, ssrc 6 1])
      (fun c => (c.block?.any fun b => !ringBad b.scratchSize (c.s 2).toNat (c.s 4).toNat (c.s 6).toNat && b.pending.2 ≤ b.pending.1) = true) ∧
    Meets (away never id) 0xD1 send (fun c => c.guest = true ∧ c.act = 0) ∧
    Meets (capped 2 0 0x21000 0 (core i32 id)) 0xD1 send (fun c => c.guest = false ∧ (sends c).any (fun x => x.left == 0) = true) ∧
    Meets (mailbox 6 2 (capped 2 5 0x21000 0 (core i32 id))) 0xD1 send (fun c => (sends c).any (fun x => x.left != 0 && full c x) = true) ∧
    Meets (mailbox 6 3 (capped 2 5 0x21000 0 (core i32 id))) 0xD1 send (fun c => (sends c).any (fun x => x.left != 0 && !full c x) = true) ∧
    Meets (mailbox 6 6 (capped 2 5 0x21000 0 (core i32 id))) 0xD2 recv (fun c => mails c = some (6, 6)) ∧
    Meets (mailbox 7 6 (capped 2 5 0x21000 0 (core i32 id))) 0xD2 recv (fun c => mails c = some (7, 6)) ∧
    Meets (capped 2 5 0x21000 0 (core i32 id)) 0xD3 (fun _ => [sdst 8 8, ssrc 4 1]) (fun c => (c.capRead (c.s 4).toNat).toOption.isSome = true) :=
  ⟨meets (by decide), meets (by decide), meets (by decide), meets (by decide), meets (by decide), meets (by decide), meets
    (by decide), meets (by decide)⟩

/-- A queue of the function, enabled, its control block in device memory: 16 records, WRITE w, READ and DONE r. -/
def queued (w r : Nat) (s : State) : State :=
  inMem 0x24000 (leBytes 8 0x25000 ++ leBytes 4 16 ++ leBytes 4 1 ++ leBytes 8 w ++ leBytes 8 r ++ leBytes 8 r)
    { s with admin := { s.admin with queues := [{ num := 3, fn := 0, cb := 0x24000, reported := [], cancelled := [] }] } }

theorem wit_ChildLaunches :
    let queue (c : Ctx) : Bool := (found c 2 (fun x => x.kind == 1) true).isSome
    let cancels (c : Ctx) : Option (Option State) := (found c 5 (fun x => x.kind == 1) false).map fun x =>
      ((fencedAt c x).queue? (x.param % 8192)).bind fun q => (fencedAt c x).cancelIdent q 0 (c.s2 8)
    (∀ opc ∈ [0xD4, 0xD5], Clear (capped 1 5 0 3 (core i32 id)) opc (fun _ => [vdst 2 2, ssrc 4 1, vsrc 8 0 false 2])
      (fun c => queue c = true ∧ c.act ≠ 0)
      { write := false, ends := true } active stays fun c s i => c.linear false true false 128 s i (c.val true 8 i)) ∧
    Meets (core never id) 0xD5 (fun _ => [vdst 2 2, ssrc 4 1, vsrc 8 0 false 2]) (fun c => c.act = 0) ∧
    Meets (queued 5 2 (capped 1 5 0 3 (core i32 (withS 8 4)))) 0xD6 (fun _ => [sdst 2 1, ssrc 8 2, ssrc 4 1])
      (fun c => (cancels c).any (·.isSome) = true) ∧
    Meets (queued 5 2 (capped 1 5 0 3 (core i32 (withS 8 5)))) 0xD6 (fun _ => [sdst 2 1, ssrc 8 2, ssrc 4 1])
      (fun c => (cancels c).any (·.isNone) = true) := ⟨clear_all (by decide), meets (by decide), meets (by decide), meets (by decide)⟩

/-- A dispatch record of one wavefront at offset 64 of the scratchpad, on a pseudo-channel or on none. -/
def dispatchRecord (waves flags : Nat) : State → State := inScratch 64 (leBytes 8 0x10000 ++ leBytes 2 waves ++ leBytes 2 0 ++ leBytes 4 flags)
/-- The function's ring at stack 2, of 16 entries. -/
def ringed (w r : Nat) (s : State) : State :=
  inMem 0x26000 (leBytes 8 0x27000 ++ leBytes 4 16 ++ leBytes 4 0 ++ leBytes 8 w ++ leBytes 8 r)
    { s with frontEnds := s.frontEnds.set 2 { Stack.fresh with rings := [(0, 0x26000)] } }
/-- A bank-striped allocation of 4 rows of 64 bytes on pseudo-channel 5 of stack 2, mapped at 0x40000000. -/
def striped (s : State) : State :=
  { s with stripes := [{ fn := 0, va := 0x40000000, frame := 0x500000, stack := 2, pch := 5, row0 := 0, rows := 4, bytes := 64, data := [] }],
           tlb := [{ fn := 0, page := 0x40000000, size := 12, pte := 0x40000000500037 }] }
/-- A bank descriptor at offset 64. -/
def bankRecord (op rows : Nat) (w : Nat) : State → State :=
  inScratch 64 (leBytes 4 op ++ leBytes 4 0 ++ leBytes 4 rows ++ leBytes 4 16 ++ leBytes 8 w ++ leBytes 8 0)

theorem wit_SillDispatchesAndBankOperations :
    let at64 (w : Warp) : Warp := { withS 8 64 w with v := w.v.set 8 { VReg.empty with live := true, val := List.replicate 32 64 } }
    let record (c : Ctx) : List Byte := (c.block?.map fun b => c.st.readLocs ((List.range 64).flatMap fun i => c.st.scrLoc b (64 + i))).getD []
    let disp (c : Ctx) : Option (Bool × Bool × Nat × Bool) := (found c 3 (fun x => x.kind == 3) true).map fun x =>
      (dispatchBad (record c), (fencedAt c x).dispatchMissing x.stack (record c), x.left,
        ((fencedAt c x).produce c.w.die x.stack c.fn (record c)).2.isSome)
    let op (c : Ctx) : Option (Bool × Bool × Bool × Nat) := (found c 4 (fun x => x.kind == 4) true).map fun x =>
      ((fencedAt c x).bankopBad c.fn (record c), (fencedAt c x).pchMissing x.stack x.pch,
        ((fencedAt c x).stripeAt c.fn (opW (record c))).any fun t => t.stack == x.stack && t.pch == x.pch, x.left)
    let du : Ctx → List Use := fun _ => [sdst 2 2, ssrc 4 1, ssrc 8 1]
    let bu : Ctx → List Use := fun _ => [sdst 2 2, ssrc 4 1, vsrc 8 0 false 1]
    Meets (dispatchRecord 0 0 (capped 3 5 0 2 (core i32 at64))) 0xDC du (fun c => disp c = some (true, false, 5, false)) ∧
    Meets (dispatchRecord 1 (64 + 62) (capped 3 5 0 2 (core i32 at64))) 0xDC du (fun c => disp c = some (false, true, 5, false)) ∧
    Meets (dispatchRecord 1 0 (capped 3 0 0 2 (core i32 at64))) 0xDC du (fun c => disp c = some (false, false, 0, false)) ∧
    Meets (ringed 18 2 (dispatchRecord 1 0 (capped 3 5 0 2 (core i32 at64)))) 0xDC du (fun c => disp c = some (false, false, 5, false)) ∧
    Meets (ringed 17 2 (dispatchRecord 1 0 (capped 3 5 0 2 (core i32 at64)))) 0xDC du (fun c => disp c = some (false, false, 5, true)) ∧
    Meets (capped 4 5 0 (2 + 16 * 5) (core never at64)) 0xDB bu (fun c => (op c).isSome = true ∧ c.act = 0) ∧
    Meets (bankRecord 0 4 0 (capped 4 5 0 (2 + 16 * 5) (core i32 at64))) 0xDB bu (fun c => op c = some (true, false, false, 5)) ∧
    Meets (bankRecord 1 4 0 (capped 4 5 0 (2 + 16 * 62) (core i32 at64))) 0xDB bu (fun c => op c = some (false, true, false, 5)) ∧
    Meets (striped (bankRecord 1 4 0 (capped 4 5 0 (2 + 16 * 5) (core i32 at64)))) 0xDB bu (fun c => op c = some (false, false, false, 5)) ∧
    Meets (striped (bankRecord 1 4 0x40000000 (capped 4 0 0 (2 + 16 * 5) (core i32 at64)))) 0xDB bu (fun c => op c = some (false, false, true, 0)) ∧
    Meets (striped (bankRecord 1 4 0x40000000 (capped 4 5 0 (2 + 16 * 5) (core i32 at64)))) 0xDB bu (fun c => op c = some (false, false, true, 5)) :=
  ⟨meets (by decide), meets (by decide), meets (by decide), meets (by decide), meets (by decide), meets (by decide), meets
    (by decide), meets (by decide),
    meets (by decide), meets (by decide), meets (by decide)⟩

/-- Page 0x50000000 as TARGET, on stack 2; the base in v8 and v9. -/
def targetPage (s : State) : State := { s with tlb := [{ fn := 0, page := 0x50000000, size := 12, pte := 0x10000000500037 + 2 * 2 ^ 36 }] }
def at50 (w : Warp) : Warp := { w with v := w.v.set 8 { VReg.empty with live := true, val := List.replicate 32 0x50000000 } }

theorem wit_SearchMigrationAndService :
    let target (c : Ctx) (i : Nat) : Option Dest := c.st.linearTarget c.fn (c.val true 8 i)
    let o : X := ⟨2, 8, 4, 0⟩
    (∀ opc ∈ [0xD7, 0xD8], Meets (core never id) opc (fun _ => [vdst 2 1, vsrc 8 0 false 2, ssrc 4 1]) fun c => bitsAt (4 : Nat) 2 0 < 5 ∧
      c.act = 0) ∧
    (∀ opc ∈ [0xD7, 0xD8], Clear (core i32 id) opc (fun _ => [vdst 2 1, vsrc 8 0 false 2, ssrc 4 1]) (fun c => bitsAt o.imm.toNat 2 0 < 5 ∧ c.act ≠ 0)
      { write := false } (fun c => 32 :: lanesOf c.act) stays fun c s i => if i = 32 then c.distQuery o s else c.distCandidate o s i) ∧
    Meets (core i32 id) 0xDD (fun _ => [vdst 2 1, vsrc 8 0 false 2]) always ∧
    Meets (core i32 id) 0xDE (fun _ => [vsrc 8 0 false 2]) (fun c => c.plan [] (target c) true = .go [] []) ∧
    Meets (targetPage (core i32 at50)) 0xDE (fun _ => [vsrc 8 0 false 2]) (fun c => c.plan [] (target c) true =
      .go [(0, .stack 2), (1, .stack 2)] [⟨.stack 2, 0, [0, 1]⟩]) ∧
    Meets (away never id) 0xDF (fun _ => [sdst 2 2, ssrc 4 4, ssrc 8 2]) (fun c => c.guest = true ∧ c.act = 0) ∧
    Clear (capped 0 5 0 0 (core i32 id)) 0xDF (fun _ => [sdst 2 2, ssrc 4 4, ssrc 8 2])
      (fun c => c.guest = false ∧ (found c 0 (fun x => x.kind == 0) false).isSome = true) { write := true, ends := true }
        (fun _ => [0]) stays
      (fun c s i => c.linear true true false 8 s i (c.s2 8)) :=
  ⟨meets_all (by decide), clear_all (by decide), meets (by decide), meets (by decide), meets (by decide), meets (by decide), clear (by decide)⟩

theorem wit_TopK :
    ∀ opc ∈ [0xD9, 0xDA], Meets (core i32 id) opc
      (fun _ => [{ cls := 0, reg := 4, cnt := 2, align := 2, rd := true, wr := true, all := true }, vsrc 6 0 false 1, vsrc 7 0 false 1])
      fun c => c.dense = false ∧ c.w.liveCount = 1 ∧ c.w.someAway = false ∧ (List.range 8).all (fun j => !scoreNan (c.lane 4 j).toNat) = true :=
  meets_all (by decide)

theorem wit_TopKOrder : ∀ x ∈ [((0x3F800000 : Nat), 2), (0, 1)] ++ [(0x3F800000, 1)], scoreNan x.1 = false := by decide

/-- A wavefront that owns pseudo-channel 5 of its stack, or whose claim there has expired, or that is asked to give way; row
2 open in every bank. -/
def waveOf (f : WaveInfo → WaveInfo) (w : Warp) : Warp := { w with wave := w.wave.map f }
def owner (w : Warp) : Warp := waveOf (fun v => { v with owned := some 5 }) (withS 4 5 w)
def aderic (w : Warp) : Warp := waveOf (fun v => { v with level := 3 }) w
def opened (s : State) : State := { s with pchs := [{ Pch.fresh 0 5 with owner := some 3, rows := List.replicate 16 (some 2) }] }
def busy5 (s : State) : State := { s with pchs := [{ Pch.fresh 0 5 with owner := some 99 }] }

theorem wit_AllBankModeAndSillSystem :
    let base (c : Ctx) : State := (c.st.endSfr c.w.uid).setOwned c.w.uid none none
    let uses : Ctx → List Use := fun _ => [sdst 2 1, ssrc 4 1]
    let free (c : Ctx) : Prop := (base c).pchFree c.stack 5 = true ∧ ((base c).pch c.stack 5).waiters = []
    Meets (sill i32 owner) 0xE0 uses (fun c => c.owned = some (c.s 4).toNat) ∧
    Meets (sill i32 (waveOf (fun v => { v with claim := some 5 }) ∘ withS 4 5)) 0xE0 uses (fun c => c.owned ≠ some 5 ∧ c.claim = some (c.s 4).toNat) ∧
    Meets (sill i32 (withS 4 62)) 0xE0 uses (fun c => c.owned = none ∧ (base c).pchMissing c.stack (c.s 4).toNat = true) ∧
    Meets (opened (sill i32 (withS 4 5))) 0xE0 uses (fun c => c.owned = none ∧ c.native = true ∧ (base c).pchMissing c.stack 5 = false ∧
      ((base c).pch c.stack 5).owner = some c.w.uid) ∧
    Meets (sill i32 (withS 4 5)) 0xE0 uses (fun c => c.owned = none ∧ ((base c).pch c.stack 5).owner ≠ some c.w.uid ∧ free c) ∧
    Meets (sill i32 owner) 0xE0 uses (fun c => c.owned.isSome = true) ∧
    Meets (sill i32 (withS 4 5)) 0xE0 uses (fun c => c.owned ≠ some (c.s 4).toNat ∧ c.claim ≠ some (c.s 4).toNat) ∧
    (∀ opc ∈ [0xE1, 0xE8], Meets (sill i32 id) opc (fun _ => [vsrc 8 0 false (if opc = 0xE1 then 1 else 8), ssrc 4 1]) fun c => c.owned = none) ∧
    (∀ opc ∈ [0xE2, 0xE3], Meets (sill i32 id) opc (fun _ => [ssrc 4 1, ssrc 6 1]) fun c => c.owned = none) ∧
    Meets (sill i32 id) 0xE4 (fun c => { cls := 0, reg := 16, cnt := 16, align := 16 } :: (lanesOf c.act).map
      fun b => { cls := 0, reg := 16 + b, wr := true }) (fun c => c.owned = none) ∧
    Meets (sill i32 id) 0xE7 (fun _ => [vdst 8 8, ssrc 4 1]) (fun c => c.owned = none) ∧
    Meets (opened (withRegion 8 (sill i32 (aderic ∘ waveOf fun v => { v with stack := 2 })))) 0xEB (fun _ => [sdst 2 1, ssrc 4 1, ssrc 6 1])
      (fun c => c.st.entrySlab c.stack (c.s 4).toNat = some (3, 0) ∧ c.st.moveWait c.w.uid c.sp.queued c.stack = none) ∧
    Meets (withRegion 8 { sill i32 (aderic ∘ waveOf fun v => { v with stack := 2 }) with pchs := [{ Pch.fresh 2 5 with owner := some 99 }] }) 0xEB
      (fun _ => [sdst 2 1, ssrc 4 1, ssrc 6 1])
      (fun c => c.st.entrySlab c.stack (c.s 4).toNat = some (3, 0) ∧ c.st.moveWait c.w.uid c.sp.queued c.stack = some (2, 5)) ∧
    Meets (busy5 (sill i32 (withS 4 5))) 0xE0 uses (fun c => c.owned = none ∧ ((base c).pch c.stack 5).owner ≠ some c.w.uid ∧ ¬free c) ∧
    Meets (sill i32 id) 0xE5 (fun _ => []) (fun c => c.owned = none) ∧ Meets (sill i32 id) 0xE6 (fun _ => [ssrc 4 1]) (fun c => c.owned = none) ∧
    Meets (sill i32 id) 0xE9 (fun _ => [vdst 2 1, ssrc 4 1]) always ∧ Meets (sill i32 aderic) 0xEA (fun _ => [ssrc 4 1]) always ∧
    Meets (sill i32 id) 0xEF (fun _ => [sdst 2 1, ssrc 4 1]) always ∧
    (∀ opc ∈ [0xEB, 0xEC], Meets (sill i32 aderic) opc (fun _ => [sdst 2 1, ssrc 4 1, ssrc 6 1]) fun c => c.st.entrySlab c.stack
      (c.s 4).toNat = none) ∧
    (∀ opc ∈ [0xEB, 0xEC], Meets (withRegion 8 (sill i32 (aderic ∘ waveOf fun v => { v with stack := 2 }))) opc
      (fun _ => [sdst 2 1, ssrc 4 1, ssrc 6 1])
      fun c => c.st.entrySlab c.stack (c.s 4).toNat = some (3, 0)) ∧
    Meets (sill i32 id) 0xEE (fun _ => []) (fun c => (c.w.wave.bind (·.request)).isSome = false) ∧
    Meets (sill i32 (waveOf fun v => { v with request := some 0 })) 0xEE (fun _ => []) (fun c => (c.w.wave.bind (·.request)).isSome = true) ∧
    Clear (sill i32 id) 0xED (fun _ => [ssrc 4 2]) (fun c => c.s2 4 % 256 = 0) { write := true, ends := true } (fun _ => [0]) stays
      (fun c s i => c.linear true false false c.w.saveSize s i (c.s2 4)) :=
  ⟨meets (by decide), meets (by decide), meets (by decide), meets (by decide), meets (by decide), meets (by decide), meets (by decide),
    by simpa using ⟨meets (by decide), meets (by decide)⟩, meets_all (by decide), meets (by decide), meets (by decide), meets (by decide),
    meets (by decide), meets (by decide), meets (by decide), meets (by decide), meets (by decide), meets (by decide), meets (by decide),
    meets_all (by decide), meets_all (by decide), meets (by decide), meets (by decide), clear (by decide +kernel)⟩

theorem wit_BankCommands :
    let owns (c : Ctx) : Prop := c.owned.isSome = true
    let column (c : Ctx) : Prop := owns c ∧ (c.s 6).toNat ≤ 31 ∧ (c.s 8).toNat ≤ 63 ∧ ∀ b ∈ lanesOf c.act, (c.bank.rows.getD b none).isSome = true
    let word (c : Ctx) (s : State) (b : Nat) : Except AFault (State × Acc) :=
      .ok (s, s.columnAcc c.stack c.bank.idx ((c.bank.rows.getD b none).getD 0) (c.s 6).toNat b)
    let last : Warp → Warp := withS 8 63 ∘ withS 6 31 ∘ owner
    Meets (sill i32 (withS 6 63 ∘ owner)) 0xE1 (fun _ => [vsrc 2 0 false 1, ssrc 6 1]) (fun c => owns c ∧ (c.s 6).toNat ≤ 63) ∧
    Meets (sill i32 (aderic ∘ withS 6 65535 ∘ owner)) 0xE6 (fun _ => [ssrc 6 1]) (fun c => owns c ∧ (c.s 6).toNat ≤ 65535 ∧ c.w.tenant = false) ∧
    Meets (sill never (withS 6 65535 ∘ owner)) 0xE6 (fun _ => [ssrc 6 1]) (fun c => owns c ∧ (c.s 6).toNat ≤ 65535 ∧ c.act = 0) ∧
    (∀ opc ∈ [0xE2, 0xE3], Clear (opened (sill i32 last)) opc (fun _ => [ssrc 6 1, ssrc 8 1]) column { write := false } active stays word) ∧
    Meets (sill i32 owner) 0xE4 (fun c => { cls := 0, reg := 16, cnt := 16, align := 16 } :: (lanesOf c.act).map
      fun b => { cls := 0, reg := 16 + b, wr := true })
      owns ∧
    Meets (sill i32 owner) 0xE5 (fun _ => []) owns ∧
    Clear (opened (sill i32 last)) 0xE7 (fun _ => [vdst 8 8, ssrc 6 1]) column { write := false } active stays word ∧
    Clear (opened (sill i32 last)) 0xE8 (fun _ => [vsrc 8 0 false 8, ssrc 6 1]) column { write := true } active stays word :=
  ⟨meets (by decide), meets (by decide), meets (by decide), clear_all (by decide), meets (by decide), meets (by decide), clear
    (by decide), clear (by decide)⟩

/-! Events: small states in which the conditions of each clause hold. -/

/-- A state given the arguments of an event. -/
def given (a b : Nat) (s : State) : State := { s with args := { a := a, b := b } }

/-- A clause not yet begun, at a slot. -/
def unbegun (slot : Nat) : State := given 3 0 (core i32 (withSplit fun sp => { sp with begun := false, slot := slot }))

theorem wit_ClauseEntry :
    let sees (s : State) (fault : Bool) : Bool := s.ctx?.any fun c => !c.sp.begun && s.splitReady c.w 0 &&
      c.w.slab.isNone && (s.fetchWords c.w c.sp.pc.toNat 8).toOption.any fun x => (clauseFault x.2).isSome == fault &&
        (fault || hdrCount (x.2.headD 0) == 1)
    (∀ slot ∈ [0, 1, 2, 8], sees (unbegun slot) false = true) ∧ sees (coded demoEntry (leBytes 4 0) (unbegun 1)) true = true := by decide

/-- A long-latency operation under flag 3, and a hazard. -/
def op1 : LongOp := { flag := some 3, split := 0, memory := true, writes := vwrite 5 false 3 fun _ => 7, sticky := 1 }

theorem wit_AgentEvents :
    let s (f : Warp → Warp) : State := given 3 0 (core i32 f)
    ((s fun w => { w with ops := [op1], f := w.f.set 3 1 }).warp? 3).map (fun w => w.ops[0]?) = some (some op1) ∧
    (((s fun w => { w with replay := some (0x10000, 5) }).warp? 3).bind fun w => w.replay.map fun r =>
      (((s id).translateN ((s id).fnOf w) r.1.toNat 1 false).toOption.isSome, r.2)) = some (true, 5) ∧
    ((s id).warp? 3).map (fun w => (s id).splitReady w w.running) = some true ∧
    ((given 3 0 (sill i32 id)).warp? 3).map (fun w => ((s id).splitReady w w.running, w.kind)) = some (true, .native) ∧
    ((s (withSplit fun sp => { sp with status := .join })).warp? 3).map
      (fun w => (w.splits[0]?).map fun sp => (sp.live, sp.status)) = some (some (true, .join)) :=
  by decide

/-- A split that waits; and whether its condition holds. -/
def waiting (st : Status) (s : State) : State := given 3 0 { s with warps := s.warps.map (withSplit fun sp => { sp with status := st }) }
def wakes (st : Cond) (s : State) : Bool := (waiting (.wait st) s).warps.any fun w => (waiting (.wait st) s).condHolds w 0 st

/-- A record of the executing warp that can be closed. -/
def record0 : SfrRecord := { agent := .block 2, owner := 3, key := ⟨0, 0, 5⟩, rd := 1, wr := 0, closable := true, away := false }

theorem wit_WaitEvents :
    (∀ c ∈ [Cond.memGe 0 0x1021, .memNe 0 0x1020, .timeline 0 0, .counter 0 0, .batch 0], wakes c (core i32 id) = true) ∧
    0 < (inMem 0 [] { core i32 id with hostMem := Memory.putBytes [] 0x500 (leBytes 8 0 ++ leBytes 4 4) }).freeSlots true 0x500 ∧
    ((inMem 0x30000 (leBytes 8 (2 ^ 63)) (core i32 id)).readVa 0 0 0x30000 8).map (fun b => bitAt (leNat b) 63) = some true ∧
    ((core i32 id).warp? 3).any (fun w => ((core i32 id).fetchWord w (demoEntry + 4)).toOption.isSome) = true ∧
    ((({ core i32 id with records := [record0] } : State).lineRecords (.dev 1280)).find? (·.closable)) = some record0 ∧
    ((core i32 id).warp? record0.owner).isSome = true ∧ ((core i32 id).warp? 77).isNone = true ∧
    (let q : GrowReq := { warp := 3, split := 0, want := 32, dst := 2 }
     let g (s : State) : State := given 0 0 { s with growQ := [q] }
     let full (s : State) : State := { s with warps := s.warps ++ [{ startWarp 7 .main 0 1 with quota := 3071 }] }
     let low : Warp → Warp := fun w => (withSplit (fun sp => { sp with status := .wait .grow }) { w with quota := 1 })
     ((g (core i32 low)).growQ.find? fun q => (((g (core i32 low)).warp? q.warp).map (·.core)) == some 0) = some q ∧
     (32 : Int) - 1 ≤ (g (core i32 low)).poolFree 0 ∧ (g (full (core i32 low))).poolFree 0 < (32 : Int) - 1 ∧
     (g (full (core i32 fun w => { low w with quota := 1 }))).growQ = [q]) := by
  refine ⟨by decide, by decide, by decide, by decide, by decide, by decide, by decide, by decide, by decide, by decide, by decide⟩

/-- Lane 1 of warp 9 on its way: outward to stack 2, or homeward. -/
def shuttle (homeward : Bool) : Shuttle :=
  { homeward := homeward, home := 3, hcore := 0, hslot := 0, lane := 1, vf := 0, blockId := 0, queue := 0, part := 0, toStack := true, site := 2, hops := 1, epoch := 0, pc := 0x10000, slot := 1, modes := List.replicate 4 0x8,
    modew := false, pred := 0, sticky := 0, vmask := 0, smask := 0, vslots := [], sslots := [], vpois := 0, spois := 0, fault := none, exits := false,
    group := 1, left := 0 }
/-- A lane that has landed and is in no slot. -/
def landed (onStack : Bool) (site : Nat) (w : Warp) : Warp :=
  { w with kind := .guest, parked := true, splits := [{ demoSplit 2 with mode := 8 }, Split.free, Split.free, Split.free],
           guest := some { home := 9, lane := 1, hops := 1, epoch := 0, modew := false, onStack := onStack, site := site, sillCore := 0, slot := none, group := 0,
                           age := 1 } }

theorem wit_ShuttleEvents :
    (∀ homeward ∈ [true, false], let s : State := { core i32 id with shuttles := [shuttle homeward] }
      s.shuttles[0]? = some (shuttle homeward) ∧ (s.warp? (shuttle homeward).home).isSome = true ∧ s.othersComing (shuttle homeward) = false) ∧
    ((core i32 (landed true 2)).formation true 2 16).length = 1 ∧ (((core i32 id).frontEnds[2]?).map fun f => decide (5 ∉ f.deadCores)) = some true ∧
    ((core i32 (landed false 7)).formation false 7 32).length = 1 ∧
    ((List.range 96).find? fun k => !((core i32 (landed false 7)).usedSlots 7).contains k) = some 0 := by decide

/-- The launch after all its blocks are freed; and its one block's warps all ended. -/
def ended (s : State) : State := { s with blocks := [], launches := s.launches.map fun l => { l with next := 1, freed := 1 } }

theorem wit_LaunchAndSliceEvents :
    let host (fed : Nat) (s : State) : State := inMem 0x2400C (leBytes 4 (1 + 4 * fed)) (queued 3 2 s)
    ((host 0 (core i32 id)).queue? 3).map (fun q => blkDevfed ((host 0 (core i32 id)).queueBlock q)) = some false ∧
    ((host 0 (core i32 id)).queue? 3).map (fun q => (queueBlockOk ((host 0 (core i32 id)).queueBlock q), q.reported,
      ((host 0 (core i32 id)).consumable q false).isSome, ((host 0 (core i32 id)).nextRecord q).map (·.1))) = some (true, [], true, some 2) ∧
    (let s : State := { core i32 id with blocks := [], warps := [] }
     s.servedLaunches.head?.map (fun l => (l.uid, s.resumesFirst l.fn, l.cores, (s.placeNext l).isSome)) = some (1, false, false, true)) ∧
    (let s : State := withRecord 17 [16] { core i32 id with blocks := [], warps := [] }
     s.servedLaunches.head?.map (fun l => (l.cores, (s.placeAll l l.grid).isSome)) = some (true, true)) ∧
    (let s : State := core i32 fun w => { w with gone := true, splits := List.replicate 4 Split.free }
     (s.block? 2).map (fun b => (s.freeable b, b.members)) = some (true, [2])) ∧
    ((ended (core i32 id)).launch? 1).map (fun l => ((ended (core i32 id)).completable l, l.balance)) = some (true, false) ∧
    ((core i32 id).fn? 0).map (·.running) = some true ∧
    (let s : State := coded (demoEntry + 4) (leBytes 4 0xB7000000) (withBlock (fun b => { b with preempt := .requested }) (core i32 id))
     (s.warp? 3).map (fun w => (w.takable (s.atTakePoint w false), w.someAway,
       w.splits.map fun sp => if sp.live then (s.resumeSlot w sp).isSome else true)) = some (true, false, [true, true, true, true])) ∧
    (let s : State := withBlock (fun b => { b with preempt := .requested, deadline := true })
      (core i32 (withSplit fun sp => { sp with begun := false }))
     (s.warp? 3).map (fun w => (w.takable (s.atTakePoint w true), w.someAway)) = some (true, false)) ∧
    (let s : State := withBlock (fun b => { b with preempt := .taken }) { core i32 id with warps := [] }
     (s.block? 2).bind (fun b => (s.launch? 1).bind fun l => (s.resumeNeeds l b).map fun need => (s.findPlace l [need]).isSome) = some true) ∧
    ({ fn := 0, stack := 2, rate := 8, depth := 64, level := 64, waiting := [64] } : Bucket).waiting = 64 :: [] := by
  refine ⟨by decide, by decide, by decide, by decide, by decide, by decide, by decide, by decide, by decide, by decide, by decide⟩

/-- A ring of 8 entries at offset 256 of the block's scratchpad, with one entry published. -/
def ring0 : Ring := { off := 256, count := 8, notify := 128, consumed := 0, base := 0, from0 := 0, published := 1, pubs := [], stopped := false }
/-- An entry of 256 bytes from address 0 to offset 1024: KIND 1. -/
def entry1 : List Byte := leBytes 4 1 ++ leBytes 8 0 ++ leBytes 8 1024 ++ leBytes 4 256 ++ leBytes 8 0
def withRing (s : State) : State := inScratch 256 entry1 (withBlock (fun b => { b with ring := some ring0 }) s)
/-- A consumed command; and as it stands once its one unit has landed. -/
def copy0 (units : Nat) : CopyCmd :=
  { uid := 20, block := 2, fn := 0, number := 1, entry := entry1, src := .lin 0, dst := .scr 1024, srcLen := 256, dstLen := 256, template := [], target := none,
    units := units, staged := none, gateT := 0, gated := false, drive := [], ended := none }
def withCopy (c : CopyCmd) (s : State) : State := given 20 0 { s with copies := [c] }

theorem wit_CopyEvents :
    ((withRing (core i32 id)).block? 2).map (fun b => (b.ring, b.preempt)) = some (some ring0, .none) ∧
    ((withRing (core i32 id)).block? 2).map (fun b => (entryFlag (b.entry ring0 0) 8, entryFlag (b.entry ring0 0) 9, entryFlag (b.entry ring0 0) 13,
      match (withRing (core i32 id)).entryCheck b ring0 0 (b.entry ring0 0) false with | .ok n => n.dstLen | .error _ => 0)) = some
        (false, false, false, 256) ∧
    (let s : State := withCopy (copy0 0) (core i32 id)
     (s.block? 2).map (fun b => ((s.launch? 1).map (·.cancelled), s.copyMayRun b (copy0 0), s.landed (copy0 0), entryKind (copy0 0).entry,
       s.selfOverlap (copy0 0))) = some (some false, true, false, 1, false)) ∧
    (withCopy (copy0 1) (core i32 id)).landed (copy0 1) = true ∧
    (let s : State := withCopy { copy0 0 with gated := true } (core i32 id)
     (s.block? 2).map (fun b => s.gateOpen b { copy0 0 with gated := true }) = some true) ∧
    (let t : List Byte := leBytes 4 0xC0020800 ++ List.replicate 20 0
     let s : State := withCopy { copy0 1 with template := t, target := some (0, 1) } (core i32 id)
     (s.mctx? 2 0).map (fun p => (p.2.stopped, (followCmd t s.nextUid 1).code, (followCmd t s.nextUid 1).ranges.all fun r =>
       (s.rangeBad p.1 r.1 r.2).isNone)) =
       some (false, none, true) ∧
     (s.mctx? 2 0).map (fun p => ((p.2.busyTile (followCmd t s.nextUid 1).tiles (some 1)).isNone, decide (p.2.cmds.length < 16))) = some
       (true, true)) ∧
    ({ copy0 0 with drive := [{ first := 4, count := 1, done := false }] } : CopyCmd).read? 4 = some { first := 4, count := 1, done := false } := by
  refine ⟨by decide, by decide, by decide, by decide, by decide, ?_, by decide⟩
  exact ⟨by decide, by decide⟩

/-- A drive's copy to device memory whose one Read is outstanding; and the bytes that the drive writes. -/
def driveCopy : CopyCmd :=
  { copy0 0 with entry := leBytes 4 8 ++ leBytes 8 0 ++ leBytes 8 0x30000 ++ leBytes 4 512 ++ leBytes 8 0, src := .drive 5 0, dst := .lin 0x30000,
                 dstLen := 512, drive := [{ first := 0, count := 1, done := false }] }

theorem wit_DriveWrites :
    let s : State := { withCopy driveCopy (core i32 id) with args := { a := 0, b := 5, c := 0x30010, bytes := [1, 2, 3, 4] } }
    let ls : List Loc := (List.range 4).map fun i => s.driveLoc (0x30010 + i)
    let a : Acc := { lane := 0, va := sideAddr driveCopy.dst 0, locs := ls }
    (s.copies.filter fun c => c.fn == s.args.a && (match c.src with | .drive g _ => g == s.args.b | _ => false)) = [driveCopy] ∧
    (s.block? 2).map (fun b => s.copyMayRun b driveCopy) = some true ∧ s.bankWait 20 none [a] = none ∧
      (s.copyConflict driveCopy true [a]).isNone = true ∧
    (s.heldLoc ls fun u _ => u != 2) = none ∧
    (s.block? 2).map (fun b => ls.all fun l =>
      ((s.readAccs b driveCopy { first := 0, count := 1, done := false }).flatMap (·.locs)).contains l) = some true :=
  ⟨by decide, by decide, by decide, by decide, by decide, by decide +kernel⟩

/-- A region of 64 x 64 elements with its one slab changed: windows of 64 elements. -/
def region2 (f : Slab → Slab) : Region :=
  { fn := 0, index := 3,
    desc := { gen := 1, wlog := 6, view := false, target := false, etype := 8, rank := 2, blen := 0, shape := [64, 64], stride := [64, 1], slabRows := 64,
              place := [2], viewBase := 0, initOrd := 0 },
    slabs := (region1 8).slabs.map fun sl => f { sl with seen := 64, strides := [([1, 0], 40)] } }
def tensor (f : Slab → Slab) : State := given 3 0 { core i32 id with regions := [region2 f] }

/-- A dispatch of one wavefront at stack 2, a record stamped nowhere. -/
def disp2 : Dispatch :=
  { demoDispatch with stack := 2, record := leBytes 8 0x10000 ++ leBytes 2 1 ++ List.replicate 54 0, started := 0, ended := 0 }
def withDispatch (d : Dispatch) (s : State) : State := given 4 0 { s with dispatches := [d] }
/-- The ring's next entry stands, a 64-byte record with its number and valid bit. -/
def produced : State := inMem 0x2600C (leBytes 4 1)
  (inMem (0x27000 + 64 * 2) (List.replicate 56 0 ++ leBytes 4 2 ++ leBytes 4 (2 ^ 31)) (ringed 3 2 (core i32 id)))
/-- A bank operation that is done with its work, one row to land. -/
def bankop0 (ran : Bool) : BankOp :=
  { uid := 30, launch := 1, block := 2, fn := 0, stack := 2, pch := 5, number := 1, desc := List.replicate 64 0, rows := [(0, [1])], groups := 0, poisoned := [],
    ran := ran, landed := 0, status := 0, done := false }

theorem wit_EngineAndSillEvents :
    (let s : State := withMat (fun x => { x with cmds := [cmd0] }) (given 2 0 (core i32 id))
     (s.mctx? 2 0).map (fun p => (p.2.stopped, p.2.cmds.length, decide (s.spentOf (s.stepQuadrant p.1 p.2) < s.admin.budget))) = some
       (false, 1, true)) ∧
    (∀ st ∈ [0, 1], ((tensor fun sl => { sl with state := st, cool := 0 }).slab? 3 0).map (fun p => (decide (2 ^ p.1.desc.wlog ≤ p.2.seen), p.2.state,
      p.2.decided, p.2.qualify p.1.desc 0)) = some (true, st, none, some 1)) ∧
    ((tensor fun sl => { sl with strides := [] }).slab? 3 0).map (fun p => p.2.qualify p.1.desc 0) = some none ∧
    ((tensor fun sl => { sl with decided := some 1 }).slab? 3 0).map (fun p => (p.2.state, p.2.decided, p.1.desc.slabUnits 0 1,
      decide ((1 : Int) ≤ (tensor id).reserveFree p.2.home))) = some (0, some 1, 1, true) ∧
    (produced.ringBlock 2 0).map (fun p => ringBlockOk p.2) = some true ∧
    (produced.ringNext 2 0).map (fun x => (x.2.1, fieldAt x.2.2 56 4)) = some (2, 2) ∧
    (let s := withDispatch disp2 (core i32 id)
     (s.dispatch? 4).map (fun d => (s.startsNext d, s.sillCore d.stack d.local' (some d.uid))) = some (true, some 0)) ∧
    (let s : State := { given 3 0 (sill i32 (waveOf (fun v => { v with request := some 0 }) ∘ withSplit fun sp => { sp with begun := false })) with
       turns := 6400 }
     (s.warp? 3).map (fun w => (w.wave.bind (·.request), s.passed 0 25600, w.replay.isNone)) = some (some 0, true, true)) ∧
    (let d : Dispatch := { disp2 with stack := 0, record := leBytes 8 0x10000 ++ leBytes 2 1 ++ leBytes 2 1 ++ List.replicate 52 0 }
     let s := withDispatch d { sill i32 (fun w => { aderic w with ldsSize := 65536 }) with
       frontEnds := [{ Stack.fresh with deadCores := (List.range 16).drop 1 }] }
     s.warps.all (fun w => w.wave.any (fun v => v.level == 3) && ((s.dispatches.find? (s.wantsSlot w)).map (·.uid)) == some disp2.uid) = true) ∧
    (let s := { core i32 id with saved := [{ addr := 0, own := true, warp := aderic (demoWarp true), bank := none }] }
     s.saved[0]?.map (fun x => (x.warp.wave.map (·.level), s.sillCore 0 x.warp.ldsSize none)) = some (some 3, some 0)) ∧
    (let d := { disp2 with started := 1, ended := 1 }
     let s := withDispatch d (core i32 id)
     s.dispatchOver d = true ∧ d.stamp = 0) ∧
    (let s : State := given 0 5 (opened (sill i32 owner))
     (s.pch 0 5).owner = some 3 ∧ (s.warp? 3).isSome = true) ∧
    (let s : State := { sill i32 id with pchs := [{ Pch.fresh 0 5 with waiters := [3] }] }
     (s.pch 0 5).waiters.head? = some 3 ∧ s.pchFree 0 5 = true) ∧
    (let s : State := { core i32 id with bankops := [bankop0 false], pchs := [{ Pch.fresh 2 5 with waiters := [30] }] }
     s.bankop? 30 = some (bankop0 false) ∧ (s.block? 2).isSome = true ∧ s.pchFree 2 5 = true) ∧
    (bankop0 true).rows[(bankop0 true).landed]? = some (0, [1]) := by
  refine ⟨by decide, by decide, by decide, by decide, by decide, by decide, by decide, by decide, by decide, by decide, by decide,
    by decide, by decide,
    by decide, by decide⟩

theorem wit_HostAndRepairEvents :
    (let f (g : Fn → Fn) : State := { core i32 id with admin := { (core i32 id).admin with fns := (core i32 id).admin.fns.map g } }
     let w : Watch := { addr := 0, thresh := 0x1021, ctl := 5 }
     let s : State := f fun f => { f with frames := [(0, 4096)], watch := f.watch.set 2 w }
     (s.hostLocs 0 0 8 4).isSome = true ∧ (s.hostLocs 0 1 8 4).isSome = true ∧ (s.hostLocs 0 2 8 4).isSome = true ∧
     (s.fn? 0).bind (fun f => f.watch[2]?) = some w ∧ w.holds 0x1021 = true ∧ (s.translateN 0 w.addr.toNat 8 false).toOption.isSome = true) ∧
    (let m : Message := { fn := 0, host := false, device := 0, endpoint := 0x21000, words := [1, 2], count := 2, sender := 0, source := 0 }
     let s : State := mailbox 6 3 { core i32 id with msgs := [m] }
     s.msgs[0]? = some m ∧ m.device = s.admin.device ∧ 0 < ({ s with msgs := [] } : State).freeSlots false 0x21000) ∧
    (State.reset.admin.sparesUsed[dieOfCore 175]? = some 0 ∧ (State.reset.frontEnds[11]?).map (·.sparesUsed) = some 0) ∧
    ((State.reset.pch 11 61).owner = none ∧ (State.reset.pch 11 61).missing = false) ∧
    ((∃ x ∈ State.reset.admin.clusters, 1200 < x) ∧ ¬∃ x ∈ State.reset.admin.sill, x < 1600) ∧ State.reset.admin.hold = 0 := by
  refine ⟨⟨by decide, by decide, by decide, by decide, by decide, by decide⟩, by decide, by decide, by decide, by decide, by decide⟩

/-- An owned package in a life-cycle state, and a command of its owner; and one with function 0. -/
def ownedBy (o : Option Requester) (cycle : Nat) (s : State) : State := { s with admin := { s.admin with owner := o, lifecycle := cycle } }
def setup (a b : Nat) (load : Payload) : State :=
  let s := ownedBy (some (.host 0)) 2 (core i32 id)
  { s with args := { a := a, b := b, load := load }, admin := { s.admin with fns := s.admin.fns.map fun f => { f with frames := [(0x100000, 0x2000)] } } }

theorem wit_DeviceCommands :
    (ownedBy none 2 State.reset).admin.owner = none ∧ (ownedBy (some (.host 0)) 2 State.reset).admin.owner = some State.reset.args.cmd.req ∧
    (∀ cycle ∈ [0, 1, 2, 3], (ownedBy (some (.bexfort 1)) cycle State.reset).admin.owner = some (.bexfort 1)) ∧ isBexfort (.bexfort 1) = true ∧
    State.reset.admin.mode = 1 ∧ State.reset.idle = true ∧ (core i32 id).idle = false ∧ (List.replicate 64 (0 : Byte)).length = 64 ∧
    (ownedBy (some (.host 1)) 2 State.reset).admin.owner ≠ some State.reset.args.cmd.req ∧ isBexfort State.reset.args.cmd.req = false := by
  refine ⟨by decide, by decide, by decide, by decide, by decide, by decide, by decide, by decide, by decide, by decide⟩

/-- A descriptor of the region that region1 8 is, with its default order. -/
def descriptor1 : List Byte :=
  leBytes 2 1 ++ [81, 65, 0, 1, 0, 0] ++ leBytes 4 32 ++ leBytes 4 1 ++ leBytes 4 1 ++ leBytes 4 1 ++ leBytes 4 1 ++ leBytes 8 1 ++
    List.replicate 32 0 ++ leBytes 4 32 ++ [2] ++ List.replicate 55 0

theorem wit_SetupCommands :
    let s := setup 0 0 .none
    (s.admin.lifecycle = 2 ∧ s.admin.owner = some s.args.cmd.req ∧ (s.fn? 0).isSome = true) ∧
    (s.functionOk 1 0 0x200000 5 [] [] = true ∧ (s.fn? 1).isNone = true ∧ (setup 0 0 .none).fnBusy 0 = true ∧
      ({ s with warps := [], blocks := [], launches := [] } : State).fnBusy 0 = false) ∧
    (stackOf 0x102000 = some 0 ∧ s.stackIn 0 0 = true ∧ stackOf (0x102000 + 4096 - 1) = stackOf 0x102000) ∧
    grantOk (List.replicate 32 0 ++ [2, 0, 9, 0] ++ List.replicate 8 0 ++ leBytes 4 60000 ++ List.replicate 16 0) = true ∧
    ((s.fn? 0).map (fun f => match s.walk 0 0x5000 false true 4 f.root with
      | .ok l => (bitAt l.pte 6, pteAttr l.pte, bitAt l.pte 7, isPeer (ptePa l.pte), l.size)
      | .error _ => (true, 1, true, true, 0))) = some (false, 0, false, false, 30) ∧
    (s.descriptorOk 0 descriptor1 = true ∧ s.regions = []) ∧
    (s.granted 0 0x100000 4096 = true ∧
      (inMem 0x2008 (leBytes 8 0x3021) (inMem 0x3000 (leBytes 8 0x4021) (inMem 0x4000 [] s))).entriesFrom 0 0x40000000 1 = some [0x4000]) ∧
    logBlockOk (leBytes 8 0x30000 ++ leBytes 4 64 ++ List.replicate 52 0) = true ∧
    ((queued 5 2 s).queue? 3).map (fun q => (q.fn, ((queued 5 2 s).cancelIdent q 0 4).isSome)) = some (0, true) := by
  refine ⟨by decide, by decide, by decide, by decide, by decide, by decide +kernel, by decide +kernel, by decide, by decide⟩

theorem wit_StepRunsDecoded :
    let s (w : Word) : State := core i32 id |> coded (demoEntry + 4) (leBytes 4 w.toNat)
    let sees (s : State) (w : Word) : Bool := s.agenda.isEmpty && s.ctx?.any fun c => c.sp.begun && s.splitReady c.w c.k &&
      c.carriedTrap.isNone && !c.guest &&
      c.w.slab.isNone && (takeFirst s c).isNone && match s.fetchWord c.w (c.sp.pc.toNat + 4 * c.sp.slot) with | .ok x => x.2 == w | .error _ => false
    sees (s 0x09000000) 0x09000000 = true ∧ decode 0x09000000 = .ok .exit ∧ sees (s 0x09000001) 0x09000001 = true ∧
    (match decode 0x09000001 with | .ok _ => false | .error _ => true) = true := ⟨by decide, by decide, by decide, by decide⟩

theorem wit_DecodeEncode :
    let i : Instr := .sel ⟨31, 31, 7, true, 31, 7, true, false⟩
    i.wellFormed = true ∧ encode i = some 0x1EFFFFFE ∧ decode 0x1EFFFFFE = .ok i := ⟨by decide, by decide, by decide⟩

theorem wit_IntegerRounding : Ty.isInt .i8 = true ∧ roundInt .i8 true 128 = (127, stSATD) ∧ roundInt .i8 true 127 = (127, 0) ∧ 8 ∈ [8, 16, 32, 64] ∧
    8 * 4 ≤ 64 := by decide

/-- The executing agent's registers are its own and have their sizes. -/
theorem wit_RegisterFrames :
    (∀ s ∈ [core i32 id, core i64 id, core f32 id, core never id], (s.ctx?.any fun c => decide (Running c) && decide (Warp.shaped c.w)) = true) ∧
    Meets (core i32 id) 0x10 (fun _ => v3Uses op3 1 1 1) (fun c => Running c ∧ c.w.shaped ∧ c.ty = .i32 ∧ modeSat c.m = false) ∧
    Meets (core f32 id) 0x40 (fun _ => v3Uses op3 1 1 1) (fun c => Running c ∧ c.ty.isFloat = true) ∧
    Meets (core i32 id) 0x32 (fun _ => [sdst 2 1, ssrc 1 1, ssrc 31 1]) (fun c => Running c ∧ c.w.shaped) ∧
    Meets (core i32 id) 0x29 (fun _ => viUses opI 1 1) (fun c => Running c ∧ c.w.shaped ∧ c.ty = .i32 ∧ modeSat c.m = false) ∧
    Meets (core i32 id) 0x30 (fun _ => [vdst 3 1]) (fun c => Running c ∧ c.w.shaped) ∧
    Meets (core i32 id) 0x31 (fun _ => [vacc 3 1]) (fun c => Running c ∧ c.w.shaped) :=
  ⟨by decide, meets (by decide), meets (by decide), meets (by decide), meets (by decide), meets (by decide), meets (by decide)⟩

theorem wit_WordResults :
    Meets (core i32 (withS 1 0xFFFFFFFF)) 0x10 (fun _ => v3Uses ⟨3, 1, 0, false, 1, 0, false, true⟩ 1 1 1)
      (fun c => Running c ∧ c.w.shaped ∧ c.ty = .i32 ∧ modeSat c.m = false) := meets (by decide)

theorem wit_MemoryFrames :
    let quiet (c : Ctx) : Prop := Running c ∧ c.w.region = none ∧ c.st.unwatched ∧ c.st.canonical
    Clear (core i32 id) 0x82 (fun c => [vsrc 2 0 false (pairs c.ty.pair), vsrc 8 0 false 2]) (fun c => c.ty.isDsb = false ∧ quiet c)
      { write := true, migrates := true } active (fun c i => c.st.linearTarget c.fn (wrapTo 64 (c.val true 8 i + 8)))
      (fun c s i => c.linear true false true (c.ty.width / 8) s i (wrapTo 64 (c.val true 8 i + 8))) ∧
    Clear (core i32 id) 0x87 (fun c => [vsrc 2 0 false (pairs c.ty.pair), vsrc 8 0 false 1]) (fun c => c.ty.isDsb = false ∧ quiet c)
      { write := true, migrates := true } active (fun c _ => c.scratchTarget 8) (fun c s i => c.scratch (c.ty.width / 8) s i 8) ∧
    Clear (core i32 id) 0x86 (fun c => [vdst 2 (pairs c.ty.pair), vsrc 8 0 false 1]) (fun c => c.ty.isDsb = false ∧ Running c)
      { write := false, migrates := true } active (fun c _ => c.scratchTarget 8) (fun c s i => c.scratch (c.ty.width / 8) s i 8) :=
  ⟨clear (by decide), clear (by decide), clear (by decide)⟩

/-! Further clauses of the events' statements. -/

/-- The same warp awaiting replay; and the premises about waiting warps. -/
theorem wit_BarrierEpisodesReplay :
    let s := arrived 11 (core i32 fun w => { w with replay := some (0x10000, 5) })
    (arrived 11 (core i32 id)).warps.all (·.region.isNone) = true ∧ ((arrived 11 (core i32 id)).warps.map (·.uid)).Nodup ∧
    s.warps.any (fun w => !w.gone && w.replay.isSome) = true ∧ (s.blocks.map fun b => s.covered b 11) = [false] := by decide

/-- Every shed entry of stack 2 is taken. -/
def shedFull (s : State) : State := { s with shuttles := List.replicate 256 (shuttle false) }
/-- The page's departure under must. -/
def must (w : Warp) : Warp := withSplit (fun sp => { sp with mode := 0x100008 }) (at50 w)

theorem wit_MigrationAsked :
    let target (c : Ctx) (i : Nat) : Option Dest := c.st.linearTarget c.fn (c.val true 8 i)
    Meets (shedFull (targetPage (core i32 at50))) 0xDE (fun _ => [vsrc 8 0 false 2]) (fun c => c.plan [] (target c) true = .ask [⟨.stack 2, 0, []⟩]) ∧
    Meets (targetPage (core i32 fun w => { must w with carryV := 0x1FFF })) 0xDE (fun _ => [vsrc 8 0 false 2])
      (fun c => c.plan [] (target c) true = .refuse 0 3) := ⟨meets (by decide +kernel), meets (by decide +kernel)⟩

theorem wit_AgentEventsLate :
    let s (f : Warp → Warp) : State := given 3 0 (core i32 f)
    (((s fun w => { w with replay := some (0x80000000, 5) }).warp? 3).bind fun w => w.replay.map fun r =>
      (match (s id).translateN ((s id).fnOf w) r.1.toNat 1 false with | .error .page => true | _ => false)) = some true ∧
    (s id).migrating 0 0x10000 = false ∧
    (let t : State := { sill i32 id with nextUid := 8200 }; (t.warp? 3).map t.starved) = some true := by decide

/-- A page of function 0 on its way to host memory, and a request that is held. -/
def moving : Migration := { fn := 0, page := 0x50000, size := 12, entries := [0x3000], old := 0x50000, toHost := true, frame := 0x7000 }
def heldRequest (s : State) : State := { s with held := [{ row := .cmdGetcert, args := s.args }] }
/-- A region that buffers a store to memory. -/
def buffering (w : Warp) : Warp := { w with region := some { splits := w.splits, opener := 0, handled := false, buf := [(.dev 0x30000, 5)] } }

theorem wit_HeldRequests :
    State.reset.commandWaits = false ∧ (heldRequest State.reset).commandWaits = true ∧
    (core i32 id).hostWaits [.dev 0x50008] = false ∧
    ({ core i32 id with migrations := [moving], args := { (core i32 id).args with flag := true } } : State).hostWaits [.dev 0x50008] = true ∧
    (core i32 id).buffered 0 = false ∧ (core i32 buffering).buffered 0 = true ∧
    ({ core i32 id with migrations := [moving] } : State).migrations.find? (fun m => m.fn == 0 && m.page ≤ 0x50123 && 0x50123 < m.page + 2 ^ m.size) =
      some moving ∧
    (match exec .registerWrite { core i32 id with args := { (core i32 id).args with load := .reg (bar0Reg 0 0x1000) } } with
      | .next _ => true | _ => false) = true := by decide

theorem wit_QueuesAndBuckets :
    (let s := inMem 0x24008 (leBytes 4 0) (queued 3 2 (core i32 id))
     (s.queue? 3).map fun q => queueBlockOk (s.queueBlock q)) = some false ∧
    (let s : State := { ended (queued 3 2 (core i32 (id))) with launches := (ended (core i32 id)).launches.map fun l => { l with queue := 3 } }
     (s.launch? 1).map (fun l => (s.completable l, l.balance, ((s.setLaunch { l with complete := true }).queue? l.queue).isSome)) = some
       (true, false, true)) ∧
    (let s : State := core i32 fun w => { w with gone := true, splits := List.replicate 4 Split.free }
     (s.block? 2).map (fun b => (s.freeable b, (s.blocks.filter (·.uid == b.uid)).length, b.mctx.any fun x => x.cmds.any
       fun c => c.batch == x.open')) =
       some (true, 1, false)) ∧
    (let depth := 1024 * max 1 (64 : BitVec 16).toNat
     (64 : Nat) ≤ min depth 64 ∧ min depth 64 < 65 ∧ 65 ≤ min depth 64 + 1) := by decide

/-- The block's warp has executed its resume TRET. -/
def resumed : State :=
  given 2 0 (withBlock (fun b => { b with preempt := .resuming })
    (core i32 fun w => { withSplit (fun sp => { sp with status := .resume }) w with handler := .restore 0 }))

theorem wit_Resumption :
    (resumed.block? 2).map resumed.allResumed = some true ∧ (resumed.readVa 0 0 0 256).isSome = true ∧
    ((resumed.warp? 3).map fun w => ((resumed.restoreWarp w).isSome, resumed.warpSlot w)) = some (true, 0x100) ∧
    ((resumed.fn? 0).map (·.running)) = some true ∧
    (let s : State := withBlock (fun b => { b with preempt := .taken }) { core i32 id with warps := [] }
     (s.block? 2).map (fun b => (s.forwards b.leftCore, (s.fn? 0).map s.sliceMayBegin,
       ((sortBy (·.tag) (s.blocks.filter fun x => x.preempt == .taken && s.fnOfBlock x == 0)).head?).map (·.uid))) = some
         (0, some false, some 2)) := by
  refine ⟨by decide, by decide, by decide +kernel, by decide, by decide⟩

theorem wit_TakenFirst :
    let s : State := coded (demoEntry + 4) (leBytes 4 0xB7000000) (withBlock (fun b => { b with preempt := .requested }) (core i32 id))
    (match exec .warpTaken { s with args := { a := 3, b := 0 } } with
      | .next t => t.warps != s.warps | _ => false) = true ∧
    s.ctx?.any (fun c => c.sp.begun && s.splitReady c.w c.k && (takeFirst s c).isSome) = true := by decide +kernel

theorem wit_SlabsAndRings :
    (∀ cool ∈ [0, 5], ((tensor fun sl => { sl with cool := cool, decided := some 1 }).slab? 3 0).map
      (fun p => (p.2.state, p.2.cool, p.2.decided.isSome)) =
      some (0, cool, true)) ∧
    ({ tensor (fun sl => { sl with decided := some 1 }) with frontEnds := (tensor id).frontEnds.map fun f => { f with reserve := 0 } } : State).frontEnds[2]?.map
      (fun f => decide (f.reserve < 1)) = some true ∧
    produced.ringTurn 2 = some 0 ∧ ({ bankop0 true with rows := [] } : BankOp).rows[0]? = none ∧
    (let x : SavedWave := { addr := 0x30000, own := false, warp := demoWarp true, bank := none }
     let s : State := { sill i32 id with saved := [x] }
     ((s.loadRecord x 0).map (fun r => (recordOwned (r.2.map (·.1))).all (s.pchFree 0)), ((s.fn? (s.fnOf x.warp)).map (·.running)).getD false,
       s.sillCore 0 x.warp.ldsSize none)) = (some true, true, some 1) := by
  refine ⟨by decide, by decide, by decide, by decide, by decide +kernel⟩

/-- What the wipe, the host's accesses and the links ask of a state. -/
theorem wit_WipesHostAndLinks :
    let wiping : State := { queued 3 2 (core i32 id) with admin := { (queued 3 2 (core i32 id)).admin with wiping := true } }
    let m : Message := { fn := 0, host := false, device := 7, endpoint := 0x21000, words := [1, 2], count := 2, sender := 0, source := 0 }
    let routed : State := { core i32 id with msgs := [m], admin := { (core i32 id).admin with routes := [(7, 15)] } }
    (wiping.admin.wiping = true ∧ (wiping.queue? 3).isSome = true ∧ (core i32 id).admin.wiping = false) ∧
    ((core i32 id).hostLocs 0 0 0x30000 4 = none ∧ (core i32 id).hostLocs 0 2 0x30000 4 = some ((Loc.host 0x30000).span 4) ∧
      (core i32 id).hostWaits ((Loc.host 0x30000).span 4) = false) ∧
    (routed.msgs[0]? = some m ∧ m.device ≠ routed.admin.device ∧ routed.route m.device = some 15) ∧
    (∃ t, ({ routed with msgs := routed.msgs.eraseIdx 0 } : State).sendFlit 15 2 0 (messagePayload m) = some t) ∧
    (∀ p : Port, ∃ f : Flit, flitIntact f = true ∧ f.seq = p.expect) ∧
      (State.reset.admin.ports[15]?).map (fun p => decide (4 ≤ p.lanes - 5)) = some true ∧
    headerOk State.reset.args.cmd = true ∧ headerOk { State.reset.args.cmd with len := 4033 } = false ∧
    headerOk { State.reset.args.cmd with zero := 1 } = false ∧ headerOk { State.reset.args.cmd with code := some 0x99 } = false :=
  ⟨by decide, by decide, by decide, ⟨_, rfl⟩,
    fun p => ⟨{ seq := p.expect, ack := 0, cls := 1, credits := 0, payload := [], crc := Config.crc64 (flitBody p.expect 0 1 0 []) },
      by simp [flitIntact, bodyOf], rfl⟩,
    by decide, by decide, by decide, by decide, by decide⟩

/-- Rows with errors, faulty pseudo-channels and islands under a limit. -/
theorem wit_RepairsAndPower :
    let row (n : Nat) (u : Bool) : RowErrors := { stack := 0, pch := 5, bank := 1, row := 9, corrected := n, uncorrectable := u }
    let pch (f : Pch → Pch) : State := { State.reset with pchs := [f (Pch.fresh 0 5)] }
    let limited (f : Admin → Admin) : Admin := f { State.reset.admin with limiting := true, before := State.reset.admin.clusters }
    ((row 4 false).due = true ∧ (row 0 true).due = true ∧ (row 3 false).due = false) ∧
    ((pch id).pch 0 5).repaired.getD 1 0 < 8 ∧ 8 ≤ ((pch fun p => { p with repaired := List.replicate 16 8 }).pch 0 5).repaired.getD 1 0 ∧
    ((pch fun p => { p with retiring := true }).pch 0 5).retiring = true ∧ ((pch id).pch 0 5).retiring = false ∧
    ((State.reset.frontEnds.set 0 { Stack.fresh with sparesUsed := 2 })[0]?).map (·.sparesUsed) = some 2 ∧
    (State.reset.admin.limiting = false ∧ (limited id).limiting = true ∧ (∀ x ∈ (limited id).sill, 1600 ≤ x) ∧ (limited id).hold = 0) ∧
    ((limited fun a => { a with clusters := a.clusters.map (stepDown 1200) }).clusters ≠ (limited id).before) ∧
    (limited fun a => { a with hold := 3 }).hold ≠ 0 ∧ (∃ x ∈ (limited fun a => { a with sill := a.sill.map (stepDown 800) }).sill, x < 1600) :=
  ⟨by decide, by decide, by decide, by decide, by decide, by decide, by decide, by decide, by decide, by decide⟩

/-- A JOIN that has waited the interval, and one that has not; the publisher's grant; and no ring at a stack. -/
theorem wit_LimitsAndGrants :
    let joins (n : Nat) : State := given 3 0 (core i32 (withSplit fun sp => { sp with status := .join, waited := n }))
    (∀ n ∈ [0, 4096], ((joins n).warp? 3).map (fun w => (w.splits[0]?).map fun sp => (sp.status, sp.waited, decide ((joins n).fairness w ≤ n))) =
      some (some (.join, n, decide (n = 4096)))) ∧
    (let s : State := withCopy driveCopy { core i32 id with admin := { (core i32 id).admin with fns := (core i32 id).admin.fns.map fun f =>
       { f with grants := [(5, List.replicate 64 1)] } } }
     (s.grant? driveCopy).isSome = true) ∧
    ((core i32 id).launch? 1).map (fun l => (l.group, l.balance)) = some (false, false) ∧ (core i32 id).admin.limiting = false ∧
    (core i32 id).ctx?.map (fun c => c.ringWait 2) = some none :=
  ⟨by decide, by decide, by decide, by decide, by decide⟩

/-! ### Single steps: each expected value is worked out by hand from the rule named -/

/-- The state one step after a word stands at the executing agent's slot. -/
def after (w : Word) (s : State) : Option State :=
  match step (s.withFetchWord 32 w.toNat) with
  | .next t => some t
  | _ => none

/-- Lane l of v<r>, a scalar, and what an operation that has not completed will write to v<r>'s lane l. -/
def laneOf (r l : Nat) (s : Option State) : Option Word := s.bind fun s => (s.warp? 3).map fun w => (w.reg r).val.getD l 0
def scalarOf (r : Nat) (s : Option State) : Option Word := s.bind fun s => (s.warp? 3).map (·.sreg r)
def dueOf (r l : Nat) (s : Option State) : Option Word := s.bind fun s => (s.warp? 3).bind fun w =>
  (w.ops.flatMap (·.writes)).find? (fun x => x.cls == 0 && x.reg == r) |>.map fun x => x.vals.getD l 0
def byteOf (l : Loc) (s : Option State) : Option Byte := s.map (·.readByte l)
def causeOf (s : Option State) : Option (Word × Word) := s.bind fun s => (s.warp? 3).map fun w => (w.trapcause, w.trapinfo)

/-- Registers v1 and v2 alike in every lane. -/
def v12 (a b : Word) (w : Warp) : Warp :=
  let r (x : Word) : VReg := { VReg.empty with live := true, val := List.replicate 32 x }
  { w with v := (w.v.set 1 (r a)).set 2 (r b) }
def v8 (a : Word) (w : Warp) : Warp := { w with v := w.v.set 8 { VReg.empty with live := true, val := List.replicate 32 a } }

-- v3 := v1 op v2 is opcode, 3 at bit 19, 1 at bit 14, 2 at bit 5 (R49, R50): 0x184040.
theorem test_iadd_wraps : laneOf 3 1 (after 0x10184040 (core i32 (v12 0xFFFFFFFF 2))) = some 1 := by decide
theorem test_imulh_signed : laneOf 3 0 (after 0x13184040 (core i32 (v12 0x80000000 0x80000000))) = some 0x40000000 := by decide
theorem test_shl_count : laneOf 3 0 (after 0x1B184040 (core i32 (v12 1 33))) = some 2 := by decide
theorem test_sar_sign : laneOf 3 0 (after 0x1D184040 (core i32 (v12 0x80000000 31))) = some 0xFFFFFFFF := by decide
theorem test_imin_signed : laneOf 3 0 (after 0x15184040 (core i32 (v12 0xFFFFFFFF 1))) = some 0xFFFFFFFF := by decide
theorem test_andn : laneOf 3 0 (after 0x1A184040 (core i32 (v12 0xFF 0x0F))) = some 0xF0 := by decide
theorem test_guard_keeps : laneOf 3 1 (after 0x10184040 (core never (half ∘ v12 1 2))) = some 0 := by decide
theorem test_sel_takes_b : laneOf 3 1 (after 0x1E184040 (core never (half ∘ v12 1 2))) = some 2 := by decide
theorem test_popc : laneOf 3 0 (after 0x20184000 (core i32 (v12 0xF00F 0))) = some 8 := by decide
theorem test_clz : laneOf 3 0 (after 0x21184000 (core i32 (v12 1 0))) = some 31 := by decide
theorem test_brev : laneOf 3 0 (after 0x22184000 (core i32 (v12 1 0))) = some 0x80000000 := by decide
theorem test_isetp_lt_signed : ((after 0x25184040 (core i32 (v12 0xFFFFFFFF 0))).bind fun s => (s.warp? 3).map
  fun w => w.p.getD 3 0) = some 3 := by decide
-- The worked examples of the spec: MOVI v2, 0x3C00 and SMOVI s2, 0x100.
theorem test_movi : laneOf 2 0 (after 0x30103C00 (core i32 id)) = some 0x3C00 := by decide
theorem test_movhi : laneOf 2 0 (after 0x31101FFF (core i32 (v12 0 5))) = some 0xFFF80005 := by decide
theorem test_smovi : scalarOf 2 (after 0x3B100100 (core i32 id)) = some 0x100 := by decide
theorem test_smovi_s0 : scalarOf 0 (after 0x3B000100 (core i32 id)) = some 0 := by decide
theorem test_fadd_rounds : laneOf 3 0 (after 0x40184040 (core f32 (v12 0x3F800000 0x33800000))) = some 0x3F800000 := by decide
theorem test_fmin_zeros : laneOf 3 0 (after 0x46184040 (core f32 (v12 0x00000000 0x80000000))) = some 0x80000000 := by decide
theorem test_fsetp_unordered : ((after 0x61184040 (core f32 (v12 0x7FC00000 0))).bind fun s => (s.warp? 3).map
  fun w => w.p.getD 3 0) = some 3 := by decide
-- BRA with offset -1 goes to the clause before (R89); EXIT ends the warp's lanes (R91); TRAP 5 in a launch without a handler ends it with its cause (R33).
theorem test_bra : ((after 0x01FFFFFF (core i32 id)).bind fun s => (s.warp? 3).map fun w => (w.splits.headD Split.free).pc) = some 0xFFE0 := by decide
theorem test_exit : ((after 0x09000000 (core i32 id)).map fun s => (s.warp? 3).all fun w => w.allLanes == 0) = some true := by decide
theorem test_reserved_opcode : causeOf (after 0xF0000000 (withRecord 112 (leBytes 8 0x20000) (core i32 id))) = some (1, 0xF018) := by decide
-- ST v1, [v8 + 0]: least significant byte first (R128); LD answers what it will write when it completes (R41).
theorem test_st : byteOf (.dev 0x30001) (after 0x820A0000 (core i32 (v8 0x30000 ∘ v12 0x11223344 0))) = some 0x33 := by decide
theorem test_ld : dueOf 1 1 (after 0x800A0000 (inMem 0x30000 [1, 2, 3, 4] (core i32 (v8 0x30000)))) = some 0x04030201 := by decide
theorem test_sts : byteOf (.scr 2 0x100) (after 0x870A0000 (core i32 (v8 0x100 ∘ v12 0x11223344 0))) = some 0x44 := by decide
-- ATOM_ADD v1, [v8], v2: lane 1 receives what lane 0 left (R129, R143).
theorem test_atom_add : dueOf 1 1 (after 0x8E0A0200 (inMem 0x30000 [7] (core i32 (v8 0x30000 ∘ v12 0 5)))) = some 12 := by decide
theorem test_atom_add_memory : byteOf (.dev 0x30000) (after 0x8E0A0200 (inMem 0x30000 [7] (core i32 (v8 0x30000 ∘ v12 0 5)))) = some 17 := by decide
theorem test_misaligned_atom : causeOf (after 0x8E0A0200 (withRecord 112 (leBytes 8 0x20000) (core i32 at2))) = some (0xA, 0x40) := by decide

end Sys2Proof.Tests
end

section
/-! SUPPORT. What the events of the host, of the links and of the repairs do (R5, R204, R402 to R437), one lemma for each case of
each event, and the obligation that puts them together. -/

namespace Sys2Proof.Proofs

open Sys2Proof.Machine

variable {s : State}

/-! ### Accesses of the host (R274, R329, R410, R436) -/

/-- A host access completes in a state t: it waits no longer, and a read answers its bytes. -/
def answered (s : State) (bs : List Byte) (t : State) : State :=
  if s.args.flag = true then t.unhold else { t.unhold with admin := { t.admin with hostReads := t.admin.hostReads ++ [bs] } }

theorem hostCxlAccess_wiping (h : s.admin.wiping = true) : exec .hostCxlAccess s = .next (answered s [] s) := by
  change execHostCxlAccess s = _
  simp [execHostCxlAccess, answered, h]

theorem hostCxlAccess_refused (hw : s.admin.wiping = false)
    (hl : s.hostLocs s.args.a s.args.c s.args.value.toNat (hostBytes s.args) = none) :
    exec .hostCxlAccess s = .next (answered s [] (s.log s.args.a 0x15 s.args.value.toNat 0 0 3 0 0).1) := by
  change execHostCxlAccess s = _
  simp [execHostCxlAccess, answered, hw, hl]

theorem hostCxlAccess_held {ls : List Loc} (hw : s.admin.wiping = false)
    (hl : s.hostLocs s.args.a s.args.c s.args.value.toNat (hostBytes s.args) = some ls) (hq : s.hostWaits ls = true) :
    exec .hostCxlAccess s = .next (s.hold .hostCxlAccess) := by
  change execHostCxlAccess s = _
  simp [execHostCxlAccess, hw, hl, hq]

theorem hostCxlAccess_read {ls : List Loc} (hw : s.admin.wiping = false)
    (hl : s.hostLocs s.args.a s.args.c s.args.value.toNat s.args.b = some ls) (hf : s.args.flag = false) (hq : s.hostWaits ls = false) :
    exec .hostCxlAccess s = .next { s.unhold with admin := { s.admin with
      hostReads := s.admin.hostReads ++ [if s.poisoned ls = true then [] else s.readLocs ls] } } := by
  change execHostCxlAccess s = _
  have hn : hostBytes s.args = s.args.b := by simp [hostBytes, hf]
  simp [execHostCxlAccess, State.unhold, hw, hn, hl, hf, hq]

theorem hostCxlAccess_write {ls : List Loc} (hw : s.admin.wiping = false)
    (hl : s.hostLocs s.args.a s.args.c s.args.value.toNat s.args.bytes.length = some ls) (hf : s.args.flag = true)
    (hq : s.hostWaits ls = false) (hv : ∀ k o, Loc.view k o ∉ ls) :
    exec .hostCxlAccess s = .next (s.land (s.hostStores (List.zip ls s.args.bytes)) none).unhold := by
  change execHostCxlAccess s = _
  have hn : hostBytes s.args = s.args.bytes.length := by simp [hostBytes, hf]
  simp only [execHostCxlAccess, hw, hn, hl, hf, hq, Bool.false_eq_true, if_false, if_true]
  rw [if_neg]
  rw [List.any_eq_true]
  rintro ⟨l, hl, hm⟩
  cases l with
  | view k o => exact hv k o hl
  | _ => cases hm

theorem hostCxlAccess_view {ls : List Loc} {k o : Nat} (hw : s.admin.wiping = false)
    (hl : s.hostLocs s.args.a s.args.c s.args.value.toNat s.args.bytes.length = some ls) (hf : s.args.flag = true)
    (hq : s.hostWaits ls = false) (hv : Loc.view k o ∈ ls) :
    exec .hostCxlAccess s = .next (s.log s.args.a 0x15 s.args.value.toNat 0 0 1 0 0).1.unhold := by
  change execHostCxlAccess s = _
  have hn : hostBytes s.args = s.args.bytes.length := by simp [hostBytes, hf]
  simp only [execHostCxlAccess, hw, hn, hl, hf, hq, Bool.false_eq_true, if_false, if_true]
  rw [if_pos (List.any_eq_true.2 ⟨_, hv, rfl⟩)]

/-! ### Translations (R402) -/

theorem priResponse_granted (h : s.args.flag = true) :
    exec .priResponse s = .next { s with pri := s.pri.filter (· != (s.args.a, s.args.b)),
                                         ats := s.ats.filter (· != (s.args.a, s.args.b)) ++ [(s.args.a, s.args.b)] } := by
  change execPriResponse s = _
  simp [execPriResponse, h]

theorem priResponse_refused (h : s.args.flag = false) :
    exec .priResponse s = .next (({ s with pri := s.pri.filter (· != (s.args.a, s.args.b)) } : State).hostRefuses s.args.a s.args.b) := by
  change execPriResponse s = _
  simp [execPriResponse, h]

/-- The translations that the host keeps when those of n bytes from an address are dropped. -/
def keptAts (s : State) : List (Nat × Nat) :=
  s.ats.filter fun x => !(x.1 == s.args.a && s.args.b < x.2 * 4096 + 4096 && x.2 * 4096 < s.args.b + s.args.c)

/-- Dropping translations and following the watches leaves what regions and drives still hold back. -/
theorem buffered_followWatches (ats : List (Nat × Nat)) (fn g : Nat) :
    (({ s with ats := ats } : State).followWatches fn).buffered g = s.buffered g := rfl

theorem atsInvalidation_done (h : s.buffered s.args.a = false) :
    exec .atsInvalidation s = .next (({ s with ats := keptAts s } : State).followWatches s.args.a).unhold := by
  have hb := (buffered_followWatches (keptAts s) s.args.a s.args.a).trans h
  exact congrArg Host.Outcome.next (if_neg (Bool.eq_false_iff.1 hb))

theorem atsInvalidation_held (h : s.buffered s.args.a = true) :
    exec .atsInvalidation s = .next ((({ s with ats := keptAts s } : State).followWatches s.args.a).hold .atsInvalidation) :=
  congrArg Host.Outcome.next (if_pos ((buffered_followWatches (keptAts s) s.args.a s.args.a).trans h))

/-! ### Watch registers (R409, R411, R412) -/

section Watches

variable {fn n : Nat} {f : Fn} {w : Watch}

theorem watchArm_armed {x : State × List Loc} (hf : s.fn? s.args.a = some f) (hw : f.watch[s.args.b]? = some w)
    (hal : w.addr.toNat % 8 = 0) (hmode : bitsAt w.ctl.toNat 2 1 ≠ 3) (ht : s.translateN s.args.a w.addr.toNat 8 false = .ok x) :
    exec .watchArm s = .next
      ((x.1.modWatch s.args.a s.args.b fun w => { w with ctl := w.ctl ||| 1, place := x.2 }).checkWatch s.args.a s.args.b) := by
  change execWatchArm s = _
  simp [execWatchArm, State.armWatch, hf, hw, hal, hmode, ht]

theorem watchArm_refused (hf : s.fn? s.args.a = some f) (hw : f.watch[s.args.b]? = some w)
    (hbad : w.addr.toNat % 8 ≠ 0 ∨ bitsAt w.ctl.toNat 2 1 = 3) :
    exec .watchArm s = .next ((s.modWatch s.args.a s.args.b fun w => { w with ctl := w.ctl &&& ~~~1 }).log s.args.a 0x16
      w.addr.toNat 0 0 4 0 0).1 := by
  change execWatchArm s = _
  have hb : (w.addr.toNat % 8 != 0 || bitsAt w.ctl.toNat 2 1 == 3) = true := by simpa using hbad
  simp only [execWatchArm, State.armWatch, hf, hw, hb, Option.bind_some, if_true]

theorem watchFire_fires (hf : s.fn? s.args.a = some f) (hw : f.watch[s.args.b]? = some w) (harm : w.ctl.getLsbD 0 = true)
    (hc : w.holds (leNat (s.readLocs w.place)) = true) :
    exec .watchFire s = .next ((s.modFn s.args.a fun f =>
      { f with watch := f.watch.set s.args.b { w with ctl := (w.ctl &&& ~~~1) ||| 8 } }).interrupt s.args.a (bitsAt w.ctl.toNat 26 16)) := by
  change execWatchFire s = _
  have hw? : s.watch? s.args.a s.args.b = some w := by simp [State.watch?, hf, hw]
  simp only [execWatchFire, State.checkWatch, hw?, harm, hc, Bool.and_self, if_true]

theorem interrupt_sent (h : n < (if fn = 0 then 2048 else 64)) :
    s.interrupt fn n = { s with admin := { s.admin with vectors := s.admin.vectors ++ [(fn, n)] } } := if_pos h

theorem interrupt_beyond (h : ¬n < (if fn = 0 then 2048 else 64)) : s.interrupt fn n = s := if_neg h

/-! ### Register writes (R5, R405, R411) -/

/-- A payload names a register, by itself or by its offset in BAR 0. -/
def NamesReg (p : Payload) (r : DevReg) : Prop := p = .reg r ∨ ∃ fn off, p = .reg (.bar0 fn off) ∧ bar0Reg fn off = r

/-- Byte d of watch register n lies in BAR 0's watch registers, and its offset gives n and d back. -/
theorem watch_offset {d off : Nat} (hn : n < 16) (hd : d < 32) (hoff : off = 0x1000 + d + 32 * n) :
    ¬(off < 0x1000 ∨ 0x1200 ≤ off) ∧ (off - 0x1000) / 32 = n ∧ (off - 0x1000) % 32 = d := by omega

theorem bar0Reg_watchAddr (hn : n < 16) : bar0Reg fn (0x1000 + 32 * n) = .watchAddr fn n := by
  obtain ⟨hin, hnum, hbyte⟩ := watch_offset (d := 0) (off := 0x1000 + 32 * n) hn (by decide) rfl
  simp only [bar0Reg, if_neg hin, hnum, hbyte]

theorem bar0Reg_watchThresh (hn : n < 16) : bar0Reg fn (0x1008 + 32 * n) = .watchThresh fn n := by
  obtain ⟨hin, hnum, hbyte⟩ := watch_offset (d := 8) (off := 0x1008 + 32 * n) hn (by decide) rfl
  simp only [bar0Reg, if_neg hin, hnum, hbyte]

theorem bar0Reg_watchCtl (hn : n < 16) : bar0Reg fn (0x1010 + 32 * n) = .watchCtl fn n := by
  obtain ⟨hin, hnum, hbyte⟩ := watch_offset (d := 16) (off := 0x1010 + 32 * n) hn (by decide) rfl
  simp only [bar0Reg, if_neg hin, hnum, hbyte]

/-- A payload that names a register, or the offset in BAR 0 at which it lies. -/
theorem namesReg_of {p : Payload} {r : DevReg} {off : Nat} (hr : n < 16 → bar0Reg fn off = r)
    (h : p = .reg r ∨ n < 16 ∧ p = .reg (.bar0 fn off)) : NamesReg p r :=
  h.imp_right fun ⟨hn, hp⟩ => ⟨fn, off, hp, hr hn⟩

theorem registerWrite_watchAddr (h : NamesReg s.args.load (.watchAddr fn n)) :
    exec .registerWrite s = .next (s.modWatch fn n fun w => { w with addr := s.args.value }) := by
  change execRegisterWrite s = _
  obtain h | ⟨g, off, h, hr⟩ := h
  · simp [execRegisterWrite, h]
  · simp [execRegisterWrite, h, hr]

theorem registerWrite_watchThresh (h : NamesReg s.args.load (.watchThresh fn n)) :
    exec .registerWrite s = .next (s.modWatch fn n fun w => { w with thresh := s.args.value }) := by
  change execRegisterWrite s = _
  obtain h | ⟨g, off, h, hr⟩ := h
  · simp [execRegisterWrite, h]
  · simp [execRegisterWrite, h, hr]

/-- A write to CTL arms the watch register where it writes ARM to 1. -/
theorem registerWrite_watchCtl (h : NamesReg s.args.load (.watchCtl fn n)) :
    let s1 := s.modWatch fn n fun w => w.writeCtl (Machine.word s.args.value.toNat)
    exec .registerWrite s = .next (if s.args.value.getLsbD 0 = true then s1.armWatch fn n else s1) := by
  change execRegisterWrite s = _
  have hbit : (Machine.word s.args.value.toNat).getLsbD 0 = s.args.value.getLsbD 0 := by simp [Machine.word]
  obtain h | ⟨g, off, h, hr⟩ := h
  · simp only [execRegisterWrite, h, hbit]
  · simp only [execRegisterWrite, h, hr, hbit]

end Watches

theorem registerWrite_firewall {k : Nat} (h : s.args.load = .reg (.firewall k)) :
    exec .registerWrite s = .next { s with admin := { s.admin with
      firewall := s.admin.firewall.modify k fun old => firewallWrite old (Machine.word s.args.value.toNat) } } := by
  change execRegisterWrite s = _
  simp [execRegisterWrite, h]

/-! ### Messages (R204, R413, R417) -/

section Messages

variable {m : Message}

/-- No message before number a of the list is of the same sender for the same endpoint as m. -/
def FirstOfItsWarp (s : State) (m : Message) : Prop :=
  ∀ x ∈ s.msgs.take s.args.a,
    ¬(x.source = m.source ∧ x.warp = m.warp ∧ x.endpoint = m.endpoint ∧ x.host = m.host ∧ x.device = m.device)

theorem noEarlier_of_first (h : FirstOfItsWarp s m) :
    ((s.msgs.take s.args.a).any fun x => x.source == m.source && x.warp == m.warp && x.endpoint == m.endpoint &&
      x.host == m.host && x.device == m.device) = false := by
  rw [List.any_eq_false]
  intro x hx hb
  simp only [Bool.and_eq_true, beq_iff_eq, and_assoc] at hb
  exact h x hx hb

theorem messageDelivery_local (hm : s.msgs[s.args.a]? = some m) (hh : m.host = false) (hd : m.device = s.admin.device)
    (hfirst : FirstOfItsWarp s m)
    (hfree : 0 < ({ s with msgs := s.msgs.eraseIdx s.args.a } : State).freeSlots false m.endpoint.toNat) :
    let s1 : State := { s with msgs := s.msgs.eraseIdx s.args.a }
    let blk := s1.readLocs ((Loc.dev m.endpoint.toNat).span 64)
    let slot := Loc.dev (fieldAt blk 0 8 + 64 * (fieldAt blk 16 8 % fieldAt blk 8 4))
    exec .messageDelivery s = .next ((s1.land (List.zip (slot.span 64) (slotBytes m)) none).landNum (.dev (m.endpoint.toNat + 16)) 8
      ((fieldAt blk 16 8 + 1) % 2 ^ 64) none) := by
  change execMessageDelivery s = _
  have hlocal : (m.host || m.device == s.admin.device) = true := by simp [hd]
  have hroom : ¬({ s with msgs := s.msgs.eraseIdx s.args.a } : State).freeSlots m.host m.endpoint.toNat ≤ 0 := by
    rw [hh]
    exact not_le.2 hfree
  simp only [execMessageDelivery, hm, noEarlier_of_first hfirst, hlocal, decide_eq_false hroom, Bool.and_false, Bool.or_self,
    Bool.not_true, Bool.false_eq_true, if_false]
  simp only [hh, Bool.false_and, Bool.false_eq_true, if_false]
  rfl

theorem messageDelivery_remote {n : Nat} {t : State} (hm : s.msgs[s.args.a]? = some m) (hh : m.host = false)
    (hd : m.device ≠ s.admin.device) (hfirst : FirstOfItsWarp s m) (hr : s.route m.device = some n)
    (ht : ({ s with msgs := s.msgs.eraseIdx s.args.a } : State).sendFlit n 2 0 (messagePayload m) = some t) :
    exec .messageDelivery s = .next t := by
  change execMessageDelivery s = _
  have he := noEarlier_of_first hfirst
  have hlocal : (m.host || m.device == s.admin.device) = false := by simp [hh, hd]
  simp only [execMessageDelivery, hm, he, hlocal, hr, ht, Bool.false_and, Bool.or_self, Bool.not_false, Bool.false_eq_true, if_false,
    if_true, Option.bind_some, Option.getD_some]

end Messages

/-! ### Flits and lanes (R416, R424) -/

section Links

variable {p : Port} {f : Flit}

/-- What a port does with a flit that its CRC lets pass. -/
theorem receive_intact (h : flitIntact f = true) :
    p.receive f =
      let u := match p.unacked.findIdx? (·.seq == f.ack) with
        | some i => p.unacked.drop (i + 1)
        | none => p.unacked
      if f.seq = p.expect then { p with unacked := u, expect := p.expect + 1, replay := false, accepted := p.accepted ++ [(f.cls, f.payload)] }
      else { p with unacked := u } := by
  unfold Port.receive
  cases p.unacked.findIdx? (·.seq == f.ack) <;> simp [h]

theorem receive_broken (h : flitIntact f = false) : p.receive f = { p with replay := true } := by
  simp [Port.receive, h]

theorem receive_next (h : flitIntact f = true) (hseq : f.seq = p.expect) :
    (p.receive f).expect = p.expect + 1 ∧ (p.receive f).accepted = p.accepted ++ [(f.cls, f.payload)] := by
  simp [receive_intact h, hseq]

theorem receive_other (h : flitIntact f = true) (hseq : f.seq ≠ p.expect) :
    (p.receive f).expect = p.expect ∧ (p.receive f).accepted = p.accepted := by
  simp [receive_intact h, hseq]

theorem flitReceive_accepted (hload : s.args.load = .flit f) (hflag : s.args.flag = false) (hp : s.admin.ports[s.args.a]? = some p)
    (h : flitIntact f = true) (hseq : f.seq = p.expect) :
    exec .flitReceive s = .next (((s.setPort s.args.a (p.receive f)).takeFlit f).payCredits) := by
  change execFlitReceive s = _
  simp [execFlitReceive, hp, hflag, hload, h, hseq]

theorem flitReceive_discarded (hload : s.args.load = .flit f) (hflag : s.args.flag = false) (hp : s.admin.ports[s.args.a]? = some p)
    (h : flitIntact f = false ∨ f.seq ≠ p.expect) :
    exec .flitReceive s = .next (s.setPort s.args.a (p.receive f)).payCredits := by
  change execFlitReceive s = _
  have hno : ¬(flitIntact f && f.seq == p.expect) = true := by
    rcases h with h | h <;> simp [h]
  simp only [execFlitReceive, hp, hflag, hload, if_neg hno, Bool.false_eq_true, if_false]

theorem laneRepair_heddle {n : Nat} (hload : s.args.load = .link (.heddle n)) (hp : s.admin.ports[n]? = some p) (hb : s.args.b < 8)
    (hup : 4 ≤ p.lanes - s.args.a) :
    exec .laneRepair s = .next ((s.devEvent (.laneRepair (.heddle n))).setPort n
      { p with lanes := p.lanes - s.args.a, unacked := [], replay := false }) := by
  change execLaneRepair s = _
  simp only [execLaneRepair, hload, hp, Port.up, hup, Nat.not_le.2 hb, decide_true, Bool.not_true, Bool.false_eq_true, if_false]
  rfl

end Links

/-! ### Scrub and row repair (R421) -/

theorem scrubPeriod_new {found : List ScrubFind} (hload : s.args.load = .scrub found) (hflag : s.args.flag = false) :
    exec .scrubPeriod s = .next
      (found.foldl State.scrubFind (s.modAdmin fun a => { a with rowErrors := a.rowErrors.filter RowErrors.due })) := by
  change execScrubPeriod s = _
  simp [execScrubPeriod, hload, hflag]

theorem scrubPeriod_reads {found : List ScrubFind} (hload : s.args.load = .scrub found) (hflag : s.args.flag = true) :
    exec .scrubPeriod s = .next (found.foldl State.scrubFind s) := by
  change execScrubPeriod s = _
  simp [execScrubPeriod, hload, hflag]

/-- The row that the event ROW_REPAIR names. -/
def isNamedRow (s : State) (r : RowErrors) : Bool := r.isRow s.args.a s.args.b s.args.c s.args.value.toNat

/-- The condition of ROW_REPAIR that a named row is to be repaired. -/
theorem any_namedRow_due_iff :
    (s.admin.rowErrors.any fun r => r.isRow s.args.a s.args.b s.args.c s.args.value.toNat && r.due) = true ↔
      ∃ r ∈ s.admin.rowErrors, isNamedRow s r = true ∧ r.due = true := by
  simp [isNamedRow]

theorem rowRepair_notDue (hdue : ∀ r ∈ s.admin.rowErrors, isNamedRow s r = true → r.due = false) : exec .rowRepair s = .next s := by
  change execRowRepair s = _
  have hany := mt any_namedRow_due_iff.1 fun ⟨r, hr, hrow, hd⟩ => Bool.false_ne_true ((hdue r hr hrow).symm.trans hd)
  exact if_pos (by simp [Bool.eq_false_iff.2 hany])

section Rows

variable (hfree : (s.pch s.args.a s.args.b).owner = none) (hdue : ∃ r ∈ s.admin.rowErrors, isNamedRow s r = true ∧ r.due = true)
include hfree hdue

theorem rowRepair_goes :
    ¬((s.pch s.args.a s.args.b).owner.isSome ||
      !s.admin.rowErrors.any fun r => r.isRow s.args.a s.args.b s.args.c s.args.value.toNat && r.due) = true := by
  simp [hfree, any_namedRow_due_iff.2 hdue]

theorem rowRepair_noSpare (hn : 8 ≤ (s.pch s.args.a s.args.b).repaired.getD s.args.c 0) :
    exec .rowRepair s = .next (s.setPch { s.pch s.args.a s.args.b with retiring := true }) := by
  change execRowRepair s = _
  exact (if_neg (rowRepair_goes hfree hdue)).trans (if_pos hn)

theorem rowRepair_repairs (hn : (s.pch s.args.a s.args.b).repaired.getD s.args.c 0 < 8) :
    let p := s.pch s.args.a s.args.b
    exec .rowRepair s = .next (((s.modAdmin fun a => { a with rowErrors := a.rowErrors.filter fun r => !isNamedRow s r }).setPch
      { p with repaired := p.repaired.set s.args.c (p.repaired.getD s.args.c 0 + 1) }).devEvent
        (.rowRepair s.args.a s.args.b s.args.c s.args.value.toNat)) := by
  change execRowRepair s = _
  exact (if_neg (rowRepair_goes hfree hdue)).trans (if_neg (Nat.not_le.2 hn))

end Rows

/-! ### Core-logic errors (R418, R422, R423) -/

theorem coreLogicError_array {e : ArrayError} (h : s.args.load = .array e) : exec .coreLogicError s = .next (s.arrayError e) := by
  change execCoreLogicError s = _
  simp [execCoreLogicError, h]

theorem coreLogicError_sill (hflag : s.args.flag = true) (hload : s.args.load = .none) :
    exec .coreLogicError s = .next (s.loseSillCore s.args.a s.args.b) := by
  change execCoreLogicError s = _
  simp [execCoreLogicError, hload, hflag]

/-- No warp runs in a slot of an empty list. -/
theorem not_inSlot_nil (w : Warp) (core : Nat) : w.inSlot core [] = false := by
  unfold Warp.inSlot
  cases w.kind with
  | main | dense => simp
  | guest => cases w.guest with
    | none => rfl
    | some g => cases hs : g.slot <;> simp [hs]
  | native => rfl

section Cores

variable {k : Nat} (hk : s.admin.sparesUsed[dieOfCore s.args.a]? = some k) (hflag : s.args.flag = false) (hload : s.args.load = .none)
include hk hflag hload

theorem coreLogicError_spare (hspare : k - s.args.c < 4) :
    exec .coreLogicError s = .next
      ((((s.warps.filter fun w => w.inSlot s.args.a (s.args.bytes.map (·.toNat))).foldl State.flagged s).modAdmin fun a =>
        { a with sparesUsed := a.sparesUsed.set (dieOfCore s.args.a) (k - s.args.c + 1) }).devEvent (.coreTransfer s.args.a)) := by
  change execCoreLogicError s = _
  simp [execCoreLogicError, hload, hflag, hk, hspare]

theorem coreLogicError_lost (hspare : 4 ≤ k - s.args.c) (hnone : s.args.bytes = []) :
    exec .coreLogicError s = .next (s.loseCore s.args.a) := by
  change execCoreLogicError s = _
  simp [execCoreLogicError, hload, hflag, hk, Nat.not_lt.2 hspare, hnone, not_inSlot_nil]

end Cores

/-! ### Retirement of a pseudo-channel (R425, R426) -/

theorem pseudoChannelRetirement_idle (hret : (s.pch s.args.a s.args.b).retiring = false) (hflag : s.args.flag = false) :
    exec .pseudoChannelRetirement s = .next s := by
  change execPseudoChannelRetirement s = _
  unfold execPseudoChannelRetirement
  cases s.frontEnds[s.args.a]? <;> simp [hret, hflag]

section Retirement

variable {f : Stack} (hf : s.frontEnds[s.args.a]? = some f) (hfree : (s.pch s.args.a s.args.b).owner = none)
  (hin : (s.pch s.args.a s.args.b).missing = false) (hb : s.args.b < 62)
  (hret : (s.pch s.args.a s.args.b).retiring = true ∨ s.args.flag = true)
include hf hfree hin hb hret

theorem pseudoChannelRetirement_goes :
    exec .pseudoChannelRetirement s =
      if f.sparesUsed < 2 then
        let p := s.pch s.args.a s.args.b
        let z := Pch.fresh s.args.a s.args.b
        let s1 := s.setPch { p with phys := 62 + f.sparesUsed, lanes := z.lanes, corrected := z.corrected, uncorrectable := z.uncorrectable,
                                    repaired := z.repaired, retiring := false }
        .next (((s1.modAdmin fun a => { a with rowErrors := a.rowErrors.filter fun r =>
          !(r.stack == s.args.a && r.pch == s.args.b) }).modFront s.args.a fun f => { f with sparesUsed := f.sparesUsed + 1 }).devEvent
            (.retirement s.args.a s.args.b))
      else .next (s.dropPch s.args.a s.args.b) := by
  change execPseudoChannelRetirement s = _
  have hgo : ¬((s.pch s.args.a s.args.b).missing || 62 ≤ s.args.b || !((s.pch s.args.a s.args.b).retiring || s.args.flag)) = true := by
    simp [hin, Nat.not_le.2 hb, Bool.or_eq_true_iff.2 hret]
  have howner : ¬(s.pch s.args.a s.args.b).owner.isSome = true := by simp [hfree]
  simp only [execPseudoChannelRetirement, hf]
  exact (if_neg hgo).trans (if_neg howner)

end Retirement

/-! ### Power limits (R437) -/

section Power

variable {a : Admin}

/-- The state of a package that a power limit acts on: what the clusters ran at is kept. -/
def limited (a : Admin) : Admin := if a.limiting = true then a else { a with limiting := true, before := a.clusters }

@[simp] theorem limited_clusters : (limited a).clusters = a.clusters := by unfold limited; split <;> rfl
@[simp] theorem limited_hold : (limited a).hold = a.hold := by unfold limited; split <;> rfl
@[simp] theorem limited_sill : (limited a).sill = a.sill := by unfold limited; split <;> rfl

theorem slower_eq : a.slower =
    if (limited a).clusters.any (1200 < ·) then { limited a with clusters := (limited a).clusters.map (stepDown 1200) }
    else { limited a with hold := min 15 ((limited a).hold + 1), sill := (limited a).sill.map (stepDown 800) } := rfl

theorem slower_clusters (h : ∃ x ∈ a.clusters, 1200 < x) :
    a.slower = { limited a with clusters := a.clusters.map (stepDown 1200) } := by
  have hany : (a.clusters.any (1200 < ·)) = true := by simpa using h
  simp [slower_eq, hany]

theorem slower_sill (h : ∀ x ∈ a.clusters, x ≤ 1200) :
    a.slower = { limited a with hold := min 15 (a.hold + 1), sill := a.sill.map (stepDown 800) } := by
  have hany : (a.clusters.any (1200 < ·)) = false := by simpa using h
  simp [slower_eq, hany]

theorem faster_unlimited (h : a.limiting = false) : a.faster = a := by simp [Admin.faster, h]

theorem faster_sill (hl : a.limiting = true) (h : ∃ x ∈ a.sill, x < 1600) : a.faster = { a with sill := a.sill.map (stepUp 1600) } := by
  have hany : (a.sill.any (· < 1600)) = true := by simpa using h
  simp [Admin.faster, hl, hany]

section Relaxing

variable (hl : a.limiting = true) (hsill : ∀ x ∈ a.sill, 1600 ≤ x)
include hl hsill

/-- Once the sill islands are back at their clock, the issue hold goes and then the clusters' limit. -/
theorem faster_afterSill :
    a.faster =
      let cs := (List.zip a.before a.clusters).map fun x => stepUp x.1 x.2
      if a.hold ≠ 0 then { a with hold := a.hold - 1 }
      else if cs = a.before then { a with clusters := cs, limiting := false, before := [] } else { a with clusters := cs } := by
  have hany : (a.sill.any (· < 1600)) = false := by simpa using hsill
  simp only [Admin.faster, hl, hany, Bool.not_true, Bool.false_eq_true, if_false]

theorem faster_hold (h : a.hold ≠ 0) : a.faster = { a with hold := a.hold - 1 } :=
  (faster_afterSill hl hsill).trans (if_pos h)

variable (hhold : a.hold = 0)
include hhold

theorem faster_clusters (h : ((List.zip a.before a.clusters).map fun x => stepUp x.1 x.2) ≠ a.before) :
    a.faster = { a with clusters := (List.zip a.before a.clusters).map fun x => stepUp x.1 x.2 } :=
  (faster_afterSill hl hsill).trans ((if_neg (not_not.2 hhold)).trans (if_neg h))

theorem faster_released (h : ((List.zip a.before a.clusters).map fun x => stepUp x.1 x.2) = a.before) :
    a.faster = { a with clusters := (List.zip a.before a.clusters).map fun x => stepUp x.1 x.2, limiting := false, before := [] } :=
  (faster_afterSill hl hsill).trans ((if_neg (not_not.2 hhold)).trans (if_pos h))

end Relaxing

theorem powerLimitStep_near (hflag : s.args.flag = true) (ha : s.admin.slower = a) :
    exec .powerLimitStep s = .next (s.modAdmin fun _ => a) := by
  change execPowerLimitStep s = _
  simp [execPowerLimitStep, State.modAdmin, hflag, ha]

theorem powerLimitStep_inside (hflag : s.args.flag = false) (ha : s.admin.faster = a) :
    exec .powerLimitStep s = .next (s.modAdmin fun _ => a) := by
  change execPowerLimitStep s = _
  simp [execPowerLimitStep, State.modAdmin, hflag, ha]

end Power

/-! ### Package reset (R433, R436) -/

theorem packageReset_wiped (h : s.args.flag = true) :
    exec .packageReset s = .next (s.modAdmin fun a => { a with wiping := false }) := by
  change execPackageReset s = _
  simp [execPackageReset, h]

theorem packageReset_wipes (h : s.args.flag = false) :
    ∃ t, exec .packageReset s = .next t ∧ t.mem = s.mem.filter (fun x => isPeer x.1) ∧
      t.poison = s.poison.filter Loc.outside ∧ t.timebase = 0 ∧ t.warps = [] ∧ t.blocks = [] ∧ t.launches = [] ∧
      t.admin.owner = none ∧ t.admin.lifecycle = s.admin.lifecycle ∧ t.admin.wiping = true ∧ t.hostMem = s.hostMem := by
  change ∃ t, execPackageReset s = .next t ∧ _
  rw [execPackageReset, if_neg (Bool.eq_false_iff.1 h)]
  exact ⟨_, rfl, rfl, rfl, rfl, rfl, rfl, rfl, rfl, rfl, rfl, rfl⟩

/-! ### The obligation -/

/-- Settles O47, each clause by the lemma about its case of its event. -/
theorem hostAndRepairEvents : Obligations.HostAndRepairEvents := by
  unfold Obligations.HostAndRepairEvents
  refine ⟨fun s => ⟨?wiping, ?refused, ?held, ?read, ?write, ?view, ?pri, ?ats, ?arm, ?armRefused, ?fire, ?interrupt, ?watchAddr,
    ?watchThresh, ?watchCtl, ?firewall, ?localMessage, ?remoteMessage, ?flit, ?port, ?lanes⟩,
    fun s => ⟨?scrub, ?reads, ?rowDue, ?rowNotDue, ?array, ?coreSpare, ?coreLost, ?sillCore, ?notRetiring, ?retires, ?slower,
      ?unlimited, ?sillFaster, ?holdFaster, ?clustersFaster, ?wiped, ?wipes⟩⟩
  case wiping => exact hostCxlAccess_wiping
  case refused => exact hostCxlAccess_refused
  case held => exact fun _ => hostCxlAccess_held
  case read => exact fun _ => hostCxlAccess_read
  case write => exact fun _ => hostCxlAccess_write
  case view => exact fun _ _ _ => hostCxlAccess_view
  case pri => exact ⟨priResponse_granted, priResponse_refused⟩
  case ats => exact ⟨atsInvalidation_done, atsInvalidation_held⟩
  case arm => exact fun _ _ _ => watchArm_armed
  case armRefused => exact fun _ _ => watchArm_refused
  case fire => exact fun _ _ => watchFire_fires
  case interrupt => exact fun _ _ _ h => ⟨interrupt_sent h, interrupt_beyond⟩
  case watchAddr => exact fun _ _ h => registerWrite_watchAddr (namesReg_of bar0Reg_watchAddr h)
  case watchThresh => exact fun _ _ h => registerWrite_watchThresh (namesReg_of bar0Reg_watchThresh h)
  case watchCtl =>
    intro fn n h
    have hw := registerWrite_watchCtl (namesReg_of bar0Reg_watchCtl h)
    refine ⟨fun hbit => hw.trans (congrArg _ (if_neg (Bool.eq_false_iff.1 hbit))), ?_⟩
    rintro hbit rfl rfl
    exact hw.trans (congrArg _ (if_pos hbit))
  case firewall => exact fun _ => registerWrite_firewall
  case localMessage => exact fun _ => messageDelivery_local
  case remoteMessage => exact fun _ hm hh hd hfirst _ _ => messageDelivery_remote hm hh hd hfirst
  case flit => exact fun _ _ hload hflag hp => ⟨flitReceive_accepted hload hflag hp, flitReceive_discarded hload hflag hp⟩
  case port => exact fun _ _ => ⟨receive_broken, receive_next, receive_other⟩
  case lanes => exact fun _ _ => laneRepair_heddle
  case scrub => exact fun _ => scrubPeriod_new
  case reads => exact fun _ => scrubPeriod_reads
  case rowDue => exact fun hfree hdue => ⟨rowRepair_noSpare hfree hdue, rowRepair_repairs hfree hdue⟩
  case rowNotDue => exact fun _ => rowRepair_notDue
  case array => exact fun _ => coreLogicError_array
  case coreSpare => exact fun _ hk hspare hflag hload => coreLogicError_spare hk hflag hload hspare
  case coreLost => exact fun _ hk hspare hflag hload => coreLogicError_lost hk hflag hload hspare
  case sillCore => exact coreLogicError_sill
  case notRetiring => exact pseudoChannelRetirement_idle
  case retires =>
    intro f hf hfree hin hb hret
    have hgo := pseudoChannelRetirement_goes hf hfree hin hb hret
    exact ⟨fun hn => hgo.trans (if_neg (Nat.not_lt.2 hn)), fun hn => hgo.trans (if_pos hn)⟩
  case slower =>
    exact ⟨fun hflag h => powerLimitStep_near hflag (slower_clusters h), fun hflag h => powerLimitStep_near hflag (slower_sill h)⟩
  case unlimited => exact fun hflag hl => powerLimitStep_inside hflag (faster_unlimited hl)
  case sillFaster => exact fun hflag hl h => powerLimitStep_inside hflag (faster_sill hl h)
  case holdFaster => exact fun hflag hl hsill h => powerLimitStep_inside hflag (faster_hold hl hsill h)
  case clustersFaster =>
    exact fun hflag hl hsill hhold => ⟨fun h => powerLimitStep_inside hflag (faster_clusters hl hsill hhold h),
      fun h => powerLimitStep_inside hflag (faster_released hl hsill hhold h)⟩
  case wiped => exact packageReset_wiped
  case wipes => exact packageReset_wipes

end Sys2Proof.Proofs
end

section
/-! SUPPORT. Trap entry and return of main-core warps (R32, R33, R92, R97, R151), and that a handler which returns at once
restores what the trap found. -/

namespace Sys2Proof.Proofs

open Sys2Proof.Machine Sys2Proof.Laws

section Traps

variable {s : State} {u k cause : Nat} {info : Word} {pc : Dword} {slot : Nat} {w : Warp}

/-- The handler address of a warp's launch (R33). -/
def handlerEntry (s : State) (w : Warp) : Nat := ((s.launch? w.launch).map (·.trapEntry)).getD 0

/-- The split that a trap sends to its handler. -/
def trappedSplit (entry : Nat) (sp : Split) : Split :=
  { sp with pc := dword entry, slot := 0, begun := false, status := .ready, held := false, asks := [], queued := none }

/-- A warp whose split k has entered the trap handler at an address. -/
def trappedWarp (entry k cause : Nat) (info : Word) (pc : Dword) (slot : Nat) (w : Warp) : Warp :=
  { w with
    trapcause := Machine.word cause, trappc := trapPc pc slot, trapinfo := info, shadow := w.m, m := w.m.set 0 modeReset,
    handler := .trap k cause, running := k, idle := false,
    splits := (w.splits.map fun (x : Split) => { x with held := true }).set k (trappedSplit entry ((w.splits[k]?).getD Split.free)),
    resv := w.resv.filter fun r => !hasLane ((w.splits[k]?).getD Split.free).allLanes r.lane }

/-- The warp whose trap registers are written, where the launch has no handler. -/
def trapNoted (cause : Nat) (info : Word) (pc : Dword) (slot : Nat) (w : Warp) : Warp :=
  { w with trapcause := Machine.word cause, trappc := trapPc pc slot, trapinfo := info }

/-- What a trap does in a main core (R32, R33). -/
theorem takeTrap_core (hw : s.warp? u = some w) (hk : w.kind = .main ∨ w.kind = .dense) :
    s.takeTrap u k cause info pc slot =
      if w.handler ≠ .none then s.endByError w 0x18 info (trapPc pc slot)
      else if handlerEntry s w = 0 then
        (s.setWarp (trapNoted cause info pc slot w)).endByError (trapNoted cause info pc slot w) cause info (trapPc pc slot)
      else s.setWarp (trappedWarp (handlerEntry s w) k cause info pc slot w) := by
  unfold State.takeTrap
  rw [hw]
  dsimp only
  split
  · next h => simp [h] at hk
  · next h => simp [h] at hk
  · simp only [bne_iff_ne]
    rfl

theorem takeTrap_enters (hw : s.warp? u = some w) (hk : w.kind = .main ∨ w.kind = .dense) (hh : w.handler = .none)
    (he : handlerEntry s w ≠ 0) :
    s.takeTrap u k cause info pc slot = s.setWarp (trappedWarp (handlerEntry s w) k cause info pc slot w) := by
  rw [takeTrap_core hw hk, if_neg (not_not.2 hh), if_neg he]

theorem warp?_uid (h : s.warp? u = some w) : w.uid = u := by simpa using List.find?_some h

/-- A replaced warp is the only one that differs. -/
theorem onlyWarp_setWarp {x : Warp} (hx : x.uid = u) : OnlyWarp s (s.setWarp x) u :=
  ⟨rfl, fun y hy => by rw [setWarp_warp?, if_neg (hx ▸ hy)]⟩

theorem setWarp_warp?_self {x : Warp} (hw : s.warp? u = some w) (hx : x.uid = u) : (s.setWarp x).warp? u = some x := by
  rw [setWarp_warp?, if_pos hx.symm, hx, hw]
  rfl

theorem trappedWarp_split {entry : Nat} {sp : Split} (hk : w.splits[k]? = some sp) :
    (trappedWarp entry k cause info pc slot w).splits[k]? = some (trappedSplit entry sp) := by
  obtain ⟨hlt, rfl⟩ := List.getElem?_eq_some_iff.1 hk
  simp [trappedWarp, hlt]

theorem trappedWarp_others {entry j : Nat} (hj : j ≠ k) :
    (trappedWarp entry k cause info pc slot w).splits[j]? = (w.splits[j]?).map fun (sp : Split) => { sp with held := true } := by
  simp [trappedWarp, List.getElem?_set_ne hj.symm]

/-- The split that resumes when the handler of a trap returns (R92, R97). -/
def resumedSplit (w : Warp) (sp : Split) : Split :=
  let all := sp.lanes ||| sp.overflow
  let divides := w.handler.cause = 5 ∨ w.handler.cause = 6
  let lanes := if divides then w.trapinfo &&& all else sp.lanes
  { sp with
    lanes := lanes, overflow := if divides then all &&& ~~~lanes else sp.overflow, pc := dword (bitsAt w.trappc.toNat 56 5 * 32),
    slot := trapSlot w.trappc, begun := false, asks := [], queued := none, held := false }

theorem trapReturn_split {sp : Split} (hk : w.splits[k]? = some sp) : (w.trapReturn k).splits[k]? = some (resumedSplit w sp) := by
  obtain ⟨hlt, rfl⟩ := List.getElem?_eq_some_iff.1 hk
  simp [Warp.trapReturn, Warp.setSplit, resumedSplit, hlt]

theorem trapReturn_released {y : Split} (hy : y ∈ (w.trapReturn k).splits) : y.held = false := by
  obtain ⟨x, -, rfl⟩ := List.mem_map.1 hy
  rfl

/-- Settles O15, trap entry by the three cases of a trap in a main core, the return by the split that resumes. -/
theorem trapEntryAndReturn : Obligations.TrapEntryAndReturn := by
  unfold Obligations.TrapEntryAndReturn
  refine ⟨?entry, ?back⟩
  case entry =>
    intro s u k cause info pc slot w hw hkind hlt
    refine ⟨fun hh he => ?_, fun hh he => ?_, fun hh => ?_⟩
    · have hu : (trappedWarp (handlerEntry s w) k cause info pc slot w).uid = u := warp?_uid (w := w) hw
      rw [takeTrap_enters hw hkind hh he]
      refine ⟨_, setWarp_warp?_self hw hu, onlyWarp_setWarp hu, rfl, rfl, rfl, rfl, rfl, rfl, rfl, ?_, fun j hj => trappedWarp_others hj,
        rfl, rfl, rfl, rfl, rfl, rfl, rfl, rfl, rfl, rfl, rfl, rfl⟩
      obtain ⟨sp, hsp⟩ : ∃ sp, w.splits[k]? = some sp := ⟨_, List.getElem?_eq_getElem hlt⟩
      rw [hsp]
      exact trappedWarp_split hsp
    · exact (takeTrap_core hw hkind).trans ((if_neg (not_not.2 hh)).trans (if_pos he))
    · exact (takeTrap_core hw hkind).trans (if_pos hh)
  case back =>
    intro w k sp hsp
    refine ⟨_, trapReturn_split hsp, rfl, rfl, rfl, rfl, rfl, rfl, fun hc => ⟨if_pos hc, ?_⟩, fun h5 h6 => ?_, fun y => trapReturn_released,
      rfl, rfl, rfl, rfl, rfl⟩
    · simp [resumedSplit, hc]
    · simp [resumedSplit, h5, h6]

/-! ### The round trip -/

/-- A clause address has 57 bits, the lowest five of them zero (R39). -/
theorem clauseAddress_eq (hlow : bitsAt pc.toNat 4 0 = 0) (hhigh : bitsAt pc.toNat 63 57 = 0) : bitsAt pc.toNat 56 5 * 32 = pc.toNat := by
  have := pc.isLt
  simp only [bitsAt] at *
  omega

theorem trapPc_toNat (hlow : bitsAt pc.toNat 4 0 = 0) (hhigh : bitsAt pc.toNat 63 57 = 0) (hslot : slot ≤ 7) :
    (trapPc pc slot).toNat = pc.toNat + slot * 4 := by
  have := pc.isLt
  simp only [trapPc, dword, clauseAddress_eq hlow hhigh, BitVec.toNat_ofNat]
  simp only [bitsAt] at hlow hhigh
  omega

/-- TRAPPC gives back the clause and the slot that it was made of. -/
theorem trapPc_resumes (hlow : bitsAt pc.toNat 4 0 = 0) (hhigh : bitsAt pc.toNat 63 57 = 0) (hpos : 1 ≤ slot) (hslot : slot ≤ 7) :
    dword (bitsAt (trapPc pc slot).toNat 56 5 * 32) = pc ∧ trapSlot (trapPc pc slot) = slot := by
  have hclause : bitsAt (pc.toNat + slot * 4) 56 5 * 32 = pc.toNat := by
    have := pc.isLt
    simp only [bitsAt] at hlow hhigh ⊢
    omega
  have hfield : bitsAt (pc.toNat + slot * 4) 4 2 = slot := by
    simp only [bitsAt] at hlow ⊢
    omega
  rw [trapSlot, trapPc_toNat hlow hhigh hslot, hclause, hfield, if_neg (by omega)]
  exact ⟨BitVec.ofNat_toNat .., rfl⟩

end Traps

/-- Settles O16: the handler's return finds the split that the trap sent there, and TRAPPC as the trap wrote it. -/
theorem trapRoundTrip : Obligations.TrapRoundTrip := by
  unfold Obligations.TrapRoundTrip
  intro s u k cause info pc slot w sp x hw hmain hh hsp he hlow hhigh hpos hslot _ h5 h6 hx
  have hu : (trappedWarp (handlerEntry s w) k cause info pc slot w).uid = u := warp?_uid (w := w) hw
  rw [takeTrap_enters hw (.inl hmain) hh he, setWarp_warp?_self hw hu] at hx
  cases hx
  obtain ⟨hpc, hs⟩ := trapPc_resumes hlow hhigh hpos hslot
  refine ⟨_, trapReturn_split (trappedWarp_split hsp), hpc, hs, ?_, rfl, rfl, rfl, rfl, rfl⟩
  simp [resumedSplit, trappedWarp, Handler.cause, h5, h6, trappedSplit]

end Sys2Proof.Proofs
end

section
/-! SUPPORT. roundT of the integer TYPEs and packed elements (R38, R60, R86). -/

namespace Sys2Proof.Proofs

open Sys2Proof.Machine Sys2Proof.Laws

/-! ### Integers of a width -/

theorem wrapTo_cast (n : Nat) (x : Int) : ((wrapTo n x : Nat) : Int) = x % 2 ^ n := by
  have h : (0 : Int) ≤ x % ((2 ^ n : Nat) : Int) := Int.emod_nonneg _ (by positivity)
  rw [wrapTo, Int.toNat_of_nonneg h]
  push_cast
  rfl

theorem wrapTo_lt (n : Nat) (x : Int) : wrapTo n x < 2 ^ n := by
  have h : ((wrapTo n x : Nat) : Int) < 2 ^ n := by
    rw [wrapTo_cast]
    exact Int.emod_lt_of_pos _ (by positivity)
  exact_mod_cast h

theorem wrapTo_eq_ofInt (n : Nat) (x : Int) : BitVec.ofNat n (wrapTo n x) = BitVec.ofInt n x :=
  BitVec.eq_of_toNat_eq (by rw [BitVec.toNat_ofNat, BitVec.toNat_ofInt, Nat.mod_eq_of_lt (wrapTo_lt n x), wrapTo])

/-- Two's complement as the library reads it. -/
theorem toSigned_eq_toInt {n x : Nat} (hn : 0 < n) (hx : x < 2 ^ n) : toSigned n x = (BitVec.ofNat n x).toInt := by
  have hsplit : 2 ^ n = 2 * 2 ^ (n - 1) := by rw [← pow_succ', Nat.sub_add_cancel hn]
  have hdiv : x / 2 ^ (n - 1) < 2 := Nat.div_lt_of_lt_mul (by omega)
  have htop : bitAt x (n - 1) = true ↔ 2 ^ (n - 1) ≤ x := by
    rw [bitAt, Nat.mod_eq_of_lt hdiv, beq_iff_eq]
    have := Nat.div_pos_iff (a := x) (b := 2 ^ (n - 1))
    have := Nat.two_pow_pos (n - 1)
    omega
  rw [toSigned, BitVec.toInt_eq_toNat_cond, BitVec.toNat_ofNat, Nat.mod_eq_of_lt hx]
  split <;> rename_i h
  · have := htop.1 h
    rw [if_neg (by omega)]
  · have := mt htop.2 h
    rw [if_pos (by omega)]

/-- A value in the range of two's complement is read back from its pattern. -/
theorem toSigned_wrapTo {n : Nat} {x : Int} (hn : 0 < n) (hlo : -2 ^ (n - 1) ≤ x) (hhi : x < 2 ^ (n - 1)) :
    toSigned n (wrapTo n x) = x := by
  rw [toSigned_eq_toInt hn (wrapTo_lt n x), wrapTo_eq_ofInt, BitVec.toInt_ofInt_eq_self hn hlo hhi]

/-! ### roundT -/

section Rounding

variable {t : Ty} {x : Int}

theorem width_pos (t : Ty) : 0 < t.width := by cases t <;> decide

theorem minVal_eq (t : Ty) : t.minVal = if t.signed = true then -(2 ^ (t.width - 1) : Int) else 0 := by
  simp [Ty.minVal]

theorem maxVal_eq (t : Ty) : t.maxVal = if t.signed = true then 2 ^ (t.width - 1) - 1 else 2 ^ t.width - 1 := by
  simp [Ty.maxVal]

theorem minVal_le_maxVal (t : Ty) : t.minVal ≤ t.maxVal := by
  rw [minVal_eq, maxVal_eq]
  have h1 : (0 : Int) < 2 ^ (t.width - 1) := by positivity
  have h2 : (0 : Int) < 2 ^ t.width := by positivity
  split <;> omega

theorem clampTo_eq {lo hi : Int} (h : lo ≤ hi) : clampTo lo hi x = max lo (min hi x) := by
  unfold clampTo
  split
  · omega
  · split <;> omega

/-- An element of a TYPE reads back a value of its range. -/
theorem read_wrapTo (hlo : t.minVal ≤ x) (hhi : x ≤ t.maxVal) : t.read (wrapTo t.width x) = x := by
  rw [minVal_eq] at hlo
  rw [maxVal_eq] at hhi
  unfold Ty.read
  split <;> rename_i hs
  · rw [if_pos hs] at hlo hhi
    exact toSigned_wrapTo (width_pos t) hlo (by omega)
  · rw [if_neg hs] at hlo hhi
    rw [wrapTo_cast, Int.emod_eq_of_lt hlo (by omega)]

theorem roundInt_clamps (t : Ty) (x : Int) :
    roundInt t true x = (wrapTo t.width (max t.minVal (min t.maxVal x)), if t.minVal ≤ x ∧ x ≤ t.maxVal then 0 else stSATD) := by
  have h := minVal_le_maxVal t
  have hc : max t.minVal (min t.maxVal x) = x ↔ t.minVal ≤ x ∧ x ≤ t.maxVal := by omega
  simp only [roundInt, if_true, clampTo_eq h, hc]

end Rounding

/-! ### Packed elements -/

/-- The elements of a packed value are those that it was packed from. -/
theorem elemAt_packElems (w : Nat) (l : List Nat) (e : Nat) : elemAt w e (packElems w l) = l.getD e 0 % 2 ^ w := by
  induction l generalizing e with
  | nil => simp [elemAt, packElems]
  | cons x l ih =>
    cases e with
    | zero => simp [elemAt, packElems]
    | succ e =>
      have hx : x % 2 ^ w < 2 ^ w := Nat.mod_lt _ (Nat.two_pow_pos w)
      have hdrop : packElems w (x :: l) / 2 ^ w = packElems w l := by
        rw [packElems, Nat.add_mul_div_left _ _ (Nat.two_pow_pos w), Nat.div_eq_of_lt hx, zero_add]
      calc elemAt w (e + 1) (packElems w (x :: l)) = elemAt w e (packElems w (x :: l) / 2 ^ w) := by
            rw [elemAt, elemAt, Nat.div_div_eq_div_mul, ← pow_add, mul_add, mul_one, add_comm]
        _ = (x :: l).getD (e + 1) 0 % 2 ^ w := by rw [hdrop, ih, List.getD_cons_succ]

theorem elemAt_perElem {w n e : Nat} {f : Nat → Res} (he : e < n) : elemAt w e (perElem w n f).1 = (f e).1 % 2 ^ w := by
  rw [perElem, elemAt_packElems]
  simp [he]

/-- Settles O54, by what roundT answers with and without SAT, and by the elements of a packed value. -/
theorem integerRounding : Obligations.IntegerRounding := by
  unfold Obligations.IntegerRounding
  refine ⟨fun t _ => ⟨minVal_eq t, maxVal_eq t, fun x => ⟨rfl, wrapTo_cast _ x, ?_, ?_⟩⟩, fun w n f _ _ hf e he => ?_⟩
  · have h := minVal_le_maxVal t
    rw [roundInt_clamps, read_wrapTo] <;> omega
  · rw [roundInt_clamps]
  · rw [elemAt_perElem he, Nat.mod_eq_of_lt (hf e)]

end Sys2Proof.Proofs
end

section
/-! SUPPORT. What a retirement makes of each part of its warp: the parts that no stage of it touches, its vector registers one by one,
its scalars, predicates and sticky bits; and so the frame of an instruction that only writes registers (R11, R13, R20, R21, R41). -/

namespace Sys2Proof.Proofs

open Sys2Proof.Machine Sys2Proof.Laws

/-! ### Parts of a warp that the stages leave alone -/

/-- What a fold leaves alone where each of its steps does. -/
theorem foldl_keeps {α β : Type} {g : Warp → β} {f : Warp → α → Warp} {l : List α} (h : ∀ a ∈ l, ∀ w, g (f w a) = g w) (w : Warp) :
    g (l.foldl f w) = g w := by
  induction l generalizing w with
  | nil => rfl
  | cons a l ih =>
    rw [List.foldl_cons, ih fun b hb => h b (List.mem_cons_of_mem _ hb), h a List.mem_cons_self]

/-- A part of a warp that is none of its vector registers, its sticky bits, or the selection among its splits. -/
structure Apart {β : Type} (g : Warp → β) : Prop where
  vector : ∀ w v, g { w with v := v } = g w
  sticky : ∀ w b, g { w with sticky := b } = g w
  selection : ∀ w sp r e i, g { w with splits := sp, running := r, expired := e, idle := i } = g w

section Stages

variable {β : Type} {g : Warp → β} {c : Ctx} {opc : Nat} {uses : List Use} {ws : List LaneWrite} {st : BitVec 8} {w x y : Warp}

theorem lastRead_vector (w : Warp) (r : Nat) : ∃ v, w.lastRead r = { w with v := v } := by
  unfold Warp.lastRead
  split
  · exact ⟨w.v, rfl⟩
  · split
    · exact ⟨_, rfl⟩
    · exact ⟨_, rfl⟩

section NotVector

variable (hg : ∀ w v, g { w with v := v } = g w)

include hg

theorem stageAlloc_keeps : g (stageAlloc c uses w) = g w := by
  unfold stageAlloc
  split
  · exact foldl_keeps (fun r _ w => hg w _) w
  · rfl

theorem stageLast_keeps : g (stageLast c uses w) = g w := by
  unfold stageLast
  split
  · refine foldl_keeps (fun r _ w => ?_) w
    obtain ⟨v, h⟩ := lastRead_vector w r
    rw [h, hg]
  · rfl

theorem settle_keeps : g w.settle = g w := by
  unfold Warp.settle
  split
  · exact hg w _
  · rfl

end NotVector

theorem Apart.free (hg : Apart g) : g (stageFree c uses w) = g w := by
  unfold stageFree
  split
  · rfl
  · exact hg.sticky w _

theorem Apart.step (hg : Apart g) : g (stageStep c w) = g w := hg.selection w _ w.running w.expired w.idle

/-- After the deferred frees and a fresh selection such a part is as it was. -/
theorem Apart.found (hg : Apart g) (h : SameBut y.settle x) : g x = g y := by
  rw [← settle_keeps hg.vector (w := y), ← h.1]
  exact (hg.selection x _ _ _ _).symm

/-- Only the write itself can change such a part. -/
theorem Apart.written (hg : Apart g) :
    g (retiredWarp c opc uses ws st w) = g (stageWrite c opc uses ws st (stageFree c uses (stageAlloc c uses w))) := by
  rw [retiredWarp, hg.step, stageLast_keeps hg.vector]

/-- A result of short latency is written in order. -/
theorem stageWrite_short (h : longOp opc = false) :
    stageWrite c opc uses ws st w = { ws.foldl wrote w with sticky := (ws.foldl wrote w).sticky ||| st } := by
  rw [stageWrite, h]
  rfl

/-- A part that neither the writes nor the start of an operation change. -/
theorem stageWrite_keeps (hws : ∀ z ∈ ws, ∀ w, g (wrote w z) = g w) (hst : ∀ w b, g { w with sticky := b } = g w)
    (hbegin : ∀ w : Warp, g (w.begin c.k c.sp.flag (opcodeCounts opc) uses ws st) = g w) : g (stageWrite c opc uses ws st w) = g w := by
  unfold stageWrite
  split
  · exact hbegin w
  · rw [hst, foldl_keeps hws]

theorem Apart.kept (hg : Apart g) (hws : ∀ z ∈ ws, ∀ w, g (wrote w z) = g w)
    (hbegin : ∀ w : Warp, g (w.begin c.k c.sp.flag (opcodeCounts opc) uses ws st) = g w) : g (retiredWarp c opc uses ws st w) = g w := by
  rw [hg.written, stageWrite_keeps hws hg.sticky hbegin, hg.free, stageAlloc_keeps hg.vector]

end Stages

/-! ### The rest of a warp -/

/-- A warp without what an instruction that only writes registers can change. -/
def restOf (w : Warp) : Warp :=
  { w with v := [], s := [], spoison := 0, p := [], f := [], hazards := [], ops := [], sticky := 0, splits := [], running := 0,
           expired := false, idle := false }

theorem restOf_apart : Apart restOf := ⟨fun _ _ => rfl, fun _ _ => rfl, fun _ _ _ _ _ => rfl⟩

/-- Warps of one rest agree in every part of it. -/
theorem restOf_part {β : Type} {w x : Warp} (h : restOf x = restOf w) (g : Warp → β) (hg : ∀ w, g (restOf w) = g w := by intro; rfl) :
    g x = g w := by
  rw [← hg x, h, hg]

theorem restOf_wrote (w : Warp) (z : LaneWrite) : restOf (wrote w z) = restOf w := by
  unfold wrote
  split
  · rfl
  · unfold Warp.putS
    split <;> rfl
  · rfl

theorem restOf_retired (c : Ctx) (opc : Nat) (uses : List Use) (ws : List LaneWrite) (st : BitVec 8) (w : Warp) :
    restOf (retiredWarp c opc uses ws st w) = restOf w :=
  restOf_apart.kept (fun z _ w => restOf_wrote w z) fun _ => rfl

/-- Flags, hazards and outstanding operations. -/
def operationsOf (w : Warp) : List Nat × List Hazard × List LongOp := (w.f, w.hazards, w.ops)

theorem operationsOf_apart : Apart operationsOf := ⟨fun _ _ => rfl, fun _ _ => rfl, fun _ _ _ _ _ => rfl⟩

theorem operationsOf_wrote (w : Warp) (z : LaneWrite) : operationsOf (wrote w z) = operationsOf w := by
  unfold wrote
  split
  · rfl
  · unfold Warp.putS
    split <;> rfl
  · rfl

/-! ### Scalars, predicates and vector registers -/

theorem sreg_apart (r : Nat) : Apart fun w => w.sreg r := ⟨fun _ _ => rfl, fun _ _ => rfl, fun _ _ _ _ _ => rfl⟩

theorem pred_apart (r : Nat) : Apart fun w => w.p.getD r 0 := ⟨fun _ _ => rfl, fun _ _ => rfl, fun _ _ _ _ _ => rfl⟩

theorem getD_set_ne {α : Type} (l : List α) {i j : Nat} (h : i ≠ j) (a d : α) : (l.set i a).getD j d = l.getD j d := by
  rw [List.getD_eq_getElem?_getD, List.getD_eq_getElem?_getD, List.getElem?_set_ne h]

theorem getD_set_self {α : Type} {l : List α} {i : Nat} (h : i < l.length) (a d : α) : (l.set i a).getD i d = a := by
  rw [List.getD_eq_getElem?_getD, List.getElem?_set_self h, Option.getD_some]

theorem putS_sreg_ne {r q : Nat} (h : q = 0 ∨ q ≠ r) (w : Warp) (v : Word) (p : Bool) : (w.putS q v p).sreg r = w.sreg r := by
  unfold Warp.putS
  split <;> rename_i hq
  · rfl
  · unfold Warp.sreg
    split
    · rfl
    · exact getD_set_ne _ (h.resolve_left hq) _ _

theorem wrote_sreg_ne {z : LaneWrite} {r : Nat} (h : z.cls = 1 → z.reg = 0 ∨ z.reg ≠ r) (w : Warp) : (wrote w z).sreg r = w.sreg r := by
  unfold wrote
  split
  · rfl
  · next hc => exact putS_sreg_ne (h hc) ..
  · rfl

theorem wrote_pred_ne {z : LaneWrite} {r : Nat} (h : z.cls ≠ 0 → z.cls ≠ 1 → z.reg ≠ r) (w : Warp) :
    (wrote w z).p.getD r 0 = w.p.getD r 0 := by
  unfold wrote
  split
  · rfl
  · unfold Warp.putS
    split <;> rfl
  · next h0 h1 => exact getD_set_ne _ (h h0 h1) _ _

theorem wrote_reg_ne {z : LaneWrite} {r : Nat} (h : z.cls = 0 → z.reg ≠ r) (w : Warp) : (wrote w z).reg r = w.reg r := by
  unfold wrote
  split
  · next hc => exact getD_set_ne _ (h hc) _ _
  · unfold Warp.putS
    split <;> rfl
  · rfl

theorem alloc_reg_ne {r q : Nat} (h : q ≠ r) (w : Warp) : (w.alloc q).reg r = w.reg r := getD_set_ne _ h _ _

theorem lastRead_reg_ne {r q : Nat} (h : q ≠ r) (w : Warp) : (w.lastRead q).reg r = w.reg r := by
  unfold Warp.lastRead
  split
  · rfl
  · split
    · exact getD_set_ne _ h _ _
    · exact getD_set_ne _ h _ _

/-- A register is settled only in a warp of a main core, and only where its free is due (R13). -/
theorem settle_reg {w : Warp} {r : Nat} (h : w.kind = .main → (w.reg r).due = false) : w.settle.reg r = w.reg r := by
  unfold Warp.settle
  split <;> rename_i hs
  · have hk : w.kind = .main := by
      have : w.settled = true → w.kind = .main := by simp only [Warp.settled, Bool.and_eq_true, beq_iff_eq]; exact fun h => h.2
      exact this hs
    have hd := h hk
    unfold Warp.reg at hd ⊢
    rw [List.getD_eq_getElem?_getD] at hd ⊢
    rw [List.getD_eq_getElem?_getD, List.getElem?_map]
    cases hr : w.v[r]? with
    | none => rfl
    | some a =>
      rw [hr, Option.getD_some] at hd
      simp [hd]
  · rfl

section Vector

variable {c : Ctx} {opc : Nat} {uses : List Use} {ws : List LaneWrite} {st : BitVec 8} {w x : Warp} {r : Nat}

theorem stageAlloc_reg_ne (h : r ∉ writtenNames uses) : (stageAlloc c uses w).reg r = w.reg r := by
  unfold stageAlloc
  split
  · exact foldl_keeps (g := fun w => w.reg r) (fun q hq w => alloc_reg_ne (ne_of_mem_of_not_mem hq h) w) w
  · rfl

theorem stageFree_reg : (stageFree c uses w).reg r = w.reg r := by
  unfold stageFree
  split <;> rfl

theorem stageLast_reg_ne (h : r ∉ lastReads uses) : (stageLast c uses w).reg r = w.reg r := by
  unfold stageLast
  split
  · exact foldl_keeps (g := fun w => w.reg r) (fun q hq w => lastRead_reg_ne (ne_of_mem_of_not_mem hq h) w) w
  · rfl

theorem sameBut_reg (h : SameBut w x) : x.reg r = w.reg r := by rw [← h.1]; rfl

/-- A register that an instruction neither writes nor frees. -/
theorem retired_reg_ne (hx : SameBut (retiredWarp c opc uses ws st w).settle x) (hnames : r ∉ writtenNames uses)
    (hws : ∀ z ∈ ws, z.cls = 0 → z.reg ≠ r) (hlast : r ∉ lastReads uses) (hdue : (w.reg r).due = false) : x.reg r = w.reg r := by
  have hr : (retiredWarp c opc uses ws st w).reg r = w.reg r := by
    change (stageLast c uses _).reg r = _
    rw [stageLast_reg_ne hlast,
      stageWrite_keeps (g := fun w => w.reg r) (fun z hz => wrote_reg_ne (hws z hz)) (fun _ _ => rfl) (fun _ => rfl), stageFree_reg,
      stageAlloc_reg_ne hnames]
  rw [sameBut_reg hx, settle_reg fun _ => by rw [hr, hdue], hr]

end Vector

/-! ### Sticky bits -/

theorem wrote_sticky (w : Warp) (z : LaneWrite) : (wrote w z).sticky = w.sticky := by
  unfold wrote
  split
  · rfl
  · unfold Warp.putS
    split <;> rfl
  · rfl

theorem or_and_self (a b : BitVec 8) : (a ||| b) &&& a = a := by
  ext i
  rw [BitVec.getElem_and, BitVec.getElem_or]
  cases a[i] <;> simp

section Frames

variable {c : Ctx} {opc : Nat} {uses : List Use} {ws : List LaneWrite} {st : BitVec 8} {s t : State} {w x y : Warp}

theorem stageFree_sticky : ∃ b, (stageFree c uses w).sticky = w.sticky ||| b := by
  unfold stageFree
  split
  · exact ⟨0, BitVec.or_zero.symm⟩
  · exact ⟨_, rfl⟩

theorem stageWrite_sticky : ∃ b, (stageWrite c opc uses ws st w).sticky = w.sticky ||| b := by
  unfold stageWrite
  split
  · exact ⟨0, BitVec.or_zero.symm⟩
  · exact ⟨st, by rw [foldl_keeps (g := Warp.sticky) fun z _ w => wrote_sticky w z]⟩

/-- Sticky bits are only raised (R30). -/
theorem retired_sticky (hx : SameBut (retiredWarp c opc uses ws st w).settle x) : x.sticky &&& w.sticky = w.sticky := by
  obtain ⟨b, hfree⟩ := stageFree_sticky (c := c) (uses := uses) (w := stageAlloc c uses w)
  obtain ⟨d, hwrite⟩ := stageWrite_sticky (c := c) (opc := opc) (uses := uses) (ws := ws) (st := st)
    (w := stageFree c uses (stageAlloc c uses w))
  have hvector : ∀ (w : Warp) v, ({ w with v := v } : Warp).sticky = w.sticky := fun _ _ => rfl
  have hraised : x.sticky = w.sticky ||| (b ||| d) := calc
    x.sticky = (retiredWarp c opc uses ws st w).settle.sticky := by rw [← hx.1]
    _ = (stageLast c uses (stageWrite c opc uses ws st (stageFree c uses (stageAlloc c uses w)))).sticky := settle_keeps hvector
    _ = w.sticky ||| (b ||| d) := by
      rw [stageLast_keeps hvector, hwrite, hfree, stageAlloc_keeps hvector, BitVec.or_assoc]
  rw [hraised, or_and_self]

/-- A write goes to one of the named registers; s0 ignores it (R20). -/
def Targets (vs ss ps : List Nat) (z : LaneWrite) : Prop :=
  match z.cls with
  | 0 => z.reg ∈ vs
  | 1 => z.reg = 0 ∨ z.reg ∈ ss
  | _ => z.reg ∈ ps

/-- The vector registers that operands write lie among those of a list. -/
def DestsIn (us : List Use) (vs : List Nat) : Prop := ∀ u ∈ us, u.cls = 0 → u.wr = true → ∀ r ∈ u.regs, r ∈ vs

theorem writtenNames_subset {vs : List Nat} (h : DestsIn uses vs) {r : Nat} (hr : r ∈ writtenNames uses) : r ∈ vs := by
  obtain ⟨-, hr⟩ := List.mem_filter.1 hr
  obtain ⟨u, hu, hr⟩ := List.any_eq_true.1 hr
  simp only [Bool.and_eq_true, beq_iff_eq, List.contains_iff_mem] at hr
  exact h u hu hr.1.1 hr.1.2 r hr.2

/-- A warp that only its registers and what they bring differ in keeps the rest. -/
theorem keepsWarp_of {vs ss ps frees : List Nat} (hrest : restOf x = restOf w)
    (hv : ∀ r, r < 32 → r ∉ vs → r ∉ frees → (w.reg r).due = false → x.reg r = w.reg r) (hs : ∀ r, r ∉ ss → x.sreg r = w.sreg r)
    (hp : ∀ r, r ∉ ps → x.p.getD r 0 = w.p.getD r 0) : KeepsWarp w x vs ss ps frees where
  vector := hv
  scalar := hs
  pred := hp
  modes := ⟨restOf_part hrest Warp.m, restOf_part hrest Warp.shadow, restOf_part hrest Warp.ms, restOf_part hrest Warp.carryV,
    restOf_part hrest Warp.carryS⟩
  traps := ⟨restOf_part hrest Warp.trapcause, restOf_part hrest Warp.trappc, restOf_part hrest Warp.trapinfo,
    restOf_part hrest Warp.handler⟩
  rest := ⟨restOf_part hrest Warp.quota, restOf_part hrest Warp.exited, restOf_part hrest Warp.away, restOf_part hrest Warp.resv,
    restOf_part hrest Warp.region, restOf_part hrest Warp.lds, restOf_part hrest Warp.kind, restOf_part hrest Warp.block,
    restOf_part hrest Warp.launch, restOf_part hrest Warp.gone⟩

theorem retired_keepsWarp {vs ss ps : List Nat} (hx : SameBut (retiredWarp c opc uses ws st w).settle x) (hd : DestsIn uses vs)
    (ht : ∀ z ∈ ws, Targets vs ss ps z) : KeepsWarp w x vs ss ps (lastReads uses) := by
  have part : ∀ {β : Type} {g : Warp → β}, Apart g → (∀ z ∈ ws, ∀ w, g (wrote w z) = g w) →
      (∀ w : Warp, g (w.begin c.k c.sp.flag (opcodeCounts opc) uses ws st) = g w) → g x = g w :=
    fun hg hw hb => (hg.found hx).trans (hg.kept hw hb)
  refine keepsWarp_of ((restOf_apart.found hx).trans (restOf_retired ..)) (fun r _ hvs hfree hdue => ?_) (fun r hr => ?_)
    fun r hr => ?_
  · refine retired_reg_ne hx (fun h => hvs (writtenNames_subset hd h)) (fun z hz hc e => hvs ?_) hfree hdue
    have := ht z hz
    rw [Targets, hc] at this
    exact e ▸ this
  · refine part (sreg_apart r) (fun z hz w => wrote_sreg_ne (fun hc => ?_) w) fun _ => rfl
    have := ht z hz
    rw [Targets, hc] at this
    exact this.imp_right fun h => ne_of_mem_of_not_mem h hr
  · refine part (pred_apart r) (fun z hz w => wrote_pred_ne (fun h0 h1 => ?_) w) fun _ => rfl
    have := ht z hz
    unfold Targets at this
    split at this
    · next h => exact absurd h h0
    · next h => exact absurd h h1
    · exact ne_of_mem_of_not_mem this hr

/-- Operations, flags and hazards change only where an operation begins (R41). -/
theorem retired_operations (hx : SameBut (retiredWarp c opc uses ws st w).settle x) (hshort : longOp opc = false) :
    operationsOf x = operationsOf w := by
  rw [operationsOf_apart.found hx, operationsOf_apart.written, stageWrite_short hshort, operationsOf_apart.sticky,
    foldl_keeps fun z _ w => operationsOf_wrote w z, operationsOf_apart.free,
    stageAlloc_keeps operationsOf_apart.vector]

/-- No byte lies in what a warp keeps of its registers. -/
theorem sameBytes_modWarp (hw : s.warp? w.uid = some w) (hrest : restOf x = restOf w) :
    SameBytes s (s.modWarp w.uid fun _ => x) := by
  have hu : x.uid = w.uid := restOf_part hrest Warp.uid
  intro l
  cases l with
  | lds u o =>
    change (((s.modWarp w.uid fun _ => x).warp? u).map fun x => Memory.get x.lds o).getD 0 = ((s.warp? u).map fun x => Memory.get x.lds o).getD 0
    rw [modWarp_warp? _ _ _ _ fun _ _ => hu]
    split <;> rename_i h
    · have hl : x.lds = w.lds := restOf_part hrest Warp.lds
      rw [h, hw]
      simp [hl]
    · rfl
  | _ => rfl

/-- The frame of an instruction whose warp becomes another that keeps what it does not write. -/
theorem frame_of {u : Nat} {vs ss ps frees : List Nat} (hw : s.warp? u = some w) (ht : t = s.modWarp u fun _ => x)
    (hrest : restOf x = restOf w) (hk : KeepsWarp w x vs ss ps frees) (hst : x.sticky &&& w.sticky = w.sticky)
    (hops : longOp opc = false → operationsOf x = operationsOf w) :
    OnlyWarp s t u ∧ SameBytes s t ∧ ∃ x, t.warp? u = some x ∧ KeepsWarp w x vs ss ps frees ∧ x.sticky &&& w.sticky = w.sticky ∧
      (opcodeLongReg opc = false → opcodeLongMem opc = false → x.f = w.f ∧ x.hazards = w.hazards ∧ x.ops = w.ops) := by
  have hu : w.uid = u := by simpa using List.find?_some hw
  have hxu : x.uid = u := (restOf_part hrest Warp.uid).trans hu
  subst ht
  refine ⟨⟨rfl, fun y hy => ?_⟩, hu ▸ sameBytes_modWarp (hu ▸ hw) hrest, x, ?_, hk, hst, fun h1 h2 => ?_⟩
  · rw [modWarp_warp? _ _ _ _ fun _ _ => hxu, if_neg hy]
  · rw [modWarp_warp? _ _ _ _ fun _ _ => hxu, if_pos rfl, hw]
    rfl
  · have h := hops (by rw [longOp, h1, h2]; rfl)
    exact ⟨congrArg (·.1) h, congrArg (·.2.1) h, congrArg (·.2.2) h⟩

end Frames

/-! ### The frame of each shape -/

section Shapes

variable {i : Instr} {opc : Nat} {uses : Ctx → List Use} {ok : Ctx → Prop} {vs ss ps : Ctx → List Nat} {own : Ctx → Option (Nat × Word)}
  {body : Ctx → Act}

/-- An instruction that retires with register writes. -/
theorem frames_of_done {ws : Ctx → List LaneWrite} (he : ∀ s, exec i s = issue opc s uses own body) (hne : opc ≠ 0xBC)
    (ho : ∀ c, ok c → own c = none) (hb : ∀ c, ∃ st, body c = .done c.st (ws c) st) (hd : ∀ c, DestsIn (uses c) (vs c))
    (hw : ∀ c, ∀ z ∈ ws c, Targets (vs c) (ss c) (ps c) z) : Frames i opc uses ok vs ss ps := by
  rintro s c t hc ⟨hdense, hlanes, -⟩ ha hok ht
  obtain ⟨st, hb⟩ := hb c
  obtain ⟨hwarp, hsp, -⟩ := ctx_warp hc
  rw [he, issue_done hc ha (ho c hok) hb, ctx_st hc] at ht
  cases ht
  obtain ⟨x, hx, h, -⟩ := retire_warp (uses := uses c) (ws := ws c) (st := st) hdense hne hwarp hsp hlanes
  have hrest : restOf x = restOf c.w := (restOf_apart.found hx).trans (restOf_retired ..)
  exact frame_of hwarp h hrest (retired_keepsWarp hx (hd c) (hw c)) (retired_sticky hx) (retired_operations hx)

/-- The registers of a result: one, or a pair (R86). -/
def pairOf (d : BitVec 5) (p : Bool) : List Nat := if p then [d.toNat, d.toNat + 1] else [d.toNat]

theorem targets_vwrite {d : BitVec 5} {p : Bool} {m : Mask} {f : Nat → Nat} {ss ps : List Nat} :
    ∀ z ∈ vwrite d.toNat p m f, Targets (pairOf d p) ss ps z := by
  cases p <;> simp [vwrite, Targets, pairOf]

/-- A result computed lane by lane. -/
theorem frames_vresult {d : BitVec 5} {p : Ctx → Bool} {f : Ctx → Nat → Res}
    (he : ∀ s, exec i s = issue opc s uses own fun c => c.vresult d.toNat (p c) (f c)) (hne : opc ≠ 0xBC)
    (ho : ∀ c, ok c → own c = none) (hd : ∀ c, DestsIn (uses c) (pairOf d (p c))) :
    Frames i opc uses ok (fun c => pairOf d (p c)) (fun _ => []) fun _ => [] :=
  frames_of_done he hne ho (fun _ => ⟨_, rfl⟩) hd fun _ => targets_vwrite

/-- A predicate computed lane by lane. -/
theorem frames_presult {d : BitVec 5} {f : Ctx → Nat → Bool × BitVec 8}
    (he : ∀ s, exec i s = issue opc s uses own fun c => c.presult (bitsAt d.toNat 2 0) (f c)) (hne : opc ≠ 0xBC)
    (ho : ∀ c, ok c → own c = none) (hd : ∀ c, DestsIn (uses c) []) :
    Frames i opc uses ok (fun _ => []) (fun _ => []) fun _ => [d.toNat % 8] :=
  frames_of_done he hne ho (fun _ => ⟨_, rfl⟩) hd fun _ z hz => by
    rw [List.mem_singleton.1 hz]
    simp [Targets, bitsAt]

/-- A scalar computed once. -/
theorem frames_swrite {d : BitVec 5} {f : Ctx → Nat}
    (he : ∀ s, exec i s = issue opc s uses own fun c => .done c.st (swrite d.toNat (f c)) 0) (hne : opc ≠ 0xBC)
    (ho : ∀ c, ok c → own c = none) (hd : ∀ c, DestsIn (uses c) []) :
    Frames i opc uses ok (fun _ => []) (fun _ => if d = 0 then [] else [d.toNat]) fun _ => [] :=
  frames_of_done he hne ho (fun _ => ⟨_, rfl⟩) hd fun _ z hz => by
    rw [List.mem_singleton.1 hz]
    by_cases h : d = 0
    · exact .inl (by rw [h]; rfl)
    · exact .inr (by rw [if_neg h]; exact List.mem_singleton_self _)

end Shapes

/-! ### Control transfers -/

section Transfers

variable {i : Instr} {opc : Nat}

/-- A warp whose split k has taken the place that a function gives it. -/
def turnedWarp (k : Nat) (f : Split → Split) (w : Warp) : Warp :=
  w.setSplit k (f { ((w.splits[k]?).getD Split.free) with status := .ready })

theorem turnedWarp_split {k : Nat} {f : Split → Split} {w : Warp} {sp : Split} (h : w.splits[k]? = some sp) :
    (turnedWarp k f w).splits[k]? = some (f { sp with status := .ready }) := by
  obtain ⟨hlt, rfl⟩ := List.getElem?_eq_some_iff.1 h
  simp [turnedWarp, Warp.setSplit, hlt]

theorem live_of_lanes {sp : Split} (h : sp.lanes ≠ 0) : sp.live = true := by
  have : (sp.lanes != 0) = true := by simpa using h
  rw [Split.live, this, Bool.true_or]

/-- A turned split that goes on leaves its warp but for the selection. -/
theorem turned_after {s : State} {u k : Nat} {w : Warp} {sp : Split} {f : Split → Split} (hw : s.warp? u = some w)
    (hk : w.splits[k]? = some sp) (hl : (f { sp with status := .ready }).lanes ≠ 0) (hr : (f { sp with status := .ready }).status = .ready) :
    ∃ x, SameBut (turnedWarp k f w).settle x ∧ (s.modWarp u (turnedWarp k f)).after u = s.modWarp u fun _ => x := by
  have hmod : (s.modWarp u (turnedWarp k f)).warp? u = some (turnedWarp k f w) := by
    rw [modWarp_warp? _ _ _ (turnedWarp k f) fun _ h => h, if_pos rfl, hw]
    rfl
  obtain ⟨x, hx, hafter⟩ := after_eq hmod (turnedWarp_split hk) (live_of_lanes hl) hr
  refine ⟨x, hx, hafter.trans ?_⟩
  rw [modWarp_twice _ _ (turnedWarp k f) _ fun _ h => h]
  rfl

/-- A transfer of a split that keeps its lanes changes nothing but the split. -/
theorem frames_of_turn {f : Ctx → Split → Split} (he : ∀ s, exec i s = issue opc s (fun _ => []) noCheck fun c => c.turn c.st (f c))
    (hf : ∀ c sp, (f c sp).lanes = sp.lanes ∧ (f c sp).status = sp.status) :
    Frames i opc (fun _ => []) always (fun _ => []) (fun _ => []) fun _ => [] := by
  rintro s c t hc ⟨-, hlanes, -⟩ ha - ht
  obtain ⟨hwarp, hsp, -⟩ := ctx_warp hc
  obtain ⟨hkeep, hready⟩ := hf c { c.sp with status := .ready }
  obtain ⟨x, hx, hafter⟩ := turned_after hwarp hsp (hkeep.trans_ne hlanes) hready
  rw [he, issue_go hc ha rfl, ctx_st hc] at ht
  have ht : t = s.modWarp c.w.uid fun _ => x := (Host.Outcome.next.inj ht).symm.trans hafter
  have part : ∀ {β : Type} {g : Warp → β}, Apart g → g x = g c.w := fun hg =>
    (hg.found hx).trans (hg.selection c.w _ c.w.running c.w.expired c.w.idle)
  have hsticky : x.sticky = c.w.sticky := calc
    x.sticky = (turnedWarp c.k (f c) c.w).settle.sticky := by rw [← hx.1]
    _ = c.w.sticky := settle_keeps (g := Warp.sticky) fun _ _ => rfl
  have hreg : ∀ r, (c.w.reg r).due = false → x.reg r = c.w.reg r := fun r hdue => by
    rw [sameBut_reg hx]
    exact settle_reg (w := turnedWarp c.k (f c) c.w) fun _ => hdue
  exact frame_of hwarp ht (part restOf_apart) (keepsWarp_of (part restOf_apart) (fun r _ _ _ => hreg r) (fun r _ => part (sreg_apart r))
    fun r _ => part (pred_apart r)) (by rw [hsticky, BitVec.and_self]) fun _ => part operationsOf_apart

end Transfers

/-! ### The families of RegisterFrames -/

section Families

theorem bsrc_writes (o : V3) (n : Nat) : (bsrc o n).wr = false := by
  unfold bsrc
  split <;> rfl

theorem regs_pair {u : Use} {d : BitVec 5} {p : Bool} (hr : u.reg = d.toNat) (hc : u.cnt = pairs p) : u.regs = pairOf d p := by
  cases p <;> simp [Use.regs, pairOf, hr, hc, pairs, List.range_succ]

/-- Operands of which the first is the destination. -/
theorem destsIn_cons {u : Use} {us : List Use} {d : BitVec 5} {p : Bool} (hr : u.reg = d.toNat) (hc : u.cnt = pairs p)
    (hus : ∀ x ∈ us, x.wr = false) : DestsIn (u :: us) (pairOf d p) := by
  intro x hx _ hwr r hmem
  rcases List.mem_cons.1 hx with rfl | hx
  · exact regs_pair hr hc ▸ hmem
  · rw [hus x hx] at hwr
    cases hwr

theorem destsIn_nil {us : List Use} (hus : ∀ x ∈ us, x.cls = 0 → x.wr = false) : DestsIn us [] := by
  intro x hx hc hwr
  rw [hus x hx hc] at hwr
  cases hwr

variable {ok : Ty → Bool} {opc : Nat}

theorem frames_binary {i : V3 → Instr} {f : V3 → Ctx → Nat → Res} (he : ∀ o s, exec (i o) s =
      issue opc s (fun c => v3Uses o (pairs c.ty.pair) (pairs c.ty.pair) (pairs c.ty.pair)) (tyCheck opc ok)
        fun c => c.vresult o.d.toNat c.ty.pair (f o c) := by exact fun _ _ => rfl) (hne : opc ≠ 0xBC := by decide) (o : V3) :
    Frames (i o) opc (fun c => v3Uses o (pairs c.ty.pair) (pairs c.ty.pair) (pairs c.ty.pair)) (fun c => ok c.ty = true)
      (fun c => pairOf o.d c.ty.pair) (fun _ => []) fun _ => [] :=
  frames_vresult (he o) hne (fun _ => ty_ok) fun c => destsIn_cons rfl rfl (by simp [vsrc, bsrc_writes])

theorem frames_fused {i : V3 → Instr} {f : V3 → Ctx → Nat → Res} (he : ∀ o s, exec (i o) s =
      issue opc s (fun c => v3AccUses o (pairs c.ty.pair) (pairs c.ty.pair) (pairs c.ty.pair)) (tyCheck opc ok)
        fun c => c.vresult o.d.toNat c.ty.pair (f o c) := by exact fun _ _ => rfl) (hne : opc ≠ 0xBC := by decide) (o : V3) :
    Frames (i o) opc (fun c => v3AccUses o (pairs c.ty.pair) (pairs c.ty.pair) (pairs c.ty.pair)) (fun c => ok c.ty = true)
      (fun c => pairOf o.d c.ty.pair) (fun _ => []) fun _ => [] :=
  frames_vresult (he o) hne (fun _ => ty_ok) fun c => destsIn_cons rfl rfl (by simp [vsrc, bsrc_writes])

theorem frames_unary {i : V3 → Instr} {f : V3 → Ctx → Nat → Res} (he : ∀ o s, exec (i o) s =
      issue opc s (fun c => unUses o (pairs c.ty.pair) (pairs c.ty.pair)) (tyCheck opc ok)
        fun c => c.vresult o.d.toNat c.ty.pair (f o c) := by exact fun _ _ => rfl) (hne : opc ≠ 0xBC := by decide) (o : V3) :
    Frames (i o) opc (fun c => unUses o (pairs c.ty.pair) (pairs c.ty.pair)) (fun c => ok c.ty = true)
      (fun c => pairOf o.d c.ty.pair) (fun _ => []) fun _ => [] :=
  frames_vresult (he o) hne (fun _ => ty_ok) fun c => destsIn_cons rfl rfl (by simp [vsrc])

theorem frames_bitwise {i : V3 → Instr} {f : V3 → Ctx → Nat → Res} (he : ∀ o s, exec (i o) s =
      issue opc s (fun c => v3Uses o (pairs c.ty.intPair) (pairs c.ty.intPair) (pairs c.ty.intPair)) noCheck
        fun c => c.vresult o.d.toNat c.ty.intPair (f o c) := by exact fun _ _ => rfl) (hne : opc ≠ 0xBC := by decide) (o : V3) :
    Frames (i o) opc (fun c => v3Uses o (pairs c.ty.intPair) (pairs c.ty.intPair) (pairs c.ty.intPair)) always
      (fun c => pairOf o.d c.ty.intPair) (fun _ => []) fun _ => [] :=
  frames_vresult (he o) hne (fun _ _ => rfl) fun c => destsIn_cons rfl rfl (by simp [vsrc, bsrc_writes])

theorem frames_compare {i : V3 → Instr} {f : V3 → Ctx → Nat → Bool × BitVec 8} (he : ∀ o s, exec (i o) s =
      issue opc s (fun c => cmpUses o (pairs c.ty.pair)) (tyCheck opc ok)
        fun c => c.presult (bitsAt o.d.toNat 2 0) (f o c) := by exact fun _ _ => rfl)
    (hne : opc ≠ 0xBC := by decide) (o : V3) :
    Frames (i o) opc (fun c => cmpUses o (pairs c.ty.pair)) (fun c => ok c.ty = true) (fun _ => []) (fun _ => []) fun _ => [o.d.toNat % 8] :=
  frames_presult (he o) hne (fun _ => ty_ok) fun c => destsIn_nil (by simp [cmpUses, pwrite, vsrc, bsrc_writes])

theorem frames_immediate {i : VI → Instr} {f : VI → Ctx → Nat → Res} (he : ∀ o s, exec (i o) s =
      issue opc s (fun c => viUses o (pairs c.ty.pair) (pairs c.ty.pair)) (tyCheck opc ok)
        fun c => c.vresult o.d.toNat c.ty.pair (f o c) := by exact fun _ _ => rfl) (hne : opc ≠ 0xBC := by decide) (o : VI) :
    Frames (i o) opc (fun c => viUses o (pairs c.ty.pair) (pairs c.ty.pair)) (fun c => ok c.ty = true)
      (fun c => pairOf o.d c.ty.pair) (fun _ => []) fun _ => [] :=
  frames_vresult (he o) hne (fun _ => ty_ok) fun c => destsIn_cons rfl rfl (by simp [vsrc])

theorem frames_bitwiseImmediate {i : VI → Instr} {f : VI → Ctx → Nat → Res} (he : ∀ o s, exec (i o) s =
      issue opc s (fun c => viUses o (pairs c.ty.intPair) (pairs c.ty.intPair)) noCheck
        fun c => c.vresult o.d.toNat c.ty.intPair (f o c) := by exact fun _ _ => rfl) (hne : opc ≠ 0xBC := by decide) (o : VI) :
    Frames (i o) opc (fun c => viUses o (pairs c.ty.intPair) (pairs c.ty.intPair)) always
      (fun c => pairOf o.d c.ty.intPair) (fun _ => []) fun _ => [] :=
  frames_vresult (he o) hne (fun _ _ => rfl) fun c => destsIn_cons rfl rfl (by simp [vsrc])

theorem frames_scalar {i : S3 → Instr} {f : S3 → Ctx → Nat} (he : ∀ o s, exec (i o) s =
      issue opc s (fun _ => [sdst o.d 1, ssrc o.a 1, ssrc o.b 1]) noCheck fun c => .done c.st (swrite o.d.toNat (f o c)) 0 := by exact fun _ _ => rfl)
    (hne : opc ≠ 0xBC := by decide) (o : S3) :
    Frames (i o) opc (fun _ => [sdst o.d 1, ssrc o.a 1, ssrc o.b 1]) always (fun _ => []) (fun _ => if o.d = 0 then [] else [o.d.toNat])
      fun _ => [] :=
  frames_swrite (he o) hne (fun _ _ => rfl) fun _ => destsIn_nil (by simp [sdst, ssrc])

end Families

theorem frames_sel (o : V3) :
    Frames (.sel o) 0x1E (fun c => (v3Uses o (pairs c.ty.intPair) (pairs c.ty.intPair) (pairs c.ty.intPair)).map fun u => { u with all := true })
      always (fun c => pairOf o.d c.ty.intPair) (fun _ => []) fun _ => [] :=
  frames_of_done (fun _ => rfl) (by decide) (fun _ _ => rfl) (fun _ => ⟨_, rfl⟩) (fun _ => destsIn_cons rfl rfl (by simp [vsrc, bsrc_writes]))
    fun _ => targets_vwrite

theorem frames_nop : Frames .nop 0x00 (fun _ => []) always (fun _ => []) (fun _ => []) fun _ => [] :=
  frames_of_done (ws := fun _ => []) (fun _ => rfl) (by decide) (fun _ _ => rfl) (fun _ => ⟨_, rfl⟩) (fun _ => destsIn_nil (by simp)) (by simp)

theorem frames_brau (o : B) : Frames (.brau o) 0x02 (fun _ => []) always (fun _ => []) (fun _ => []) fun _ => [] :=
  frames_of_turn (fun _ => rfl) fun _ _ => ⟨rfl, rfl⟩

/-- The move of an immediate to a vector register, and to the upper part of one. -/
theorem frames_movi (o : SL) : Frames (.movi o) 0x30 (fun _ => [vdst o.d 1]) always (fun _ => [o.d.toNat]) (fun _ => []) fun _ => [] :=
  frames_vresult (p := fun _ => false) (fun _ => rfl) (by decide) (fun _ _ => rfl) fun _ => destsIn_cons rfl rfl (by simp)

theorem frames_movhi (o : SL) : Frames (.movhi o) 0x31 (fun _ => [vacc o.d 1]) always (fun _ => [o.d.toNat]) (fun _ => []) fun _ => [] :=
  frames_vresult (p := fun _ => false) (fun _ => rfl) (by decide) (fun _ _ => rfl) fun _ => destsIn_cons rfl rfl (by simp)

theorem frames_saddi (o : SI) : Frames (.saddi o) 0x3A (fun _ => [sdst o.d 1, ssrc o.a 1]) always (fun _ => [])
    (fun _ => if o.d = 0 then [] else [o.d.toNat]) fun _ => [] :=
  frames_swrite (fun _ => rfl) (by decide) (fun _ _ => rfl) fun _ => destsIn_nil (by simp [sdst, ssrc])

theorem frames_smovi (o : SL) : Frames (.smovi o) 0x3B (fun _ => [sdst o.d 1]) always (fun _ => [])
    (fun _ => if o.d = 0 then [] else [o.d.toNat]) fun _ => [] :=
  frames_swrite (fun _ => rfl) (by decide) (fun _ _ => rfl) fun _ => destsIn_nil (by simp [sdst])

/-- Settles O56, each instruction by the frame of its shape. -/
theorem registerFrames : Obligations.RegisterFrames := by
  unfold Obligations.RegisterFrames
  exact ⟨⟨frames_binary, frames_binary, frames_binary, frames_binary, frames_fused, frames_binary, frames_binary, frames_bitwise,
      frames_bitwise, frames_bitwise, frames_bitwise, frames_binary, frames_binary, frames_binary, frames_unary, frames_unary,
      frames_unary, frames_unary, frames_sel⟩,
    ⟨frames_immediate, frames_bitwiseImmediate, frames_bitwiseImmediate, frames_bitwiseImmediate, frames_immediate, frames_immediate,
      frames_immediate, frames_movi, frames_movhi⟩,
    ⟨frames_compare, frames_compare, frames_compare, frames_compare, frames_compare, frames_compare⟩,
    ⟨frames_scalar, frames_scalar, frames_scalar, frames_scalar, frames_scalar, frames_scalar, frames_scalar, frames_scalar,
      frames_saddi, frames_smovi⟩,
    ⟨frames_binary, frames_binary, frames_binary, frames_fused, frames_fused, frames_fused, frames_binary, frames_binary, frames_binary,
      frames_unary, frames_unary, frames_unary, frames_binary, frames_unary, frames_binary⟩,
    ⟨frames_unary, frames_unary, frames_unary, frames_unary, frames_unary, frames_unary, frames_unary, frames_unary⟩,
    ⟨frames_compare, frames_compare, frames_compare, frames_compare, frames_compare, frames_compare, frames_compare⟩,
    frames_nop, frames_brau⟩

end Sys2Proof.Proofs
end

section
/-! SUPPORT. The i32 results read from the registers of the next state (R20, R60, R101, R104 to R106): which lanes a result is read
in, and each result as 32-bit two's-complement arithmetic. -/

namespace Sys2Proof.Proofs

open Sys2Proof.Machine Sys2Proof.Laws

/-! ### The register that a result is read from -/

/-- A name after its allocation: zeros where it had no register, and no free due (R11, R13). -/
def allocated (x : VReg) : VReg := if x.live then { x with due := false } else { VReg.empty with live := true }

theorem allocated_idem (x : VReg) : allocated (allocated x) = allocated x := by
  unfold allocated
  cases x.live <;> simp [VReg.empty]

theorem allocated_due (x : VReg) : (allocated x).due = false := by
  unfold allocated
  cases x.live <;> rfl

theorem allocated_val (x : VReg) : (allocated x).val = if x.live = false then List.replicate 32 0 else x.val := by
  unfold allocated
  cases h : x.live <;> rfl

section Reads

variable {c : Ctx} {opc : Nat} {uses : List Use} {ws : List LaneWrite} {st : BitVec 8} {w x : Warp} {r : Nat}

theorem alloc_reg_self (h : r < w.v.length) : (w.alloc r).reg r = allocated (w.reg r) := getD_set_self h _ _

theorem foldl_alloc_reg {names : List Nat} (hmem : r ∈ names) (h : r < w.v.length) :
    (names.foldl Warp.alloc w).reg r = allocated (w.reg r) := by
  induction names generalizing w with
  | nil => cases hmem
  | cons q names ih =>
    have hlen : r < (w.alloc q).v.length := by simpa [Warp.alloc] using h
    have hq : allocated ((w.alloc q).reg r) = allocated (w.reg r) := by
      by_cases e : q = r
      · rw [e, alloc_reg_self h, allocated_idem]
      · rw [alloc_reg_ne e]
    rw [List.foldl_cons]
    by_cases hn : r ∈ names
    · rw [ih hn hlen, hq]
    · have hr : r = q := (List.mem_cons.1 hmem).resolve_right hn
      rw [foldl_keeps (g := fun w => w.reg r) fun p hp w => alloc_reg_ne (ne_of_mem_of_not_mem hp hn) w, ← hr, alloc_reg_self h]

theorem stageAlloc_reg (hmem : r ∈ writtenNames uses) (h : r < w.v.length) :
    (stageAlloc c uses w).reg r = if c.w.renames = true then allocated (w.reg r) else w.reg r := by
  unfold stageAlloc
  split
  · exact foldl_alloc_reg hmem h
  · rfl

theorem stageAlloc_length : (stageAlloc c uses w).v.length = w.v.length := by
  unfold stageAlloc
  split
  · exact foldl_keeps (g := fun w => w.v.length) (f := Warp.alloc) (fun _ _ _ => by simp [Warp.alloc]) w
  · rfl

theorem stageFree_vector : (stageFree c uses w).v = w.v := by
  unfold stageFree
  split <;> rfl

theorem putV_reg_self {m pois : Mask} {vals : List Word} (h : r < w.v.length) :
    (w.putV r m vals pois).reg r = { w.reg r with
      val := (List.range 32).map fun i => if hasLane m i then vals.getD i 0 else (w.reg r).val.getD i 0,
      poison := ((w.reg r).poison &&& ~~~m) ||| (pois &&& m) } := getD_set_self h _ _

theorem getD_map_range {α : Type} {n i : Nat} (h : i < n) (f : Nat → α) (d : α) : ((List.range n).map f).getD i d = f i := by
  simp [h]

theorem main_renames {w : Warp} (h : w.kind = .main) : w.renames = true := by simp [Warp.renames, h]

/-- The register in which an instruction of short latency leaves a result, before the lanes of it are read. -/
theorem retired_reg {d : Nat} {m : Mask} {f : Nat → Nat} (hx : SameBut (retiredWarp c opc uses (vwrite d false m f) st c.w).settle x)
    (hd : d < c.w.v.length) (hmem : d ∈ writtenNames uses) (hlast : lastReads uses = []) (hshort : longOp opc = false) :
    (x.reg d).val = (List.range 32).map fun i =>
      if hasLane m i then (perLane fun i => if hasLane m i then Machine.word (f i) else 0).getD i 0
      else (if c.w.renames = true then allocated (c.w.reg d) else c.w.reg d).val.getD i 0 := by
  have hbase : (stageFree c uses (stageAlloc c uses c.w)).reg d = if c.w.renames = true then allocated (c.w.reg d) else c.w.reg d :=
    stageFree_reg.trans (stageAlloc_reg hmem hd)
  have hlen : d < (stageFree c uses (stageAlloc c uses c.w)).v.length := by rwa [stageFree_vector, stageAlloc_length]
  have hretired : (retiredWarp c opc uses (vwrite d false m f) st c.w).reg d = ((stageFree c uses (stageAlloc c uses c.w)).putV d m
      (perLane fun i => if hasLane m i then Machine.word (f i) else 0) 0).reg d := by
    change (stageLast c uses _).reg d = _
    rw [stageLast_reg_ne (by simp [hlast]), stageWrite_short hshort]
    rfl
  have hkind := restOf_part (restOf_retired c opc uses (vwrite d false m f) st c.w) Warp.kind
  have hdue : (retiredWarp c opc uses (vwrite d false m f) st c.w).kind = .main →
      ((retiredWarp c opc uses (vwrite d false m f) st c.w).reg d).due = false := fun h => by
    rw [hretired, putV_reg_self hlen, hbase, if_pos (main_renames (hkind.symm.trans h))]
    exact allocated_due _
  rw [sameBut_reg hx, settle_reg hdue, hretired, putV_reg_self hlen, hbase]

/-- The lanes of a result, and what the allocation of its name left in the others. -/
theorem retired_lane {d l : Nat} {m : Mask} {f : Nat → Nat} (hx : SameBut (retiredWarp c opc uses (vwrite d false m f) st c.w).settle x)
    (hd : d < c.w.v.length) (hmem : d ∈ writtenNames uses) (hlast : lastReads uses = []) (hshort : longOp opc = false)
    (hl : l < 32) :
    (x.reg d).val.getD l 0 = if hasLane m l = true then Machine.word (f l)
      else if c.w.renames = true ∧ (c.w.reg d).live = false then 0 else (c.w.reg d).val.getD l 0 := by
  rw [retired_reg hx hd hmem hlast hshort, getD_map_range hl, perLane, getD_map_range hl]
  by_cases hm : hasLane m l = true
  · simp only [hm, if_true]
  · rw [if_neg hm, if_neg hm]
    by_cases hr : c.w.renames = true
    · rw [if_pos hr, allocated_val]
      by_cases hlive : (c.w.reg d).live = false
      · rw [if_pos hlive, if_pos ⟨hr, hlive⟩, List.getD_replicate _ hl]
      · rw [if_neg hlive, if_neg fun h => hlive h.2]
    · rw [if_neg hr, if_neg fun h => hr h.1]

end Reads

/-! ### Operations on one element of i32 -/

section Words

theorem elemAt_word (x : Nat) : elemAt 32 0 x = (Machine.word x).toNat := by
  simp [elemAt, Machine.word]

/-- A single element of 32 bits is the word. -/
theorem word_perElem (f : Nat → Res) : Machine.word (perElem 32 1 f).1 = Machine.word (f 0).1 := by
  refine BitVec.eq_of_toNat_eq ?_
  have h := elemAt_perElem (w := 32) (n := 1) (f := f) Nat.one_pos
  rwa [elemAt_word, ← BitVec.toNat_ofNat] at h

theorem word_wrapTo (x : Int) : Machine.word (wrapTo 32 x) = BitVec.ofInt 32 x := wrapTo_eq_ofInt 32 x

/-- An i32 is read as two's complement. -/
theorem read_word (x : Word) : Ty.i32.read x.toNat = x.toInt := by
  change toSigned 32 x.toNat = _
  rw [toSigned_eq_toInt (by decide) x.isLt, BitVec.ofNat_toNat, BitVec.setWidth_eq]

theorem intAdd_word (a b : Word) : Machine.word (intAdd .i32 false a.toNat b.toNat).1 = a + b := by
  change Machine.word (wrapTo 32 (Ty.i32.read a.toNat + Ty.i32.read b.toNat)) = _
  rw [word_wrapTo, read_word, read_word, BitVec.ofInt_add, BitVec.ofInt_toInt, BitVec.ofInt_toInt]

theorem intSub_word (a b : Word) : Machine.word (intSub .i32 false a.toNat b.toNat).1 = a - b := by
  change Machine.word (wrapTo 32 (Ty.i32.read a.toNat - Ty.i32.read b.toNat)) = _
  rw [word_wrapTo, read_word, read_word, Int.sub_eq_add_neg, BitVec.ofInt_add, BitVec.ofInt_neg, BitVec.ofInt_toInt, BitVec.ofInt_toInt,
    BitVec.sub_eq_add_neg]

theorem intMul_word (a b : Word) : Machine.word (intMul .i32 false a.toNat b.toNat).1 = a * b := by
  change Machine.word (wrapTo 32 (Ty.i32.read a.toNat * Ty.i32.read b.toNat)) = _
  rw [word_wrapTo, read_word, read_word, BitVec.ofInt_mul, BitVec.ofInt_toInt, BitVec.ofInt_toInt]

theorem intMin_word (a b : Word) : Machine.word (intMin .i32 a.toNat b.toNat).1 = if a.sle b = true then a else b := by
  simp only [intMin, read_word, BitVec.sle_iff_toInt_le]
  split <;> exact BitVec.ofNat_toNat .. |>.trans (BitVec.setWidth_eq _)

theorem intMax_word (a b : Word) : Machine.word (intMax .i32 a.toNat b.toNat).1 = if b.sle a = true then a else b := by
  simp only [intMax, read_word, BitVec.sle_iff_toInt_le]
  split <;> exact BitVec.ofNat_toNat .. |>.trans (BitVec.setWidth_eq _)

theorem land_word (a b : Nat) : Machine.word (Nat.land a b) = Machine.word a &&& Machine.word b := BitVec.ofNat_and
theorem lor_word (a b : Nat) : Machine.word (Nat.lor a b) = Machine.word a ||| Machine.word b := BitVec.ofNat_or
theorem xor_word (a b : Nat) : Machine.word (Nat.xor a b) = Machine.word a ^^^ Machine.word b := BitVec.ofNat_xor

end Words

/-! ### Results in the lanes of the next state -/

section Lanes

/-- Under TYPE i32 with SAT 0 the next state's register d holds a value in each active lane; the others keep theirs, or read the zeros of
a new register (R11, R20, R60). -/
def WordLanes (i : Instr) (opc : Nat) (uses : List Use) (d : BitVec 5) (f : Ctx → Nat → Word) : Prop :=
  ∀ s c t x, s.ctx? = some c → Running c → c.w.shaped → c.ty = .i32 → modeSat c.m = false →
    Admitted c opc uses → exec i s = .next t → t.warp? c.w.uid = some x →
    ∀ l, l < 32 → (x.reg d.toNat).val.getD l 0 =
      if hasLane c.act l = true then f c l
      else if c.w.renames = true ∧ (c.w.reg d.toNat).live = false then 0 else (c.w.reg d.toNat).val.getD l 0

/-- LDACQ, whose retirement is more (R174), is of long latency. -/
theorem ne_of_short {opc : Nat} (h : longOp opc = false) : opc ≠ 0xBC := by
  rintro rfl
  cases h

/-- A retirement's warp, as the next state finds it. -/
theorem retired_found {c : Ctx} {opc : Nat} {uses : List Use} {ws : List LaneWrite} {st : BitVec 8} {s t : State} {x : Warp}
    (hc : s.ctx? = some c) (hr : Running c) (hshort : longOp opc = false) (ht : t = c.retire opc uses s ws st) (hx : t.warp? c.w.uid = some x) :
    SameBut (retiredWarp c opc uses ws st c.w).settle x := by
  obtain ⟨hwarp, hsp, -⟩ := ctx_warp hc
  obtain ⟨y, hy, hmod, -⟩ := retire_warp (uses := uses) (ws := ws) (st := st) hr.1 (ne_of_short hshort) hwarp hsp hr.2.1
  have hyu : y.uid = c.w.uid := hy.uid.trans (by rw [settle_uid, retiredWarp, stageStep_uid, stageLast_uid, stageWrite_uid, stageFree_uid,
    stageAlloc_uid])
  rw [ht, hmod, modWarp_warp? _ _ _ _ fun _ _ => hyu, if_pos rfl, hwarp] at hx
  cases hx
  exact hy

theorem lastReads_nil {us : List Use} (h : ∀ u ∈ us, u.cls = 0 → u.last = false) : lastReads us = [] := by
  refine List.filter_eq_nil_iff.2 fun r _ hr => ?_
  obtain ⟨u, hu, hr⟩ := List.any_eq_true.1 hr
  simp only [Bool.and_eq_true, beq_iff_eq] at hr
  rw [h u hu hr.1.1] at hr
  cases hr.1.2

theorem mem_writtenNames {us : List Use} {d : BitVec 5} {u : Use} (hu : u ∈ us) (hc : u.cls = 0) (hw : u.wr = true) (hr : u.reg = d.toNat)
    (hn : u.cnt = 1) : d.toNat ∈ writtenNames us := by
  refine List.mem_filter.2 ⟨List.mem_range.2 d.isLt, List.any_eq_true.2 ⟨u, hu, ?_⟩⟩
  simp [hc, hw, Use.regs, hr, hn]

variable {opc : Nat} {uses : List Use} {d : BitVec 5} {f : Ctx → Nat → Word}

/-- A result that is a word in each lane under i32. -/
theorem wordLanes_of {i : Instr} {usesOf : Ctx → List Use} {own : Ctx → Option (Nat × Word)} {p : Ctx → Bool} {g : Ctx → Nat → Res}
    (he : ∀ s, exec i s = issue opc s usesOf own fun c => c.vresult d.toNat (p c) (g c)) (hshort : longOp opc = false)
    (hty : ∀ c, c.ty = .i32 → usesOf c = uses ∧ own c = none ∧ p c = false)
    (hmem : d.toNat ∈ writtenNames uses) (hlast : ∀ u ∈ uses, u.cls = 0 → u.last = false)
    (hg : ∀ c l, c.ty = .i32 → modeSat c.m = false → Machine.word (g c l).1 = f c l) : WordLanes i opc uses d f := by
  intro s c t x hc hr hshaped hi32 hsat ha ht hx l hl
  obtain ⟨huses, hown, hp⟩ := hty c hi32
  rw [he, issue_done hc (huses ▸ ha) hown (vresult_done c d.toNat (p c) (g c)), huses, hp, ctx_st hc] at ht
  have hfound := retired_found hc hr hshort (Host.Outcome.next.inj ht).symm hx
  have hlen : d.toNat < c.w.v.length := by rw [hshaped.1]; exact d.isLt
  rw [retired_lane hfound hlen hmem (lastReads_nil hlast) hshort hl, hg c l hi32 hsat]

theorem v3_lastless {o : V3} (ha : o.la = false) (hb : o.bs = true ∨ o.lb = false) : ∀ u ∈ v3Uses o 1 1 1, u.cls = 0 → u.last = false := by
  have hbsrc : (bsrc o 1).last = false := by
    unfold bsrc
    split
    · rfl
    · next h => exact hb.resolve_left h
  simp [v3Uses, vdst, vsrc, ha, hbsrc]

theorem vi_lastless {v : VI} (ha : v.la = false) : ∀ u ∈ viUses v 1 1, u.cls = 0 → u.last = false := by
  simp [viUses, vdst, vsrc, ha]

/-- A V3 instruction whose result in each lane is an operation on the words of its two sources. -/
def Lanewise (i : V3 → Instr) (opc : Nat) (op : Word → Word → Word) : Prop :=
  ∀ o : V3, o.la = false → (o.bs = true ∨ o.lb = false) → WordLanes (i o) opc (v3Uses o 1 1 1) o.d fun c l =>
    op (Machine.word (c.aval o false l)) (Machine.word (c.bval o false l))

/-- The same of a VI instruction, whose second operand is its immediate. -/
def LanewiseImmediate (i : VI → Instr) (opc : Nat) (op : Word → Word → Word) : Prop :=
  ∀ o : VI, o.la = false → WordLanes (i o) opc (viUses o 1 1) o.d fun c l => op (Machine.word (c.viVal o false l)) (o.imm.signExtend 32)

variable {op : Word → Word → Word}

/-- A binary operation of V3 on i32. -/
theorem lanewise_int {i : V3 → Instr} (f : Ty → Bool → Nat → Nat → Res) (he : ∀ o s, exec (i o) s = issueInt opc o s f)
    (hf : ∀ a b : Word, Machine.word (f .i32 false a.toNat b.toNat).1 = op a b) (hshort : longOp opc = false := by decide) :
    Lanewise i opc op := by
  intro o ha hb
  refine wordLanes_of (fun s => he o s) hshort (fun c h => ⟨?_, ty_ok (by rw [h]; rfl), by rw [h]; rfl⟩)
    (mem_writtenNames List.mem_cons_self rfl rfl rfl rfl) (v3_lastless ha hb) fun c l h hsat => ?_
  · rw [Ctx.tyPairs, h]
    rfl
  · rw [h, hsat]
    refine (word_perElem _).trans ?_
    rw [← hf, ← elemAt_word, ← elemAt_word]
    rfl

/-- A bitwise operation of V3 under i32. -/
theorem lanewise_bits {i : V3 → Instr} (f : Nat → Nat → Nat) (he : ∀ o s, exec (i o) s = issueBits opc o s f)
    (hf : ∀ a b : Nat, Machine.word (f a b) = op (Machine.word a) (Machine.word b)) (hshort : longOp opc = false := by decide) :
    Lanewise i opc op := by
  intro o ha hb
  refine wordLanes_of (fun s => he o s) hshort (fun c h => ⟨?_, rfl, by rw [h]; rfl⟩)
    (mem_writtenNames List.mem_cons_self rfl rfl rfl rfl) (v3_lastless ha hb) fun c l h hsat => ?_
  · rw [Ctx.intPairs, h]
    rfl
  · rw [h]
    exact hf _ _

theorem signExtend_toNat {n : Nat} (imm : BitVec n) : (imm.signExtend 32).toNat = wrapTo 32 imm.toInt := by
  rw [BitVec.signExtend, BitVec.toNat_ofInt, wrapTo]

theorem iaddi_lanes : LanewiseImmediate .iaddi 0x29 (· + ·) := by
  intro o ha
  refine wordLanes_of (fun _ => rfl) (by decide) (fun c h => ⟨?_, ty_ok (by rw [h]; rfl), by rw [h]; rfl⟩)
    (mem_writtenNames List.mem_cons_self rfl rfl rfl rfl) (vi_lastless ha) fun c l h hsat => ?_
  · rw [Ctx.tyPairs, h]
    rfl
  · rw [h, hsat]
    refine ((word_perElem _).trans ?_).trans (intAdd_word (Machine.word (c.viVal o false l)) (o.imm.signExtend 32))
    rw [signExtend_toNat, ← elemAt_word]
    rfl

/-- A bitwise operation with an immediate under i32. -/
theorem lanewise_bitsImm {i : VI → Instr} (f : Nat → Nat → Nat) (he : ∀ o s, exec (i o) s = issueBitsImm opc o s f)
    (hf : ∀ a b : Nat, Machine.word (f a b) = op (Machine.word a) (Machine.word b)) (hshort : longOp opc = false := by decide) :
    LanewiseImmediate i opc op := by
  intro o ha
  refine wordLanes_of (fun s => he o s) hshort (fun c h => ⟨?_, rfl, by rw [h]; rfl⟩)
    (mem_writtenNames List.mem_cons_self rfl rfl rfl rfl) (vi_lastless ha) fun c l h hsat => ?_
  · rw [Ctx.intPairs, h]
    rfl
  · rw [h]
    refine (hf _ _).trans (congrArg _ ?_)
    exact word_wrapTo _

theorem movi_lanes (o : SL) : WordLanes (.movi o) 0x30 [vdst o.d 1] o.d fun _ _ => o.imm.signExtend 32 :=
  wordLanes_of (p := fun _ => false) (fun _ => rfl) (by decide) (fun _ _ => ⟨rfl, rfl, rfl⟩)
    (mem_writtenNames List.mem_cons_self rfl rfl rfl rfl) (by simp [vdst]) fun _ _ _ _ => word_wrapTo _

/-- The upper 13 bits of an immediate above the lower 19 of a word. -/
theorem movhi_word (imm : BitVec 19) (x : Word) :
    Machine.word (bitsAt imm.toNat 12 0 * 2 ^ 19 + x.toNat % 2 ^ 19) = (imm.setWidth 32 <<< 19) ||| (x &&& 0x7FFFF) := by
  have hlow : x.toNat % 2 ^ 19 < 2 ^ 19 := Nat.mod_lt _ (by decide)
  have hhigh : bitsAt imm.toNat 12 0 * 2 ^ 19 = imm.toNat * 2 ^ 19 % 2 ^ 32 := by
    simp only [bitsAt]
    omega
  have hmask : x.toNat &&& 0x7FFFF = x.toNat % 2 ^ 19 := Nat.and_two_pow_sub_one_eq_mod x.toNat 19
  refine BitVec.eq_of_toNat_eq ?_
  have hmod : imm.toNat % 2 ^ 32 = imm.toNat := Nat.mod_eq_of_lt (by omega)
  have hor : bitsAt imm.toNat 12 0 * 2 ^ 19 + x.toNat % 2 ^ 19 = bitsAt imm.toNat 12 0 * 2 ^ 19 ||| x.toNat % 2 ^ 19 := by
    rw [← Nat.shiftLeft_eq]
    exact Nat.shiftLeft_add_eq_or_of_lt hlow _
  have hlt : bitsAt imm.toNat 12 0 * 2 ^ 19 + x.toNat % 2 ^ 19 < 2 ^ 32 := by
    simp only [bitsAt]
    omega
  rw [Machine.word, BitVec.toNat_ofNat, Nat.mod_eq_of_lt hlt, hor, BitVec.toNat_or, BitVec.toNat_shiftLeft, BitVec.toNat_setWidth, hmod,
    Nat.shiftLeft_eq, ← hhigh, BitVec.toNat_and, ← hmask]
  rfl

theorem movhi_lanes (o : SL) : WordLanes (.movhi o) 0x31 [vacc o.d 1] o.d fun c l =>
    (o.imm.setWidth 32 <<< 19) ||| (c.lane o.d.toNat l &&& 0x7FFFF) :=
  wordLanes_of (p := fun _ => false) (fun _ => rfl) (by decide) (fun _ _ => ⟨rfl, rfl, rfl⟩)
    (mem_writtenNames List.mem_cons_self rfl rfl rfl rfl) (by simp [vacc]) fun _ _ _ _ => movhi_word _ _

theorem iadd_lanes : Lanewise .iadd 0x10 (· + ·) := lanewise_int intAdd (fun _ _ => rfl) intAdd_word
theorem isub_lanes : Lanewise .isub 0x11 (· - ·) := lanewise_int intSub (fun _ _ => rfl) intSub_word
theorem imul_lanes : Lanewise .imul 0x12 (· * ·) := lanewise_int intMul (fun _ _ => rfl) intMul_word
theorem imin_lanes : Lanewise .imin 0x15 fun a b => if a.sle b = true then a else b :=
  lanewise_int (fun t _ => intMin t) (fun _ _ => rfl) intMin_word
theorem imax_lanes : Lanewise .imax 0x16 fun a b => if b.sle a = true then a else b :=
  lanewise_int (fun t _ => intMax t) (fun _ _ => rfl) intMax_word
theorem and_lanes : Lanewise .and 0x17 (· &&& ·) := lanewise_bits Nat.land (fun _ _ => rfl) land_word
theorem or_lanes : Lanewise .or 0x18 (· ||| ·) := lanewise_bits Nat.lor (fun _ _ => rfl) lor_word
theorem xor_lanes : Lanewise .xor 0x19 (· ^^^ ·) := lanewise_bits Nat.xor (fun _ _ => rfl) xor_word
theorem andi_lanes : LanewiseImmediate .andi 0x2A (· &&& ·) := lanewise_bitsImm Nat.land (fun _ _ => rfl) land_word
theorem ori_lanes : LanewiseImmediate .ori 0x2B (· ||| ·) := lanewise_bitsImm Nat.lor (fun _ _ => rfl) lor_word
theorem xori_lanes : LanewiseImmediate .xori 0x2C (· ^^^ ·) := lanewise_bitsImm Nat.xor (fun _ _ => rfl) xor_word

end Lanes

/-! ### Scalar results -/

section Scalars

theorem putS_sreg {w : Warp} {d r : Nat} {v : Word} {p : Bool} (hd : d < w.s.length) :
    (w.putS d v p).sreg r = if r = d ∧ r ≠ 0 then v else w.sreg r := by
  by_cases h : d = 0 ∨ d ≠ r
  · rw [putS_sreg_ne h, if_neg]
    omega
  · obtain ⟨h0, rfl⟩ : d ≠ 0 ∧ d = r := by omega
    rw [if_pos ⟨rfl, h0⟩, Warp.putS, if_neg h0, Warp.sreg, if_neg h0]
    exact getD_set_self hd _ _

theorem scalar_own {c : Ctx} (h : c.w.kind ≠ .dense) (r : Nat) : c.s r = c.w.sreg r := by
  rw [Ctx.s, State.scalarWarp, if_neg h]

/-- An S3 instruction whose result in the next state is an operation on two scalars: s0 ignores it, and every other scalar is as it was
(R20, R106). -/
def Scalarwise (i : S3 → Instr) (opc : Nat) (op : Word → Word → Word) : Prop :=
  ∀ o s c t x, s.ctx? = some c → Running c → c.w.shaped → Admitted c opc [sdst o.d 1, ssrc o.a 1, ssrc o.b 1] → exec (i o) s = .next t →
    t.warp? c.w.uid = some x → ∀ r, x.sreg r = if r = o.d.toNat ∧ r ≠ 0 then op (c.w.sreg o.a.toNat) (c.w.sreg o.b.toNat) else c.w.sreg r

theorem scalarwise_of {opc : Nat} {op : Word → Word → Word} {i : S3 → Instr} (f : Nat → Nat → Int)
    (he : ∀ o s, exec (i o) s = issueS3 opc o s f) (hf : ∀ a b : Word, BitVec.ofInt 32 (f a.toNat b.toNat) = op a b)
    (hshort : longOp opc = false := by decide) : Scalarwise i opc op := by
  intro o s c t x hc hr hshaped ha ht hx r
  rw [he, issueS3, issue_done hc ha rfl rfl, ctx_st hc, scalar_own hr.1, scalar_own hr.1] at ht
  have hfound := retired_found hc hr hshort (Host.Outcome.next.inj ht).symm hx
  obtain ⟨-, -, hs, -⟩ := hshaped
  let base : Warp := stageFree c [sdst o.d 1, ssrc o.a 1, ssrc o.b 1] (stageAlloc c [sdst o.d 1, ssrc o.a 1, ssrc o.b 1] c.w)
  have hbase : base.s = c.w.s :=
    (Apart.free ⟨fun _ _ => rfl, fun _ _ => rfl, fun _ _ _ _ _ => rfl⟩).trans (stageAlloc_keeps (g := Warp.s) fun _ _ => rfl)
  have hread : base.sreg r = c.w.sreg r := by rw [Warp.sreg, hbase, Warp.sreg]
  have hwrite := putS_sreg (w := base) (r := r) (v := Machine.word (wrapTo 32 (f (c.w.sreg o.a.toNat).toNat (c.w.sreg o.b.toNat).toNat)))
    (p := false) (d := o.d.toNat) (by rw [hbase, hs]; exact o.d.isLt)
  rw [(sreg_apart r).found hfound, (sreg_apart r).written, stageWrite_short hshort]
  refine hwrite.trans ?_
  rw [hread, word_wrapTo, hf]

theorem ofInt_toNat (x : Word) : BitVec.ofInt 32 (x.toNat : Int) = x := by
  rw [BitVec.ofInt_natCast, BitVec.ofNat_toNat, BitVec.setWidth_eq]

theorem sadd_word (a b : Word) : BitVec.ofInt 32 ((a.toNat : Int) + b.toNat) = a + b := by rw [BitVec.ofInt_add, ofInt_toNat, ofInt_toNat]

theorem ssub_word (a b : Word) : BitVec.ofInt 32 ((a.toNat : Int) - b.toNat) = a - b := by
  rw [Int.sub_eq_add_neg, BitVec.ofInt_add, BitVec.ofInt_neg, ofInt_toNat, ofInt_toNat, BitVec.sub_eq_add_neg]

theorem smul_word (a b : Word) : BitVec.ofInt 32 ((a.toNat : Int) * b.toNat) = a * b := by rw [BitVec.ofInt_mul, ofInt_toNat, ofInt_toNat]

theorem sbits_word {f : Nat → Nat → Nat} {op : Word → Word → Word} (hf : ∀ a b : Word, (op a b).toNat = f a.toNat b.toNat) (a b : Word) :
    BitVec.ofInt 32 (f a.toNat b.toNat : Nat) = op a b := by
  rw [← hf, ofInt_toNat]

theorem sadd_result : Scalarwise .sadd 0x32 (· + ·) := scalarwise_of (fun a b => (a : Int) + b) (fun _ _ => rfl) sadd_word
theorem ssub_result : Scalarwise .ssub 0x33 (· - ·) := scalarwise_of (fun a b => (a : Int) - b) (fun _ _ => rfl) ssub_word
theorem smul_result : Scalarwise .smul 0x34 (· * ·) := scalarwise_of (fun a b => (a : Int) * b) (fun _ _ => rfl) smul_word
theorem sand_result : Scalarwise .sand 0x35 (· &&& ·) :=
  scalarwise_of (fun a b => (Nat.land a b : Nat)) (fun _ _ => rfl) (sbits_word BitVec.toNat_and)
theorem sor_result : Scalarwise .sor 0x36 (· ||| ·) :=
  scalarwise_of (fun a b => (Nat.lor a b : Nat)) (fun _ _ => rfl) (sbits_word BitVec.toNat_or)
theorem sxor_result : Scalarwise .sxor 0x37 (· ^^^ ·) :=
  scalarwise_of (fun a b => (Nat.xor a b : Nat)) (fun _ _ => rfl) (sbits_word BitVec.toNat_xor)

end Scalars

/-- Settles O55, each instruction by the lemma about its result. -/
theorem wordResults : Obligations.WordResults := by
  unfold Obligations.WordResults
  exact ⟨iadd_lanes, isub_lanes, imul_lanes, and_lanes, or_lanes, xor_lanes, iaddi_lanes, andi_lanes, ori_lanes, xori_lanes, movi_lanes,
    movhi_lanes, imin_lanes, imax_lanes, sadd_result, ssub_result, smul_result, sand_result, sor_result, sxor_result⟩

end Sys2Proof.Proofs
end

section
/-! SUPPORT. What reset leaves (R29, R433, R436), and the registers of an agent as it starts (R12, R20 to R25, R34, R126). -/

namespace Sys2Proof.Proofs

open Sys2Proof.Machine Sys2Proof.Laws

theorem reset_canonical : State.reset.canonical := by
  refine ⟨rfl, rfl, ?_, ?_, ?_⟩ <;> exact fun _ h => absurd h List.not_mem_nil

section Start

variable (uid : Nat) (kind : Kind) (entry : Dword) (lanes : Mask)

/-- A vector register of an agent that starts: allocated unless the agent is a main-core warp (R12, R34). -/
def startReg (kind : Kind) : VReg := if kind = .main then VReg.empty else { VReg.empty with live := true }

theorem startReg_val : (startReg kind).val = List.replicate 32 0 := by
  unfold startReg
  split <;> rfl

theorem startWarp_reg (r : Nat) : (startWarp uid kind entry lanes).reg r = if r < 32 then startReg kind else VReg.empty := by
  change (List.replicate 32 (startReg kind)).getD r VReg.empty = _
  split <;> rename_i h
  · exact List.getD_replicate _ h
  · exact List.getD_eq_default _ _ (by simpa using h)

theorem getD_replicate_self {α : Type} (n i : Nat) (a : α) : (List.replicate n a).getD i a = a := by
  rw [List.getD_eq_getElem?_getD, List.getElem?_getD_replicate_default_eq]

theorem startWarp_shaped : (startWarp uid kind entry lanes).shaped := by
  refine ⟨rfl, fun r hr => ?_, rfl, rfl, rfl, rfl, rfl⟩
  have hr : r = startReg kind := List.eq_of_mem_replicate hr
  rw [hr, startReg_val, List.length_replicate]

theorem startWarp_reads_zero (r l : Nat) : (((startWarp uid kind entry lanes).reg r).val).getD l 0 = 0 := by
  rw [startWarp_reg]
  split
  · rw [startReg_val, getD_replicate_self]
  · exact getD_replicate_self 32 l 0

theorem startWarp_sreg (r : Nat) : (startWarp uid kind entry lanes).sreg r = 0 := by
  unfold Warp.sreg
  split
  · rfl
  · exact getD_replicate_self 32 r 0

theorem startWarp_mode {n : Nat} (h : n < 4) : (startWarp uid kind entry lanes).m.getD n 0 = 0x8 :=
  List.getD_replicate _ h

end Start

/-- Settles O52, field by field: reset writes each out, and an agent's registers are copies of one value. -/
theorem resetAndStart : Obligations.ResetAndStart := by
  unfold Obligations.ResetAndStart
  refine ⟨⟨rfl, rfl, rfl, rfl, rfl, rfl, rfl, rfl, rfl, rfl, reset_canonical⟩, fun uid kind entry lanes => ?_⟩
  refine ⟨startWarp_shaped .., startWarp_reads_zero uid kind entry lanes, startWarp_sreg uid kind entry lanes,
    fun n => getD_replicate_self 8 n 0, fun n => getD_replicate_self 12 n 0, fun n => startWarp_mode uid kind entry lanes,
    rfl, rfl, rfl, rfl, rfl, fun hk r => ?_, fun hk r hr => ?_⟩
  · rw [startWarp_reg, hk]
    split <;> rfl
  · rw [startWarp_reg, if_pos hr, hk]
    rfl

end Sys2Proof.Proofs
end

section
/-! SUPPORT. Regions, quotas, yielding and coming home (R18, R19, R171 to R175): one lemma for each answer of each instruction. -/

namespace Sys2Proof.Proofs

open Sys2Proof.Machine Sys2Proof.Laws

theorem bitAt_toNat {n : Nat} (x : BitVec n) (i : Nat) : bitAt x.toNat i = x.getLsbD i := by
  rw [bitAt, BitVec.getLsbD, Nat.testBit_eq_decide_div_mod_eq]
  rfl

section Quota

/-- The quota that an instruction asks for. -/
def wanted (o : X) (c : Ctx) : Nat := (c.s o.y.toNat).toNat

/-- The quota is one that a warp can have (R172). -/
def Allowed (q : Nat) : Prop := ¬(q = 0 ∨ 32 < q)

theorem allowed_of {q : Nat} (h1 : 1 ≤ q) (h2 : q ≤ 32) : Allowed q := by
  unfold Allowed
  omega

/-- The pool of the core covers the quota asked for (R18). -/
def Covered (o : X) (c : Ctx) : Prop := (wanted o c : Int) - (c.w.quota : Int) ≤ c.st.poolFree c.w.core

/-- Requests of the core wait already (R18). -/
def Queued (c : Ctx) : Prop := ∃ g ∈ c.st.growQ, (c.st.warp? g.warp).map (·.core) = some c.w.core

theorem queued_iff (c : Ctx) : (c.st.growQ.any fun g => ((c.st.warp? g.warp).map (·.core)) == some c.w.core) = true ↔ Queued c := by
  simp [Queued]

/-- An instruction of the quota that answers a status in its destination, in a warp that is not compacted (R166, R172). -/
def Answers (i : X → Instr) (opc : Nat) (ok : X → Ctx → Prop) (out : X → Ctx → State) (status : Nat) : Prop :=
  ∀ o, Retires (i o) opc (fun _ => [sdst o.x 1, ssrc o.y 1]) (fun c => c.dense = false ∧ ok o c) (out o)
    (fun _ => swrite o.x.toNat status) fun _ => 0

theorem answers_of {i : X → Instr} {opc status : Nat} {ok : X → Ctx → Prop} {out : X → Ctx → State} {body : X → Ctx → Act}
    (he : ∀ o s, exec (i o) s = issue opc s (fun _ => [sdst o.x 1, ssrc o.y 1]) Ctx.compactedCheck (body o))
    (hb : ∀ o c, ok o c → body o c = .done (out o c) (swrite o.x.toNat status) 0) : Answers i opc ok out status :=
  fun o => retires_of (he o) (fun c h => by simp [Ctx.compactedCheck, h.1]) fun c h => hb o c h.2

/-- The state with the quota granted. -/
def granted (o : X) (c : Ctx) : State := c.st.modWarp c.w.uid fun w => { w with quota := wanted o c }

theorem grow_outOfRange : Answers .grow 0xB8 (fun o c => wanted o c = 0 ∨ 32 < wanted o c) (fun _ c => c.st) 2 :=
  answers_of (fun _ _ => rfl) fun _ _ h => if_pos h

theorem grow_noMore : Answers .grow 0xB8 (fun o c => 1 ≤ wanted o c ∧ wanted o c ≤ 32 ∧ wanted o c ≤ c.w.quota) (fun _ c => c.st) 0 :=
  answers_of (fun _ _ => rfl) fun _ _ ⟨h1, h2, hq⟩ => (if_neg (allowed_of h1 h2)).trans (if_pos hq)

/-- GROW of a quota above the warp's own, once its range is checked. -/
theorem grow_body {o : X} {c : Ctx} {α : Type} {bad same more : α} (hq : c.w.quota < wanted o c) (h32 : wanted o c ≤ 32) :
    (if wanted o c = 0 ∨ 32 < wanted o c then bad else if wanted o c ≤ c.w.quota then same else more) = more := by
  rw [if_neg (allowed_of (Nat.lt_of_le_of_lt (Nat.zero_le _) hq) h32), if_neg (Nat.not_le.2 hq)]

theorem grow_granted : Answers .grow 0xB8
    (fun o c => c.w.quota < wanted o c ∧ wanted o c ≤ 32 ∧ Covered o c ∧ (o.imm.getLsbD 0 = false ∨ ¬Queued c)) granted 0 := by
  refine answers_of (fun _ _ => rfl) fun o c ⟨hq, h32, hcov, hgo⟩ => (grow_body hq h32).trans ?_
  have hcov' : ((c.s o.y.toNat).toNat : Int) - (c.w.quota : Int) ≤ c.st.poolFree c.w.core := hcov
  rw [bitAt_toNat]
  cases hb : o.imm.getLsbD 0
  · rw [if_neg Bool.false_ne_true, if_pos hcov']
    rfl
  · have hn := mt (queued_iff c).1 (hgo.resolve_left (by simp [hb]))
    rw [if_pos rfl, if_pos (by simpa [hcov'] using hn)]
    rfl

theorem grow_failed : Answers .grow 0xB8
    (fun o c => c.w.quota < wanted o c ∧ wanted o c ≤ 32 ∧ ¬Covered o c ∧ o.imm.getLsbD 0 = false) (fun _ c => c.st) 1 := by
  refine answers_of (fun _ _ => rfl) fun o c ⟨hq, h32, hcov, hb⟩ => (grow_body hq h32).trans ?_
  rw [bitAt_toNat, hb, if_neg Bool.false_ne_true]
  exact if_neg hcov

theorem grow_waits (o : X) : Blocks (.grow o) 0xB8 (fun _ => [sdst o.x 1, ssrc o.y 1])
    (fun c => c.dense = false ∧ c.w.quota < wanted o c ∧ wanted o c ≤ 32 ∧ o.imm.getLsbD 0 = true ∧ (¬Covered o c ∨ Queued c))
    (fun c => { c.st with growQ := c.st.growQ ++ [{ warp := c.w.uid, split := c.k, want := wanted o c, dst := o.x.toNat }] })
    fun _ => .wait .grow := by
  refine blocks_of (fun _ => rfl) (fun c h => by simp [Ctx.compactedCheck, h.1]) fun c ⟨_, hq, h32, hb, hgo⟩ => (grow_body hq h32).trans ?_
  rw [bitAt_toNat, hb, if_pos rfl, if_neg]
  · rfl
  · rw [Bool.and_eq_true, decide_eq_true_eq, Bool.not_eq_true', ← Bool.not_eq_true, queued_iff]
    exact fun h => hgo.elim (· h.1) h.2

theorem shrink_outOfRange : Answers .shrink 0xB9 (fun o c => wanted o c = 0 ∨ 32 < wanted o c) (fun _ c => c.st) 2 :=
  answers_of (fun _ _ => rfl) fun _ _ h => if_pos h

theorem shrink_failed : Answers .shrink 0xB9 (fun o c => 1 ≤ wanted o c ∧ wanted o c ≤ 32 ∧ wanted o c < c.w.held) (fun _ c => c.st) 1 :=
  answers_of (fun _ _ => rfl) fun _ _ ⟨h1, h2, hq⟩ => (if_neg (allowed_of h1 h2)).trans (if_pos hq)

theorem shrink_shrinks : Answers .shrink 0xB9 (fun o c => 1 ≤ wanted o c ∧ wanted o c ≤ 32 ∧ c.w.held ≤ wanted o c)
    (fun o c => (c.st.modWarp c.w.uid fun w => { w with quota := min (wanted o c) w.quota }).growGrants c.w.core 96) 0 :=
  answers_of (fun _ _ => rfl) fun _ _ ⟨h1, h2, hq⟩ => (if_neg (allowed_of h1 h2)).trans (if_neg (Nat.not_lt.2 hq))

end Quota

/-! ### REGION, YIELD, HOME -/

theorem region_opens : Retires .region 0xB7 (fun _ => []) (fun c => c.w.renames = true)
    (fun c => (c.st.endRegion c.w.uid).modWarp c.w.uid fun w =>
      { w with region := some { splits := w.splits.set c.k c.sp.advance, opener := c.k, handled := w.handler != .none, buf := [] } })
    (fun _ => []) fun _ => 0 :=
  retires_of (fun _ => rfl) (fun _ _ => rfl) fun c h => if_neg (by simp [h])

theorem region_idle : Retires .region 0xB7 (fun _ => []) (fun c => c.w.renames = false) (fun c => c.st) (fun _ => []) fun _ => 0 :=
  retires_of (fun _ => rfl) (fun _ _ => rfl) fun c h => if_pos (by simp [h])

theorem yield_gives_way : Jumps .yield 0xBA (fun _ => []) always fun c =>
    { ((({ c with st := c.st.endSfr c.w.uid } : Ctx).turned Split.advance).reselect c.w.uid true) with cur := none } :=
  jumps_of (fun _ => rfl) (fun _ _ => rfl) fun _ _ => rfl

theorem guest_not_native {c : Ctx} (h : c.guest = true) : c.native = false := by
  have hk : c.w.kind = .guest := by simpa [Ctx.guest] using h
  simp [Ctx.native, hk]

theorem home_leaves : Jumps .home 0xBD (fun _ => []) (fun c => c.guest = true)
    fun c => c.st.sendHome c.w c.sp.advance.pc c.sp.advance.slot none false :=
  jumps_of (fun _ => rfl) (fun c h => if_neg (by simp [guest_not_native h])) fun c h => if_pos h

theorem home_acquires : Retires .home 0xBD (fun _ => []) (fun c => c.guest = false ∧ c.native = false ∧ c.w.someAway = false)
    Ctx.fenced (fun _ => []) fun _ => 0 :=
  retires_of (fun _ => rfl) (fun c ⟨_, hn, _⟩ => if_neg (by simp [hn])) fun c ⟨hg, _, ha⟩ =>
    (if_neg (by simp [hg])).trans (if_neg (by simp [ha]))

theorem home_waits : Blocks .home 0xBD (fun _ => []) (fun c => c.guest = false ∧ c.native = false ∧ c.w.someAway = true)
    Ctx.fenced fun _ => .home :=
  blocks_of (fun _ => rfl) (fun c ⟨_, hn, _⟩ => if_neg (by simp [hn])) fun c ⟨hg, _, ha⟩ =>
    (if_neg (by simp [hg])).trans (if_pos ha)

/-- Settles O28, each clause by the lemma about its answer. -/
theorem regionsAndQuota : Obligations.RegionsAndQuota := by
  unfold Obligations.RegionsAndQuota
  exact ⟨region_opens, region_idle, grow_outOfRange, grow_noMore, grow_granted, grow_failed, grow_waits, shrink_outOfRange, shrink_failed,
    shrink_shrinks, yield_gives_way, home_leaves, home_acquires, home_waits⟩

end Sys2Proof.Proofs
end

section
/-! SUPPORT. How a split begins its clause (R33, R42, R43, R91, R124). -/

namespace Sys2Proof.Proofs

open Sys2Proof.Machine Sys2Proof.Laws

section Clauses

variable {s s1 : State} {w : Warp} {sp : Split} {k : Nat} {ws : List Word}

/-- The state in which a clause is fetched: a requested close ends the SFR first (R269). -/
def closedFor (s : State) (w : Warp) (sp : Split) : State := if w.closeReq = true ∧ sp.slot = 1 then s.endSfr w.uid else s

/-- The slot that a split enters: slot 0 stands for slot 1 and slot 8 for the last valid one (R33, R57, R91). -/
def enteredSlot (sp : Split) (h : Word) : Nat := if sp.slot = 0 then 1 else if sp.slot = 8 then hdrCount h else sp.slot

theorem clauseBegin_begins (hw : s.warp? s.args.a = some w) (hsp : w.splits[s.args.b]? = some sp) (hrun : w.running = s.args.b)
    (hb : sp.begun = false) (hr : s.splitReady w s.args.b = true) :
    exec .clauseBegin s = .next (Ctx.beginClause { st := s, w := w, k := s.args.b, sp := sp }) := by
  change execClauseBegin s = _
  simp only [execClauseBegin, hw, hsp, hrun, hb, hr, Bool.not_false, and_self, if_true]

section Fetched

variable (hs : w.slab = none) (hf : (closedFor s w sp).fetchWords w sp.pc.toNat 8 = .ok (s1, ws))

include hs hf

theorem beginClause_faults {reason slot : Nat} (hc : clauseFault ws = some (reason, slot)) :
    Ctx.beginClause { st := s, w := w, k := k, sp := sp } = s1.takeTrap w.uid k 2 (Machine.word (reason + slot * 16)) sp.pc slot := by
  unfold closedFor at hf
  simp only [Ctx.beginClause, hs, Bool.and_eq_true, beq_iff_eq, Option.isSome_none, Bool.false_eq_true, if_false, hf, hc]

/-- A valid header is latched, or the split goes on to the next clause (R42, R43). -/
theorem beginClause_valid (hc : clauseFault ws = none) :
    Ctx.beginClause { st := s, w := w, k := k, sp := sp } = s1.modWarp w.uid fun w =>
      let x := (w.splits[k]?).getD Split.free
      if hdrCount (ws.headD 0) < enteredSlot sp (ws.headD 0) then w.setSplit k (x.enter x.nextClause)
      else w.setSplit k { x with
        slot := enteredSlot sp (ws.headD 0), begun := true, hdr := ws.headD 0, mode := w.m.getD (hdrMsel (ws.headD 0)) 0 } := by
  unfold closedFor at hf
  simp only [Ctx.beginClause, hs, Bool.and_eq_true, beq_iff_eq, Option.isSome_none, Bool.false_eq_true, if_false, hf, hc, enteredSlot]
  rfl

end Fetched

end Clauses

/-- Settles O40: the event begins the clause, whose header is valid and has the slot, or has it not, or breaks R42. -/
theorem clauseEntry : Obligations.ClauseEntry := by
  unfold Obligations.ClauseEntry
  rintro s s0 s1 w sp ws hw hsp hrun hb hr rfl hs hf
  have hgo := clauseBegin_begins hw hsp hrun hb hr
  refine ⟨fun hc hle => hgo.trans (congrArg _ ?_), fun hc hlt => hgo.trans (congrArg _ ?_), fun reason at' hc =>
    hgo.trans (congrArg _ (beginClause_faults hs hf hc))⟩
  · exact (beginClause_valid hs hf hc).trans (congrArg _ (funext fun w => if_neg (Nat.not_lt.2 hle)))
  · exact (beginClause_valid hs hf hc).trans (congrArg _ (funext fun w => if_pos hlt))

end Sys2Proof.Proofs
end

section
/-! SUPPORT. Events of one agent: completions, replays, promotions and fairness (R22, R23, R41, R131, R235 to R244, R320). -/

namespace Sys2Proof.Proofs

open Sys2Proof.Machine Sys2Proof.Laws

section AgentEvents

variable {s : State} {w : Warp}

theorem longLatencyCompletion_completes {o : LongOp} (hw : s.warp? s.args.a = some w) (ho : w.ops[s.args.b]? = some o) :
    exec .longLatencyCompletion s = .next (s.completeOp w.uid o) := by
  change execLongLatencyCompletion s = _
  simp only [execLongLatencyCompletion, hw, ho]

/-- A warp without an operation that has completed: its flag counts down, and at zero the flag's hazards end (R22, R23, R41). -/
def completedWarp (o : LongOp) (w : Warp) : Warp :=
  match o.flag with
  | none => { w with ops := w.ops.erase o }
  | some n =>
    { w with ops := w.ops.erase o, f := w.f.set n (w.f.getD n 0 - 1),
             hazards := if w.f.getD n 0 - 1 = 0 then w.hazards.filter fun h => h.flag != n else w.hazards }

theorem completeOp_eq {u : Nat} (hw : s.warp? u = some w) (o : LongOp) :
    s.completeOp u o = ((s.applyWrites w o.writes).raise u o.sticky).modWarp u (completedWarp o) := by
  unfold State.completeOp
  rw [hw]
  rfl

section Replay

variable {r : Dword × Word} (hw : s.warp? s.args.a = some w) (hr : w.replay = some r)

include hw hr

theorem pageFaultReplay_present (ht : s.translateN (s.fnOf w) r.1.toNat 1 false ≠ .error .page)
    (hm : s.migrating (s.fnOf w) r.1.toNat = false) :
    exec .pageFaultReplay s = .next ((s.setWarp { w with replay := none }).barrierSteps w.block) := by
  change execPageFaultReplay s = _
  rw [execPageFaultReplay, hw]
  dsimp only
  rw [hr]
  dsimp only
  split
  · next h => exact absurd h ht
  · rw [hm]
    rfl

theorem pageFaultReplay_absent (ht : s.translateN (s.fnOf w) r.1.toNat 1 false = .error .page) : exec .pageFaultReplay s = .next s := by
  change execPageFaultReplay s = _
  simp only [execPageFaultReplay, hw, hr, ht]

theorem faultServiceFailure_traps :
    exec .faultServiceFailure s = .next (((s.setWarp { w with replay := none }).takeTrap w.uid w.running 0xD r.2
      ((w.splits[w.running]?).getD Split.free).pc ((w.splits[w.running]?).getD Split.free).slot).barrierSteps w.block) := by
  change execFaultServiceFailure s = _
  simp only [execFaultServiceFailure, hw, State.failReplay, hr]

end Replay

theorem warpAgePromotion_ready (hw : s.warp? s.args.a = some w) (h : s.splitReady w w.running = true) :
    exec .warpAgePromotion s = .next { s with cur := some w.uid } := by
  change execWarpAgePromotion s = _
  simp only [execWarpAgePromotion, hw, h, if_true]

theorem wavefrontStarvation_starved (hw : s.warp? s.args.a = some w) (h : s.splitReady w w.running = true)
    (hk : w.kind = .native ∨ w.kind = .guest) (hs : s.starved w = true) :
    exec .wavefrontStarvation s = .next { s with cur := some w.uid } := by
  change execWavefrontStarvation s = _
  have hk : (w.kind == .native || w.kind == .guest) = true := by simpa using hk
  simp only [execWavefrontStarvation, hw, h, hk, hs, Bool.and_self, if_true]

/-- The warp as its fairness timer expires: the splits that can issue beside the running one have waited longer (R238, R239). -/
def expiredWarp (s : State) (w : Warp) : Warp :=
  { w with
    expired := true, splits := w.splits.zipIdx.map fun x =>
      if x.2 ≠ w.running ∧ s.splitCan w x.2 = true then
        { x.1 with waited := x.1.waited + (s.fairness w - ((w.splits[w.running]?).map (·.waited)).getD 0) } else x.1 }

theorem fairnessTimerExpiry_switches (hw : s.warp? s.args.a = some w) :
    exec .fairnessTimerExpiry s = .next ((s.setWarp (expiredWarp s w)).after w.uid) := by
  change execFairnessTimerExpiry s = _
  simp only [execFairnessTimerExpiry, hw, Bool.and_eq_true, bne_iff_ne]
  rfl

section JoinLimit

variable {j : Split}

/-- How long a split has waited at its JOIN: longer where its agent has nothing to issue (R240). -/
def joinWaited (s : State) (w : Warp) (j : Split) : Nat := j.waited + if (List.range 4).any (s.splitCan w) = true then 0 else s.args.c

theorem joinFairnessLimit_eq (hw : s.warp? s.args.a = some w) (hj : w.splits[s.args.b]? = some j) (hl : j.live = true)
    (hs : j.status = .join) :
    exec .joinFairnessLimit s = .next (if s.fairness w ≤ joinWaited s w j then (s.modWarp w.uid fun w => w.missJoin j.pc).joinDone w.uid j.pc
      else s.setSplit w.uid s.args.b { j with waited := joinWaited s w j }) := by
  change execJoinFairnessLimit s = _
  have hn : (!j.live || j.status != .join) = false := by simp [hl, hs]
  simp only [execJoinFairnessLimit, hw, hj, hn, Bool.false_eq_true, if_false]
  rfl

end JoinLimit

/-! ### Page faults leave replay records (R131) -/

theorem askHost_warps (fn va : Nat) : (s.askHost fn va).warps = s.warps := by
  unfold State.askHost
  split
  · dsimp only
    split <;> rfl
  · rfl

/-- A warp that waits for a page at the slot of split k: its reservations are gone (R131, R151, R244). -/
def replayingWarp (k va : Nat) (info : Word) (w : Warp) : Warp :=
  { w.setSplit k { ((w.splits[k]?).getD Split.free) with asks := [], queued := none } with replay := some (dword va, info), resv := [] }

theorem replay_eq (c : Ctx) (va : Nat) (info : Word) :
    c.replay va info = (c.st.askHost c.fn va).modWarp c.w.uid (replayingWarp c.k va info) := rfl

theorem replay_recorded {c : Ctx} (hc : c.st.warp? c.w.uid = some c.w) (va : Nat) (info : Word) :
    ∃ x, (c.replay va info).warp? c.w.uid = some x ∧ x.replay = some (dword va, info) := by
  have hw : (c.st.askHost c.fn va).warp? c.w.uid = some c.w := by
    rw [State.warp?, askHost_warps]
    exact hc
  refine ⟨replayingWarp c.k va info c.w, ?_, rfl⟩
  rw [replay_eq, modWarp_warp? _ _ _ (replayingWarp c.k va info) fun _ h => h, if_pos rfl, hw]
  rfl

end AgentEvents

/-- Settles O41, each clause by the lemma about its event. -/
theorem agentEvents : Obligations.AgentEvents := by
  unfold Obligations.AgentEvents
  refine ⟨fun s w o hw ho => ?completion, fun s w hw => ?events, fun c opc uses lane va hc =>
    ⟨replay_recorded hc va (reasonInfo lane 1), replay_recorded hc _ _⟩⟩
  case completion =>
    have hw' : s.warp? w.uid = some w := by rwa [warp?_uid hw]
    exact (longLatencyCompletion_completes hw ho).trans (congrArg _ (completeOp_eq hw' o))
  case events =>
    refine ⟨fun r hr ht hm => pageFaultReplay_present hw hr ht hm, fun r hr ht => pageFaultReplay_absent hw hr ht,
      fun r hr => faultServiceFailure_traps hw hr, fun h => warpAgePromotion_ready hw h,
      fun h hk hs => wavefrontStarvation_starved hw h hk hs, fairnessTimerExpiry_switches hw, fun j hj hl hs => ?_⟩
    have hlimit := joinFairnessLimit_eq hw hj hl hs
    exact ⟨fun h => hlimit.trans (congrArg _ (if_pos h)), fun h => hlimit.trans (congrArg _ (if_neg (Nat.not_le.2 h)))⟩

end Sys2Proof.Proofs
end

section
/-! SUPPORT. Decoding and encoding agree (R48 to R56): the decoder gives back each well-formed instruction, and accepts no
other word for it; and the worked words. -/

namespace Sys2Proof.Proofs

open Sys2Proof.Laws

/-- The decoder gives back every well-formed instruction that has a word: an event of the machine, and a command, has none. -/
theorem decode_encode (i : Instr) : Encoding.Statement i := by
  cases i with
  | nop => exact Encoding.nop | bra o => exact Encoding.bra o | brau o => exact Encoding.brau o | brx o => exact Encoding.brx o
  | call o => exact Encoding.call o | ret o => exact Encoding.ret o | join => exact Encoding.join | bblk o => exact Encoding.bblk o
  | bjoin => exact Encoding.bjoin | exit => exact Encoding.exit | trap i => exact Encoding.trap i | tret => exact Encoding.tret
  | sysrd o => exact Encoding.sysrd o | syswr o => exact Encoding.syswr o | iadd o => exact Encoding.iadd o
  | isub o => exact Encoding.isub o | imul o => exact Encoding.imul o | imulh o => exact Encoding.imulh o | imad o => exact Encoding.imad o
  | imin o => exact Encoding.imin o | imax o => exact Encoding.imax o | and o => exact Encoding.and o | or o => exact Encoding.or o
  | xor o => exact Encoding.xor o | andn o => exact Encoding.andn o | shl o => exact Encoding.shl o | shr o => exact Encoding.shr o
  | sar o => exact Encoding.sar o | sel o => exact Encoding.sel o | iabs o => exact Encoding.iabs o | popc o => exact Encoding.popc o
  | clz o => exact Encoding.clz o | brev o => exact Encoding.brev o | isetpEq o => exact Encoding.isetpEq o
  | isetpNe o => exact Encoding.isetpNe o | isetpLt o => exact Encoding.isetpLt o | isetpLe o => exact Encoding.isetpLe o
  | isetpGt o => exact Encoding.isetpGt o | isetpGe o => exact Encoding.isetpGe o | iaddi o => exact Encoding.iaddi o
  | andi o => exact Encoding.andi o | ori o => exact Encoding.ori o | xori o => exact Encoding.xori o | shli o => exact Encoding.shli o
  | shri o => exact Encoding.shri o | sari o => exact Encoding.sari o | movi o => exact Encoding.movi o | movhi o => exact Encoding.movhi o
  | sadd o => exact Encoding.sadd o | ssub o => exact Encoding.ssub o | smul o => exact Encoding.smul o | sand o => exact Encoding.sand o
  | sor o => exact Encoding.sor o | sxor o => exact Encoding.sxor o | sshl o => exact Encoding.sshl o | sshr o => exact Encoding.sshr o
  | saddi o => exact Encoding.saddi o | smovi o => exact Encoding.smovi o | fadd o => exact Encoding.fadd o
  | fsub o => exact Encoding.fsub o | fmul o => exact Encoding.fmul o | ffma o => exact Encoding.ffma o | ffms o => exact Encoding.ffms o
  | fnma o => exact Encoding.fnma o | fmin o => exact Encoding.fmin o | fmax o => exact Encoding.fmax o | fabsd o => exact Encoding.fabsd o
  | fdot2 o => exact Encoding.fdot2 o | fabs o => exact Encoding.fabs o | fneg o => exact Encoding.fneg o | frnd o => exact Encoding.frnd o
  | fclass o => exact Encoding.fclass o | fldexp o => exact Encoding.fldexp o | fexpt o => exact Encoding.fexpt o
  | fcpys o => exact Encoding.fcpys o | fsat o => exact Encoding.fsat o | frcp o => exact Encoding.frcp o | frsq o => exact Encoding.frsq o
  | fsqrt o => exact Encoding.fsqrt o | fexp2 o => exact Encoding.fexp2 o | flog2 o => exact Encoding.flog2 o
  | fsin o => exact Encoding.fsin o | fcos o => exact Encoding.fcos o | ftanh o => exact Encoding.ftanh o | fdiv o => exact Encoding.fdiv o
  | fsetpEq o => exact Encoding.fsetpEq o | fsetpNe o => exact Encoding.fsetpNe o | fsetpLt o => exact Encoding.fsetpLt o
  | fsetpLe o => exact Encoding.fsetpLe o | fsetpGt o => exact Encoding.fsetpGt o | fsetpGe o => exact Encoding.fsetpGe o
  | fsetpUn o => exact Encoding.fsetpUn o | fredAdd o => exact Encoding.fredAdd o | fredMax o => exact Encoding.fredMax o
  | fredMin o => exact Encoding.fredMin o | fredAmax o => exact Encoding.fredAmax o | fscanAdd o => exact Encoding.fscanAdd o
  | fscanMax o => exact Encoding.fscanMax o | fxacc o => exact Encoding.fxacc o | fxcvt o => exact Encoding.fxcvt o
  | fpack o => exact Encoding.fpack o | funpk o => exact Encoding.funpk o | cvt o => exact Encoding.cvt o
  | dsbscal o => exact Encoding.dsbscal o | dsbenc o => exact Encoding.dsbenc o | dsbdec o => exact Encoding.dsbdec o
  | matchV o => exact Encoding.matchV o | vote o => exact Encoding.vote o | plop o => exact Encoding.plop o
  | pmov o => exact Encoding.pmov o | shuf o => exact Encoding.shuf o | ired o => exact Encoding.ired o | iscan o => exact Encoding.iscan o
  | mode i => exact Encoding.mode i | mshape i => exact Encoding.mshape i | carry o => exact Encoding.carry o | ld o => exact Encoding.ld o
  | ld4 o => exact Encoding.ld4 o | st o => exact Encoding.st o | st4 o => exact Encoding.st4 o | sld o => exact Encoding.sld o
  | sst o => exact Encoding.sst o | lds o => exact Encoding.lds o | sts o => exact Encoding.sts o | gather o => exact Encoding.gather o
  | scatter o => exact Encoding.scatter o | spill o => exact Encoding.spill o | fill o => exact Encoding.fill o
  | ldc o => exact Encoding.ldc o | stc o => exact Encoding.stc o | atomAdd o => exact Encoding.atomAdd o
  | atomMin o => exact Encoding.atomMin o | atomMax o => exact Encoding.atomMax o | atomAnd o => exact Encoding.atomAnd o
  | atomOr o => exact Encoding.atomOr o | atomXor o => exact Encoding.atomXor o | atomExch o => exact Encoding.atomExch o
  | atomFadd o => exact Encoding.atomFadd o | cas o => exact Encoding.cas o | atomrfAdd o => exact Encoding.atomrfAdd o
  | atomrfFadd o => exact Encoding.atomrfFadd o | atomrfMax o => exact Encoding.atomrfMax o | atomrfMin o => exact Encoding.atomrfMin o
  | atomx o => exact Encoding.atomx o | atomc o => exact Encoding.atomc o | atomcrf o => exact Encoding.atomcrf o
  | atoms o => exact Encoding.atoms o | lr o => exact Encoding.lr o | sc o => exact Encoding.sc o | rdord o => exact Encoding.rdord o
  | pinord o => exact Encoding.pinord o | advord o => exact Encoding.advord o | pref o => exact Encoding.pref o
  | probe o => exact Encoding.probe o | fenceAcq o => exact Encoding.fenceAcq o | fenceRel o => exact Encoding.fenceRel o
  | fenceAr o => exact Encoding.fenceAr o | fenceRf o => exact Encoding.fenceRf o | bar o => exact Encoding.bar o
  | bara o => exact Encoding.bara o | barw o => exact Encoding.barw o | clbar o => exact Encoding.clbar o | gbar => exact Encoding.gbar
  | waitge o => exact Encoding.waitge o | waitne o => exact Encoding.waitne o | tlwait o => exact Encoding.tlwait o
  | tlread o => exact Encoding.tlread o | ctrarm o => exact Encoding.ctrarm o | ctrwait o => exact Encoding.ctrwait o
  | region => exact Encoding.region | grow o => exact Encoding.grow o | shrink o => exact Encoding.shrink o | yield => exact Encoding.yield
  | strel o => exact Encoding.strel o | ldacq o => exact Encoding.ldacq o | home => exact Encoding.home | mmat o => exact Encoding.mmat o
  | mmatz o => exact Encoding.mmatz o | mmatar o => exact Encoding.mmatar o | mmatbr o => exact Encoding.mmatbr o
  | commit o => exact Encoding.commit o | waitb o => exact Encoding.waitb o | accz o => exact Encoding.accz o
  | accrd o => exact Encoding.accrd o | accwr o => exact Encoding.accwr o | accst o => exact Encoding.accst o
  | accld o => exact Encoding.accld o | mqry o => exact Encoding.mqry o | msave o => exact Encoding.msave o
  | mrest o => exact Encoding.mrest o | mcancel o => exact Encoding.mcancel o | mbudg o => exact Encoding.mbudg o
  | cring o => exact Encoding.cring o | send o => exact Encoding.send o | recv o => exact Encoding.recv o
  | caprd o => exact Encoding.caprd o | launch o => exact Encoding.launch o | launchu o => exact Encoding.launchu o
  | cancel o => exact Encoding.cancel o | distL2 o => exact Encoding.distL2 o | distIp o => exact Encoding.distIp o
  | topkMin o => exact Encoding.topkMin o | topkMax o => exact Encoding.topkMax o | bankop o => exact Encoding.bankop o
  | stkdisp o => exact Encoding.stkdisp o | migqry o => exact Encoding.migqry o | migr o => exact Encoding.migr o
  | svc o => exact Encoding.svc o | abmode o => exact Encoding.abmode o | vbcast o => exact Encoding.vbcast o
  | bmac o => exact Encoding.bmac o | bmacx o => exact Encoding.bmacx o | bmacrd o => exact Encoding.bmacrd o
  | bmacz o => exact Encoding.bmacz o | rowact o => exact Encoding.rowact o | colrd o => exact Encoding.colrd o
  | colwr o => exact Encoding.colwr o | ecsrd o => exact Encoding.ecsrd o | ecsclr o => exact Encoding.ecsclr o
  | tmove o => exact Encoding.tmove o | tswap o => exact Encoding.tswap o | stksave o => exact Encoding.stksave o
  | skyield => exact Encoding.skyield | pchown o => exact Encoding.pchown o | reservedOpcode w => exact Encoding.reservedOpcode w
  | _ => exact Encoding.of_none rfl

/-- A word that the decoder accepts is its instruction's own word, and the instruction is well formed. -/
theorem encode_decode {i : Instr} {w : Word} (h : decode w = .ok i) : i.wellFormed = true ∧ encode i = some w := by
  unfold decode at h
  split at h
  next he =>
    split at h
    next hwf =>
      cases h
      exact ⟨hwf, he⟩
    next => cases h
  next => cases h

/-- Two well-formed instructions with one word are one. -/
theorem encode_injective {i j : Instr} {w : Word} (hi : i.wellFormed = true) (hj : j.wellFormed = true) (hiw : encode i = some w)
    (hjw : encode j = some w) : i = j :=
  Except.ok.inj ((decode_encode i hi w hiw).symm.trans (decode_encode j hj w hjw))

/-- Settles O53, by the law of each instruction's encoding, and by what the decoder compares with the word it was given. -/
theorem decodeEncode : Obligations.DecodeEncode := by
  unfold Obligations.DecodeEncode
  exact fun i w => ⟨fun hwf => decode_encode i hwf w, encode_decode, fun _ hi hj => encode_injective hi hj⟩

/-- Settles O51: each word is its instruction's own word. -/
theorem decodedWords : Obligations.DecodedWords := by
  unfold Obligations.DecodedWords
  and_intros
  all_goals exact decode_encode _ rfl _ rfl

end Sys2Proof.Proofs
end

section
/-! SUPPORT. The checks that precede an instruction's effect, one lemma for each that fails (R57 to R59), what issue answers
then, and the software traps (R96, R97). -/

namespace Sys2Proof.Proofs

open Sys2Proof.Machine Sys2Proof.Laws

/-! ### Smallest numbers -/

theorem insertBy_head? (x y : Nat) (l : List Nat) : (insertBy id x (y :: l)).head? = some (min y x) := by
  simp only [insertBy, id]
  split
  next h => rw [Nat.min_eq_right (Nat.le_of_lt h)]; rfl
  next h => rw [Nat.min_eq_left (Nat.not_lt.1 h)]; rfl

/-- The first of some sorted numbers is the least. -/
theorem sortBy_head? (l : List Nat) : (sortBy id l).head? = l.min? := by
  have hfold : ∀ (l acc : List Nat) (y : Nat), acc.head? = some y →
      (l.foldl (fun acc x => insertBy id x acc) acc).head? = some (l.foldl min y) := by
    intro l
    induction l with
    | nil => exact fun _ _ h => h
    | cons x l ih =>
      intro acc y h
      obtain ⟨tail, rfl⟩ := List.head?_eq_some_iff.1 h
      exact ih _ _ (insertBy_head? x y tail)
  cases l with
  | nil => rfl
  | cons x l => exact hfold l [x] x rfl

theorem range_filter_head? {n r : Nat} {p : Nat → Bool} (hr : r < n) (hp : p r = true) (hmin : ∀ j, p j = true → r ≤ j) :
    ((List.range n).filter p).head? = some r := by
  rw [List.head?_filter, List.find?_range_eq_some]
  refine ⟨hp, List.mem_range.2 hr, fun j hj => ?_⟩
  rw [Bool.not_eq_true']
  exact Bool.eq_false_iff.2 fun h => Nat.not_lt.2 (hmin j h) hj

/-! ### Which check fails first (R58) -/

section Checks

variable {c : Ctx} {opc : Nat} {uses : List Use} {own : Option (Nat × Word)}

theorem profile_fits (hm : opcodeProfile opc = .main → c.native = false) (hn : opcodeProfile opc = .native → c.native = true) :
    ((opcodeProfile opc == .main && c.native) || (opcodeProfile opc == .native && !c.native)) = false := by
  cases h : opcodeProfile opc with
  | main => rw [hm h]; rfl
  | native => rw [hn h]; rfl
  | all | notGuest => rfl

theorem privilege_fits (hp : opcodePrivileged opc = true → c.w.tenant = false) : (opcodePrivileged opc && c.w.tenant) = false := by
  cases h : opcodePrivileged opc with
  | false => rfl
  | true => exact hp h

theorem checks_bounce (hg : c.guest = true) (h : opcodeProfile opc ≠ .all ∨ opcodeReserved opc = true) : c.checks opc uses own = .bounce := by
  refine if_pos ?_
  rw [hg, Bool.true_and]
  cases hp : opcodeProfile opc with
  | all => exact h.resolve_left fun hne => hne hp
  | main | native | notGuest => rfl

theorem checks_reserved (hg : c.guest = false) (hr : opcodeReserved opc = true) : c.checks opc uses own = .trap 1 (illegalInfo opc 24) := by
  simp only [Ctx.checks, hg, hr, Bool.false_and, Bool.false_eq_true, if_false, if_true]

theorem checks_profile (hg : c.guest = false) (hr : opcodeReserved opc = false)
    (h : opcodeProfile opc = .main ∧ c.native = true ∨ opcodeProfile opc = .native ∧ c.native = false) :
    c.checks opc uses own = .trap 3 0 := by
  have hne : ((opcodeProfile opc == .main && c.native) || (opcodeProfile opc == .native && !c.native)) = true := by
    rcases h with ⟨hp, hn⟩ | ⟨hp, hn⟩ <;> rw [hp, hn] <;> rfl
  simp only [Ctx.checks, hg, hr, hne, Bool.false_and, Bool.false_eq_true, if_false, if_true]

theorem checks_privilege (hn : c.native = true) (hr : opcodeReserved opc = false) (hm : opcodeProfile opc ≠ .main)
    (hp : opcodePrivileged opc = true) (ht : c.w.tenant = true) : c.checks opc uses own = .trap 3 1 := by
  have hg : c.guest = false := Bool.eq_false_iff.2 fun h => Bool.false_ne_true ((guest_not_native h).symm.trans hn)
  have hfit := profile_fits (c := c) (opc := opc) (fun h => absurd h hm) fun _ => hn
  simp only [Ctx.checks, hg, hr, hfit, hp, ht, Bool.false_and, Bool.and_self, Bool.false_eq_true, if_false, if_true]

/-- The opcode is one that the agent may execute: the part of Admitted that does not speak of operands (R57, R217). -/
structure MayExecute (c : Ctx) (opc : Nat) : Prop where
  guest : c.guest = true → opcodeProfile opc = .all
  defined : opcodeReserved opc = false
  main : opcodeProfile opc = .main → c.native = false
  native : opcodeProfile opc = .native → c.native = true
  privileged : opcodePrivileged opc = true → c.w.tenant = false

theorem mayExecute_of_admitted (h : Admitted c opc uses) : MayExecute c opc := by
  obtain ⟨hg, hr, hm, hn, hp, -⟩ := h
  exact ⟨hg, hr, hm, hn, hp⟩

/-- The checks of the profile and the privilege, which such an opcode passes. -/
theorem MayExecute.passes (h : MayExecute c opc) :
    (c.guest && (opcodeProfile opc == .main || opcodeProfile opc == .native || opcodeProfile opc == .notGuest || false)) = false ∧
      ((opcodeProfile opc == .main && c.native) || (opcodeProfile opc == .native && !c.native)) = false ∧
      (opcodePrivileged opc && c.w.tenant) = false := by
  refine ⟨?_, profile_fits h.main h.native, privilege_fits h.privileged⟩
  cases hg : c.guest with
  | false => rfl
  | true => rw [h.guest hg]; rfl

section Operands

variable (h : MayExecute c opc)
include h

theorem checks_bad {code : Nat} (hbad : uses.findSome? Use.bad = some code) : c.checks opc uses own = .trap 1 (illegalInfo opc code) := by
  obtain ⟨hbounce, hfit, hprivilege⟩ := h.passes
  simp only [Ctx.checks, h.defined, hbounce, hfit, hprivilege, hbad, Bool.false_eq_true, if_false]

variable (hbad : uses.findSome? Use.bad = none)
include hbad

theorem checks_hazard {z : Hazard} (hz : uses.findSome? c.w.hazardOf = some z) : c.checks opc uses own = .trap 7 z.info := by
  obtain ⟨hbounce, hfit, hprivilege⟩ := h.passes
  simp only [Ctx.checks, h.defined, hbounce, hfit, hprivilege, hbad, hz, Bool.false_eq_true, if_false]

variable (hz : uses.findSome? c.w.hazardOf = none)
include hz

/-- The check of the instruction's own description. -/
theorem checks_own {t : Nat × Word} : c.checks opc uses (some t) = .trap t.1 t.2 := by
  obtain ⟨hbounce, hfit, hprivilege⟩ := h.passes
  simp only [Ctx.checks, h.defined, hbounce, hfit, hprivilege, hbad, hz, Bool.false_eq_true, if_false]

theorem checks_poison {u : Use} {l : Nat} (hu : u ∈ uses) (hl : c.poisonLane u = some l)
    (hmin : ∀ x ∈ uses, ∀ k, c.poisonLane x = some k → l ≤ k) :
    c.checks opc uses none = .trap 0x17 (Machine.word (l * 16 + c.st.markSource)) := by
  obtain ⟨hbounce, hfit, hprivilege⟩ := h.passes
  have hfirst : (sortBy id (uses.filterMap c.poisonLane)).head? = some l := by
    rw [sortBy_head?, List.min?_eq_some_iff]
    refine ⟨List.mem_filterMap.2 ⟨u, hu, hl⟩, fun k hk => ?_⟩
    obtain ⟨x, hx, hxk⟩ := List.mem_filterMap.1 hk
    exact hmin x hx k hxk
  simp only [Ctx.checks, h.defined, hbounce, hfit, hprivilege, hbad, hz, hfirst, Bool.false_eq_true, if_false]

variable (hclean : ∀ u ∈ uses, c.poisonLane u = none)
include hclean

omit h hbad hz in
theorem firstPoisoned_none : (sortBy id (uses.filterMap c.poisonLane)).head? = none := by
  rw [List.filterMap_eq_nil_iff.2 hclean]
  rfl

theorem checks_unallocated {u : Use} {r : Nat} (hd : c.st.debugOf c.w = true) (hu : u ∈ uses) (hr : r < 32) (hur : r ∈ c.unallocated u)
    (hmin : ∀ x ∈ uses, ∀ k ∈ c.unallocated x, r ≤ k) : c.checks opc uses none = .trap 9 (Machine.word r) := by
  obtain ⟨hbounce, hfit, hprivilege⟩ := h.passes
  have hfirst : ((List.range 32).filter fun r => (uses.flatMap c.unallocated).contains r).head? = some r := by
    refine range_filter_head? hr (List.contains_iff_mem.2 (List.mem_flatMap.2 ⟨u, hu, hur⟩)) fun j hj => ?_
    obtain ⟨x, hx, hxj⟩ := List.mem_flatMap.1 (List.contains_iff_mem.1 hj)
    exact hmin x hx j hxj
  obtain ⟨rest, hrest⟩ := List.head?_eq_some_iff.1 hfirst
  simp only [Ctx.checks, h.defined, hbounce, hfit, hprivilege, hbad, hz, firstPoisoned_none hclean, hd, hrest, List.isEmpty_cons,
    List.headD_cons, Bool.not_false, Bool.and_self, Bool.false_eq_true, if_false, if_true]

theorem checks_quota {r : Nat} (hd : c.st.debugOf c.w = true → ∀ u ∈ uses, c.unallocated u = []) (hr : c.w.renames = true)
    (hq : ((c.st.owners c.w (c.written uses)).findSome? fun w => w.quotaFail (writtenNames uses)) = some r) :
    c.checks opc uses none = .trap 8 (Machine.word r) := by
  obtain ⟨hbounce, hfit, hprivilege⟩ := h.passes
  have hallocated : (c.st.debugOf c.w && !((List.range 32).filter fun r => (uses.flatMap c.unallocated).contains r).isEmpty) = false := by
    cases hdebug : c.st.debugOf c.w with
    | false => rfl
    | true => simp [List.flatMap_eq_nil_iff.2 (hd hdebug)]
  simp only [Ctx.checks, h.defined, hbounce, hfit, hprivilege, hbad, hz, firstPoisoned_none hclean, hallocated, hr, hq, Bool.false_eq_true,
    if_false, if_true]

end Operands

end Checks

/-! ### What issue answers to a verdict -/

section Issued

variable {s : State} {c : Ctx} {opc : Nat} {uses : Ctx → List Use} {own : Ctx → Option (Nat × Word)} {body : Ctx → Act}

theorem issue_bounce (hc : s.ctx? = some c) (hv : c.checks opc (uses c) (own c) = .bounce) :
    issue opc s uses own body = .next (c.st.sendHome c.w c.sp.pc c.sp.slot none false) := by
  rw [issue, hc]
  simp only [hv]

theorem issue_trap {cause : Nat} {info : Word} (hc : s.ctx? = some c) (hv : c.checks opc (uses c) (own c) = .trap cause info)
    (hne : cause ≠ 0x17) : issue opc s uses own body = .next (c.trap cause info) := by
  rw [issue, hc]
  simp only [hv, if_neg hne]

theorem issue_poison {info : Word} (hc : s.ctx? = some c) (hv : c.checks opc (uses c) (own c) = .trap 0x17 info) :
    issue opc s uses own body = .next (c.poisonTrap info) := by
  rw [issue, hc]
  simp only [hv, if_true]

end Issued

/-- Settles O17, each clause by the check that fails first. -/
theorem issueChecks : Obligations.IssueChecks := by
  unfold Obligations.IssueChecks
  refine ⟨fun opc s c uses own body hc => ⟨fun hg hp => issue_bounce hc (checks_bounce hg hp),
    fun hg hr hp => issue_trap hc (checks_profile hg hr hp) (by decide),
    fun hn hr hm hp ht => issue_trap hc (checks_privilege hn hr hm hp ht) (by decide)⟩,
    fun opc s c uses body hc hg hr hm hn hp => ?operands⟩
  case operands =>
    have h : MayExecute c opc := ⟨fun hguest => absurd hguest (by simp [hg]), hr, hm, hn, hp⟩
    refine ⟨fun code hcode => issue_trap hc (checks_bad h hcode) (by decide), fun hbad =>
      ⟨fun z hz => issue_trap hc (checks_hazard h hbad hz) (by decide),
        fun hz u hu l hl hmin => issue_poison hc (checks_poison h hbad hz hu hl hmin),
        fun hz hclean hd u hu r hr hur hmin => issue_trap hc (checks_unallocated h hbad hz hclean hd hu hr hur hmin) (by decide),
        fun hz hclean hd hren r hq => issue_trap hc (checks_quota h hbad hz hclean hd hren hq) (by decide)⟩⟩

/-! ### TRAP, TRET and reserved opcodes (R56, R96, R97) -/

/-- What TRAP does in a main-core warp: TRAPPC names the slot after it, or where its clause has none the next clause (R44). -/
def trapTaken (i : BitVec 24) (c : Ctx) : State :=
  if hdrCount c.sp.hdr ≤ c.sp.slot then c.st.takeTrap c.w.uid c.k 4 (Machine.word i.toNat) (c.sp.pc + 32) 1
  else c.st.takeTrap c.w.uid c.k 4 (Machine.word i.toNat) c.sp.pc (c.sp.slot + 1)

theorem trap_taken (i : BitVec 24) : Jumps (.trap i) 0x0A (fun _ => []) (fun c => c.guest = false) (trapTaken i) := by
  refine jumps_of (fun _ => rfl) (fun _ _ => rfl) fun c hg => (if_neg (by simp [hg])).trans ?_
  unfold trapTaken
  split <;> rfl

theorem trap_leaves (i : BitVec 24) : Completes (.trap i) 0x0A (fun _ => []) (fun c => c.guest = true)
    fun c => c.st.sendHome c.w c.sp.pc c.sp.slot none false :=
  completes_of (fun _ => rfl) (fun _ _ => rfl) fun c hg => congrArg (c.finish 0x0A []) (if_pos hg)

theorem tret_ends (k cause : Nat) : Jumps .tret 0x0B (fun _ => []) (fun c => c.w.handler = .trap k cause) fun c =>
    (c.st.modWarp c.w.uid fun w => w.trapReturn c.k).takeNow c.w.uid :=
  jumps_of (fun _ => rfl) (fun _ h => if_neg (by simp [h])) fun _ h => by simp only [h]

theorem tret_saved (k : Nat) : Jumps .tret 0x0B (fun _ => []) (fun c => c.w.handler = .save k) fun c => c.st.saveReturn c.w.uid :=
  jumps_of (fun _ => rfl) (fun _ h => if_neg (by simp [h])) fun _ h => by simp only [h]

theorem tret_resumes (k : Nat) : Turns .tret 0x0B (fun _ => []) (fun c => c.w.handler = .restore k) fun _ sp => { sp with status := .resume } :=
  jumps_of (fun _ => rfl) (fun _ h => if_neg (by simp [h])) fun _ h => by simp only [h]; rfl

theorem tret_illegal {s : State} {c : Ctx} (hc : s.ctx? = some c) (ha : Admitted c 0x0B []) (hh : c.w.handler = .none) :
    exec .tret s = .next (c.trap 1 (illegalInfo 0x0B 30)) := by
  have hown := checks_own (uses := []) (mayExecute_of_admitted ha) rfl rfl (t := (1, illegalInfo 0x0B 30))
  refine issue_trap hc ?_ (by decide)
  rw [if_pos hh]
  exact hown

section Reserved

variable {s : State} {c : Ctx} {w : Word} (hr : opcodeReserved (w.toNat / 2 ^ 24) = true) (hc : s.ctx? = some c)
include hr hc

theorem reserved_traps (hg : c.guest = false) : exec (.reservedOpcode w) s = .next (c.trap 1 (illegalInfo (w.toNat / 2 ^ 24) 24)) :=
  issue_trap hc (checks_reserved hg hr) (by decide)

theorem reserved_leaves (hg : c.guest = true) : exec (.reservedOpcode w) s = .next (c.st.sendHome c.w c.sp.pc c.sp.slot none false) :=
  issue_bounce hc (checks_bounce hg (.inr hr))

end Reserved

/-- Settles O14, each clause by the lemma about its instruction. -/
theorem softwareTraps : Obligations.SoftwareTraps := by
  unfold Obligations.SoftwareTraps
  exact ⟨trap_taken, trap_leaves, tret_ends, tret_saved, tret_resumes, fun _ _ => tret_illegal,
    fun _ hr => ⟨fun _ _ hc => reserved_traps hr hc, fun _ _ hc => reserved_leaves hr hc⟩⟩

end Sys2Proof.Proofs
end

section
/-! SUPPORT. What step does (R39, R43, R58, R386): the agenda first, then a warp that is asked for, then the instruction of the
slot. -/

namespace Sys2Proof.Proofs

open Sys2Proof.Machine Sys2Proof.Laws

section Steps

variable {s s1 t : State} {c : Ctx} {x : Word} {i : Instr}

/-! ### The fetch (R39, R43) -/

theorem fetch_decoded (hp : c.pendingTrap = none) (hs : c.w.slab = none)
    (hw : c.st.fetchWord c.w (c.sp.pc.toNat + 4 * c.sp.slot) = .ok (s1, x)) (hd : decode x = .ok i) : c.fetch = .instr s1 i := by
  simp only [Ctx.fetch, hp, hs, hw, hd]

theorem fetch_refused {e : DecodeError} (hp : c.pendingTrap = none) (hs : c.w.slab = none)
    (hw : c.st.fetchWord c.w (c.sp.pc.toNat + 4 * c.sp.slot) = .ok (s1, x)) (hd : decode x = .error e) :
    c.fetch = .other ({ c with st := s1 }.badWord x) := by
  simp only [Ctx.fetch, hp, hs, hw, hd]

/-- A refused word whose opcode fits the agent's profile takes the illegal-instruction trap with code 25 (R57, R59). -/
theorem badWord_illegal (hg : c.guest = false) (hm : opcodeProfile x.opcode = .main → c.native = false)
    (hn : opcodeProfile x.opcode = .native → c.native = true) (hp : opcodePrivileged x.opcode = true → c.w.tenant = false) :
    c.badWord x = c.trap 1 (illegalInfo x.opcode 25) := by
  simp only [Ctx.badWord, hg, profile_fits hm hn, privilege_fits hp, Bool.false_and, Bool.false_eq_true, if_false]

/-! ### A warp that is asked for (R386) -/

theorem takeFirst_none (h : ∀ b, s.block? c.w.block = some b → b.preempt ≠ .requested) : takeFirst s c = none := by
  refine if_neg ?_
  cases hb : s.block? c.w.block with
  | none => simp
  | some b => simpa using h b hb

theorem takeFirst_taken {b : Block} (hb : s.block? c.w.block = some b) (hr : b.preempt = .requested)
    (ht : exec .warpTaken { s with args := { a := c.w.uid, b := 0 } } = .next t) (hne : { t with args := s.args } ≠ s) :
    takeFirst s c = some (.next t) := by
  have hp : perform (event .warpTaken c.w.uid 0) s = .next t := ht
  rw [takeFirst, if_pos (by simp [hb, hr]), firstMove, hp]
  exact if_neg hne

/-! ### One step -/

theorem step_event {e : Event} {rest : List Event} (h : s.agenda = e :: rest) :
    step s = exec e.row { s with agenda := rest, args := e.args } := by
  rw [step, h]
  rfl

section Issuing

variable (ha : s.agenda = []) (hc : s.ctx? = some c) (hb : c.sp.begun = true) (hr : s.splitReady c.w c.k = true)
include ha hc hb hr

theorem step_taken (h : takeFirst s c = some (.next t)) : step s = .next t := by
  simp only [step, ha, hc, hb, hr, h, Bool.and_self, if_true]

theorem step_instr (h : takeFirst s c = none) (hf : c.fetch = .instr s1 i) : step s = exec i s1 := by
  simp only [step, ha, hc, hb, hr, h, hf, Bool.and_self, if_true]

theorem step_other (h : takeFirst s c = none) (hf : c.fetch = .other s1) : step s = .next s1 := by
  simp only [step, ha, hc, hb, hr, h, hf, Bool.and_self, if_true]

end Issuing

end Steps

/-- Settles O50: step issues what the fetch answers, and the fetch answers what the word decodes to. -/
theorem stepRunsDecoded : Obligations.StepRunsDecoded := by
  unfold Obligations.StepRunsDecoded
  refine ⟨fun s s1 c x ha hc hb hr hp hs htake hw => ?slot, fun _ _ => takeFirst_none,
    fun _ _ _ _ ha hc hb hr hblock hreq ht hne => step_taken ha hc hb hr (takeFirst_taken hblock hreq ht hne), fun _ _ _ => step_event⟩
  case slot =>
    have hw' : c.st.fetchWord c.w (c.sp.pc.toNat + 4 * c.sp.slot) = .ok (s1, x) := by rwa [ctx_st hc]
    refine ⟨fun i hd => step_instr ha hc hb hr htake (fetch_decoded hp hs hw' hd), fun e hd hg hm hn hpriv => ?_⟩
    rw [step_other ha hc hb hr htake (fetch_refused hp hs hw' hd), badWord_illegal (c := { c with st := s1 }) hg hm hn hpriv]
    rfl

end Sys2Proof.Proofs
end

section
/-! SUPPORT. A step of a matrix multiplication (R81, R183): the tile that it writes, element by element, and what it leaves of the others. -/

namespace Sys2Proof.Proofs

open Sys2Proof.Machine Sys2Proof.Laws

/-! ### Tables written row by row -/

section Tables

variable {α β γ : Type} {n m : Nat}

/-- Rows of one length, one after another. -/
theorem getElem?_flatMap_rows {f : α → List β} {l : List α} {k : Nat} (hlen : ∀ x, (f x).length = k) (hn : n < k) :
    (l.flatMap f)[k * m + n]? = l[m]?.bind fun x => (f x)[n]? := by
  induction l generalizing m with
  | nil => simp
  | cons x l ih =>
    rw [List.flatMap_cons]
    cases m with
    | zero => simp [List.getElem?_append_left, hlen, hn]
    | succ m =>
      have hi : k * (m + 1) + n = (f x).length + (k * m + n) := by
        rw [hlen, Nat.mul_succ]
        omega
      rw [hi, List.getElem?_append_right (Nat.le_add_right _ _), Nat.add_sub_cancel_left, ih, List.getElem?_cons_succ]

/-- An element of a table, its row and column numbered. -/
theorem getElem?_table {as : List α} {bs : List β} {f : α × Nat → β × Nat → γ} {a : α} {b : β} (ha : as[m]? = some a) (hb : bs[n]? = some b) :
    (as.zipIdx.flatMap fun p => bs.zipIdx.map (f p))[bs.length * m + n]? = some (f (a, m) (b, n)) := by
  have hn : n < bs.length := (List.getElem?_eq_some_iff.1 hb).1
  rw [getElem?_flatMap_rows (k := bs.length) (by simp) hn]
  simp [List.getElem?_zipIdx, ha, hb]

end Tables

/-! ### The step -/

section MatrixStep

variable {s : State} {b : Block} {x : MatCtx} {c : MatCmd} {d m n : Nat}

/-- The place of a step among the tiles of its command. -/
def stepPlace (c : MatCmd) : Nat := c.step % (msMt c.ms * msNt c.ms)

/-- The accumulator tile of a step. -/
def stepTile (c : MatCmd) : Nat := bitsAt c.word.toNat 23 20 + stepPlace c

/-- The first K index of a step of depth d. -/
def stepFirstK (c : MatCmd) (d : Nat) : Nat := d * (c.step / (msMt c.ms * msNt c.ms))

/-- A step that starts from zero (MMATZ at K = 0). -/
def startsFromZero (c : MatCmd) (d : Nat) : Bool := c.op == 0xC1 && stepFirstK c d == 0

/-- The accumulator elements that a step adds to. -/
def oldTile (x : MatCtx) (c : MatCmd) (d : Nat) : List Word :=
  if startsFromZero c d then List.replicate 256 0 else x.tiles.getD (stepTile c) []

/-- The d elements of a row of an operand that a step reads, with whether each is poisoned. -/
def stepRow (s : State) (b : Block) (c : MatCmd) (d : Nat) (a : Bool) (r : Nat) : List (Fp × Bool) :=
  (List.range d).map fun k => s.operandElem b c a r (stepFirstK c d + k)

/-- The 16 rows of an operand that a step reads, from the row of its tile on. -/
def stepRows (s : State) (b : Block) (c : MatCmd) (d : Nat) (a : Bool) (t : Nat) : List (List (Fp × Bool)) :=
  (List.range 16).map fun r => stepRow s b c d a (16 * t + r)

/-- The tile that a step writes. -/
def newTile (s : State) (b : Block) (x : MatCtx) (c : MatCmd) (d : Nat) : List Word :=
  (stepRows s b c d true (stepPlace c / msNt c.ms)).zipIdx.flatMap fun p =>
    (stepRows s b c d false (stepPlace c % msNt c.ms)).zipIdx.map fun q =>
      stepElem ((oldTile x c d).getD (16 * p.2 + q.2) 0) (p.1.map (·.1)) (q.1.map (·.1))

theorem mmatStep_tiles : (s.mmatStep b x c d).tiles = x.tiles.set (stepTile c) (newTile s b x c d) := rfl

/-- The poison marks of other tiles stay; those of the step's tile are all set or all cleared (R419). -/
theorem mmatStep_poison : ∃ dirty : Bool, (s.mmatStep b x c d).poison = x.poison.filter (fun e => !(e / 256 == stepTile c)) ++
    if dirty then (List.range 256).map (stepTile c * 256 + ·) else [] := ⟨_, rfl⟩

theorem oldTile_getD {i : Nat} : (oldTile x c d).getD i 0 =
    if c.op = 0xC1 ∧ stepFirstK c d = 0 then 0 else (x.tiles.getD (stepTile c) []).getD i 0 := by
  by_cases h : c.op = 0xC1 ∧ stepFirstK c d = 0
  · rw [oldTile, if_pos h, if_pos (by simp [startsFromZero, h])]
    by_cases hi : i < 256
    · exact List.getD_replicate 0 hi
    · exact List.getD_eq_default _ _ (List.length_replicate.trans_le (Nat.not_lt.1 hi))
  · rw [oldTile, if_neg h, if_neg (by simpa [startsFromZero] using h)]

theorem stepRows_getElem? {a : Bool} {t : Nat} (hm : m < 16) :
    (stepRows s b c d a t)[m]? = some (stepRow s b c d a (16 * t + m)) := by
  simp [stepRows, hm]

theorem stepRow_values {a : Bool} {r : Nat} :
    (stepRow s b c d a r).map (·.1) = (List.range d).map fun k => (s.operandElem b c a r (stepFirstK c d + k)).1 := by
  simp [stepRow]

/-- Element (m, n) of the written tile: the old element and the products of row m of A and row n of B, rounded once (R81). -/
theorem newTile_getD (hm : m < 16) (hn : n < 16) : (newTile s b x c d).getD (16 * m + n) 0 =
    stepElem (if c.op = 0xC1 ∧ stepFirstK c d = 0 then 0 else (x.tiles.getD (stepTile c) []).getD (16 * m + n) 0)
      ((List.range d).map fun k => (s.operandElem b c true (16 * (stepPlace c / msNt c.ms) + m) (stepFirstK c d + k)).1)
      ((List.range d).map fun k => (s.operandElem b c false (16 * (stepPlace c % msNt c.ms) + n) (stepFirstK c d + k)).1) := by
  have hlen : (stepRows s b c d false (stepPlace c % msNt c.ms)).length = 16 := by simp [stepRows]
  have h := getElem?_table (f := fun p q => stepElem ((oldTile x c d).getD (16 * p.2 + q.2) 0) (p.1.map (·.1)) (q.1.map (·.1)))
    (stepRows_getElem? (s := s) (b := b) (c := c) (d := d) (a := true) (t := stepPlace c / msNt c.ms) hm)
    (stepRows_getElem? (s := s) (b := b) (c := c) (d := d) (a := false) (t := stepPlace c % msNt c.ms) hn)
  rw [hlen] at h
  rw [newTile, List.getD_eq_getElem?_getD, h, Option.getD_some, oldTile_getD, stepRow_values, stepRow_values]

theorem mmatStep_tile (htiles : stepTile c < x.tiles.length) : (s.mmatStep b x c d).tiles.getD (stepTile c) [] = newTile s b x c d := by
  rw [mmatStep_tiles, getD_set_self htiles]

theorem mmatStep_tile_ne {t : Nat} (h : t ≠ stepTile c) : (s.mmatStep b x c d).tiles.getD t [] = x.tiles.getD t [] := by
  rw [mmatStep_tiles, getD_set_ne _ h.symm]

theorem mmatStep_poison_ne {e : Nat} (h : e / 256 ≠ stepTile c) : e ∈ (s.mmatStep b x c d).poison ↔ e ∈ x.poison := by
  obtain ⟨dirty, hp⟩ := mmatStep_poison (s := s) (b := b) (x := x) (c := c) (d := d)
  have hout : e ∉ (List.range 256).map (stepTile c * 256 + ·) := by
    intro he
    obtain ⟨i, hi, rfl⟩ := List.mem_map.1 he
    have := List.mem_range.1 hi
    omega
  rw [hp, List.mem_append, List.mem_filter]
  cases dirty <;> simp [h, hout]

end MatrixStep

/-- Settles O30, by the elements of the written tile and by what the step leaves of the others. -/
theorem matrixSteps : Obligations.MatrixSteps := by
  unfold Obligations.MatrixSteps
  intro s b x c d htiles
  refine ⟨fun ht m n hm hn => ?_, fun t => mmatStep_tile_ne, fun e => mmatStep_poison_ne⟩
  have hlt : stepTile c < x.tiles.length := htiles ▸ ht
  exact (congrArg (·.getD (16 * m + n) 0) (mmatStep_tile hlt)).trans (newTile_getD hm hn)

end Sys2Proof.Proofs
end

section
/-! SUPPORT. The float instructions of R107 to R111: what each shape of instruction gives, said once for every instruction of the shape. -/

namespace Sys2Proof.Proofs

open Sys2Proof.Machine Sys2Proof.Laws

/-! ### Shapes of vector instructions -/

section Shapes

variable {ok : Ty → Bool} {opc : Nat} {i : V3 → Instr}

theorem binary_of {f : Ctx → Nat → Nat → Res} (he : ∀ o s, exec (i o) s =
      issue opc s (fun c => v3Uses o (pairs c.ty.pair) (pairs c.ty.pair) (pairs c.ty.pair)) (tyCheck opc ok) fun c =>
        c.vresult o.d.toNat c.ty.pair fun l => perElem c.ty.width c.ty.count fun e =>
          f c (c.elem (c.aval o) l e) (c.elem (c.bval o) l e) := by exact fun _ _ => rfl) :
    Binary ok i opc f :=
  fun o => lanes_of (he o) (fun _ => ty_ok) fun _ _ => rfl

theorem fused_of {f : Ctx → Nat → Nat → Nat → Res} (he : ∀ o s, exec (i o) s =
      issue opc s (fun c => v3AccUses o (pairs c.ty.pair) (pairs c.ty.pair) (pairs c.ty.pair)) (tyCheck opc ok) fun c =>
        c.vresult o.d.toNat c.ty.pair fun l => perElem c.ty.width c.ty.count fun e =>
          f c (c.elem (c.aval o) l e) (c.elem (c.bval o) l e) (c.elem (c.dval o.d) l e) := by exact fun _ _ => rfl) :
    Fused ok i opc f :=
  fun o => lanes_of (he o) (fun _ => ty_ok) fun _ _ => rfl

theorem unary_of {f : Ctx → Nat → Res} (he : ∀ o s, exec (i o) s =
      issue opc s (fun c => unUses o (pairs c.ty.pair) (pairs c.ty.pair)) (tyCheck opc ok) fun c =>
        c.vresult o.d.toNat c.ty.pair fun l => perElem c.ty.width c.ty.count fun e =>
          f c (c.elem (c.aval o) l e) := by exact fun _ _ => rfl) :
    Unary ok i opc f :=
  fun o => lanes_of (he o) (fun _ => ty_ok) fun _ _ => rfl

theorem bitsAt_low (x k : Nat) : bitsAt x k 0 = x % 2 ^ (k + 1) := by
  rw [bitsAt, Nat.pow_zero, Nat.div_one, Nat.sub_zero]

/-- A comparison's predicate is named by the low three bits of d (R51). -/
theorem compares_of {f : Ctx → Nat → Nat → Bool × BitVec 8} (he : ∀ o s, exec (i o) s =
      issue opc s (fun c => cmpUses o (pairs c.ty.pair)) (tyCheck opc ok) fun c =>
        c.presult (bitsAt o.d.toNat 2 0) fun l => f c (c.elem (c.aval o) l 0) (c.elem (c.bval o) l 0) := by exact fun _ _ => rfl) :
    Compares ok i opc f :=
  fun o => preds_of (he o) (fun _ => ty_ok) fun c _ => congrArg (c.presult · _) (bitsAt_low o.d.toNat 2)

/-- An integer for each element of a float TYPE: 16 bits where the element has 16, otherwise one of 32 (R109). -/
theorem integerOfFloat_of {f : Ctx → Nat → Res} (he : ∀ o s, exec (i o) s =
      issue opc s (fun c => unUses o 1 (pairs c.ty.pair)) (tyCheck opc ok) fun c =>
        c.vresult o.d.toNat false fun l => perElem (if c.ty.width = 16 then 16 else 32) c.ty.count fun e =>
          f c (c.elem (c.aval o) l e) := by exact fun _ _ => rfl) (o : V3) :
    Lanes (i o) opc (fun c => unUses o 1 (pairs c.ty.pair)) (fun c => ok c.ty = true) o.d.toNat (fun _ => false) fun c l =>
      perElem (if c.ty.width = 16 then 16 else 32) c.ty.count fun e => f c (c.elem (c.aval o) l e) :=
  lanes_of (he o) (fun _ => ty_ok) fun _ _ => rfl

end Shapes

/-! ### Arithmetic (R107 to R109) -/

theorem fdot2_lanes (o : V3) : Lanes (.fdot2 o) 0x49 (fun c => let n := if c.ty = .f32 then 2 else 1; v3Uses o 1 n n)
    (fun c => c.ty.isFloat = true ∧ c.ty ≠ .f64) o.d.toNat (fun _ => false) fun c l =>
      let e (src : Bool → Nat → Nat) (k : Nat) : Nat := elemAt c.ty.width k (src (c.ty == .f32) l)
      floatDot2 c.ty c.rnd c.ftz (e (c.aval o) 0) (e (c.bval o) 0) (e (c.aval o) 1) (e (c.bval o) 1) :=
  lanes_of (fun _ => rfl) (fun _ ⟨hf, hne⟩ => ty_ok (by simp [hf, hne])) fun _ _ => rfl

theorem fldexp_lanes (o : V3) : Lanes (.fldexp o) 0x4E (fun c => v3Uses o (pairs c.ty.pair) (pairs c.ty.pair) 1)
    (fun c => c.ty.isFloat = true) o.d.toNat (fun c => c.ty.pair) fun c l => perElem c.ty.width c.ty.count fun e =>
      floatLdexp c.ty c.rnd c.ftz (c.elem (c.aval o) l e) (toSigned 32 (c.bval o false l)) :=
  lanes_of (fun _ => rfl) (fun _ => ty_ok) fun _ _ => rfl

/-- Settles O5, each instruction by the lemma about its shape. -/
theorem floatArithmetic : Obligations.FloatArithmetic := by
  unfold Obligations.FloatArithmetic
  exact ⟨⟨binary_of, binary_of, binary_of, fused_of, fused_of, fused_of, binary_of, binary_of, binary_of, binary_of, binary_of, fdot2_lanes,
      fldexp_lanes⟩,
    unary_of, unary_of, unary_of, unary_of, integerOfFloat_of (f := fun c a => (floatClass c.ty a, 0)),
    integerOfFloat_of (f := fun c a => floatExpt c.ty (if c.ty.width = 16 then 16 else 32) c.ftz a)⟩

/-- Settles O6, each instruction by the lemma about its shape. -/
theorem floatFunctionsAndComparisons : Obligations.FloatFunctionsAndComparisons := by
  unfold Obligations.FloatFunctionsAndComparisons
  exact ⟨⟨unary_of, unary_of, unary_of, unary_of, unary_of, unary_of, unary_of, unary_of⟩,
    compares_of, compares_of, compares_of, compares_of, compares_of, compares_of, compares_of⟩

end Sys2Proof.Proofs
end

section
/-! SUPPORT. Reductions, scans and the operations across lanes (R61, R78, R79, R112, R119 to R123). -/

namespace Sys2Proof.Proofs

open Sys2Proof.Machine Sys2Proof.Laws

/-! ### Reductions and scans (R112) -/

section Reductions

variable {opc : Nat} {ident : Ty → Nat} {op : Ty → Rnd → Bool → RedOp}

/-- The tree of a packed position over the contributing lanes (R78). -/
def treeOf (c : Ctx) (o : V3) (ident : Ty → Nat) (op : Ty → Rnd → Bool → RedOp) (e : Nat) : Res :=
  fred (op c.ty c.rnd c.ftz) c.n (c.redInputs o (ident c.ty) e)

/-- The scan of a packed position as a lane has it (R79). -/
def scanOf (c : Ctx) (o : V3) (ident : Ty → Nat) (op : Ty → Rnd → Bool → RedOp) (e l : Nat) : Res :=
  (fscan (op c.ty c.rnd c.ftz) c.n (c.redInputs o (ident c.ty) e)).getD l (0, 0)

/-- A reduction where some lane contributes. -/
theorem reduction_retires {i : V3 → Instr} (he : ∀ o s, exec (i o) s = issueRed opc o s ident op := by exact fun _ _ => rfl) (o : V3) :
    Retires (i o) opc (fun c => unUses o (pairs c.ty.pair) (pairs c.ty.pair)) (fun c => c.ty.isFloat = true ∧ c.act ≠ 0) (fun c => c.st)
      (fun c => vwrite o.d.toNat c.ty.pair c.act fun _ => (perElem c.ty.width c.ty.count (treeOf c o ident op)).1)
      fun c => (perElem c.ty.width c.ty.count (treeOf c o ident op)).2 :=
  retires_of (he o) (fun _ h => ty_ok h.1) fun _ h => if_neg h.2

/-- A scan where some lane contributes: only what contributing lanes are given raises sticky bits (R66). -/
theorem scan_retires {i : V3 → Instr} (he : ∀ o s, exec (i o) s = issueScan opc o s ident op := by exact fun _ _ => rfl) (o : V3) :
    Retires (i o) opc (fun c => unUses o (pairs c.ty.pair) (pairs c.ty.pair)) (fun c => c.ty.isFloat = true ∧ c.act ≠ 0) (fun c => c.st)
      (fun c => vwrite o.d.toNat c.ty.pair c.act fun l => packElems c.ty.width ((List.range c.ty.count).map fun e => (scanOf c o ident op e l).1))
      fun c => (List.range c.ty.count).foldl (fun a e => (lanesOf c.act).foldl (fun a l => a ||| (scanOf c o ident op e l).2) a) 0 := by
  refine retires_of (he o) (fun _ h => ty_ok h.1) fun c h => (if_neg h.2).trans ?_
  simp only [List.map_map, List.foldl_map]
  rfl

end Reductions

/-! ### Operations across lanes (R119 to R123) -/

theorem match_lanes (o : V3) : Lanes (.matchV o) 0x74 (fun c => v3Uses o 1 (pairs c.ty.intPair) (pairs c.ty.intPair)) always o.d.toNat
    (fun _ => false) fun c l =>
      let keep (x : Nat) : Nat := Nat.land x (Nat.xor (c.bval o c.ty.intPair l) (2 ^ 64 - 1))
      ((maskOf fun j => hasLane c.act j && keep (c.aval o c.ty.intPair j) == keep (c.aval o c.ty.intPair l)).toNat, 0) :=
  lanes_of (fun _ => rfl) (fun _ _ => rfl) fun _ _ => rfl

theorem vote_lanes (o : V3) : Lanes (.vote o) 0x75 (fun c => v3Uses o 1 (pairs c.ty.intPair) (pairs c.ty.intPair)) always o.d.toNat
    (fun _ => false) fun c _ =>
      ((maskOf fun j => hasLane c.act j && Nat.land (c.aval o c.ty.intPair j) (Nat.xor (c.bval o c.ty.intPair j) (2 ^ 64 - 1)) != 0).toNat, 0) :=
  lanes_of (fun _ => rfl) (fun _ _ => rfl) fun _ _ => rfl

theorem plop_preds (o : X) : Preds (.plop o) 0x76 (fun _ => [pwrite o.x, pread o.y, pread o.z]) always o.x.toNat fun c l =>
    (bitAt o.imm.toNat ((if c.pbit o.y.toNat l then 2 else 0) + (if c.pbit o.z.toNat l then 1 else 0)), 0) :=
  preds_of (fun _ => rfl) (fun _ _ => rfl) fun _ _ => rfl

/-- PMOV towards a predicate (R121). -/
theorem pmov_preds (o : X) (h : o.imm.getLsbD 0 = true) :
    Preds (.pmov o) 0x77 (fun _ => [pwrite o.x, { cls := 0, reg := o.y.toNat, rd := true }]) always o.x.toNat fun c l =>
      (bitAt (c.lane o.y.toNat l).toNat l, 0) :=
  preds_of (fun _ => if_pos ((bitAt_toNat o.imm 0).trans h)) (fun _ _ => rfl) fun _ _ => rfl

/-- PMOV towards a vector register (R121). -/
theorem pmov_lanes (o : X) (h : o.imm.getLsbD 0 = false) :
    Lanes (.pmov o) 0x77 (fun _ => [vdst o.x 1, pread o.y]) always o.x.toNat (fun _ => false) fun c _ =>
      ((maskOf fun j => hasLane c.sp.lanes j && c.pbit o.y.toNat j).toNat, 0) :=
  lanes_of (fun _ => if_neg (by rw [bitAt_toNat, h]; exact Bool.false_ne_true)) (fun _ _ => rfl) fun _ _ => rfl

theorem shuf_lanes (o : V3) : Lanes (.shuf o) 0x78
    (fun c => [vdst o.d (pairs c.ty.intPair), { vsrc o.a o.pa o.la (pairs c.ty.intPair) with all := true }, bsrc o 1]) always o.d.toNat
    (fun c => c.ty.intPair) fun c l =>
      (if hasLane c.sp.lanes (c.bval o false l % c.n) then c.aval o c.ty.intPair (c.bval o false l % c.n) else 0, 0) :=
  lanes_of (fun _ => rfl) (fun _ _ => rfl) fun _ _ => rfl

/-- The exact sum of element e over some lanes, each element as TYPE reads it (R61). -/
theorem laneSum_eq (c : Ctx) (o : V3) (e : Nat) (m : Mask) :
    c.laneSum o e m = (lanesOf m).foldl (fun x j => x + c.reads (c.elem (c.aval o) j e)) 0 := rfl

theorem ired_lanes (o : V3) : Lanes (.ired o) 0x79 (fun c => unUses o (pairs c.ty.pair) (pairs c.ty.pair)) (fun c => c.ty.isInt = true)
    o.d.toNat (fun c => c.ty.pair) fun c _ => perElem c.ty.width c.ty.count fun e => c.rounds (c.laneSum o e c.act) :=
  lanes_of (fun _ => rfl) (fun _ => ty_ok) fun _ _ => rfl

theorem iscan_lanes (o : V3) : Lanes (.iscan o) 0x7A (fun c => unUses o (pairs c.ty.pair) (pairs c.ty.pair)) (fun c => c.ty.isInt = true)
    o.d.toNat (fun c => c.ty.pair) fun c l =>
      perElem c.ty.width c.ty.count fun e => c.rounds (c.laneSum o e (c.act &&& maskOf fun j => j ≤ l)) :=
  lanes_of (fun _ => rfl) (fun _ => ty_ok) fun _ _ => rfl

/-- Settles O7, each instruction by the lemma about it or its shape. -/
theorem reductionsAndLaneOperations : Obligations.ReductionsAndLaneOperations := by
  unfold Obligations.ReductionsAndLaneOperations
  exact ⟨⟨reduction_retires (ident := fun _ => 0) (op := floatAdd),
      reduction_retires (ident := fun t => t.fmt.inf true) (op := fun t _ z => floatMinMax t z true),
      reduction_retires (ident := fun t => t.fmt.inf false) (op := fun t _ z => floatMinMax t z false),
      reduction_retires (ident := fun _ => 0) (op := fun t _ z a b => floatMinMax t z true (floatAbs t a).1 (floatAbs t b).1),
      scan_retires (ident := fun _ => 0) (op := floatAdd),
      scan_retires (ident := fun t => t.fmt.inf true) (op := fun t _ z => floatMinMax t z true)⟩,
    match_lanes, vote_lanes, plop_preds, pmov_preds, pmov_lanes, shuf_lanes, ired_lanes, iscan_lanes⟩

end Sys2Proof.Proofs
end

section
/-! SUPPORT. The fx128, packing, conversion and scale-block instructions (R74, R75, R77, R113 to R118). -/

namespace Sys2Proof.Proofs

open Sys2Proof.Machine Sys2Proof.Laws

/-! ### Values computed in the active lanes -/

section Active

variable {α : Type} {m : Mask}

/-- A value computed in the active lanes, as one of them finds it. -/
theorem getD_active {f : Nat → α × BitVec 8} {z : α} {l : Nat} (hl : l < 32) (h : hasLane m l = true) :
    ((((List.range 32).map fun i => if hasLane m i then f i else (z, 0))[l]?).getD (z, 0)) = f l := by
  simp [hl, h]

/-- Lanes that take no effect raise no sticky bit. -/
theorem foldl_active (m : Mask) (f : Nat → α × BitVec 8) (z : α) :
    ((List.range 32).map fun i => if hasLane m i then f i else (z, 0)).foldl (fun a r => a ||| r.2) 0 =
      (lanesOf m).foldl (fun a i => a ||| (f i).2) 0 := by
  rw [List.foldl_map, lanesOf, List.foldl_filter]
  congr 1
  funext a i
  cases hasLane m i
  · exact BitVec.or_zero
  · rfl

/-- A lane write depends only on the lanes of its mask. -/
theorem vwrite_congr {r : Nat} {pair : Bool} {f g : Nat → Nat} (h : ∀ l, l < 32 → hasLane m l = true → f l = g l) :
    vwrite r pair m f = vwrite r pair m g := by
  have hword (t : Nat → Nat) : perLane (fun i => if hasLane m i then Machine.word (t (f i)) else 0) =
      perLane fun i => if hasLane m i then Machine.word (t (g i)) else 0 :=
    List.map_congr_left fun i hi => ite_congr rfl (fun hm => by rw [h i (List.mem_range.1 hi) hm]) fun _ => rfl
  unfold vwrite
  rw [hword fun x => x, hword fun x => x / 2 ^ 32]

end Active

/-! ### fx128 (R113, R114) -/

/-- What FXACC accumulates in a lane, with its sticky bits: s0 as b adds nothing (R113). -/
def fxSum (c : Ctx) (o : V3) (l : Nat) : Int × BitVec 8 :=
  let x := fxAdd (c.fx o.d.toNat l) (c.aval o false l)
  if o.bs && o.b == 0 then x else ((fxAdd x.1 (c.bval o false l)).1, x.2 ||| (fxAdd x.1 (c.bval o false l)).2)

theorem fxSum_value (c : Ctx) (o : V3) (l : Nat) : (fxSum c o l).1 =
    let x := (fxAdd (c.fx o.d.toNat l) (c.aval o false l)).1
    if o.bs && o.b == 0 then x else (fxAdd x (c.bval o false l)).1 := apply_ite Prod.fst ..

theorem fxSum_sticky (c : Ctx) (o : V3) (l : Nat) : ((0, (fxSum c o l).2) : Res) =
    let x := fxAdd (c.fx o.d.toNat l) (c.aval o false l)
    if o.bs && o.b == 0 then (0, x.2) else (0, x.2 ||| (fxAdd x.1 (c.bval o false l)).2) := apply_ite (fun x : Int × BitVec 8 => (0, x.2)) ..

theorem fxacc_retires (o : V3) : Retires (.fxacc o) 0x68 (fun _ => v3AccUses o 4 1 1) (fun c => c.ty = .f32) (fun c => c.st)
    (fun c => vwrite o.d.toNat true c.act (fun l => wrapTo 128 (fxSum c o l).1 % 2 ^ 64) ++
      vwrite (o.d.toNat + 2) true c.act fun l => wrapTo 128 (fxSum c o l).1 / 2 ^ 64)
    fun c => c.stickyOf fun l => (0, (fxSum c o l).2) := by
  refine retires_of (fun _ => rfl) (fun c h => ty_ok (by simp [h])) fun c _ => congrArg₂ (Act.done c.st)
    (congrArg₂ (· ++ ·) (vwrite_congr fun l hl h => ?low) (vwrite_congr fun l hl h => ?high)) (foldl_active c.act (fxSum c o) 0)
  case low => exact congrArg (fun x : Int × BitVec 8 => wrapTo 128 x.1 % 2 ^ 64) (getD_active hl h)
  case high => exact congrArg (fun x : Int × BitVec 8 => wrapTo 128 x.1 / 2 ^ 64) (getD_active hl h)

/-- The group that FXCVT converts is read whole from the lane that the pattern names, and is zero where it names none (R37). -/
theorem fxcvt_lanes (o : V3) : Lanes (.fxcvt o) 0x69 (fun c => [vdst o.d (pairs c.ty.pair), vsrc o.a o.pa o.la 4])
    (fun c => c.ty = .f32 ∨ c.ty = .f64) o.d.toNat (fun c => c.ty.pair) fun c l =>
      fxRound c.ty c.rnd (((c.srcLane o.pa.toNat l).map fun j => c.fx o.a.toNat j).getD 0) := by
  refine lanes_of (fun _ => rfl) (fun c h => ty_ok (by simpa using h)) fun c _ => congrArg (c.vresult o.d.toNat c.ty.pair) (funext fun l => ?_)
  cases c.srcLane o.pa.toNat l <;> rfl

/-! ### Packing and conversion (R115, R116) -/

theorem fpack_lanes (o : V3) : Lanes (.fpack o) 0x6A (fun _ => v3Uses o 1 1 1) (fun c => c.ty.half = true) o.d.toNat (fun _ => false) fun c l =>
    let x := cvtFF .f32 c.ty c.rnd c.ftz (c.aval o false l)
    let y := cvtFF .f32 c.ty c.rnd c.ftz (c.bval o false l)
    (y.1 * 2 ^ 16 + x.1, x.2 ||| y.2) :=
  lanes_of (fun _ => rfl) (fun _ => ty_ok) fun _ _ => rfl

theorem elemAt_zero (w x : Nat) : elemAt w 0 x = x % 2 ^ w := by
  rw [elemAt, Nat.mul_zero, Nat.pow_zero, Nat.div_one]

theorem elemAt_one (w x : Nat) : elemAt w 1 x = x / 2 ^ w % 2 ^ w := by
  rw [elemAt, Nat.mul_one]

theorem funpk_lanes (o : V3) : Lanes (.funpk o) 0x6B (fun _ => unUses o 2 1) (fun c => c.ty.half = true) o.d.toNat (fun _ => true) fun c l =>
    let x := cvtFF c.ty .f32 c.rnd c.ftz (c.aval o false l % 2 ^ 16)
    let y := cvtFF c.ty .f32 c.rnd c.ftz (c.aval o false l / 2 ^ 16 % 2 ^ 16)
    (x.1 + 2 ^ 32 * y.1, x.2 ||| y.2) := by
  refine lanes_of (fun _ => rfl) (fun _ => ty_ok) fun c _ => ?_
  simp only [elemAt_zero, elemAt_one]

/-- What CVT's description asks of TYPE and of its fields (R116). -/
abbrev Convertible (o : VI) (c : Ctx) : Prop :=
  c.ty.isDsb = false ∧ (cvtSrc o).isDsb = false ∧ bitsAt o.imm.toNat 5 4 < (cvtSrc o).count ∧ bitsAt o.imm.toNat 7 6 < c.ty.count

theorem cvtCheck_none {o : VI} {c : Ctx} (h : Convertible o c) : cvtCheck o c = none := by
  obtain ⟨hdst, hsrc, hsel, hdel⟩ := h
  simp [cvtCheck, hdst, hsrc, Nat.not_le.2 hsel, Nat.not_le.2 hdel]

theorem cvt_lanes (o : VI) : Lanes (.cvt o) 0x70
    (fun c => [if c.ty.width < 32 then vacc o.d 1 else vdst o.d (pairs c.ty.pair), vsrc o.a o.pa o.la (pairs (cvtSrc o).pair)])
    (Convertible o) o.d.toNat (fun c => c.ty.pair) fun c l =>
      let x := convert (cvtSrc o) c.ty c.rnd c.ftz (modeSat c.m)
        (elemAt (cvtSrc o).width (bitsAt o.imm.toNat 5 4) (c.src (cvtSrc o).pair o.a.toNat o.pa.toNat l))
      if c.ty.width < 32 then
        (packElems c.ty.width ((List.range c.ty.count).map fun e =>
          if e = bitsAt o.imm.toNat 7 6 then x.1 else elemAt c.ty.width e (c.dval o.d false l)), x.2)
      else x :=
  lanes_of (fun _ => rfl) (fun _ => cvtCheck_none) fun _ _ => rfl

/-! ### Scale blocks (R117, R118) -/

/-- What R117 asks of TYPE and of the group length: a wavefront of 16 lanes has no group of 32. -/
abbrev Grouped (o : VI) (c : Ctx) : Prop := c.ty.isDsb = true ∧ bitsAt o.imm.toNat 1 0 < if c.native then 1 else 2

theorem dsbCheck_none {opc : Nat} {o : VI} {c : Ctx} (h : Grouped o c) : dsbCheck opc o c = none := by
  obtain ⟨hty, hlen⟩ := h
  rw [dsbCheck, hty]
  cases hn : c.native
  · have : bitsAt o.imm.toNat 1 0 < 2 := by simpa [hn] using hlen
    simp [this]
  · have : bitsAt o.imm.toNat 1 0 < 1 := by simpa [hn] using hlen
    simp [Nat.lt_one_iff.1 this]

theorem dsbscal_lanes (o : VI) : Lanes (.dsbscal o) 0x71 (fun _ => [vdst o.d 1, vsrc o.a o.pa o.la 1]) (Grouped o) o.d.toNat (fun _ => false)
    fun c l =>
      let e := dsbScales c.ty (dsbSpanOf o c.ty) (c.dsbGroup o l)
      (dsbHeader c.ty e.1 e.2 (dsbGroupLen o), 0) :=
  lanes_of (fun _ => rfl) (fun _ => dsbCheck_none) fun _ _ => rfl

theorem dsbenc_lanes (o : VI) : Lanes (.dsbenc o) 0x72 (fun _ => [vdst o.d 1, vsrc o.a o.pa o.la 1]) (Grouped o) o.d.toNat (fun _ => false)
    fun c l =>
      let e := dsbScales c.ty (dsbSpanOf o c.ty) (c.dsbGroup o l)
      dsbElem c.ty c.rnd e.1 e.2 ((c.dsbGroup o l).getD (l % dsbGroupLen o) (.fin false 0 0)) :=
  lanes_of (fun _ => rfl) (fun _ => dsbCheck_none) fun _ _ => rfl

/-- The code of an 8-bit element is named by two bits of the immediate, that of a 4-bit element by three (R118). -/
theorem dsbdec_lanes (o : VI) : Lanes (.dsbdec o) 0x73 (fun _ => [vacc o.d 1, vsrc o.a o.pa o.la 1])
    (fun c => c.ty = .f32 ∨ c.ty = .f16 ∨ c.ty = .bf16) o.d.toNat (fun _ => false) fun c l =>
      let h := c.dval o.d false l
      let a := c.src false o.a.toNat o.pa.toNat l
      if dsbValid h then
        c.ty.fmt.ofFp c.rnd c.ftz (dsbDecode h (if bitsAt h 7 4 = 8 then elemAt 8 (o.imm.toNat % 4) a else elemAt 4 (o.imm.toNat % 8) a))
      else (c.ty.fmt.nan, stNV) := by
  have hpos : o.imm.toNat % 8 % 4 = o.imm.toNat % 4 := Nat.mod_mod_of_dvd _ (by decide)
  refine lanes_of (fun _ => rfl) (fun c h => ty_ok (by simpa [or_assoc] using h)) fun c _ => ?_
  simp only [hpos]

/-- Settles O8, each instruction by the lemma about it. -/
theorem conversions : Obligations.Conversions := by
  unfold Obligations.Conversions
  refine ⟨fun o => ?fxacc, fxcvt_lanes, fpack_lanes, funpk_lanes, cvt_lanes, dsbscal_lanes, dsbenc_lanes, dsbdec_lanes⟩
  case fxacc => simpa only [fxSum_value, fxSum_sticky] using fxacc_retires o

end Sys2Proof.Proofs
end

section
/-! SUPPORT. Compaction (R94, R242): which place of the dense warps each thread of a path takes, and what a dense warp starts with. -/

namespace Sys2Proof.Proofs

open Sys2Proof.Machine Sys2Proof.Laws

/-! ### Lane masks -/

/-- A number written out from its bits, the lowest first. -/
theorem testBit_foldr (f : Nat → Bool) (l : List Nat) (k : Nat) :
    (l.foldr (fun i acc => (if f i then 1 else 0) + 2 * acc) 0).testBit k = (l[k]?.map f).getD false := by
  induction l generalizing k with
  | nil => exact Nat.zero_testBit k
  | cons i l ih =>
    have hbit (b : Bool) (n : Nat) : (if b = true then 1 else 0) + 2 * n = Nat.bit b n := by cases b <;> simp [Nat.bit, Nat.add_comm]
    rw [List.foldr_cons, hbit]
    cases k with
    | zero => exact Nat.testBit_bit_zero ..
    | succ k => rw [Nat.testBit_bit_succ, ih, List.getElem?_cons_succ]

theorem hasLane_maskOf {f : Nat → Bool} {l : Nat} (hl : l < 32) : hasLane (maskOf f) l = f l := by
  rw [hasLane, maskOf, BitVec.getLsbD_ofNat, testBit_foldr, List.getElem?_range hl, decide_eq_true hl]
  rfl

theorem le_foldl_max (g : Nat → Nat) {l : List Nat} {x n : Nat} (h : x ∈ l ∨ g x ≤ n) : g x ≤ l.foldl (fun n l => max n (g l)) n := by
  induction l generalizing n with
  | nil => exact h.resolve_left List.not_mem_nil
  | cons y l ih =>
    refine ih ?_
    rcases h with h | h
    · rcases List.mem_cons.1 h with rfl | h
      · exact .inr (Nat.le_max_right ..)
      · exact .inl h
    · exact .inr (Nat.le_trans h (Nat.le_max_left ..))

/-! ### Places -/

section Places

variable {p : PathLanes} {j l u uid slot : Nat} {entry : Dword} {h : Warp × Mask} {w : Warp}

/-- The homes of a path's threads in a lane, in the order of the dense warps that take them. -/
def laneHomes (p : PathLanes) (l : Nat) : List Nat := (p.filter fun h => hasLane h.2 l).map (·.1.uid)

theorem pathHome_eq : pathHome p j l = (laneHomes p l)[j]? := rfl

theorem mem_laneHomes : u ∈ laneHomes p l ↔ ∃ h ∈ p, h.1.uid = u ∧ hasLane h.2 l = true := by
  simp only [laneHomes, List.mem_map, List.mem_filter]
  exact exists_congr fun h => by rw [and_assoc, and_comm (a := h.1.uid = u)]

theorem laneHomes_nodup (hp : (p.map (·.1.uid)).Nodup) : (laneHomes p l).Nodup := hp.sublist (List.filter_sublist.map _)

theorem laneHomes_length_le (hl : l < 32) : (laneHomes p l).length ≤ pathCount p := by
  rw [laneHomes, List.length_map]
  exact le_foldl_max (fun l => (p.filter fun h => hasLane h.2 l).length) (.inl (List.mem_range.2 hl))

/-- Every home of a place is a warp of the path, whose lane is on it. -/
theorem home_of_place (hu : pathHome p j l = some u) : ∃ h ∈ p, h.1.uid = u ∧ hasLane h.2 l = true :=
  mem_laneHomes.1 (List.mem_of_getElem? hu)

/-- A thread has one place, in a dense warp of its path. -/
theorem place_of_thread (hp : (p.map (·.1.uid)).Nodup) (hh : h ∈ p) (hl : l < 32) (hon : hasLane h.2 l = true) :
    ∃ j, j < pathCount p ∧ pathHome p j l = some h.1.uid ∧ ∀ i, pathHome p i l = some h.1.uid → i = j := by
  obtain ⟨j, hj, hget⟩ := List.mem_iff_getElem.1 (mem_laneHomes.2 ⟨h, hh, rfl, hon⟩)
  have hplace : (laneHomes p l)[j]? = some h.1.uid := List.getElem?_eq_some_iff.2 ⟨hj, hget⟩
  refine ⟨j, Nat.lt_of_lt_of_le hj (laneHomes_length_le hl), hplace, fun i hi => ?_⟩
  exact ((List.getElem?_inj hj (laneHomes_nodup hp)).1 (hplace.trans hi.symm)).symm

/-- The homes that a dense warp lists, 0 where a lane has none. -/
def denseHomes (p : PathLanes) (j : Nat) : List Nat := (List.range 32).map fun l => (pathHome p j l).getD 0

/-- What a dense warp starts with (R94, R242). -/
theorem denseWarp_starts (hw : denseWarp uid slot entry p j = some w) :
    w.uid = uid ∧ w.kind = .dense ∧ w.f = List.replicate 12 0 ∧ (w.splits.headD Split.free).pc = entry ∧
      (w.splits.headD Split.free).lanes = maskOf fun l => (denseHomes p j).getD l 0 != 0 := by
  unfold denseWarp at hw
  dsimp only at hw
  split at hw
  · cases hw
  · cases hw
    exact ⟨rfl, rfl, rfl, rfl, rfl⟩

/-- A dense warp executes the lanes that have a home. -/
theorem dense_lanes (hne : ∀ h ∈ p, h.1.uid ≠ 0) (hl : l < 32) :
    hasLane (maskOf fun l => (denseHomes p j).getD l 0 != 0) l = (pathHome p j l).isSome := by
  rw [hasLane_maskOf hl, denseHomes, getD_map_range hl]
  cases hu : pathHome p j l with
  | none => rfl
  | some u =>
    obtain ⟨h, hh, rfl, -⟩ := home_of_place hu
    exact bne_iff_ne.2 (hne h hh)

end Places

/-- Settles O13: a thread's place is its home's position among the homes of its lane. -/
theorem compactionPlacesThreads : Obligations.CompactionPlacesThreads := by
  unfold Obligations.CompactionPlacesThreads
  refine fun p hp hne => ⟨fun h hh l hl hon => place_of_thread hp hh hl hon, fun j l u _ hu => home_of_place hu,
    fun uid slot entry j w hw => ?_⟩
  obtain ⟨huid, hkind, hflags, hpc, hlanes⟩ := denseWarp_starts hw
  exact ⟨huid, hkind, hflags, hpc, fun l hl => hlanes ▸ dense_lanes hne hl⟩

end Sys2Proof.Proofs
end

section
/-! SUPPORT. The integer instructions of R101 to R106: each result as the operation that the rule names. -/

namespace Sys2Proof.Proofs

open Sys2Proof.Machine Sys2Proof.Laws

/-! ### Shapes -/

section Shapes

variable {opc : Nat}

theorem bitwise_of {i : V3 → Instr} {f : Nat → Nat → Nat} (he : ∀ o s, exec (i o) s = issueBits opc o s f := by exact fun _ _ => rfl) :
    Bitwise i opc f :=
  fun o => lanes_of (he o) (fun _ _ => rfl) fun _ _ => rfl

theorem immediate_of {i : VI → Instr} {f : Ctx → BitVec 10 → Nat → Res} (he : ∀ o s, exec (i o) s =
      issue opc s (fun c => viUses o (pairs c.ty.pair) (pairs c.ty.pair)) (tyCheck opc Ty.isInt) fun c =>
        c.vresult o.d.toNat c.ty.pair fun l => perElem c.ty.width c.ty.count fun e =>
          f c o.imm (c.elem (c.viVal o) l e) := by exact fun _ _ => rfl) :
    Immediate i opc f :=
  fun o => lanes_of (he o) (fun _ => ty_ok) fun _ _ => rfl

theorem bitwiseImmediate_of {i : VI → Instr} {f : Nat → Nat → Nat}
    (he : ∀ o s, exec (i o) s = issueBitsImm opc o s f := by exact fun _ _ => rfl) : BitwiseImmediate i opc f :=
  fun o => lanes_of (he o) (fun _ _ => rfl) fun _ _ => rfl

theorem wrapTo_32 (x : Int) : wrapTo 32 x = (x % 2 ^ 32).toNat := by rw [wrapTo]; rfl

/-- A scalar result is written modulo 2^32, whatever the guard (R106). -/
theorem scalar_of {i : Instr} {uses : List Use} {d : Nat} {f : Ctx → Int} (he : ∀ s, exec i s = issue opc s (fun _ => uses) noCheck fun c =>
      .done c.st (swrite d (wrapTo 32 (f c))) 0 := by exact fun _ => rfl) :
    Scalar i opc (fun _ => uses) always d fun c => (f c % 2 ^ 32).toNat :=
  retires_of he (fun _ _ => rfl) fun c _ => by rw [wrapTo_32]

theorem scalarBinary_of {i : S3 → Instr} {f : Nat → Nat → Int} (he : ∀ o s, exec (i o) s = issueS3 opc o s f := by exact fun _ _ => rfl) :
    ScalarBinary i opc f :=
  fun o => scalar_of (f := fun c => f (c.s o.a.toNat).toNat (c.s o.b.toNat).toNat) (he o)

end Shapes

/-! ### Arithmetic, shifts, bitwise operations and SEL (R101, R102) -/

/-- SEL writes every lane of its split (R101). -/
theorem sel_retires (o : V3) : Retires (.sel o) 0x1E
    (fun c => (v3Uses o (pairs c.ty.intPair) (pairs c.ty.intPair) (pairs c.ty.intPair)).map fun u => { u with all := true }) always
    (fun c => c.st)
    (fun c => vwrite o.d.toNat c.ty.intPair c.sp.lanes fun l => if c.guard l then c.aval o c.ty.intPair l else c.bval o c.ty.intPair l)
    fun _ => 0 :=
  retires_of (fun _ => rfl) (fun _ _ => rfl) fun _ _ => rfl

/-- Settles O1, each instruction by the lemma about its shape. -/
theorem integerArithmetic : Obligations.IntegerArithmetic := by
  unfold Obligations.IntegerArithmetic
  exact ⟨⟨binary_of, binary_of, binary_of, binary_of, fused_of, binary_of, binary_of, binary_of, binary_of, binary_of⟩,
    bitwise_of, bitwise_of, bitwise_of, bitwise_of, sel_retires⟩

/-- Settles O2, each instruction by the lemma about its shape. -/
theorem integerUnary : Obligations.IntegerUnary := by
  unfold Obligations.IntegerUnary
  exact ⟨unary_of, unary_of, unary_of, unary_of⟩

/-! ### Comparisons (R103) -/

/-- A comparison of the integers that element 0 of each source stands for. -/
theorem compares_int {i : V3 → Instr} {opc : Nat} {r : Int → Int → Prop} [∀ a b, Decidable (r a b)] (k : Cmp)
    (hk : ∀ a b, k.holds a b = decide (r a b)) (he : ∀ o s, exec (i o) s = issueCmp opc o s k := by exact fun _ _ => rfl) :
    Compares Ty.isInt i opc fun c a b => (decide (r (c.reads a) (c.reads b)), 0) := by
  refine fun o => preds_of (he o) (fun _ => ty_ok) fun c _ => ?_
  simp only [hk, bitsAt_low]
  rfl

theorem bne_eq_decide (a b : Int) : (a != b) = decide (a ≠ b) := by
  rw [decide_not]
  rfl

/-- A comparison whose word has d[23:22] zero names one of the eight predicates (R103). -/
theorem compare_pred {o : V3} {i : Instr} (hi : i ∈ [Instr.isetpEq o, .isetpNe o, .isetpLt o, .isetpLe o, .isetpGt o, .isetpGe o])
    (hw : i.wellFormed = true) : o.d.toNat < 8 := by
  have hrule : i.wellFormed = (decide (o.d.toNat < 8) && o.bsRule) := by
    simp only [List.mem_cons, List.not_mem_nil, or_false] at hi
    rcases hi with rfl | rfl | rfl | rfl | rfl | rfl <;> rfl
  rw [hrule, Bool.and_eq_true, decide_eq_true_eq] at hw
  exact hw.1

/-- Settles O3, each comparison by the lemma about its shape. -/
theorem integerComparisons : Obligations.IntegerComparisons := by
  unfold Obligations.IntegerComparisons
  exact ⟨compares_int .eq fun _ _ => rfl, compares_int .ne bne_eq_decide, compares_int .lt fun _ _ => rfl, compares_int .le fun _ _ => rfl,
    compares_int (r := fun a b => b < a) .gt fun _ _ => rfl, compares_int (r := fun a b => b ≤ a) .ge fun _ _ => rfl,
    fun _ _ => compare_pred⟩

/-! ### Immediate and scalar forms (R104 to R106) -/

theorem movi_retires (o : SL) : Lanes (.movi o) 0x30 (fun _ => [vdst o.d 1]) always o.d.toNat (fun _ => false)
    fun _ _ => ((o.imm.toInt % 2 ^ 32).toNat, 0) :=
  lanes_of (fun _ => rfl) (fun _ _ => rfl) fun c _ => by rw [wrapTo_32]

/-- MOVHI keeps the lower 19 bits of d (R105). -/
theorem movhi_retires (o : SL) : Lanes (.movhi o) 0x31 (fun _ => [vacc o.d 1]) always o.d.toNat (fun _ => false) fun c l =>
    (o.imm.toNat % 2 ^ 13 * 2 ^ 19 + (c.lane o.d.toNat l).toNat % 2 ^ 19, 0) :=
  lanes_of (fun _ => rfl) (fun _ _ => rfl) fun c _ => by rw [bitsAt_low]

/-- Settles O4, each instruction by the lemma about its shape. -/
theorem immediateAndScalarForms : Obligations.ImmediateAndScalarForms := by
  unfold Obligations.ImmediateAndScalarForms
  exact ⟨⟨immediate_of, bitwiseImmediate_of, bitwiseImmediate_of, bitwiseImmediate_of, immediate_of, immediate_of, immediate_of, movi_retires,
      movhi_retires⟩,
    scalarBinary_of, scalarBinary_of, scalarBinary_of, scalarBinary_of, scalarBinary_of, scalarBinary_of, scalarBinary_of, scalarBinary_of,
    fun _ => scalar_of, fun _ => scalar_of⟩

end Sys2Proof.Proofs
end

section
/-! SUPPORT. Modes, shape, carry masks and the system registers (R98, R99, R124 to R126). -/

namespace Sys2Proof.Proofs

open Sys2Proof.Machine Sys2Proof.Laws

/-! ### Mode, shape and carry (R124 to R126) -/

/-- MODE names its register by the two upper bits, and its value by the others (R124). -/
theorem mode_retires (i : BitVec 24) : Retires (.mode i) 0x7B (fun _ => []) (fun _ => modeLegal (i.toNat % 2 ^ 22) = true)
    (fun c => c.st.modWarp c.w.uid fun w =>
      { w with m := w.m.set (i.toNat / 2 ^ 22) (i.setWidth 22), guest := w.guest.map fun g => { g with modew := true } })
    (fun _ => []) fun _ => 0 := by
  have hreg : bitsAt i.toNat 23 22 = i.toNat / 2 ^ 22 := Nat.mod_eq_of_lt (by omega)
  refine retires_of (fun _ => rfl) (fun _ h => if_pos ((bitsAt_low i.toNat 21).symm ▸ h)) fun c _ => ?_
  rw [hreg]
  rfl

theorem mshape_retires (i : BitVec 24) : Retires (.mshape i) 0x7C (fun _ => [])
    (fun c => c.guest = false ∧ c.native = false ∧ shapeLegal i.toNat = true)
    (fun c => c.st.modWarp c.w.uid fun w => { w with ms := i }) (fun _ => []) fun _ => 0 := by
  refine retires_of (fun _ => rfl) (fun c ⟨hg, hn, hl⟩ => ?_) fun _ ⟨hg, _⟩ => if_neg (ne_true_of_eq_false hg)
  simp only [hg, hn, hl, Bool.false_eq_true, if_false, if_true]

theorem carry_retires (o : X) : Retires (.carry o) 0x7D (fun _ => [ssrc o.x 1, ssrc o.y 1]) (fun c => c.native = false)
    (fun c =>
      let set (w : Warp) : Warp := { w with carryV := c.s o.x.toNat, carryS := c.s o.y.toNat &&& 0xFFFFFFFE }
      (c.st.owners c.w (State.homeMask c.w)).foldl (fun s h => s.modWarp h.uid set) (c.st.modWarp c.w.uid set))
    (fun _ => []) fun _ => 0 :=
  retires_of (fun _ => rfl) (fun _ h => if_neg (ne_true_of_eq_false h)) fun _ _ => rfl

/-! ### System registers (R98, R99) -/

section SystemRegisters

variable {o : X}

theorem sysKnown_of_le {i : Nat} (h : i ≤ 0x10) : sysKnown i = true := decide_eq_true h

theorem sysrd_lane (h : o.imm = 0) : Lanes (.sysrd o) 0x0C (fun _ => [vdst o.x 1]) always o.x.toNat (fun _ => false) fun _ l => (l, 0) := by
  obtain ⟨x, y, z, imm⟩ := o
  obtain rfl : imm = 0 := h
  exact lanes_of (fun _ => rfl) (fun _ _ => rfl) fun _ _ => rfl

theorem sysrd_homewarp (h : o.imm = 2) :
    Lanes (.sysrd o) 0x0C (fun _ => [vdst o.x 1]) always o.x.toNat (fun _ => false) fun c l => (c.homeIndex l, 0) := by
  obtain ⟨x, y, z, imm⟩ := o
  obtain rfl : imm = 2 := h
  exact lanes_of (fun _ => rfl) (fun _ _ => rfl) fun _ _ => rfl

theorem sysrd_trappc (h : o.imm = 0xC) : Retires (.sysrd o) 0x0C (fun _ => [sdst o.x 2]) always (fun c => c.st)
    (fun c => swrite2 o.x.toNat (c.sysreg 0xC)) fun _ => 0 := by
  obtain ⟨x, y, z, imm⟩ := o
  obtain rfl : imm = 0xC := h
  exact retires_of (fun _ => rfl) (fun _ _ => rfl) fun _ _ => rfl

/-- TIMEBASE is sampled once (R98). -/
theorem sysrd_timebase (h : o.imm = 0x10) : Retires (.sysrd o) 0x0C (fun _ => [sdst o.x 2]) always
    (fun c => { c.st with free := c.st.free + 1, timebase := c.st.timebase + Config.elapsed c.st.free })
    (fun c => swrite2 o.x.toNat (c.st.timebase + Config.elapsed c.st.free).toNat) fun _ => 0 := by
  obtain ⟨x, y, z, imm⟩ := o
  obtain rfl : imm = 0x10 := h
  exact retires_of (fun _ => rfl) (fun _ _ => rfl) fun _ _ => rfl

theorem toNat_ne {n k : Nat} {x : BitVec n} (h : x ≠ BitVec.ofNat n k) : x.toNat ≠ k := by
  rintro rfl
  exact h (BitVec.ofNat_toNat .. |>.trans (BitVec.setWidth_eq x)).symm

/-- A warp-uniform register of 32 bits. -/
theorem sysrd_scalar (hle : o.imm.toNat ≤ 0xF) (h0 : o.imm ≠ 0) (h2 : o.imm ≠ 2) (hC : o.imm ≠ 0xC) :
    Scalar (.sysrd o) 0x0C (fun _ => [sdst o.x 1]) always o.x.toNat fun c => c.sysreg o.imm.toNat := by
  have h0 : o.imm.toNat ≠ 0 := toNat_ne h0
  have h2 : o.imm.toNat ≠ 2 := toNat_ne h2
  have hC : o.imm.toNat ≠ 0xC := toNat_ne hC
  have h10 : o.imm.toNat ≠ 0x10 := by omega
  have hknown : sysKnown o.imm.toNat = true := sysKnown_of_le (by omega)
  have huses : (if sysKnown o.imm.toNat then [sysUse o.x o.imm.toNat] else []) = [sdst o.x 1] := by
    simp only [hknown, sysUse, h0, h2, hC, h10, or_self, if_false, if_true]
  have hretires : Retires (.sysrd o) 0x0C (fun _ => if sysKnown o.imm.toNat then [sysUse o.x o.imm.toNat] else []) always (fun c => c.st)
      (fun c => swrite o.x.toNat (c.sysreg o.imm.toNat)) fun _ => 0 :=
    retires_of (fun _ => rfl) (fun _ _ => if_pos hknown) fun c _ => by simp only [h0, h2, hC, h10, if_false]
  rwa [huses] at hretires

theorem syswr_retires (h : o.imm.toNat ≤ 0x10) : Retires (.syswr o) 0x0D (fun _ => [ssrc o.y (if o.imm = 0xC then 2 else 1)]) always
    (fun c => c.st.modWarp c.w.uid fun w => w.sysWrite o.imm.toNat (c.s2 o.y.toNat)) (fun _ => []) fun _ => 0 := by
  have hknown : sysKnown o.imm.toNat = true := sysKnown_of_le h
  have huses : (if sysKnown o.imm.toNat then [ssrc o.y (if o.imm.toNat = 0xC then 2 else 1)] else []) =
      [ssrc o.y (if o.imm = 0xC then 2 else 1)] :=
    (if_pos hknown).trans (by simp only [← BitVec.toNat_inj]; rfl)
  rw [← huses]
  exact retires_of (fun _ => rfl) (fun _ _ => if_pos hknown) fun _ _ => rfl

end SystemRegisters

/-- Settles O9, each instruction by the lemma about it. -/
theorem modesAndSystemRegisters : Obligations.ModesAndSystemRegisters := by
  unfold Obligations.ModesAndSystemRegisters
  exact ⟨⟨mode_retires, mshape_retires, carry_retires, fun _ => sysrd_lane, fun _ => sysrd_homewarp, fun _ => sysrd_scalar,
    fun _ => sysrd_trappc, fun _ => syswr_retires⟩, fun _ => sysrd_timebase⟩

end Sys2Proof.Proofs
end

section
/-! SUPPORT. Control transfers (R89, R90, R93, R100, R240), one lemma for each case of each instruction. -/

namespace Sys2Proof.Proofs

open Sys2Proof.Machine Sys2Proof.Laws

section Turning

variable {i : Instr} {opc : Nat} {uses : Ctx → List Use} {ok : Ctx → Prop} {own : Ctx → Option (Nat × Word)} {body : Ctx → Act}

/-- A body that turns the executing split. -/
theorem turns_of {f : Ctx → Split → Split} (he : ∀ s, exec i s = issue opc s uses own body) (ho : ∀ c, ok c → own c = none)
    (hb : ∀ c, ok c → body c = c.turn c.st (f c)) : Turns i opc uses ok f :=
  jumps_of he ho hb

/-- A body that traps. -/
theorem traps_of {cause : Nat} {info : Ctx → Word} (he : ∀ s, exec i s = issue opc s uses own body) (ho : ∀ c, ok c → own c = none)
    (hb : ∀ c, ok c → body c = .trap cause (info c)) : Completes i opc uses ok fun c => c.trap cause (info c) :=
  completes_of he ho fun c h => by rw [hb c h]; rfl

/-- An instruction whose own description objects traps (R58). -/
theorem exec_own {s : State} {c : Ctx} {cause : Nat} {info : Word} (he : exec i s = issue opc s uses own body) (hc : s.ctx? = some c)
    (ha : Admitted c opc (uses c)) (ho : own c = some (cause, info)) (hne : cause ≠ 0x17) : exec i s = .next (c.trap cause info) := by
  have hmay := mayExecute_of_admitted ha
  obtain ⟨-, -, -, -, -, hbad, hhazard, -⟩ := ha
  have hown := checks_own hmay (List.findSome?_eq_none_iff.2 hbad) (List.findSome?_eq_none_iff.2 hhazard) (t := (cause, info))
  exact he.trans (issue_trap hc (ho ▸ hown) hne)

end Turning

/-! ### NOP and BRA (R89, R100) -/

theorem nop_retires : Retires .nop 0x00 (fun _ => []) always (fun c => c.st) (fun _ => []) fun _ => 0 :=
  retires_of (fun _ => rfl) (fun _ _ => rfl) fun _ _ => rfl

section Branches

variable (o : B)

theorem bra_taken : Turns (.bra o) 0x01 (fun _ => []) (fun c => c.sp.lanes &&& ~~~c.act = 0) fun c sp =>
    sp.goto (c.sp.pc + 32 * o.imm.signExtend 64) :=
  turns_of (fun _ => rfl) (fun _ _ => rfl) fun _ h => if_pos h

theorem bra_untaken : Turns (.bra o) 0x01 (fun _ => []) (fun c => c.act = 0 ∧ c.sp.lanes ≠ 0) fun c sp => sp.goto (c.sp.pc + 32) := by
  refine turns_of (fun _ => rfl) (fun _ _ => rfl) fun c ⟨hact, hlanes⟩ => (if_neg ?_).trans (if_pos hact)
  rwa [hact, show ~~~(0 : Mask) = BitVec.allOnes 32 from rfl, BitVec.and_allOnes]

/-- Where both sides have lanes, BRA makes a split, or where it cannot a pending entry (R89). -/
def braDivides (o : B) (c : Ctx) : Act :=
  match if c.native then none else c.w.freeSplit with
  | none =>
    if 4 ≤ c.sp.stack.length then .trap 5 c.act
    else c.turn c.st fun sp =>
      { (sp.goto (c.target o)) with
        lanes := c.act, stack := { parked := false, pc := c.sp.nextClause, mask := c.sp.lanes &&& ~~~c.act } :: sp.stack }
  | some x =>
    .jump ((c.turned fun sp => { (sp.goto c.sp.nextClause) with lanes := c.sp.lanes &&& ~~~c.act }).modWarp c.w.uid fun w =>
      w.addSplit x { Split.free with pc := c.target o, lanes := c.act, missed := c.sp.missed })

/-- What BRA does in one of its cases where the warp diverges follows from what it does there. -/
theorem bra_divides {ok : Ctx → Prop} {out : Ctx → State} (hok : ∀ c, ok c → c.act ≠ 0 ∧ c.sp.lanes &&& ~~~c.act ≠ 0)
    (h : ∀ c, ok c → c.finish 0x01 [] (braDivides o c) = out c) : Completes (.bra o) 0x01 (fun _ => []) ok out := by
  refine completes_of (fun _ => rfl) (fun _ _ => rfl) fun c hc => ?_
  obtain ⟨hact, hrest⟩ := hok c hc
  refine Eq.trans (congrArg (c.finish 0x01 []) ?_) (h c hc)
  exact (if_neg hrest).trans (if_neg hact)

theorem splitIndex_none {c : Ctx} (h : c.native = true ∨ c.w.freeSplit = none) : (if c.native then none else c.w.freeSplit) = none := by
  rcases h with h | h <;> simp [h]

theorem bra_splits (x : Nat) : Jumps (.bra o) 0x01 (fun _ => [])
    (fun c => c.act ≠ 0 ∧ c.sp.lanes &&& ~~~c.act ≠ 0 ∧ c.native = false ∧ c.w.freeSplit = some x)
    fun c => (c.turned fun sp => { (sp.goto (c.sp.pc + 32)) with lanes := c.sp.lanes &&& ~~~c.act }).modWarp c.w.uid fun w =>
      w.addSplit x { Split.free with pc := c.sp.pc + 32 * o.imm.signExtend 64, lanes := c.act, missed := c.sp.missed } := by
  refine bra_divides o (fun c ⟨ht, hf, _⟩ => ⟨ht, hf⟩) fun c ⟨_, _, hn, hx⟩ => ?_
  simp only [braDivides, hn, hx, Bool.false_eq_true, if_false]
  rfl

theorem bra_stacks : Turns (.bra o) 0x01 (fun _ => [])
    (fun c => c.act ≠ 0 ∧ c.sp.lanes &&& ~~~c.act ≠ 0 ∧ (c.native = true ∨ c.w.freeSplit = none) ∧ c.sp.stack.length < 4)
    fun c sp => { (sp.goto (c.sp.pc + 32 * o.imm.signExtend 64)) with
      lanes := c.act, stack := { parked := false, pc := c.sp.pc + 32, mask := c.sp.lanes &&& ~~~c.act } :: sp.stack } := by
  refine bra_divides o (fun c ⟨ht, hf, _⟩ => ⟨ht, hf⟩) fun c ⟨_, _, hnone, hroom⟩ => ?_
  simp only [braDivides, splitIndex_none hnone, if_neg (Nat.not_le.2 hroom)]
  rfl

theorem bra_overflows : Completes (.bra o) 0x01 (fun _ => [])
    (fun c => c.act ≠ 0 ∧ c.sp.lanes &&& ~~~c.act ≠ 0 ∧ (c.native = true ∨ c.w.freeSplit = none) ∧ 4 ≤ c.sp.stack.length)
    fun c => c.trap 5 c.act := by
  refine bra_divides o (fun c ⟨ht, hf, _⟩ => ⟨ht, hf⟩) fun c ⟨_, _, hnone, hfull⟩ => ?_
  simp only [braDivides, splitIndex_none hnone, if_pos hfull]
  rfl

end Branches

/-! ### JOIN (R90, R240) -/

section Joins

variable {c : Ctx} {sp : Split}

/-- What JOIN does with the top entry of its split's stack (R90, steps 1 and 2). -/
def joinStep (c : Ctx) : Act :=
  match c.sp.stack with
  | [] => c.awaitJoin c.sp
  | e :: es =>
    if !e.parked then
      c.turn c.st fun sp => { (sp.goto e.pc) with lanes := e.mask, stack := { parked := true, pc := c.sp.pc, mask := sp.lanes } :: es }
    else if e.pc = c.sp.pc then c.awaitJoin { c.sp with lanes := c.sp.lanes ||| e.mask, stack := es }
    else c.awaitJoin c.sp

theorem exec_join (s : State) : exec .join s = issue 0x06 s (fun _ => []) noCheck joinStep := rfl

theorem joinStep_merges {m : Mask} {es : List MaskEntry} (h : c.sp.stack = { parked := true, pc := c.sp.pc, mask := m } :: es) :
    joinStep c = c.awaitJoin { c.sp with lanes := c.sp.lanes ||| m, stack := es } := by
  rw [joinStep, h]
  exact if_pos rfl

theorem joinStep_passes
    (h : c.sp.stack = [] ∨ ∃ p m es, c.sp.stack = { parked := true, pc := p, mask := m } :: es ∧ p ≠ c.sp.pc) :
    joinStep c = c.awaitJoin c.sp := by
  rcases h with h | ⟨p, m, es, h, hp⟩
  · rw [joinStep, h]
  · rw [joinStep, h]
    exact if_neg hp

theorem awaitJoin_waits (h : sp.missed.contains c.sp.pc = false) :
    c.awaitJoin sp = c.turn c.st fun _ => { sp with status := .join, waited := 0 } :=
  if_pos (by rw [h]; rfl)

theorem awaitJoin_goes (h : sp.missed.contains c.sp.pc = true) (hs : sp.stack ≠ [] ∨ sp.overflow = 0) :
    c.awaitJoin sp = c.turn c.st fun _ => ({ sp with missed := sp.missed.erase c.sp.pc } : Split).goto (c.sp.pc + 32) := by
  refine (if_neg (by rw [h]; exact Bool.false_ne_true)).trans (if_neg ?_)
  simpa [or_iff_not_imp_left] using hs

theorem awaitJoin_traps (h : sp.missed.contains c.sp.pc = true) (hs : sp.stack = []) (ho : sp.overflow ≠ 0) :
    c.awaitJoin sp = .jump ((c.turned fun _ => { sp with missed := sp.missed.erase c.sp.pc }).takeTrap c.w.uid c.k 6 sp.overflow
      (c.sp.pc + 32) 1) :=
  (if_neg (by rw [h]; exact Bool.false_ne_true)).trans (if_pos (by rw [hs, bne_iff_ne.2 ho]; rfl))

/-- A split that has passed steps 1 and 2 of R90 waits; where the JOIN's limit has run out without it, it goes on, or traps (R240). -/
def Awaits (ok : Ctx → Prop) (x : Ctx → Split) : Prop :=
  Turns .join 0x06 (fun _ => []) (fun c => ok c ∧ c.sp.missed.contains c.sp.pc = false)
    (fun c _ => { x c with status := .join, waited := 0 }) ∧
  Turns .join 0x06 (fun _ => []) (fun c => ok c ∧ c.sp.missed.contains c.sp.pc = true ∧ ((x c).stack ≠ [] ∨ c.sp.overflow = 0))
    (fun c _ => ({ x c with missed := c.sp.missed.erase c.sp.pc } : Split).goto (c.sp.pc + 32)) ∧
  Jumps .join 0x06 (fun _ => []) (fun c => ok c ∧ c.sp.missed.contains c.sp.pc = true ∧ (x c).stack = [] ∧ c.sp.overflow ≠ 0) fun c =>
    (c.turned fun _ => { x c with missed := c.sp.missed.erase c.sp.pc }).takeTrap c.w.uid c.k 6 c.sp.overflow (c.sp.pc + 32) 1

theorem awaits_of {ok : Ctx → Prop} {x : Ctx → Split} (hx : ∀ c, (x c).missed = c.sp.missed ∧ (x c).overflow = c.sp.overflow)
    (h : ∀ c, ok c → joinStep c = c.awaitJoin (x c)) : Awaits ok x := by
  refine ⟨turns_of exec_join (fun _ _ => rfl) fun c ⟨hok, hmissed⟩ => ?waits,
    turns_of exec_join (fun _ _ => rfl) fun c ⟨hok, hmissed, hs⟩ => ?goes,
    jumps_of exec_join (fun _ _ => rfl) fun c ⟨hok, hmissed, hs, ho⟩ => ?traps⟩
  all_goals
    obtain ⟨hm, hov⟩ := hx c
    rw [← hm] at hmissed
  case waits => exact (h c hok).trans (awaitJoin_waits hmissed)
  case goes =>
    rw [← hm]
    exact (h c hok).trans (awaitJoin_goes hmissed (hov ▸ hs))
  case traps =>
    rw [← hm, ← hov]
    exact (h c hok).trans (awaitJoin_traps hmissed hs (hov ▸ ho))

theorem join_resumes (p : Dword) (m : Mask) (es : List MaskEntry) :
    Turns .join 0x06 (fun _ => []) (fun c => c.sp.stack = { parked := false, pc := p, mask := m } :: es) fun c sp =>
      { (sp.goto p) with lanes := m, stack := { parked := true, pc := c.sp.pc, mask := sp.lanes } :: es } := by
  refine turns_of exec_join (fun _ _ => rfl) fun c h => ?_
  rw [joinStep, h]
  rfl

end Joins

/-- Settles O10, each clause by the lemma about its case. -/
theorem branchesAndJoins : Obligations.BranchesAndJoins := by
  unfold Obligations.BranchesAndJoins
  exact ⟨nop_retires, bra_taken, bra_untaken, bra_splits, bra_stacks, bra_overflows, join_resumes,
    awaits_of (fun _ => ⟨rfl, rfl⟩) fun _ => joinStep_passes,
    fun m es => awaits_of (fun _ => ⟨rfl, rfl⟩) fun _ => joinStep_merges⟩

/-! ### Uniform transfers (R93) -/

section Uniform

variable {c : Ctx}

theorem transferTo_passes (r : BitVec 5) (h : c.lead = false) : c.transferTo r = c.turn c.st (·.goto (c.sp.pc + 32)) :=
  if_pos (by rw [h]; rfl)

theorem transferTo_goes (r : BitVec 5) (h : c.lead = true) (hlow : bitsAt (c.s2 r.toNat) 4 0 = 0) (hhigh : bitsAt (c.s2 r.toNat) 63 57 = 0) :
    c.transferTo r = c.turn c.st (·.goto (dword (bitsAt (c.s2 r.toNat) 56 0))) :=
  (if_neg (by simp [h])).trans (if_neg (by simp [hlow, hhigh]))

theorem transferTo_traps (r : BitVec 5) (h : c.lead = true) (hbad : bitsAt (c.s2 r.toNat) 4 0 ≠ 0 ∨ bitsAt (c.s2 r.toNat) 63 57 ≠ 0) :
    c.transferTo r = .trap 2 (Machine.word (8 + c.sp.slot * 16)) :=
  (if_neg (by simp [h])).trans (if_pos (by simpa using hbad))

/-- BRX and RET: a transfer to the address in a scalar pair, which is checked only where it is taken. -/
def PairTransfer (i : BX → Instr) (opc : Nat) : Prop :=
  (∀ o, Turns (i o) opc (fun c => c.transferUse o.s)
    (fun c => c.lead = true ∧ bitsAt (c.s2 o.s.toNat) 4 0 = 0 ∧ bitsAt (c.s2 o.s.toNat) 63 57 = 0)
    fun c sp => sp.goto (dword (bitsAt (c.s2 o.s.toNat) 56 0))) ∧
  (∀ o, Turns (i o) opc (fun c => c.transferUse o.s) (fun c => c.lead = false) fun c sp => sp.goto (c.sp.pc + 32)) ∧
  ∀ o, Completes (i o) opc (fun c => c.transferUse o.s)
    (fun c => c.lead = true ∧ (bitsAt (c.s2 o.s.toNat) 4 0 ≠ 0 ∨ bitsAt (c.s2 o.s.toNat) 63 57 ≠ 0))
    fun c => c.trap 2 (Machine.word (8 + c.sp.slot * 16))

theorem pairTransfer_of {i : BX → Instr} {opc : Nat}
    (he : ∀ o s, exec (i o) s = issue opc s (fun c => c.transferUse o.s) noCheck fun c => c.transferTo o.s := by exact fun _ _ => rfl) :
    PairTransfer i opc :=
  ⟨fun o => turns_of (he o) (fun _ _ => rfl) fun _ ⟨h, hlow, hhigh⟩ => transferTo_goes o.s h hlow hhigh,
    fun o => turns_of (he o) (fun _ _ => rfl) fun _ h => transferTo_passes o.s h,
    fun o => traps_of (he o) (fun _ _ => rfl) fun _ ⟨h, hbad⟩ => transferTo_traps o.s h hbad⟩

variable (o : B)

theorem brau_turns : Turns (.brau o) 0x02 (fun _ => []) always fun c sp =>
    sp.goto (if c.lead = true then c.sp.pc + 32 * o.imm.signExtend 64 else c.sp.pc + 32) :=
  turns_of (fun _ => rfl) (fun _ _ => rfl) fun _ _ => rfl

/-- A CALL that is taken leaves the next clause's address in s30 and s31. -/
theorem call_taken : Jumps (.call o) 0x04 (fun c => if c.lead = true then [sdst 30 2] else []) (fun c => c.lead = true) fun c =>
    ({ c with st := c.st.applyWrites c.w (swrite2 30 (bitsAt (c.sp.pc + 32).toNat 56 0)) } : Ctx).turned fun sp =>
      sp.goto (c.sp.pc + 32 * o.imm.signExtend 64) :=
  jumps_of (fun _ => rfl) (fun _ _ => rfl) fun _ h => if_pos h

theorem call_untaken : Turns (.call o) 0x04 (fun c => if c.lead = true then [sdst 30 2] else []) (fun c => c.lead = false)
    fun c sp => sp.goto (c.sp.pc + 32) :=
  turns_of (fun _ => rfl) (fun _ _ => rfl) fun _ h => if_neg (ne_true_of_eq_false h)

end Uniform

/-- Settles O11, each instruction by the lemma about it. -/
theorem uniformTransfers : Obligations.UniformTransfers := by
  unfold Obligations.UniformTransfers
  exact ⟨brau_turns, pairTransfer_of (i := .brx), pairTransfer_of (i := .ret), call_taken, call_untaken⟩

end Sys2Proof.Proofs
end

section
/-! SUPPORT. Compaction's instructions and the ends of lanes (R91, R94, R95), one lemma for each case of each instruction. -/

namespace Sys2Proof.Proofs

open Sys2Proof.Machine Sys2Proof.Laws

/-! ### BBLK and BJOIN (R94, R95) -/

section Blocks

/-- The launch of an agent asks for compaction (R231). -/
def Compacts (c : Ctx) : Prop := (c.launch?.map (·.compact)).getD false = true

/-- What BBLK's description asks of its warp (R94). -/
def bblkCheck (c : Ctx) : Option (Nat × Word) :=
  if !((c.launch?.map (·.compact)).getD false) then some (1, 22)
  else if c.dense || c.w.liveCount != 1 || !c.sp.stackEmpty then some (1, 1) else none

theorem exec_bblk (o : B) (s : State) : exec (.bblk o) s = issue 0x07 s (fun _ => []) bblkCheck fun c =>
    .jump ((c.turned fun sp => { sp with status := .bblk (c.target o) }).bblkStep c.w.block) := rfl

theorem bblkCheck_compacts {c : Ctx} (h : Compacts c) :
    bblkCheck c = if c.dense || c.w.liveCount != 1 || !c.sp.stackEmpty then some (1, 1) else none :=
  if_neg (by rw [show _ = true from h]; exact Bool.false_ne_true)

theorem bblk_waits (o : B) : Jumps (.bblk o) 0x07 (fun _ => [])
    (fun c => Compacts c ∧ c.dense = false ∧ c.w.liveCount = 1 ∧ c.sp.stackEmpty = true)
    fun c => (c.turned fun sp => { sp with status := .bblk (c.sp.pc + 32 * o.imm.signExtend 64) }).bblkStep c.w.block :=
  jumps_of (exec_bblk o) (fun c ⟨hcompact, hdense, hone, hempty⟩ => by rw [bblkCheck_compacts hcompact]; simp [hdense, hone, hempty])
    fun _ _ => rfl

theorem bblk_illegal (o : B) {s : State} {c : Ctx} (hc : s.ctx? = some c) (ha : Admitted c 0x07 []) (hcompact : Compacts c)
    (h : c.dense = true ∨ c.w.liveCount ≠ 1 ∨ c.sp.stackEmpty = false) : exec (.bblk o) s = .next (c.trap 1 1) := by
  refine exec_own (uses := fun _ => []) (exec_bblk o s) hc ha ?_ (by decide)
  rw [bblkCheck_compacts hcompact]
  exact if_pos (by simpa [or_assoc] using h)

theorem bjoin_waits : Jumps .bjoin 0x08 (fun _ => []) (fun c => c.dense = true)
    fun c => (c.turned fun sp => { sp with status := .bjoin }).bjoinStep c.w.block :=
  jumps_of (fun _ => rfl) (fun _ h => if_pos h) fun _ _ => rfl

theorem bjoin_illegal {s : State} {c : Ctx} (hc : s.ctx? = some c) (ha : Admitted c 0x08 []) (h : c.dense = false) :
    exec .bjoin s = .next (c.trap 1 3) :=
  exec_own (uses := fun _ => []) rfl hc ha (if_neg (ne_true_of_eq_false h)) (by decide)

end Blocks

/-! ### EXIT (R91) -/

section Exits

/-- What EXIT does where all lanes of its split end: a stacked path resumes, lanes are suspended, or the split ends (R91). -/
def exitWhole (c : Ctx) : Act :=
  match c.sp.stack with
  | e :: es =>
    c.turn (c.exitLanes c.act) fun sp => { (sp.goto e.pc) with lanes := e.mask, stack := es, slot := if e.parked then 8 else 1 }
  | [] =>
    if c.sp.overflow != 0 then .trap 6 c.sp.overflow
    else
      let s1 := (c.exitLanes c.act).modWarp c.w.uid fun w => (w.setSplit c.k Split.free).dropHandler
      .jump (if (s1.warp? c.w.uid).any fun w => w.allLanes == 0 then c.endWarp s1 else s1)

theorem exit_whole {ok : Ctx → Prop} {out : Ctx → State} (hok : ∀ c, ok c → c.guest = false ∧ c.sp.lanes &&& ~~~c.act = 0)
    (h : ∀ c, ok c → c.finish 0x09 [] (exitWhole c) = out c) : Completes .exit 0x09 (fun _ => []) ok out := by
  refine completes_of (fun _ => rfl) (fun _ _ => rfl) fun c hc => Eq.trans (congrArg (c.finish 0x09 []) ?_) (h c hc)
  obtain ⟨hg, hrest⟩ := hok c hc
  exact (if_neg (ne_true_of_eq_false hg)).trans (if_neg fun h => bne_iff_ne.1 h hrest)

theorem exit_away_idle : Turns .exit 0x09 (fun _ => []) (fun c => c.guest = true ∧ c.act = 0) fun c sp => sp.goto (c.sp.pc + 32) :=
  turns_of (fun _ => rfl) (fun _ _ => rfl) fun _ ⟨hg, hact⟩ => (if_pos hg).trans (if_pos hact)

theorem exit_away : Jumps .exit 0x09 (fun _ => []) (fun c => c.guest = true ∧ c.act ≠ 0)
    fun c => c.st.sendHome c.w c.sp.pc c.sp.slot none true :=
  jumps_of (fun _ => rfl) (fun _ _ => rfl) fun _ ⟨hg, hact⟩ => (if_pos hg).trans (if_neg hact)

theorem exit_some : Jumps .exit 0x09 (fun _ => []) (fun c => c.guest = false ∧ c.sp.lanes &&& ~~~c.act ≠ 0) fun c =>
    ({ c with st := c.exitLanes c.act } : Ctx).turned fun sp => { (sp.goto (c.sp.pc + 32)) with lanes := c.sp.lanes &&& ~~~c.act } :=
  jumps_of (fun _ => rfl) (fun _ _ => rfl) fun _ ⟨hg, hrest⟩ =>
    (if_neg (ne_true_of_eq_false hg)).trans (if_pos (bne_iff_ne.2 hrest))

theorem exit_resumes (e : MaskEntry) (es : List MaskEntry) : Jumps .exit 0x09 (fun _ => [])
    (fun c => c.guest = false ∧ c.sp.lanes &&& ~~~c.act = 0 ∧ c.sp.stack = e :: es) fun c =>
      ({ c with st := c.exitLanes c.act } : Ctx).turned fun sp =>
        { (sp.goto e.pc) with lanes := e.mask, stack := es, slot := if e.parked = true then 8 else 1 } := by
  refine exit_whole (fun _ ⟨hg, hrest, _⟩ => ⟨hg, hrest⟩) fun c ⟨_, _, hstack⟩ => ?_
  rw [exitWhole, hstack]
  rfl

theorem exit_suspended : Completes .exit 0x09 (fun _ => [])
    (fun c => c.guest = false ∧ c.sp.lanes &&& ~~~c.act = 0 ∧ c.sp.stack = [] ∧ c.sp.overflow ≠ 0) fun c => c.trap 6 c.sp.overflow := by
  refine exit_whole (fun _ ⟨hg, hrest, _⟩ => ⟨hg, hrest⟩) fun c ⟨_, _, hstack, ho⟩ => ?_
  rw [exitWhole, hstack]
  exact congrArg (c.finish 0x09 []) (if_pos (bne_iff_ne.2 ho))

/-- The split ends, and with its last lane the warp. -/
theorem exit_ends : Jumps .exit 0x09 (fun _ => [])
    (fun c => c.guest = false ∧ c.sp.lanes &&& ~~~c.act = 0 ∧ c.sp.stack = [] ∧ c.sp.overflow = 0) fun c =>
      let s1 := (c.exitLanes c.act).modWarp c.w.uid fun w => (w.setSplit c.k Split.free).dropHandler
      if (s1.warp? c.w.uid).any (fun w => w.allLanes == 0) = true then c.endWarp s1 else s1 := by
  refine exit_whole (fun _ ⟨hg, hrest, _⟩ => ⟨hg, hrest⟩) fun c ⟨_, _, hstack, ho⟩ => ?_
  rw [exitWhole, hstack]
  exact congrArg (c.finish 0x09 []) (if_neg fun h => bne_iff_ne.1 h ho)

end Exits

/-- Settles O12, each clause by the lemma about its case. -/
theorem compactionAndExits : Obligations.CompactionAndExits := by
  unfold Obligations.CompactionAndExits
  exact ⟨⟨bblk_waits, bjoin_waits, fun o _ _ => bblk_illegal o, fun _ _ => bjoin_illegal⟩,
    exit_away_idle, exit_away, exit_some, exit_resumes, exit_suspended, exit_ends⟩

end Sys2Proof.Proofs
end

section
/-! SUPPORT. What performed writes do: little-endian numbers, one byte written, the last byte written to each place, reservations
ended, and that where nothing is watched nothing else follows (R3, R128, R129, R143, R144, R151, R252, R257). -/

namespace Sys2Proof.Proofs

open Sys2Proof.Machine Sys2Proof.Laws

/-! ### Little-endian numbers (R3, R128) -/

@[simp] theorem leBytes_length (n x : Nat) : (leBytes n x).length = n := by
  induction n generalizing x with
  | zero => rfl
  | succ n ih => simp [leBytes, ih]

theorem leBytes_getElem? {n k : Nat} (h : k < n) (x : Nat) : (leBytes n x)[k]? = some (BitVec.ofNat 8 (x / 2 ^ (8 * k))) := by
  induction n generalizing k x with
  | zero => omega
  | succ n ih =>
    cases k with
    | zero => simp [leBytes]
    | succ k =>
      have hpow : 256 * 2 ^ (8 * k) = 2 ^ (8 * (k + 1)) := by rw [Nat.mul_add, Nat.pow_add]; omega
      rw [leBytes, List.getElem?_cons_succ, ih (by omega), Nat.div_div_eq_div_mul, hpow]

theorem leNat_leBytes (n x : Nat) : leNat (leBytes n x) = x % 2 ^ (8 * n) := by
  induction n generalizing x with
  | zero => simp [leBytes, leNat, Nat.mod_one]
  | succ n ih =>
    have hpow : 2 ^ (8 * (n + 1)) = 256 * 2 ^ (8 * n) := by rw [Nat.mul_add, Nat.pow_add]; omega
    rw [leBytes, leNat, ih, hpow, Nat.mod_mul, BitVec.toNat_ofNat]

theorem leNat_lt (bs : List Byte) : leNat bs < 2 ^ (8 * bs.length) := by
  induction bs with
  | nil => simp [leNat]
  | cons b bs ih =>
    have hpow : 2 ^ (8 * (bs.length + 1)) = 256 * 2 ^ (8 * bs.length) := by rw [Nat.mul_add, Nat.pow_add]; omega
    have hb := b.isLt
    rw [leNat, List.length_cons, hpow]
    omega

/-! ### Entries found by their key -/

theorem find?_updateFirst {α : Type} {key : α → Nat} {f : α → α} (hf : ∀ x, key (f x) = key x) (l : List α) (u x : Nat) :
    (updateFirst (fun y => key y == u) f l).find? (fun y => key y == x) =
      if x = u then (l.find? fun y => key y == u).map f else l.find? fun y => key y == x := by
  induction l with
  | nil => simp [updateFirst]
  | cons y l ih =>
    unfold updateFirst
    by_cases hy : key y = u
    · by_cases hx : x = u
      · subst hx; simp [hy, hf]
      · have hux : ¬ u = x := fun h => hx h.symm
        simp [hy, hf, hx, hux]
    · by_cases hyx : key y = x
      · have hxu : ¬ x = u := fun h => hy (hyx.trans h)
        simp [hyx, hxu]
      · by_cases hx : x = u
        · subst hx; simpa [hy] using ih
        · simpa [hy, hyx, hx] using ih

theorem mem_updateFirst {α : Type} {p : α → Bool} {f : α → α} {l : List α} {x : α} (h : x ∈ updateFirst p f l) :
    x ∈ l ∨ ∃ y ∈ l, x = f y := by
  induction l with
  | nil => exact .inl h
  | cons y l ih =>
    unfold updateFirst at h
    split at h
    · rcases List.mem_cons.1 h with rfl | h
      · exact .inr ⟨y, List.mem_cons_self, rfl⟩
      · exact .inl (List.mem_cons_of_mem _ h)
    · rcases List.mem_cons.1 h with rfl | h
      · exact .inl List.mem_cons_self
      · rcases ih h with h | ⟨z, hz, rfl⟩
        · exact .inl (List.mem_cons_of_mem _ h)
        · exact .inr ⟨z, List.mem_cons_of_mem _ hz, rfl⟩

/-- A fold whose steps leave its state alone leaves it alone. -/
theorem foldl_same {α β : Type} {f : α → β → α} {a : α} {l : List β} (h : ∀ b ∈ l, f a b = a) : l.foldl f a = a :=
  List.foldlRecOn (motive := (· = a)) l f rfl fun x hx b hb => by rw [hx, h b hb]

theorem block?_modBlock (s : State) {f : Block → Block} (hf : ∀ b, (f b).uid = b.uid) (u x : Nat) :
    (s.modBlock u f).block? x = if x = u then (s.block? u).map f else s.block? x := find?_updateFirst (key := Block.uid) hf s.blocks u x

/-! ### One byte written (R332) -/

/-- The place of a byte lies in a memory in canonical form. A byte of a region's linear view has no place of its own. -/
def Placed (s : State) (l : Loc) : Prop :=
  match l with
  | .dev _ => s.mem.wf = true
  | .host _ => s.hostMem.wf = true
  | .stripe k _ => ∃ m, s.stripes.find? (·.frame == k) = some m ∧ m.data.wf = true
  | .scr b _ => ∃ x, s.block? b = some x ∧ x.scratch.wf = true
  | .lds u _ => ∃ w, s.warp? u = some w ∧ w.lds.wf = true
  | .view _ _ => False

/-- The place keeps what is written to it: it does not lie beyond a striped matrix (R332). -/
def Keeps (s : State) (l : Loc) : Prop :=
  ∀ k x m, l = .stripe k x → s.stripes.find? (·.frame == k) = some m → x < m.words * 512

theorem keeps_dev (s : State) (a : Nat) : Keeps s (.dev a) := fun _ _ _ h => by cases h

theorem not_view_of_placed {s : State} {l : Loc} (h : Placed s l) (r b : Nat) : l ≠ .view r b := by
  rintro rfl
  exact h

/-- A stripe with one byte written, where it is kept. -/
def striped (i : Nat) (v : Byte) (t : Stripe) : Stripe := if i < t.words * 512 then { t with data := Memory.put t.data i v } else t

theorem striped_frame (i : Nat) (v : Byte) (t : Stripe) : (striped i v t).frame = t.frame := by unfold striped; split <;> rfl

theorem striped_words (i : Nat) (v : Byte) (t : Stripe) : (striped i v t).words = t.words := by unfold striped; split <;> rfl

theorem striped_wf {t : Stripe} (h : t.data.wf = true) (i : Nat) (v : Byte) : (striped i v t).data.wf = true := by
  unfold striped
  split
  · exact wf_put h i v
  · exact h

section PutByte

variable {s : State} {l : Loc} (v : Byte)

theorem stripes_putByte (k i x : Nat) :
    (s.putByte (.stripe k i) v).stripes.find? (·.frame == x) =
      if x = k then (s.stripes.find? (·.frame == k)).map (striped i v) else s.stripes.find? (·.frame == x) :=
  find?_updateFirst (key := Stripe.frame) (striped_frame i v) s.stripes k x

theorem block?_putByte (b o x : Nat) :
    (s.putByte (.scr b o) v).block? x =
      if x = b then (s.block? b).map fun y => { y with scratch := Memory.put y.scratch o v } else s.block? x :=
  block?_modBlock s (f := fun y => { y with scratch := Memory.put y.scratch o v }) (fun _ => rfl) b x

theorem warp?_putByte_lds (u o x : Nat) :
    (s.putByte (.lds u o) v).warp? x = if x = u then (s.warp? u).map fun w => { w with lds := Memory.put w.lds o v } else s.warp? x :=
  modWarp_warp? _ _ _ _ fun _ h => h

/-- Every other byte reads as before. -/
theorem readByte_putByte_ne (hp : Placed s l) {l' : Loc} (hne : l' ≠ l) : (s.putByte l v).readByte l' = s.readByte l' := by
  cases l <;> cases l' <;> try rfl
  case dev.dev a x => exact (get_put hp a x v).trans (if_neg fun h : x = a => hne (congrArg _ h))
  case host.host a x => exact (get_put hp a x v).trans (if_neg fun h : x = a => hne (congrArg _ h))
  case stripe.stripe k i k' i' =>
    obtain ⟨m, hm, hwf⟩ := hp
    rw [State.readByte, State.readByte, stripes_putByte]
    by_cases hk : k' = k
    · subst hk
      have hi : i' ≠ i := fun h => hne (h ▸ rfl)
      rw [if_pos rfl, hm]
      show Memory.get (striped i v m).data i' = Memory.get m.data i'
      unfold striped
      split
      · exact (get_put hwf i i' v).trans (if_neg hi)
      · rfl
    · rw [if_neg hk]
  case scr.scr b o b' o' =>
    obtain ⟨y, hy, hwf⟩ := hp
    rw [State.readByte, State.readByte, block?_putByte]
    by_cases hb : b' = b
    · subst hb
      rw [if_pos rfl, hy]
      exact (get_put hwf o o' v).trans (if_neg fun h : o' = o => hne (congrArg _ h))
    · rw [if_neg hb]
  case lds.lds u o u' o' =>
    obtain ⟨w, hw, hwf⟩ := hp
    rw [State.readByte, State.readByte, warp?_putByte_lds]
    by_cases hu : u' = u
    · subst hu
      rw [if_pos rfl, hw]
      exact (get_put hwf o o' v).trans (if_neg fun h : o' = o => hne (congrArg _ h))
    · rw [if_neg hu]
  case view.view => exact hp.elim

/-- The byte written is read. -/
theorem readByte_putByte_self (hp : Placed s l) (hk : Keeps s l) : (s.putByte l v).readByte l = v := by
  cases l with
  | dev a => exact (get_put hp a a v).trans (if_pos rfl)
  | host a => exact (get_put hp a a v).trans (if_pos rfl)
  | stripe k i =>
    obtain ⟨m, hm, hwf⟩ := hp
    rw [State.readByte, stripes_putByte, if_pos rfl, hm]
    show Memory.get (striped i v m).data i = v
    rw [striped, if_pos (hk k i m rfl hm)]
    exact (get_put hwf i i v).trans (if_pos rfl)
  | scr b o =>
    obtain ⟨y, hy, hwf⟩ := hp
    rw [State.readByte, block?_putByte, if_pos rfl, hy]
    exact (get_put hwf o o v).trans (if_pos rfl)
  | lds u o =>
    obtain ⟨w, hw, hwf⟩ := hp
    rw [State.readByte, warp?_putByte_lds, if_pos rfl, hw]
    exact (get_put hwf o o v).trans (if_pos rfl)
  | view => exact hp.elim

/-- A write leaves every place in a memory in canonical form. -/
theorem placed_putByte {l' : Loc} (h : Placed s l') : Placed (s.putByte l v) l' := by
  cases l <;> cases l' <;> try exact h
  case dev.dev a x => exact wf_put h a v
  case host.host a x => exact wf_put h a v
  case stripe.stripe k i k' i' =>
    obtain ⟨m, hm, hwf⟩ := h
    unfold Placed
    dsimp only
    rw [stripes_putByte]
    by_cases hk : k' = k
    · subst hk
      exact ⟨striped i v m, by rw [if_pos rfl, hm]; rfl, striped_wf hwf i v⟩
    · exact ⟨m, by rw [if_neg hk, hm], hwf⟩
  case scr.scr b o b' o' =>
    obtain ⟨y, hy, hwf⟩ := h
    unfold Placed
    dsimp only
    rw [block?_putByte]
    by_cases hb : b' = b
    · subst hb
      exact ⟨_, by rw [if_pos rfl, hy]; rfl, wf_put hwf o v⟩
    · exact ⟨y, by rw [if_neg hb, hy], hwf⟩
  case lds.lds u o u' o' =>
    obtain ⟨w, hw, hwf⟩ := h
    unfold Placed
    dsimp only
    rw [warp?_putByte_lds]
    by_cases hu : u' = u
    · subst hu
      exact ⟨_, by rw [if_pos rfl, hw]; rfl, wf_put hwf o v⟩
    · exact ⟨w, by rw [if_neg hu, hw], hwf⟩

theorem keeps_putByte {l' : Loc} (h : Keeps s l') : Keeps (s.putByte l v) l' := by
  intro k x m hl hm
  cases l <;> try exact h k x m hl hm
  case stripe k' i =>
    rw [stripes_putByte] at hm
    by_cases hk : k = k'
    · subst hk
      rw [if_pos rfl] at hm
      obtain ⟨m0, hm0, rfl⟩ := Option.map_eq_some_iff.1 hm
      rw [striped_words]
      exact h k x m0 hl hm0
    · rw [if_neg hk] at hm
      exact h k x m hl hm

/-- A part of a warp that is not its local store is not written. -/
theorem warp?_putByte {β : Type} {g : Warp → β} (hg : ∀ w m, g { w with lds := m } = g w) (u : Nat) :
    ((s.putByte l v).warp? u).map g = (s.warp? u).map g := by
  cases l <;> try rfl
  case lds u' o =>
    rw [warp?_putByte_lds]
    split
    · next h =>
      subst h
      rw [Option.map_map]
      exact congrArg (fun f => (s.warp? u).map f) (funext fun w => hg w _)
    · rfl

theorem unwatched_putByte (h : s.unwatched) : (s.putByte l v).unwatched := by
  obtain ⟨hb, hq, hf⟩ := h
  cases l <;> try exact ⟨hb, hq, hf⟩
  case scr b o =>
    refine ⟨fun x hx => ?_, hq, hf⟩
    rcases mem_updateFirst hx with hx | ⟨y, hy, rfl⟩
    · exact hb x hx
    · exact hb y hy

end PutByte

/-! ### Several bytes written (R129, R252) -/

/-- The bytes of a list written in order. -/
def written (s : State) (ws : List (Loc × Byte)) : State := ws.foldl (fun s p => s.putByte p.1 p.2) s

/-- The byte written last to a place. -/
def lastWritten (ws : List (Loc × Byte)) (l : Loc) : Option Byte := (ws.reverse.find? (·.1 == l)).map (·.2)

theorem lastWritten_cons (p : Loc × Byte) (ws : List (Loc × Byte)) (l : Loc) :
    lastWritten (p :: ws) l = (lastWritten ws l).or (if p.1 = l then some p.2 else none) := by
  unfold lastWritten
  rw [List.reverse_cons, List.find?_append, Option.map_or]
  by_cases h : p.1 = l <;> simp [h]

theorem lastWritten_none {ws : List (Loc × Byte)} {l : Loc} (h : l ∉ ws.map (·.1)) : lastWritten ws l = none := by
  rw [lastWritten, List.find?_eq_none.2, Option.map_none]
  intro p hp hl
  exact h (List.mem_map.2 ⟨p, List.mem_reverse.1 hp, by simpa using hl⟩)

section Written

variable {s : State} {ws : List (Loc × Byte)} {l : Loc}

/-- What holds of a state and is kept by each byte written holds after all of them. -/
theorem written_keeps {P : State → Prop} (h : ∀ s l v, P s → P (s.putByte l v)) (hs : P s) : P (written s ws) :=
  List.foldlRecOn ws _ hs fun t ht p _ => h t p.1 p.2 ht

theorem placed_written (h : Placed s l) : Placed (written s ws) l := written_keeps (P := (Placed · l)) (fun _ _ v => placed_putByte v) h

theorem unwatched_written (h : s.unwatched) : (written s ws).unwatched := written_keeps (fun _ _ v => unwatched_putByte v) h

theorem warp?_written {β : Type} {g : Warp → β} (hg : ∀ w m, g { w with lds := m } = g w) (u : Nat) :
    ((written s ws).warp? u).map g = (s.warp? u).map g :=
  written_keeps (P := fun t => (t.warp? u).map g = (s.warp? u).map g) (fun _ _ v h => (warp?_putByte v hg u).trans h) rfl

/-- A place that is not named reads as before. -/
theorem readByte_written_ne (hp : ∀ p ∈ ws, Placed s p.1) (hl : l ∉ ws.map (·.1)) : (written s ws).readByte l = s.readByte l := by
  induction ws generalizing s with
  | nil => rfl
  | cons p ws ih =>
    rw [List.map_cons, List.mem_cons, not_or] at hl
    have hrest : ∀ q ∈ ws, Placed (s.putByte p.1 p.2) q.1 := fun q hq => placed_putByte p.2 (hp q (List.mem_cons_of_mem _ hq))
    exact (ih hrest hl.2).trans (readByte_putByte_ne p.2 (hp p List.mem_cons_self) hl.1)

/-- A place that keeps what is written to it reads the last byte written to it. -/
theorem readByte_written (hp : ∀ p ∈ ws, Placed s p.1) (hk : Keeps s l) :
    (written s ws).readByte l = (lastWritten ws l).getD (s.readByte l) := by
  induction ws generalizing s with
  | nil => rfl
  | cons p ws ih =>
    have hrest : ∀ q ∈ ws, Placed (s.putByte p.1 p.2) q.1 := fun q hq => placed_putByte p.2 (hp q (List.mem_cons_of_mem _ hq))
    refine (ih hrest (keeps_putByte p.2 hk)).trans ?_
    rw [lastWritten_cons]
    cases lastWritten ws l with
    | some b => rfl
    | none =>
      by_cases h : p.1 = l
      · subst h
        rw [if_pos rfl]
        exact readByte_putByte_self p.2 (hp p List.mem_cons_self) hk
      · rw [if_neg h]
        exact readByte_putByte_ne p.2 (hp p List.mem_cons_self) fun e => h e.symm

/-- Bytes written to different places are read there. -/
theorem readLocs_written {ls : List Loc} {bs : List Byte} (hd : ls.Nodup) (hlen : bs.length = ls.length) (hp : ∀ l ∈ ls, Placed s l)
    (hk : ∀ l ∈ ls, Keeps s l) : (written s (List.zip ls bs)).readLocs ls = bs := by
  have hlast : ∀ (ls : List Loc) (bs : List Byte), ls.Nodup → bs.length = ls.length →
      ls.map (fun l => (lastWritten (List.zip ls bs) l).getD (s.readByte l)) = bs := by
    intro ls
    induction ls with
    | nil => intro bs _ h; exact (List.length_eq_zero_iff.1 h).symm
    | cons l ls ih =>
      intro bs hd hlen
      cases bs with
      | nil => cases hlen
      | cons b bs =>
        obtain ⟨hl, hd⟩ := List.nodup_cons.1 hd
        have hhead : lastWritten (List.zip (l :: ls) (b :: bs)) l = some b := by
          rw [List.zip_cons_cons, lastWritten_cons, lastWritten_none, if_pos rfl]
          · rfl
          · intro h
            obtain ⟨p, hp, rfl⟩ := List.mem_map.1 h
            exact hl (List.of_mem_zip hp).1
        have htail : ∀ l' ∈ ls, lastWritten (List.zip (l :: ls) (b :: bs)) l' = lastWritten (List.zip ls bs) l' := fun l' h => by
          rw [List.zip_cons_cons, lastWritten_cons, if_neg fun e : l = l' => hl (e ▸ h), Option.or_none]
        rw [List.map_cons, hhead, List.map_congr_left fun l' h => by rw [htail l' h], ih bs hd (by simpa using hlen)]
        rfl
  have hread : ∀ l ∈ ls, (written s (List.zip ls bs)).readByte l = (lastWritten (List.zip ls bs) l).getD (s.readByte l) := fun l hl =>
    readByte_written (fun p hp' => hp p.1 (List.of_mem_zip hp').1) (hk l hl)
  exact (List.map_congr_left hread).trans (hlast ls bs hd hlen)

end Written

/-! ### What a performed write brings about beside its bytes (R151, R412, R419) -/

/-- A warp whose reservations on the granules of written places have ended (R151). -/
def resvEnded (ls : List Loc) (w : Warp) : Warp :=
  if w.resv.isEmpty then w else { w with resv := w.resv.filter fun r => !(ls.map (·.align 32)).contains r.granule }

theorem mem_resvEnded (ls : List Loc) (w : Warp) (r : Resv) :
    r ∈ (resvEnded ls w).resv ↔ r ∈ w.resv ∧ ∀ l ∈ ls, l.align 32 ≠ r.granule := by
  unfold resvEnded
  split
  · next h => simp [List.isEmpty_iff.1 h]
  · simp

theorem resvEnded_uid (ls : List Loc) (w : Warp) : (resvEnded ls w).uid = w.uid := by
  unfold resvEnded
  split <;> rfl

theorem resvEnded_lds (ls : List Loc) (w : Warp) : (resvEnded ls w).lds = w.lds := by
  unfold resvEnded
  split <;> rfl

section Performed

variable {s : State} {ws : List (Loc × Byte)} {l : Loc} {ls : List Loc}

theorem warp?_killResv (u : Nat) : (s.killResv ls).warp? u = (s.warp? u).map (resvEnded ls) := by
  have hu : ((fun w : Warp => w.uid == u) ∘ resvEnded ls) = fun w => w.uid == u := funext fun w => by
    change ((resvEnded ls w).uid == u) = (w.uid == u)
    rw [resvEnded_uid]
  change (s.warps.map (resvEnded ls)).find? (fun w => w.uid == u) = (s.warps.find? fun w => w.uid == u).map (resvEnded ls)
  rw [List.find?_map, hu]

theorem readByte_killResv : (s.killResv ls).readByte l = s.readByte l := by
  cases l <;> try rfl
  case lds u o =>
    rw [State.readByte, State.readByte, warp?_killResv, Option.map_map]
    exact congrArg (fun f => ((s.warp? u).map f).getD 0) (funext fun w => congrArg (Memory.get · o) (resvEnded_lds ls w))

theorem clearMarks_eq : ∃ p rs, s.clearMarks ls = { s with poison := p, regions := rs } := by
  unfold State.clearMarks
  refine List.foldlRecOn (motive := fun t => ∃ p rs, t = { s with poison := p, regions := rs }) _ _ ?_ ?_
  · split
    · exact ⟨s.poison, s.regions, rfl⟩
    · exact ⟨_, s.regions, rfl⟩
  · rintro t ⟨p, rs, rfl⟩ k -
    exact ⟨p, _, rfl⟩

/-- Marks outside linear views are kept in one list. -/
theorem clearMarks_placed (h : ∀ r b, Loc.view r b ∉ ls) : ∃ p, s.clearMarks ls = { s with poison := p } := by
  have hkeys : viewKeys ls = [] := by
    rw [viewKeys, List.filterMap_eq_nil_iff.2]
    · rfl
    · intro l hl
      cases l with
      | view r b => exact absurd hl (h r b)
      | _ => rfl
  rw [State.clearMarks, hkeys, List.foldl_nil]
  split
  · exact ⟨s.poison, rfl⟩
  · exact ⟨_, rfl⟩

theorem interrupt_eq (t : State) (fn n : Nat) : ∃ a, t.interrupt fn n = { t with admin := a } := by
  unfold State.interrupt
  by_cases h : n < if fn = 0 then 2048 else 64
  · exact ⟨_, if_pos h⟩
  · exact ⟨t.admin, if_neg h⟩

theorem noticeWatches_eq : ∃ a, s.noticeWatches ls = { s with admin := a } := by
  have hcheck : ∀ t fn n, (∃ a, t = { s with admin := a }) → ∃ a, t.checkWatch fn n = { s with admin := a } := by
    rintro t fn n ⟨a, rfl⟩
    unfold State.checkWatch
    split
    · exact ⟨a, rfl⟩
    · split
      · obtain ⟨b, h⟩ := interrupt_eq (State.modFn _ _ _) _ _
        exact ⟨b, h⟩
      · exact ⟨a, rfl⟩
  unfold State.noticeWatches
  refine List.foldlRecOn (motive := fun t => ∃ a, t = { s with admin := a }) _ _ ⟨s.admin, rfl⟩ fun t ht f _ => ?_
  refine List.foldlRecOn (motive := fun t => ∃ a, t = { s with admin := a }) _ _ ht fun t ht x _ => ?_
  split
  · exact hcheck t _ _ ht
  · exact ht

/-- Where no watch register is armed a write fires none. -/
theorem noticeWatches_unwatched (h : s.unwatched) : s.noticeWatches ls = s := by
  obtain ⟨-, -, hf⟩ := h
  refine foldl_same fun f hfn => foldl_same fun x hx => ?_
  obtain ⟨w, n⟩ := x
  have hoff : w.ctl.getLsbD 0 = false := hf f hfn w (List.fst_mem_of_mem_zipIdx hx)
  refine if_neg ?_
  rw [hoff, Bool.false_and]
  exact Bool.false_ne_true

theorem perform_eq : ∃ p rs a, s.perform ws =
    { (written s ws).killResv (ws.map (·.1)) with poison := p, regions := rs, admin := a } := by
  obtain ⟨p, rs, h⟩ := clearMarks_eq (s := (written s ws).killResv (ws.map (·.1))) (ls := ws.map (·.1))
  obtain ⟨a, h'⟩ := noticeWatches_eq (s := ((written s ws).killResv (ws.map (·.1))).clearMarks (ws.map (·.1))) (ls := ws.map (·.1))
  exact ⟨p, rs, a, h'.trans (by rw [h])⟩

theorem readByte_perform (h : ∀ r b, Loc.view r b ∉ ws.map (·.1)) : (s.perform ws).readByte l = (written s ws).readByte l := by
  obtain ⟨p, hp⟩ := clearMarks_placed (s := (written s ws).killResv (ws.map (·.1))) h
  obtain ⟨a, ha⟩ := noticeWatches_eq (s := ((written s ws).killResv (ws.map (·.1))).clearMarks (ws.map (·.1))) (ls := ws.map (·.1))
  have heq : s.perform ws = { (written s ws).killResv (ws.map (·.1)) with poison := p, admin := a } := ha.trans (by rw [hp])
  rw [heq, ← readByte_killResv (s := written s ws) (ls := ws.map (·.1))]
  cases l <;> rfl

theorem warp?_perform {β : Type} {g : Warp → β} (hg : ∀ w m, g { w with lds := m } = g w)
    (hr : ∀ w, g (resvEnded (ws.map (·.1)) w) = g w) (u : Nat) : ((s.perform ws).warp? u).map g = (s.warp? u).map g := by
  obtain ⟨p, rs, a, h⟩ := perform_eq (s := s) (ws := ws)
  rw [h]
  change (((written s ws).killResv (ws.map (·.1))).warp? u).map g = _
  rw [warp?_killResv, Option.map_map, ← warp?_written hg u]
  exact congrArg (fun f => ((written s ws).warp? u).map f) (funext hr)

theorem unwatched_perform (h : s.unwatched) : (s.perform ws).unwatched := by
  have hk : ((written s ws).killResv (ws.map (·.1))).unwatched := unwatched_written h
  obtain ⟨p, rs, hc⟩ := clearMarks_eq (s := (written s ws).killResv (ws.map (·.1))) (ls := ws.map (·.1))
  have hm : (((written s ws).killResv (ws.map (·.1))).clearMarks (ws.map (·.1))).unwatched := by rw [hc]; exact hk
  have heq : s.perform ws = ((written s ws).killResv (ws.map (·.1))).clearMarks (ws.map (·.1)) := noticeWatches_unwatched hm
  rw [heq]
  exact hm

theorem placed_perform {l : Loc} (h : Placed s l) : Placed (s.perform ws) l := by
  have hw : Placed ((written s ws).killResv (ws.map (·.1))) l := by
    have h := placed_written (ws := ws) h
    cases l <;> try exact h
    case lds u o =>
      obtain ⟨w, hw, hwf⟩ := h
      exact ⟨resvEnded (ws.map (·.1)) w, by rw [warp?_killResv, hw]; rfl, by rw [resvEnded_lds]; exact hwf⟩
  obtain ⟨p, rs, a, heq⟩ := perform_eq (s := s) (ws := ws)
  rw [heq]
  cases l <;> exact hw

/-- Where nothing is watched, what a write brings about beside its bytes is at most a doorbell's event (R281, R315, R374). -/
theorem land_eq (h : s.unwatched) (writer : Option Nat) : ∃ a, s.land ws writer = { s.perform ws with agenda := a } := by
  obtain ⟨hb, hq, -⟩ := unwatched_perform (ws := ws) h
  have harrive : (s.perform ws).arrive (ws.map (·.1)) writer = s.perform ws := foldl_same fun b hmem => by
    rw [(hb b hmem).2]
    split <;> rfl
  have hrings : (s.perform ws).noticeRings (ws.map (·.1)) writer = s.perform ws := foldl_same fun b hmem => by
    rw [(hb b hmem).1]
  have hqueues : (s.perform ws).noticeQueues (ws.map (·.1)) = s.perform ws := by rw [State.noticeQueues, hq]; rfl
  unfold State.land
  dsimp only
  rw [harrive, hrings, hqueues]
  unfold State.noticeDoorbells
  dsimp only
  split
  · exact ⟨(s.perform ws).agenda, rfl⟩
  · exact ⟨_, rfl⟩

theorem readByte_land (h : s.unwatched) (hv : ∀ r b, Loc.view r b ∉ ws.map (·.1)) (writer : Option Nat) :
    (s.land ws writer).readByte l = (written s ws).readByte l := by
  obtain ⟨a, ha⟩ := land_eq (ws := ws) h writer
  rw [ha, ← readByte_perform hv]
  cases l <;> rfl

theorem unwatched_land (h : s.unwatched) (writer : Option Nat) : (s.land ws writer).unwatched := by
  obtain ⟨a, ha⟩ := land_eq (ws := ws) h writer
  rw [ha]
  exact unwatched_perform h

theorem placed_land (h : s.unwatched) (hp : Placed s l) (writer : Option Nat) : Placed (s.land ws writer) l := by
  obtain ⟨a, ha⟩ := land_eq (ws := ws) h writer
  rw [ha]
  have := placed_perform (ws := ws) hp
  cases l <;> exact this

theorem view_notMem_of_placed (hp : ∀ p ∈ ws, Placed s p.1) (r b : Nat) : Loc.view r b ∉ ws.map (·.1) := by
  intro h
  obtain ⟨p, hmem, he⟩ := List.mem_map.1 h
  exact not_view_of_placed (hp p hmem) r b he

end Performed

/-! ### Numbers in memory (R128) -/

theorem mem_span_dev {a n : Nat} {l : Loc} (h : l ∈ (Loc.dev a).span n) : ∃ k, l = .dev k := by
  obtain ⟨k, -, rfl⟩ := List.mem_map.1 h
  exact ⟨a + k, rfl⟩

theorem span_dev_nodup (a n : Nat) : ((Loc.dev a).span n).Nodup :=
  List.nodup_range.map_on fun x _ y _ h => by
    have : a + x = a + y := by injection h
    omega

@[simp] theorem span_length (l : Loc) (n : Nat) : (l.span n).length = n := by simp [Loc.span]

/-- A number written at a device-physical address leaves its bytes there, the lowest first. -/
theorem readLocs_written_dev {s : State} (hwf : s.mem.wf = true) (a n x : Nat) :
    (written s (List.zip ((Loc.dev a).span n) (leBytes n x))).readLocs ((Loc.dev a).span n) = leBytes n x := by
  refine readLocs_written (span_dev_nodup a n) (by simp) (fun l hl => ?_) fun l hl => ?_
  all_goals obtain ⟨k, rfl⟩ := mem_span_dev hl
  · exact hwf
  · exact keeps_dev s k

theorem placed_zip_dev {s : State} (hwf : s.mem.wf = true) {a n : Nat} {bs : List Byte} :
    ∀ p ∈ List.zip ((Loc.dev a).span n) bs, Placed s p.1 := by
  intro p hp
  obtain ⟨k, hk⟩ := mem_span_dev (List.of_mem_zip hp).1
  rw [hk]
  exact hwf

theorem readLocs_writeNum_dev {s : State} (hwf : s.mem.wf = true) (a n x : Nat) :
    (s.writeNum (.dev a) n x).readLocs ((Loc.dev a).span n) = leBytes n x :=
  (List.map_congr_left fun _ _ => readByte_perform (view_notMem_of_placed (placed_zip_dev hwf))).trans (readLocs_written_dev hwf a n x)

theorem readByte_writeNum_dev {s : State} (hwf : s.mem.wf = true) (a x : Nat) {n k : Nat} (hk : k < n) :
    (s.writeNum (.dev a) n x).readByte (.dev (a + k)) = BitVec.ofNat 8 (x / 2 ^ (8 * k)) := by
  have h := (congrArg (·[k]?) (readLocs_writeNum_dev hwf a n x)).trans (leBytes_getElem? hk x)
  simpa [State.readLocs, Loc.span, Loc.add, hk] using h

/-- A performed write to device or host memory. -/
theorem perform_linear {s : State} {ws : List (Loc × Byte)} (hws : ∀ p ∈ ws, ∃ a, p.1 = .dev a ∨ p.1 = .host a) (hm : s.mem.wf = true)
    (hh : s.hostMem.wf = true) : (∀ p ∈ ws, Placed s p.1) ∧ ∀ p ∈ ws, Keeps s p.1 := by
  refine ⟨fun p hp => ?_, fun p hp => ?_⟩
  all_goals obtain ⟨a, h | h⟩ := hws p hp <;> rw [h]
  · exact hm
  · exact hh
  · exact keeps_dev s a
  · exact fun _ _ _ e => by cases e

/-- The reservations that a performed write leaves (R151). -/
theorem resv_perform {s : State} {ws : List (Loc × Byte)} {u : Nat} {w : Warp} (hw : s.warp? u = some w) :
    ∃ x, (s.perform ws).warp? u = some x ∧ ∀ r, r ∈ x.resv ↔ r ∈ w.resv ∧ ∀ p ∈ ws, p.1.align 32 ≠ r.granule := by
  have hresv : ((written s ws).warp? u).map Warp.resv = some w.resv := by
    rw [warp?_written (g := Warp.resv) (fun _ _ => rfl) u, hw]
    rfl
  obtain ⟨y, hy, hyr⟩ := Option.map_eq_some_iff.1 hresv
  obtain ⟨p, rs, a, heq⟩ := perform_eq (s := s) (ws := ws)
  refine ⟨resvEnded (ws.map (·.1)) y, ?_, fun r => ?_⟩
  · rw [heq]
    exact (warp?_killResv u).trans (by rw [hy]; rfl)
  · rw [mem_resvEnded, hyr, List.forall_mem_map]

/-- Settles O21. -/
theorem performedWrites : Obligations.PerformedWrites := by
  unfold Obligations.PerformedWrites
  refine ⟨fun s ws hws hm hh => ?_, fun s a n x hm => ⟨?_, fun k hk => readByte_writeNum_dev hm a x hk⟩⟩
  · obtain ⟨hp, hk⟩ := perform_linear hws hm hh
    have hread : ∀ l, (s.perform ws).readByte l = (written s ws).readByte l := fun l => readByte_perform (view_notMem_of_placed hp)
    refine ⟨fun l hl => (hread l).trans (readByte_written_ne hp hl), fun l b hb => ?_, placed_perform (l := .dev 0) hm,
      placed_perform (l := .host 0) hh, fun u w hw => resv_perform hw⟩
    obtain ⟨p, hf, -⟩ := Option.map_eq_some_iff.1 hb
    have hl : p.1 = l := by simpa using List.find?_some hf
    have hkeep := hk p (List.mem_reverse.1 (List.mem_of_find?_eq_some hf))
    rw [hread, readByte_written hp (hl ▸ hkeep), lastWritten, hb]
    rfl
  · rw [State.readNum, readLocs_writeNum_dev hm, leNat_leBytes]

/-! ### Atomic sums (R143, R144) -/

section Sums

variable {s : State}

/-- A number that lands at a device-physical address is read there. -/
theorem readNum_land_dev (hu : s.unwatched) (hwf : s.mem.wf = true) (a n x : Nat) (writer : Option Nat) :
    (s.land (List.zip ((Loc.dev a).span n) (leBytes n x)) writer).readNum (.dev a) n = x % 2 ^ (8 * n) := by
  have hread : (s.land (List.zip ((Loc.dev a).span n) (leBytes n x)) writer).readLocs ((Loc.dev a).span n) = leBytes n x :=
    (List.map_congr_left fun _ _ => readByte_land hu (view_notMem_of_placed (placed_zip_dev hwf)) writer).trans
      (readLocs_written_dev hwf a n x)
  rw [State.readNum, hread, leNat_leBytes]

theorem readNum_lt (l : Loc) (n : Nat) : s.readNum l n < 2 ^ (8 * n) := by
  have := leNat_lt (s.readLocs (l.span n))
  rwa [State.readLocs, List.length_map, span_length] at this

/-- Accesses of some lanes, each to the word at one address of device memory. -/
def atWord (a : Nat) (lanes : List Nat) : List Acc := lanes.map fun l => { lane := l, va := a, locs := (Loc.dev a).span 4 }

/-- The addition of a lane's operand modulo 2^32. -/
def adds (x : Nat → Nat) (l old : Nat) : Option Nat := some (AtomOp.add.apply .n32 old (x l))

/-- The state in which a number has been added to a word. -/
def added (c : Ctx) (a n : Nat) (s : State) : State :=
  s.land (List.zip ((Loc.dev a).span 4) (leBytes 4 ((s.readNum (.dev a) 4 + n) % 2 ^ 32))) c.w.writer

theorem rmw_atWord_cons (c : Ctx) (a : Nat) (x : Nat → Nat) (l : Nat) (lanes : List Nat) :
    c.rmw (adds x) (atWord a (l :: lanes)) s =
      ((c.rmw (adds x) (atWord a lanes) (added c a (x l) s)).1,
        (l, s.readNum (.dev a) 4, s.poisoned ((Loc.dev a).span 4)) :: (c.rmw (adds x) (atWord a lanes) (added c a (x l) s)).2) := rfl

theorem readNum_added (hwf : s.mem.wf = true) (hu : s.unwatched) (c : Ctx) (a n : Nat) :
    (added c a n s).readNum (.dev a) 4 = (s.readNum (.dev a) 4 + n) % 2 ^ 32 :=
  (readNum_land_dev hu hwf a 4 _ c.w.writer).trans (Nat.mod_mod _ _)

theorem wf_added (hwf : s.mem.wf = true) (hu : s.unwatched) (c : Ctx) (a n : Nat) : (added c a n s).mem.wf = true :=
  placed_land (l := .dev 0) hu hwf c.w.writer

theorem unwatched_added (hu : s.unwatched) (c : Ctx) (a n : Nat) : (added c a n s).unwatched := by
  unfold added
  exact unwatched_land hu c.w.writer

theorem word_eq_mod (a : Nat) : s.readNum (.dev a) 4 = (s.readNum (.dev a) 4 + 0) % 2 ^ 32 := by
  have hlt : s.readNum (.dev a) 4 < 2 ^ 32 := readNum_lt (.dev a) 4
  rw [Nat.add_zero, Nat.mod_eq_of_lt hlt]

/-- After the additions the word holds the sum of what it held and all operands. -/
theorem rmw_adds_sum (c : Ctx) (a : Nat) (x : Nat → Nat) (lanes : List Nat) (hwf : s.mem.wf = true) (hu : s.unwatched) :
    (c.rmw (adds x) (atWord a lanes) s).1.readNum (.dev a) 4 = (s.readNum (.dev a) 4 + (lanes.map x).sum) % 2 ^ 32 := by
  induction lanes generalizing s with
  | nil => exact word_eq_mod a
  | cons l lanes ih =>
    rw [rmw_atWord_cons, ih (wf_added hwf hu c a (x l)) (unwatched_added hu c a (x l)), readNum_added hwf hu, Nat.mod_add_mod, Nat.add_assoc,
      List.map_cons, List.sum_cons]

/-- Each lane receives what the word held and the operands of the lanes before it. -/
theorem rmw_adds_olds (c : Ctx) (a : Nat) (x : Nat → Nat) (lanes : List Nat) (hwf : s.mem.wf = true) (hu : s.unwatched) :
    (c.rmw (adds x) (atWord a lanes) s).2.map (fun y => (y.1, y.2.1)) =
      lanes.mapIdx fun k l => (l, (s.readNum (.dev a) 4 + ((lanes.take k).map x).sum) % 2 ^ 32) := by
  induction lanes generalizing s with
  | nil => rfl
  | cons l lanes ih =>
    have hold : s.readNum (.dev a) 4 = (s.readNum (.dev a) 4 + (((l :: lanes).take 0).map x).sum) % 2 ^ 32 :=
      word_eq_mod a
    rw [rmw_atWord_cons, List.map_cons, ih (wf_added hwf hu c a (x l)) (unwatched_added hu c a (x l)), List.mapIdx_cons, ← hold]
    simp only [readNum_added hwf hu, Nat.mod_add_mod, Nat.add_assoc, List.take_succ_cons, List.map_cons, List.sum_cons]

end Sums

/-- Settles O22: the sums by induction over the lanes. -/
theorem atomicSums : Obligations.AtomicSums := by
  unfold Obligations.AtomicSums
  exact fun c s a x lanes hwf hu => ⟨rmw_adds_sum c a x lanes hwf hu, rmw_adds_olds c a x lanes hwf hu⟩

end Sys2Proof.Proofs
end

section
/-! SUPPORT. Barrier objects in a scratchpad, and what the completion of an episode makes of the splits that wait for it (R162, R163,
R244). -/

namespace Sys2Proof.Proofs

open Sys2Proof.Machine Sys2Proof.Laws

/-! ### Runs of bytes -/

section Runs

variable {m : Memory}

theorem get_putBytes_apart (h : m.wf = true) {a x : Nat} {bs : List Byte} (hx : x < a ∨ a + bs.length ≤ x) :
    Memory.get (Memory.putBytes m a bs) x = Memory.get m x := by
  induction bs generalizing m a with
  | nil => rfl
  | cons b bs ih =>
    rw [List.length_cons] at hx
    exact (ih (wf_put h a b) (by omega)).trans ((get_put h a x b).trans (if_neg (by omega)))

theorem getBytes_putBytes_apart (h : m.wf = true) {a c n : Nat} {bs : List Byte} (hx : c + n ≤ a ∨ a + bs.length ≤ c) :
    Memory.getBytes (Memory.putBytes m a bs) c n = Memory.getBytes m c n := by
  induction n generalizing c with
  | zero => rfl
  | succ n ih => rw [Memory.getBytes, Memory.getBytes, get_putBytes_apart h (by omega), ih (by omega)]

theorem getBytes_putBytes_self (h : m.wf = true) (a : Nat) (bs : List Byte) :
    Memory.getBytes (Memory.putBytes m a bs) a bs.length = bs := by
  induction bs generalizing m a with
  | nil => rfl
  | cons b bs ih =>
    have hfirst : Memory.get (Memory.putBytes (Memory.put m a b) (a + 1) bs) a = b :=
      (get_putBytes_apart (wf_put h a b) (by omega)).trans ((get_put h a a b).trans (if_pos rfl))
    rw [List.length_cons, Memory.getBytes, Memory.putBytes, hfirst, ih (wf_put h a b)]

end Runs

/-! ### Barrier objects (R162) -/

section Objects

variable {b : Block} (hwf : b.scratch.wf = true)

include hwf

theorem setBarrier_barrier_self (i phase : Nat) {arrived : Nat} (ha : arrived < 2 ^ 32) :
    (b.setBarrier i arrived phase).barrier i = (arrived, phase % 16) := by
  have hbytes : Memory.getBytes (b.setBarrier i arrived phase).scratch (8 * i) 8 = leBytes 8 (arrived + 2 ^ 32 * (phase % 16)) := by
    have h := getBytes_putBytes_self hwf (8 * i) (leBytes 8 (arrived + 2 ^ 32 * (phase % 16)))
    rwa [leBytes_length] at h
  have hword : leNat (leBytes 8 (arrived + 2 ^ 32 * (phase % 16))) = arrived + 2 ^ 32 * (phase % 16) := by
    rw [leNat_leBytes]
    exact Nat.mod_eq_of_lt (by omega)
  unfold Block.barrier
  rw [hbytes, hword]
  unfold bitsAt
  exact Prod.ext (by dsimp only; omega) (by dsimp only; omega)

theorem setBarrier_barrier_ne {i k : Nat} (hk : k ≠ i) (arrived phase : Nat) : (b.setBarrier i arrived phase).barrier k = b.barrier k := by
  have hbytes : Memory.getBytes (b.setBarrier i arrived phase).scratch (8 * k) 8 = Memory.getBytes b.scratch (8 * k) 8 :=
    getBytes_putBytes_apart hwf (by rw [leBytes_length]; omega)
  unfold Block.barrier
  rw [hbytes]

end Objects

/-! ### What barriers know of a warp -/

/-- A warp's number, splits and open region. -/
abbrev Entry : Type := Nat × List Split × Option OpenRegion

def entry (w : Warp) : Entry := (w.uid, w.splits, w.region)

def entries (s : State) : List Entry := s.warps.map entry

theorem entries_keys (s : State) : (entries s).map (·.1) = s.warps.map (·.uid) := by
  rw [entries, List.map_map]
  rfl

theorem entry_mem {s : State} {w : Warp} (h : w ∈ s.warps) : entry w ∈ entries s := List.mem_map_of_mem h

theorem map_updateFirst {α β : Type} {p : α → Bool} {f : α → α} {g : α → β} {q : β → Bool} {f' : β → β} (hp : ∀ x, q (g x) = p x)
    (hf : ∀ x, g (f x) = f' (g x)) (l : List α) : (updateFirst p f l).map g = updateFirst q f' (l.map g) := by
  induction l with
  | nil => rfl
  | cons x l ih =>
    simp only [updateFirst, List.map_cons, hp]
    split
    · rw [List.map_cons, hf]
    · rw [List.map_cons, ih]

theorem updateFirst_id {α : Type} (p : α → Bool) (l : List α) : updateFirst p (fun x => x) l = l := by
  induction l with
  | nil => rfl
  | cons x l ih =>
    rw [updateFirst, ih]
    exact ite_self _

/-- Where keys differ, the first entry of a key is the only one. -/
theorem updateFirst_eq_map {α : Type} {key : α → Nat} {l : List α} (h : (l.map key).Nodup) (f : α → α) (u : Nat) :
    updateFirst (fun x => key x == u) f l = l.map fun x => if key x = u then f x else x := by
  induction l with
  | nil => rfl
  | cons x l ih =>
    obtain ⟨hx, hl⟩ := List.nodup_cons.1 h
    by_cases hu : key x = u
    · have hrest : l.map (fun y => if key y = u then f y else y) = l.map id := List.map_congr_left fun y hy =>
        if_neg fun e => hx (List.mem_map.2 ⟨y, hy, e.trans hu.symm⟩)
      simp [updateFirst, hu, hrest]
    · simp [updateFirst, hu, ih hl]

/-- One state's blocks, warps' splits and regions are another's. -/
def SameEntries (s t : State) : Prop := t.blocks = s.blocks ∧ entries t = entries s

theorem SameEntries.refl (s : State) : SameEntries s s := ⟨rfl, rfl⟩

theorem SameEntries.trans {s t r : State} (h : SameEntries s t) (g : SameEntries t r) : SameEntries s r :=
  ⟨g.1.trans h.1, g.2.trans h.2⟩

theorem sameEntries_modWarp (s : State) (u : Nat) {f : Warp → Warp} (hf : ∀ w, entry (f w) = entry w) : SameEntries s (s.modWarp u f) :=
  ⟨rfl, (map_updateFirst (p := fun w : Warp => w.uid == u) (q := fun e : Entry => e.1 == u) (f' := fun e => e) (fun _ => rfl) hf s.warps).trans
    (updateFirst_id _ _)⟩

theorem sameEntries_foldl {β : Type} {f : State → β → State} {l : List β} (h : ∀ s, ∀ b ∈ l, SameEntries s (f s b)) (s : State) :
    SameEntries s (l.foldl f s) :=
  List.foldlRecOn (motive := SameEntries s) l f (SameEntries.refl s) fun t ht b hb => ht.trans (h t b hb)

theorem entry_putS (w : Warp) (r : Nat) (v : Word) (p : Bool) : entry (w.putS r v p) = entry w := by
  unfold Warp.putS
  split <;> rfl

theorem sameEntries_applyWrite (s : State) (w : Warp) (x : LaneWrite) : SameEntries s (s.applyWrite w x) := by
  unfold State.applyWrite
  split
  · split
    · exact sameEntries_foldl (fun s h _ => sameEntries_modWarp s _ (by exact fun _ => rfl)) s
    · exact sameEntries_modWarp s _ (by exact fun _ => rfl)
  · exact sameEntries_foldl (fun s h _ => sameEntries_modWarp s _ fun w => entry_putS w ..) s
  · dsimp only
    split
    · exact sameEntries_foldl (fun s h _ => sameEntries_modWarp s _ (by exact fun _ => rfl)) s
    · exact sameEntries_modWarp s _ (by exact fun _ => rfl)

theorem entry_completedWarp (o : LongOp) (w : Warp) : entry (completedWarp o w) = entry w := by
  unfold completedWarp
  split <;> rfl

theorem sameEntries_completeOp (s : State) (u : Nat) (o : LongOp) : SameEntries s (s.completeOp u o) := by
  cases hw : s.warp? u with
  | none =>
    rw [State.completeOp, hw]
    exact SameEntries.refl s
  | some w =>
    rw [completeOp_eq hw]
    have hwrites : SameEntries s (s.applyWrites w o.writes) := sameEntries_foldl (fun s x _ => sameEntries_applyWrite s w x) s
    exact (hwrites.trans (sameEntries_modWarp _ _ (by exact fun _ => rfl))).trans (sameEntries_modWarp _ _ (entry_completedWarp o))

/-- Completions write registers, flags and hazards (R22, R23, R41). -/
theorem sameEntries_completeOps (s : State) (u : Nat) (p : LongOp → Bool) : SameEntries s (s.completeOps u p) := by
  unfold State.completeOps
  split
  · exact SameEntries.refl s
  · exact sameEntries_foldl (fun s o _ => sameEntries_completeOp s u o) s

/-- The end of an SFR in which no region is open (R264). -/
theorem sameEntries_endSfr {s : State} {u : Nat} (h : ∀ e ∈ entries s, e.1 = u → e.2.2 = none) : SameEntries s (s.endSfr u) := by
  have hregion : s.endRegion u = s := by
    unfold State.endRegion
    cases hw : s.warp? u with
    | none => rfl
    | some w =>
      have hnone : w.region = none := h (entry w) (entry_mem (List.mem_of_find?_eq_some hw)) (by simpa [entry] using List.find?_some hw)
      simp only [hnone]
  unfold State.endSfr
  rw [hregion]
  exact sameEntries_modWarp (s.closeRecords u) u (by exact fun _ => rfl)

/-! ### Splits go on past their barrier (R163) -/

/-- A split that waits at an object goes on past its barrier. -/
def goneOn (obj : Nat) (sp : Split) : Split := if sp.status = .barrier obj then { sp.advance with status := .ready } else sp

theorem goneOn_status (obj : Nat) (sp : Split) : (goneOn obj sp).status ≠ .barrier obj := by
  unfold goneOn
  split
  · exact fun h => by cases h
  · assumption

theorem entries_pastBarrier (s : State) (u obj : Nat) :
    entries (s.modWarp u fun w => w.pastBarrier obj) =
      updateFirst (fun e => e.1 == u) (fun e => (e.1, e.2.1.map (goneOn obj), e.2.2)) (entries s) :=
  map_updateFirst (p := fun w : Warp => w.uid == u) (f := fun w => w.pastBarrier obj) (q := fun e : Entry => e.1 == u)
    (f' := fun e => (e.1, e.2.1.map (goneOn obj), e.2.2)) (fun _ => rfl) (fun _ => rfl) s.warps

/-- The warps of some numbers go on past their barrier. -/
def passed (obj : Nat) (us : List Nat) (e : Entry) : Entry := if e.1 ∈ us then (e.1, e.2.1.map (goneOn obj), e.2.2) else e

theorem passed_fst (obj : Nat) (us : List Nat) (e : Entry) : (passed obj us e).1 = e.1 := by
  unfold passed
  split <;> rfl

/-- No region is open in a warp that waits (R161). -/
def ClosedAt (obj : Nat) (es : List Entry) : Prop := ∀ e ∈ es, (∃ sp ∈ e.2.1, sp.status = .barrier obj) → e.2.2 = none

section Release

variable {s : State} {obj : Nat} {w : Warp} (hd : ((entries s).map (·.1)).Nodup) (hc : ClosedAt obj (entries s))

include hd

theorem entry_unique {e f : Entry} (he : e ∈ entries s) (hf : f ∈ entries s) (h : e.1 = f.1) : e = f :=
  List.inj_on_of_nodup_map hd he hf h

include hc

/-- One warp's release changes the splits of that warp alone. -/
theorem releaseWarp_entries (hw : entry w ∈ entries s) :
    (s.releaseWarp obj w).blocks = s.blocks ∧ entries (s.releaseWarp obj w) = (entries s).map (passed obj [w.uid]) := by
  have hmine : ∀ e ∈ entries s, e.1 = w.uid → e = entry w := fun e he h => entry_unique hd he hw h
  unfold State.releaseWarp
  by_cases hwait : w.splits.any (fun sp => sp.status == .barrier obj) = true
  · rw [if_pos hwait]
    obtain ⟨sp, hsp, hst⟩ := List.any_eq_true.1 hwait
    have hops := sameEntries_completeOps s w.uid (·.memory)
    have hclosed : ∀ e ∈ entries (s.completeOps w.uid (·.memory)), e.1 = w.uid → e.2.2 = none := fun e he h => by
      rw [hops.2] at he
      rw [hmine e he h]
      exact hc (entry w) hw ⟨sp, hsp, by simpa using hst⟩
    obtain ⟨hblocks, hentries⟩ := hops.trans (sameEntries_endSfr hclosed)
    refine ⟨hblocks, ?_⟩
    rw [entries_pastBarrier, hentries, updateFirst_eq_map hd]
    refine List.map_congr_left fun e _ => ?_
    simp [passed]
  · rw [if_neg hwait]
    refine ⟨rfl, (List.map_id _).symm.trans (List.map_congr_left fun e he => ?_)⟩
    unfold passed
    split
    · next h =>
      rw [hmine e he (by simpa using h)]
      have hstill : w.splits.map (goneOn obj) = w.splits.map id := List.map_congr_left fun sp hsp => if_neg fun hst =>
        hwait (List.any_eq_true.2 ⟨sp, hsp, by simp [hst]⟩)
      simp [entry, hstill]
    · rfl

end Release

theorem passed_closed {obj : Nat} {es : List Entry} (us : List Nat) (h : ClosedAt obj es) : ClosedAt obj (es.map (passed obj us)) := by
  rintro e he ⟨sp, hsp, hst⟩
  obtain ⟨e0, he0, rfl⟩ := List.mem_map.1 he
  unfold passed at hsp ⊢
  split at hsp
  · obtain ⟨sp0, -, rfl⟩ := List.mem_map.1 hsp
    exact absurd hst (goneOn_status obj sp0)
  · next hu =>
    rw [if_neg hu]
    exact h e0 he0 ⟨sp, hsp, hst⟩

theorem passed_keys (obj : Nat) (us : List Nat) (es : List Entry) : (es.map (passed obj us)).map (·.1) = es.map (·.1) := by
  rw [List.map_map]
  exact List.map_congr_left fun e _ => passed_fst obj us e

/-- The releases of several warps, one after another. -/
theorem releaseWarps_entries {obj : Nat} (ws : List Warp) {s : State} (hd : ((entries s).map (·.1)).Nodup) (hc : ClosedAt obj (entries s))
    (hws : ∀ w ∈ ws, entry w ∈ entries s) (hu : (ws.map (·.uid)).Nodup) :
    (ws.foldl (fun s w => s.releaseWarp obj w) s).blocks = s.blocks ∧
      entries (ws.foldl (fun s w => s.releaseWarp obj w) s) = (entries s).map (passed obj (ws.map (·.uid))) := by
  induction ws generalizing s with
  | nil => exact ⟨rfl, (List.map_id _).symm.trans (List.map_congr_left fun e _ => (if_neg List.not_mem_nil).symm)⟩
  | cons w ws ih =>
    obtain ⟨hw, hu⟩ := List.nodup_cons.1 hu
    obtain ⟨hblocks, hentries⟩ := releaseWarp_entries hd hc (hws w List.mem_cons_self)
    have hrest : ∀ x ∈ ws, entry x ∈ entries (s.releaseWarp obj w) := fun x hx => by
      rw [hentries]
      refine List.mem_map.2 ⟨entry x, hws x (List.mem_cons_of_mem _ hx), if_neg fun h => hw ?_⟩
      exact List.mem_map.2 ⟨x, hx, by simpa [entry] using h⟩
    obtain ⟨hb, he⟩ := ih (by rw [hentries, passed_keys]; exact hd) (by rw [hentries]; exact passed_closed _ hc) hrest hu
    refine ⟨hb.trans hblocks, he.trans ?_⟩
    rw [hentries, List.map_map]
    refine List.map_congr_left fun e _ => ?_
    change passed obj (ws.map (·.uid)) (passed obj [w.uid] e) = passed obj ((w :: ws).map (·.uid)) e
    by_cases h : e.1 = w.uid
    · have hfirst : passed obj [w.uid] e = passed obj ((w :: ws).map (·.uid)) e := by
        rw [passed, passed, if_pos (by simp [h]), if_pos (by simp [h])]
      rw [← hfirst]
      exact if_neg (by rw [passed_fst, h]; exact hw)
    · have hfirst : passed obj [w.uid] e = e := if_neg (by simpa using h)
      rw [hfirst, passed, passed, List.map_cons]
      simp only [List.mem_cons, h, false_or]

/-! ### Episodes -/

section Episodes

variable {s : State} {b : Block} {obj : Nat} (hb : s.blocks = [b])

include hb

theorem block?_single : s.block? b.uid = some b := by simp [State.block?, hb]

/-- The object of a block that is alone on the device, written. -/
theorem setBarrier_entries (arrived phase : Nat) :
    (s.setBarrier b.uid obj arrived phase).blocks = [b.setBarrier obj arrived phase] ∧
      entries (s.setBarrier b.uid obj arrived phase) = entries s := by
  have hview : ∀ r o, Loc.view r o ∉ (Loc.scr b.uid (8 * obj)).span 8 := fun r o h => by
    obtain ⟨k, -, h⟩ := List.mem_map.1 h
    cases h
  obtain ⟨p, hp⟩ := clearMarks_placed (s := (s.modBlock b.uid fun x => x.setBarrier obj arrived phase).killResv
    ((Loc.scr b.uid (8 * obj)).span 8)) hview
  have heq : s.setBarrier b.uid obj arrived phase = { (s.modBlock b.uid fun x => x.setBarrier obj arrived phase).killResv
    ((Loc.scr b.uid (8 * obj)).span 8) with poison := p } := hp
  rw [heq]
  refine ⟨?_, ?_⟩
  · change updateFirst (·.uid == b.uid) (fun x => x.setBarrier obj arrived phase) s.blocks = _
    simp [hb, updateFirst]
  · change (s.warps.map (resvEnded ((Loc.scr b.uid (8 * obj)).span 8))).map entry = s.warps.map entry
    rw [List.map_map]
    refine List.map_congr_left fun w _ => ?_
    change entry (resvEnded _ w) = entry w
    unfold resvEnded
    split <;> rfl

variable (ho : obj < 12)

include ho

theorem barrierStep_completes (hc : s.covered b obj = true) (ha : (b.barrier obj).1 ≠ 0) :
    s.barrierStep b.uid obj = (s.setBarrier b.uid obj 0 ((b.barrier obj).2 + 1)).releaseBarrier b obj := by
  simp [State.barrierStep, block?_single hb, ho, hc, ha]

theorem barrierStep_waits (h : s.covered b obj = false ∨ (b.barrier obj).1 = 0) : s.barrierStep b.uid obj = s := by
  rcases h with h | h <;> simp [State.barrierStep, block?_single hb, ho, h]

/-- The completion of an episode: the object is reset with its next PHASE, and no split of the block waits there (R163). -/
theorem episode_completes (hwf : b.scratch.wf = true) (hd : (s.warps.map (·.uid)).Nodup) (hcl : ClosedAt obj (entries s))
    (hc : s.covered b obj = true) (ha : (b.barrier obj).1 ≠ 0) :
    (∃ b', (s.barrierStep b.uid obj).blocks = [b'] ∧ b'.barrier obj = (0, ((b.barrier obj).2 + 1) % 16) ∧
      ∀ k, k ≠ obj → k < 16 → b'.barrier k = b.barrier k) ∧
    ∀ w ∈ (s.barrierStep b.uid obj).warps, b.warps.contains w.uid = true → ∀ sp ∈ w.splits, sp.status ≠ .barrier obj := by
  obtain ⟨hblocks, hentries⟩ := setBarrier_entries hb (obj := obj) 0 ((b.barrier obj).2 + 1)
  let s0 := s.setBarrier b.uid obj 0 ((b.barrier obj).2 + 1)
  let ws := s0.warps.filter fun w => b.warps.contains w.uid
  have hkeys : (entries s0).map (·.1) = s.warps.map (·.uid) := by rw [hentries, entries_keys]
  have hkeys0 : s0.warps.map (·.uid) = s.warps.map (·.uid) := (entries_keys s0).symm.trans hkeys
  obtain ⟨hb', he'⟩ := releaseWarps_entries (obj := obj) ws (s := s0) (by rw [hkeys]; exact hd) (by rw [hentries]; exact hcl)
    (fun w hw => entry_mem (List.mem_filter.1 hw).1) ((hkeys0 ▸ hd).sublist (List.filter_sublist.map _))
  rw [barrierStep_completes hb ho hc ha]
  refine ⟨⟨_, hb'.trans hblocks, setBarrier_barrier_self hwf obj _ (by omega), fun k hk _ => setBarrier_barrier_ne hwf hk _ _⟩,
    fun w hw hmem sp hsp hst => ?_⟩
  have hmine : entry w ∈ (entries s0).map (passed obj (ws.map (·.uid))) := he' ▸ entry_mem hw
  obtain ⟨e, he, hpass⟩ := List.mem_map.1 hmine
  have hfst : e.1 = w.uid := (passed_fst ..).symm.trans (congrArg (·.1) hpass)
  have hin : e.1 ∈ ws.map (·.uid) := by
    obtain ⟨x, hx, rfl⟩ := List.mem_map.1 he
    have hxu : x.uid = w.uid := hfst
    exact List.mem_map.2 ⟨x, List.mem_filter.2 ⟨hx, hxu ▸ hmem⟩, rfl⟩
  rw [passed, if_pos hin] at hpass
  have hsplits : e.2.1.map (goneOn obj) = w.splits := congrArg (·.2.1) hpass
  rw [← hsplits] at hsp
  obtain ⟨sp0, -, rfl⟩ := List.mem_map.1 hsp
  exact goneOn_status obj sp0 hst

end Episodes

/-- A warp that awaits the replay of a page fault counts as not arrived (R244). -/
theorem covered_replay {s : State} {b : Block} {obj : Nat} {w : Warp} (hw : w ∈ s.warps) (hb : b.warps.contains w.uid = true)
    (hg : w.gone = false) (hr : w.replay.isSome = true) : s.covered b obj = false := by
  rw [Bool.eq_false_iff]
  intro h
  have hlive : w ∈ s.liveWarps b := List.mem_filter.2 ⟨hw, by simp only [hb, hg]; rfl⟩
  have := List.all_eq_true.1 h w hlive
  simp [Option.isSome_iff_ne_none.1 hr] at this

/-- Settles O26: the completion of an episode, by the releases of the block's warps one after another. -/
theorem barrierEpisodes : Obligations.BarrierEpisodes := by
  unfold Obligations.BarrierEpisodes
  intro s b obj hb ho hwf hd hregion
  refine ⟨fun ⟨w, hw, hin, hg, hr⟩ => covered_replay hw hin hg hr, fun hc ha => ?_, barrierStep_waits hb ho,
    fun i arrived phase _ harr => setBarrier_barrier_self hwf i phase harr⟩
  refine episode_completes hb ho hwf hd (fun e he hwait => ?_) hc ha
  obtain ⟨w, hw, rfl⟩ := List.mem_map.1 he
  exact hregion w hw hwait

end Sys2Proof.Proofs
end

section
/-! SUPPORT. The loads, stores, atomics and reservations of R128 to R152 and R174: each instruction's access, by the check of its own
description and what its body makes of a resolved access. -/

namespace Sys2Proof.Proofs

open Sys2Proof.Machine Sys2Proof.Laws

/-! ### Linear accesses (R133 to R135, R139) -/

section Linear

theorem plainTy_ok {opc : Nat} {c : Ctx} (h : c.ty.isDsb = false) : plainTy opc c = none := ty_ok (by rw [h]; rfl)

theorem ld_accesses (o : M) : AccessesTo (fun c => regsFrom o.d.toNat (pairs c.ty.pair)) (.ld o) 0x80
    (fun c => [vdst o.d (pairs c.ty.pair), baseUse o]) (fun c => c.ty.isDsb = false) { write := false, migrates := true } active
    (fun c i => c.st.linearTarget c.fn (c.mAddr o i)) (fun c s i => c.linear false false true c.ty.bytes s i (c.mAddr o i))
    fun c => c.loadTo o.d.toNat (pairs c.ty.pair) fun bs => c.ty.extend (leNat bs) :=
  accessesTo_of (fun _ => rfl) (fun _ => plainTy_ok) fun _ _ => rfl

theorem st_accesses (o : M) : Accesses (.st o) 0x82 (fun c => [vsrc o.d 0 false (pairs c.ty.pair), baseUse o])
    (fun c => c.ty.isDsb = false) { write := true, migrates := true } active (fun c i => c.st.linearTarget c.fn (c.mAddr o i))
    (fun c s i => c.linear true false true c.ty.bytes s i (c.mAddr o i)) fun c => c.storeFrom fun i => c.val c.ty.pair o.d.toNat i :=
  accesses_of (fun _ => rfl) (fun _ => plainTy_ok) rfl fun _ _ => rfl

theorem ld4_accesses (o : M) : Accesses (.ld4 o) 0x81 (fun _ => [vdst o.d 4, baseUse o]) always { write := false } active stays
    (fun c s i => c.linear false false false 16 s i (c.mAddr o i)) fun c => c.loadTo o.d.toNat 4 leNat :=
  accesses_of (fun _ => rfl) (fun _ _ => rfl) rfl fun _ _ => rfl

theorem st4_accesses (o : M) : Accesses (.st4 o) 0x83 (fun _ => [vsrc o.d 0 false 4, baseUse o]) always { write := true } active stays
    (fun c s i => c.linear true false false 16 s i (c.mAddr o i)) fun c => c.storeFrom fun i => c.val4 o.d.toNat i :=
  accesses_of (fun _ => rfl) (fun _ _ => rfl) rfl fun _ _ => rfl

/-- The value that SLD loads for the whole split, and whether it is poisoned. -/
def sldValue (c : Ctx) (s : State) (as : List Acc) : Nat := (((s.loads c.w.uid as leNat).head?).map (·.2.1)).getD 0

def sldPoison (c : Ctx) (s : State) (as : List Acc) : Mask := if (s.loads c.w.uid as leNat).any (·.2.2) = true then 1 else 0

def sldUses (o : M) (c : Ctx) : List Use := [sdst o.d (pairs c.ty.pair), ssrc o.base 2]

theorem sld_word (o : M) : Accesses (.sld o) 0x84 (sldUses o) (fun c => c.ty.pair = false) { write := false } (fun c => [c.uniLane])
    stays (fun c s i => c.linear false false false 4 s i (c.sAddr o)) fun c s as =>
      (s, [{ cls := 1, reg := o.d.toNat, mask := 0, vals := [Machine.word (sldValue c s as)], poison := sldPoison c s as }], 0) := by
  refine accesses_of (fun _ => rfl) (fun _ _ => rfl) rfl fun c hp => ?_
  simp only [hp, Bool.false_eq_true, if_false]
  refine congrArg (c.access _ _ _ _) (funext fun s => funext fun as => ?_)
  unfold sldPoison
  split <;> rfl

theorem sld_pair (o : M) : Accesses (.sld o) 0x84 (sldUses o) (fun c => c.ty.pair = true) { write := false } (fun c => [c.uniLane])
    stays (fun c s i => c.linear false false false 8 s i (c.sAddr o)) fun c s as =>
      (s, [{ cls := 1, reg := o.d.toNat, mask := 0, vals := [Machine.word (sldValue c s as)], poison := sldPoison c s as },
           { cls := 1, reg := o.d.toNat + 1, mask := 0, vals := [Machine.word (sldValue c s as / 2 ^ 32)], poison := sldPoison c s as }], 0) := by
  refine accesses_of (fun _ => rfl) (fun _ _ => rfl) rfl fun c hp => ?_
  simp only [hp, if_true]
  refine congrArg (c.access _ _ _ _) (funext fun s => funext fun as => ?_)
  unfold sldPoison
  split <;> rfl

theorem sst_accesses (o : M) : Accesses (.sst o) 0x85 (fun c => [ssrc o.d (pairs c.ty.pair), ssrc o.base 2]) always { write := true }
    (fun c => [c.uniLane]) stays (fun c s i => c.linear true false false (if c.ty.pair = true then 8 else 4) s i (c.sAddr o))
    fun c => c.storeNowFrom fun _ => if c.ty.pair = true then c.s2 o.d.toNat else (c.s o.d.toNat).toNat :=
  accesses_of (fun _ => rfl) (fun _ _ => rfl) rfl fun _ _ => rfl

theorem gather_accesses (o : MA) : Accesses (.gather o) 0x88 (fun c => [vdst o.d (pairs c.ty.pair), ssrc o.a 2, vsrc o.o 0 o.lo 1])
    (fun c => c.ty.isDsb = false) { write := false } active stays
    (fun c s i => c.linear false false false c.ty.bytes s i (c.packetAddr o i))
    fun c => c.loadTo o.d.toNat (pairs c.ty.pair) fun bs => c.ty.extend (leNat bs) :=
  accesses_of (fun _ => rfl) (fun _ => plainTy_ok) rfl fun _ _ => rfl

theorem scatter_accesses (o : MA) :
    Accesses (.scatter o) 0x89 (fun c => [vsrc o.d 0 false (pairs c.ty.pair), ssrc o.a 2, vsrc o.o 0 o.lo 1])
      (fun c => c.ty.isDsb = false) { write := true } active stays
      (fun c s i => c.linear true false false c.ty.bytes s i (c.packetAddr o i))
      fun c => c.storeFrom fun i => c.val c.ty.pair o.d.toNat i :=
  accesses_of (fun _ => rfl) (fun _ => plainTy_ok) rfl fun _ _ => rfl

end Linear

/-! ### SPILL and FILL (R140) -/

section Runs

variable {c : Ctx} {o : M} {effect : Nat → State → List Acc → MemResult}

/-- A run whose registers move one after another is done. -/
theorem moveRun_done {write : Bool} {js : List Nat} {s t : State} {ws : List LaneWrite}
    (h : Moves c write (c.spillAddr o) effect js s t ws) : c.moveRun { write := write } o effect js s = .done t ws 0 := by
  induction js generalizing s t ws with
  | nil =>
    obtain ⟨rfl, rfl⟩ := h
    rfl
  | cons j js ih =>
    obtain ⟨s1, as, ws2, hu, rfl, hrest⟩ := h
    have hone := access_done (c := { c with st := s }) (effect := effect j) hu
    rw [Ctx.moveRun]
    dsimp only
    simp only [hone, ih hrest]

theorem spillCheck_ok {opc : Nat} (h : o.base.toNat + 1 < o.d.toNat ∨ o.d.toNat + runLen o ≤ o.base.toNat) :
    spillCheck opc o c = none := by
  refine if_neg ?_
  simp only [baseInRun, Bool.and_eq_true, decide_eq_true_eq]
  omega

end Runs

/-- Settles O18, each instruction by the lemma about its access. -/
theorem linearAccesses : Obligations.LinearAccesses := by
  unfold Obligations.LinearAccesses
  refine ⟨⟨ld_accesses, st_accesses, ld4_accesses, st4_accesses, sld_word, sld_pair, sst_accesses, gather_accesses, scatter_accesses⟩,
    fun o s c t ws hc ha hclear hm => ?_, fun o s c t ws hc ha hclear hm => ?_⟩
  · exact issue_done hc ha (spillCheck_ok hclear) (moveRun_done hm)
  · exact issue_done hc ha (spillCheck_ok hclear) (moveRun_done hm)

/-! ### Scratchpad accesses, coordinate accesses, release and acquire (R137, R141, R142, R174) -/

theorem lds_accesses (o : M) : AccessesTo (fun c => regsFrom o.d.toNat (pairs c.ty.pair)) (.lds o) 0x86
    (fun c => [vdst o.d (pairs c.ty.pair), vsrc o.base 0 o.lb 1]) (fun c => c.ty.isDsb = false) { write := false, migrates := true } active
    (fun c i => c.scratchTarget (c.spAddr o i)) (fun c s i => c.scratch c.ty.bytes s i (c.spAddr o i))
    fun c => c.loadTo o.d.toNat (pairs c.ty.pair) fun bs => c.ty.extend (leNat bs) :=
  accessesTo_of (fun _ => rfl) (fun _ => plainTy_ok) fun _ _ => rfl

theorem sts_accesses (o : M) : Accesses (.sts o) 0x87 (fun c => [vsrc o.d 0 false (pairs c.ty.pair), vsrc o.base 0 o.lb 1])
    (fun c => c.ty.isDsb = false) { write := true, migrates := true } active (fun c i => c.scratchTarget (c.spAddr o i))
    (fun c s i => c.scratch c.ty.bytes s i (c.spAddr o i)) fun c => c.storeNowFrom fun i => c.val c.ty.pair o.d.toNat i :=
  accesses_of (fun _ => rfl) (fun _ => plainTy_ok) rfl fun _ _ => rfl

section Coordinates

variable (o : MC) (r : Region)

/-- The coordinates of a lane of LDC or STC (R141). -/
def coordsOf (c : Ctx) (i : Nat) : List Int := c.coords r.desc.rank o.c.toNat (toSigned 8 o.imm.toNat) i

/-- The region that the handle names. -/
def Names (c : Ctx) : Prop := c.st.region? c.fn (c.s o.h.toNat).toNat = some r

/-- The state in which the monitors of a region have seen an access (R358). -/
def observed (c : Ctx) (s : State) (as : List Acc) : State :=
  s.observe c.w (regionKey r.fn r.index) (as.map fun a => coordsOf o r c a.lane)

def ldcUses (c : Ctx) : List Use := [vdst o.d (elemRegs (c.etypeOf o.h)), ssrc o.h 1, c.coordUse o]

theorem ldc_plain (hd : dsbWidth r.desc.etype = 0) :
    AccessesTo (fun _ => regsFrom o.d.toNat (elemRegs r.desc.etype)) (.ldc o) 0x8C (ldcUses o) (Names o r)
      { write := false, migrates := true } active (fun c i => r.target (coordsOf o r c i)) (fun c s i => c.element r s i (coordsOf o r c i))
      fun c s as => (observed o r c s as, laneWrites o.d.toNat (elemRegs r.desc.etype)
        ((observed o r c s as).loads c.w.uid as fun bs => (Ty.ofCode r.desc.etype).extend (leNat bs)), 0) := by
  refine accessesTo_of (fun _ => rfl) (fun _ _ => rfl) fun c hr => ?_
  unfold Names at hr
  simp only [hr, hd, if_true]
  rfl

theorem ldc_dsb (hd : dsbWidth r.desc.etype ≠ 0) :
    AccessesTo (fun _ => regsFrom o.d.toNat (elemRegs r.desc.etype)) (.ldc o) 0x8C (ldcUses o) (Names o r)
      { write := false, migrates := true } active (fun c i => r.target (coordsOf o r c i)) (fun c s i => c.element r s i (coordsOf o r c i))
      fun c s as =>
        let s1 := observed o r c s as
        let v := s1.overlay c.w.uid
        let x (a : Acc) : Res := dsbElement r.desc c.ftz (v.readLocs a.locs) (((coordsOf o r c a.lane).getLastD 0).toNat % r.desc.blockLen)
        (s1, laneWrites o.d.toNat 1 (as.map fun a => (a.lane, (x a).1, v.poisoned a.locs)), as.foldl (fun f a => f ||| (x a).2) 0) := by
  refine accessesTo_of (fun _ => rfl) (fun _ _ => rfl) fun c hr => ?_
  unfold Names at hr
  simp only [hr, hd, if_false, List.map_map, List.foldl_map]
  rfl

theorem stc_accesses (hd : dsbWidth r.desc.etype = 0) :
    Accesses (.stc o) 0x8D (fun c => [vsrc o.d 0 false (elemRegs (c.etypeOf o.h)), ssrc o.h 1, c.coordUse o]) (Names o r)
      { write := true, migrates := true } active (fun c i => r.target (coordsOf o r c i)) (fun c s i => c.element r s i (coordsOf o r c i))
      fun c s as => c.storeFrom (fun i => c.val (elemRegs r.desc.etype == 2) o.d.toNat i) (observed o r c s as) as := by
  refine accesses_of (fun _ => rfl) (fun _ _ => rfl) rfl fun c hr => ?_
  unfold Names at hr
  simp only [hr, hd, ne_eq, not_true_eq_false, false_and, if_false]
  rfl

end Coordinates

theorem strel_accesses (o : M) : Accesses (.strel o) 0xBB (fun c => [vsrc o.d 0 false (pairs c.ty.pair), spBase o])
    (fun c => c.ty.wide = true ∧ c.strelBar o = none) { write := true, strong := true, ends := true } active stays
    (fun c => c.spAccess o true)
    fun c s => c.storeNowFrom (fun i => c.val c.ty.pair o.d.toNat i) (s.completeOps c.w.uid (·.memory)) := by
  refine accesses_of (fun _ => rfl) (fun c h => ty_ok h.1) rfl fun c h => ?_
  simp only [h.2]
  rfl

theorem ldacq_accesses (o : M) : Accesses (.ldacq o) 0xBC (fun c => [vdst o.d (pairs c.ty.pair), spBase o]) (fun c => c.ty.wide = true)
    { write := false, strong := true, ends := true } active stays (fun c => c.spAccess o false)
    fun c => c.loadTo o.d.toNat (pairs c.ty.pair) leNat :=
  accesses_of (fun _ => rfl) (fun _ h => ty_ok h) rfl fun _ _ => rfl

/-- Settles O19, each instruction by the lemma about its access. -/
theorem scratchpadAndCoordinateAccesses : Obligations.ScratchpadAndCoordinateAccesses := by
  unfold Obligations.ScratchpadAndCoordinateAccesses
  exact ⟨lds_accesses, sts_accesses, ldc_plain, ldc_dsb, stc_accesses, strel_accesses, ldacq_accesses⟩

end Sys2Proof.Proofs
end

section
/-! SUPPORT. Atomics and reservations (R129, R143 to R152): each instruction's access, what SC makes of one lane, and the alignment
trap of the first active lane (R127, R130). -/

namespace Sys2Proof.Proofs

open Sys2Proof.Machine Sys2Proof.Laws

/-! ### Atomics (R143 to R149) -/

section Atomics

/-- The operand of an atomic's lane, and the addresses of its lanes. -/
def operandOf (o : MA) (c : Ctx) (i : Nat) : Nat := c.val c.ty.pair o.o.toNat i

/-- An atomic over linear addresses whose old values go to d. -/
def ReturnsOld (i : MA → Instr) (opc : Nat) (uses : MA → Ctx → List Use) (ok : Ctx → Prop) (f : MA → Ctx → Nat → Nat → Option Nat) :
    Prop :=
  ∀ o, AccessesTo (fun c => regsFrom o.d.toNat (pairs (c.ty.bytes == 8))) (i o) opc (uses o) ok (atomKind true []) active
    (fun c j => c.st.linearTarget c.fn (c.maAddr o j)) (fun c s j => c.linear true true true c.ty.bytes s j (c.maAddr o j))
    fun c s as => ((c.rmw (f o c) as s).1, laneWrites o.d.toNat (pairs (c.ty.bytes == 8)) (c.rmw (f o c) as s).2, 0)

def combines (a : AtomOp) (o : MA) (c : Ctx) (j old : Nat) : Option Nat := some (a.apply c.ty old (operandOf o c j))

theorem atom_accesses {i : MA → Instr} {opc : Nat} {a : AtomOp} (he : ∀ o s, exec (i o) s = atom opc a o s) :
    ReturnsOld i opc (fun o c => vdst o.d (pairs c.ty.pair) :: atomUses o (pairs c.ty.pair)) (fun c => a.accepts c.ty = true)
      (combines a) :=
  fun o => accessesTo_of (he o) (fun _ => ty_ok) fun _ _ => rfl

theorem cas_accesses : ReturnsOld .cas 0x96 (fun o c => vacc o.d (pairs c.ty.pair) :: atomUses o (pairs c.ty.pair))
    (fun c => c.ty.wide = true) fun o c j old => if old = c.val c.ty.pair o.d.toNat j then some (operandOf o c j) else none :=
  fun _ => accessesTo_of (fun _ => rfl) (fun _ => ty_ok) fun _ _ => rfl

theorem atomrf_accesses {i : MA → Instr} {opc : Nat} {a : AtomOp} (he : ∀ o s, exec (i o) s = atomrf opc a o s) (o : MA) :
    Accesses (i o) opc (fun c => atomUses o (pairs c.ty.pair)) (fun c => a.accepts c.ty = true) (atomKind true []) active
      (fun c j => c.st.linearTarget c.fn (c.maAddr o j)) (fun c s j => c.linear true true true c.ty.bytes s j (c.maAddr o j))
      fun c s as => ((c.rmw (combines a o c) as s).1, [], 0) :=
  accesses_of (he o) (fun _ => ty_ok) rfl fun _ _ => rfl

theorem atomx_accesses (o : MA) : Accesses (.atomx o) 0x9B (fun _ => atomUses o 1) (fun c => c.ty = .f32) (atomKind false []) active stays
    (fun c s j => c.linear true true true 16 s j (c.maAddr o j))
    fun c s as => (c.fxAtomics (fun j => c.val false o.o.toNat j) as s, [], 0) :=
  accesses_of (fun _ => rfl) (fun _ h => ty_ok (beq_iff_eq.2 h)) rfl fun _ _ => rfl

theorem atoms_accesses (o : MA) : AccessesTo (fun _ => regsFrom o.d.toNat 1) (.atoms o) 0x9E
    (fun _ => [vdst o.d 1, vsrc o.a 0 o.la 1, vsrc o.o 0 o.lo 1]) (fun c => c.ty.width = 32 ∧ (atomsOp o).accepts c.ty = true)
    (atomKind true []) active (fun c j => c.scratchTarget (c.lane o.a.toNat j).toNat)
    (fun c s j => c.scratch 4 s j (c.lane o.a.toNat j).toNat)
    fun c s as =>
      let r := c.rmw (fun j old => some ((atomsOp o).apply c.ty old (c.val false o.o.toNat j))) as s
      (r.1, laneWrites o.d.toNat 1 r.2, 0) :=
  accessesTo_of (fun _ => rfl) (fun c h => ty_ok (by simp [h.1, h.2])) fun _ _ => rfl

end Atomics

/-! ### Coordinate atomics (R148) -/

section CoordinateAtomics

variable {i : Instr} {opc : Nat} {uses : Ctx → List Use} {own : Ctx → Option (Nat × Word)} {o : MC} {a : AtomOp} {returns : Bool}
  (he : ∀ s, exec i s = issue opc s uses own fun c => c.coordAtomic o a returns) (ho : ∀ c, own c = none)

include he ho

theorem coordAtomic_idle :
    Retires i opc uses (fun c => c.act = 0) (fun c => c.st.endSfr c.w.uid) (fun _ => []) fun _ => 0 :=
  retires_of he (fun c _ => ho c) fun _ h => if_pos h

theorem coordAtomic_accesses (r : Region) (hd : dsbWidth r.desc.etype = 0) (hs : a.suits r.desc.etype = true) :
    AccessesTo (fun _ => if returns = true then regsFrom o.d.toNat (elemRegs r.desc.etype) else []) i opc uses
      (fun c => c.act ≠ 0 ∧ c.st.region? c.fn (c.s o.h.toNat).toNat = some r) (atomKind true []) active
      (fun c j => r.target (c.coords r.desc.rank o.c.toNat (toSigned 5 (o.imm.toNat % 32)) j))
      (fun c s j => c.element r s j (c.coords r.desc.rank o.c.toNat (toSigned 5 (o.imm.toNat % 32)) j))
      fun c s as =>
        let z := c.rmw (fun j old => some (a.apply (Ty.ofCode r.desc.etype) old (c.val (elemRegs r.desc.etype == 2) o.d.toNat j))) as
          (s.observe c.w (regionKey r.fn r.index)
            (as.map fun x => c.coords r.desc.rank o.c.toNat (toSigned 5 (o.imm.toNat % 32)) x.lane))
        (z.1, (if returns = true then laneWrites o.d.toNat (elemRegs r.desc.etype) z.2 else []), 0) := by
  refine accessesTo_of he (fun c _ => ho c) fun c ⟨hact, hr⟩ => ?_
  unfold Ctx.coordAtomic
  rw [if_neg hact]
  simp only [hr, hd, hs, ne_eq, not_true_eq_false, if_false, Bool.not_true, Bool.false_eq_true]
  rfl

end CoordinateAtomics

/-- The code of ATOMCRF that is legal (R52). -/
theorem atomcrf_legal {o : MC} (h : o.imm.toNat / 32 < 4) :
    (if 4 ≤ o.imm.toNat / 32 then some (1, illegalInfo 0x9D 30) else none) = none := if_neg (Nat.not_le.2 h)

/-! ### Reservations (R150 to R152) -/

theorem lr_accesses (o : MA) : Accesses (.lr o) 0x9F (fun c => [vdst o.d (pairs c.ty.pair), vsrc o.a 0 o.la 2]) (fun c => c.ty.wide = true)
    { write := false, strong := true, ends := true } active stays
    (fun c s j => c.linear false true true c.ty.bytes s j (c.maAddr o j))
    fun c s as =>
      let keep (w : Warp) (a : Acc) : Warp := match a.locs with
        | [] => w
        | l :: _ => { w with resv := w.resv.filter (fun r => r.lane != a.lane) ++ [{ lane := a.lane, granule := l.align 32 }] }
      let s1 := s.modWarp c.w.uid fun w => as.foldl keep w
      (s1.holdTimer c.w.uid c.k 17, laneWrites o.d.toNat (pairs c.ty.pair) (s1.loads c.w.uid as leNat), 0) :=
  accesses_of (fun _ => rfl) (fun _ => ty_ok) rfl fun _ _ => rfl

theorem sc_accesses (o : MA) : Accesses (.sc o) 0xA0 (fun c => vdst o.d 1 :: atomUses o (pairs c.ty.pair)) (fun c => c.ty.wide = true)
    { write := true, strong := true, ends := true } active stays
    (fun c s j => c.linear true true true c.ty.bytes s j (c.maAddr o j))
    fun c s as => ((c.condStores (operandOf o c) as s).1.holdTimer c.w.uid c.k 0,
      laneWrites o.d.toNat 1 (c.condStores (operandOf o c) as s).2, 0) :=
  accesses_of (fun _ => rfl) (fun _ => ty_ok) rfl fun _ _ => rfl

/-- A change of a warp that leaves its local store alone changes no byte. -/
theorem readByte_modWarp {s : State} {u : Nat} {f : Warp → Warp} (hu : ∀ w, (f w).uid = w.uid) (hl : ∀ w, (f w).lds = w.lds) (l : Loc) :
    (s.modWarp u f).readByte l = s.readByte l := by
  cases l with
  | lds v o =>
    rw [State.readByte, State.readByte, modWarp_warp? _ _ _ _ fun w h => (hu w).trans h]
    split
    · next h =>
      subst h
      rw [Option.map_map]
      exact congrArg (fun g => ((s.warp? v).map g).getD 0) (funext fun w => congrArg (Memory.get · o) (hl w))
    · rfl
  | _ => rfl

section ConditionalStore

variable (c : Ctx) (x : Nat → Nat) (a : Acc) (s : State)

/-- A warp whose lane has lost its reservation. -/
def unreserved (lane : Nat) (w : Warp) : Warp := { w with resv := w.resv.filter fun r => r.lane != lane }

/-- Whether the lane of an access holds its reservation. -/
def mayStore : Bool := (s.warp? c.w.uid).any fun w => w.reserved a.lane a.locs

/-- The state in which a lane of SC has stored, where it may. -/
def condStored : State :=
  (if mayStore c a s = true then s.land (List.zip a.locs (leBytes a.locs.length (x a.lane))) c.w.writer else s).modWarp c.w.uid
    (unreserved a.lane)

theorem condStores_one : c.condStores x [a] s = (condStored c x a s, [(a.lane, if mayStore c a s = true then 0 else 1, false)]) := rfl

theorem condStored_unreserved {y : Warp} (hy : (condStored c x a s).warp? c.w.uid = some y) : ∀ r ∈ y.resv, r.lane ≠ a.lane := by
  unfold condStored at hy
  rw [modWarp_warp? _ _ _ (unreserved a.lane) fun _ h => h, if_pos rfl] at hy
  obtain ⟨w, -, rfl⟩ := Option.map_eq_some_iff.1 hy
  intro r hr
  simpa using (List.mem_filter.1 hr).2

theorem readByte_condStored (l : Loc) : (condStored c x a s).readByte l =
    (if mayStore c a s = true then s.land (List.zip a.locs (leBytes a.locs.length (x a.lane))) c.w.writer else s).readByte l :=
  readByte_modWarp (f := unreserved a.lane) (fun _ => rfl) (fun _ => rfl) l

variable {w : Warp} (hw : s.warp? c.w.uid = some w)

include hw

theorem mayStore_eq : mayStore c a s = w.reserved a.lane a.locs := by
  rw [mayStore, hw]
  rfl

/-- What SC makes of one lane (R151). -/
theorem condStores_lane :
    (w.reserved a.lane a.locs = false → (c.condStores x [a] s).2 = [(a.lane, 1, false)] ∧
      ∀ l, (c.condStores x [a] s).1.readByte l = s.readByte l) ∧
    (w.reserved a.lane a.locs = true → (c.condStores x [a] s).2 = [(a.lane, 0, false)] ∧
      ∀ l, (c.condStores x [a] s).1.readByte l = (s.land (List.zip a.locs (leBytes a.locs.length (x a.lane))) c.w.writer).readByte l) ∧
    ∀ y, (c.condStores x [a] s).1.warp? c.w.uid = some y → ∀ r ∈ y.resv, r.lane ≠ a.lane := by
  rw [condStores_one]
  refine ⟨fun h => ⟨?_, fun l => (readByte_condStored c x a s l).trans ?_⟩,
    fun h => ⟨?_, fun l => (readByte_condStored c x a s l).trans ?_⟩, fun y hy => condStored_unreserved c x a s hy⟩
  all_goals simp [mayStore_eq c a s hw, h]

end ConditionalStore

/-- Settles O20, each instruction by the lemma about its access. -/
theorem atomicsAndReservations : Obligations.AtomicsAndReservations := by
  unfold Obligations.AtomicsAndReservations
  refine ⟨⟨atom_accesses fun _ _ => rfl, atom_accesses fun _ _ => rfl, atom_accesses fun _ _ => rfl, atom_accesses fun _ _ => rfl,
    atom_accesses fun _ _ => rfl, atom_accesses fun _ _ => rfl, atom_accesses fun _ _ => rfl, atom_accesses fun _ _ => rfl, cas_accesses,
    atomrf_accesses fun _ _ => rfl, atomrf_accesses fun _ _ => rfl, atomrf_accesses fun _ _ => rfl, atomrf_accesses fun _ _ => rfl,
    atomx_accesses, ⟨fun o _ => coordAtomic_idle (fun _ => rfl) fun _ => rfl,
      fun o r _ hd hs => coordAtomic_accesses (fun _ => rfl) (fun _ => rfl) r hd hs⟩,
    ⟨fun o hl => coordAtomic_idle (fun _ => rfl) fun _ => atomcrf_legal hl,
      fun o r hl hd hs => coordAtomic_accesses (fun _ => rfl) (fun _ => atomcrf_legal hl) r hd hs⟩, atoms_accesses⟩,
    lr_accesses, sc_accesses, fun c x a s w hw => condStores_lane c x a s hw⟩

/-! ### Alignment (R127, R130) -/

section Alignment

/-- The alignment trap of the first active lane, where no lane can depart. -/
def TrapsMisaligned (i : Instr) (opc : Nat) (uses : Ctx → List Use) (ok : Ctx → Prop) (size : Ctx → Nat) (there : Ctx → Nat → Prop)
    (addr : Ctx → Nat → Nat) : Prop :=
  ∀ s c l ls, s.ctx? = some c → Admitted c opc (uses c) → ok c → modeMig c.m = 0 → lanesOf c.act = l :: ls → there c (addr c l) →
    addr c l % size c ≠ 0 → exec i s = .next (c.trap 0xA (Machine.word (l + 32 * (Nat.log2 (size c) % 8))))

theorem plan_stay {c : Ctx} (h : modeMig c.m = 0) (names : List Nat) (target : Nat → Option Dest) :
    c.plan names target false = .go [] [] := by
  rw [Ctx.plan]
  simp [h]

/-- An access whose first lane has a fault takes it (R127). -/
theorem access_faults {c : Ctx} {kind : MemKind} {l : Nat} {ls : List Nat} {target : Nat → Option Dest}
    {address : State → Nat → Except AFault (State × Acc)} {effect : State → List Acc → MemResult} {e : AFault} (hm : modeMig c.m = 0)
    (he : address c.st l = .error e) : c.access kind (l :: ls) target address effect = e.act c := by
  have hplan : (if kind.migrates then c.plan kind.names target false else .go [] []) = Plan.go [] [] := by
    rw [plan_stay hm, ite_self]
  unfold Ctx.access
  rw [hplan]
  simp only [resolve, he]

theorem trapsMisaligned_of {i : Instr} {opc : Nat} {uses : Ctx → List Use} {ok : Ctx → Prop} {size : Ctx → Nat} {there : Ctx → Nat → Prop}
    {addr : Ctx → Nat → Nat} {own : Ctx → Option (Nat × Word)} {body : Ctx → Act} {kind : Ctx → MemKind}
    {target : Ctx → Nat → Option Dest} {address : Ctx → State → Nat → Except AFault (State × Acc)}
    {effect : Ctx → State → List Acc → MemResult} (he : ∀ s, exec i s = issue opc s uses own body) (ho : ∀ c, ok c → own c = none)
    (hb : ∀ c, body c = c.access (kind c) (lanesOf c.act) (target c) (address c) (effect c))
    (hf : ∀ c l, there c (addr c l) → addr c l % size c ≠ 0 → address c c.st l = .error (.trap 0xA (alignInfo l (size c)))) :
    TrapsMisaligned i opc uses ok size there addr := by
  intro s c l ls hc ha hok hm hl hthere hmod
  rw [he, issue_go hc ha (ho c hok), hb, hl, access_faults hm (hf c l hthere hmod)]
  rfl

/-- An address that is no window form. -/
def linearForm (_ : Ctx) (a : Nat) : Prop := a / 2 ^ 56 ≠ 0xFD

theorem linear_misaligned {c : Ctx} {write win : Bool} {size : Nat} {s : State} {lane va : Nat} (hf : linearForm c va)
    (hm : va % size ≠ 0) : c.linear write true win size s lane va = .error (.trap 0xA (alignInfo lane size)) := by
  unfold Ctx.linear
  rw [if_neg fun h => hf h.1, if_pos ⟨rfl, hm⟩]

/-- An address within the scratchpad of the block's group, or within the wavefront's local store. -/
def inScratch (c : Ctx) (a : Nat) : Prop :=
  c.native = true ∧ a < 2 ^ 16 ∧ a < c.w.ldsSize ∨ c.native = false ∧ ∃ b p, c.block? = some b ∧ c.st.scrPlace b a = .ok p

theorem scratch_misaligned {c : Ctx} {size lane addr : Nat} (h : inScratch c addr) (hm : addr % size ≠ 0) :
    c.scratch size c.st lane addr = .error (.trap 0xA (alignInfo lane size)) := by
  unfold Ctx.scratch
  rcases h with ⟨hn, hlt, hsize⟩ | ⟨hn, b, p, hb, hp⟩
  · have hrange : ¬ 65536 ≤ addr := by omega
    simp [hn, hrange, Nat.not_le.2 hsize, hm]
  · simp [hn, hb, hp, hm]

section Families

variable {i : MA → Instr} {opc : Nat} {a : AtomOp}

theorem atom_misaligned (he : ∀ o s, exec (i o) s = atom opc a o s) (o : MA) :
    TrapsMisaligned (i o) opc (fun c => vdst o.d (pairs c.ty.pair) :: atomUses o (pairs c.ty.pair)) (fun c => a.accepts c.ty = true)
      (fun c => c.ty.bytes) linearForm fun c l => c.maAddr o l :=
  trapsMisaligned_of (he o) (fun _ => ty_ok) (fun _ => rfl) fun _ _ => linear_misaligned

theorem atomrf_misaligned (he : ∀ o s, exec (i o) s = atomrf opc a o s) (o : MA) :
    TrapsMisaligned (i o) opc (fun c => atomUses o (pairs c.ty.pair)) (fun c => a.accepts c.ty = true) (fun c => c.ty.bytes) linearForm
      fun c l => c.maAddr o l :=
  trapsMisaligned_of (he o) (fun _ => ty_ok) (fun _ => rfl) fun _ _ => linear_misaligned

end Families

theorem atomx_misaligned (o : MA) : TrapsMisaligned (.atomx o) 0x9B (fun _ => atomUses o 1) (fun c => c.ty = .f32) (fun _ => 16) linearForm
    fun c l => c.maAddr o l :=
  trapsMisaligned_of (fun _ => rfl) (fun _ h => ty_ok (beq_iff_eq.2 h)) (fun _ => rfl) fun _ _ => linear_misaligned

theorem atoms_misaligned (o : MA) : TrapsMisaligned (.atoms o) 0x9E (fun _ => [vdst o.d 1, vsrc o.a 0 o.la 1, vsrc o.o 0 o.lo 1])
    (fun c => c.ty.width = 32 ∧ (atomsOp o).accepts c.ty = true) (fun _ => 4) inScratch fun c l => (c.lane o.a.toNat l).toNat :=
  trapsMisaligned_of (fun _ => rfl) (fun _ h => ty_ok (by simp [h.1, h.2])) (fun _ => rfl) fun _ _ => scratch_misaligned

theorem cas_misaligned (o : MA) : TrapsMisaligned (.cas o) 0x96 (fun c => vacc o.d (pairs c.ty.pair) :: atomUses o (pairs c.ty.pair))
    (fun c => c.ty.wide = true) (fun c => c.ty.bytes) linearForm fun c l => c.maAddr o l :=
  trapsMisaligned_of (fun _ => rfl) (fun _ => ty_ok) (fun _ => rfl) fun _ _ => linear_misaligned

theorem lr_misaligned (o : MA) : TrapsMisaligned (.lr o) 0x9F (fun c => [vdst o.d (pairs c.ty.pair), vsrc o.a 0 o.la 2])
    (fun c => c.ty.wide = true) (fun c => c.ty.bytes) linearForm fun c l => c.maAddr o l :=
  trapsMisaligned_of (fun _ => rfl) (fun _ => ty_ok) (fun _ => rfl) fun _ _ => linear_misaligned

theorem sc_misaligned (o : MA) : TrapsMisaligned (.sc o) 0xA0 (fun c => vdst o.d 1 :: atomUses o (pairs c.ty.pair))
    (fun c => c.ty.wide = true) (fun c => c.ty.bytes) linearForm fun c l => c.maAddr o l :=
  trapsMisaligned_of (fun _ => rfl) (fun _ => ty_ok) (fun _ => rfl) fun _ _ => linear_misaligned

end Alignment

/-- Settles O23, each instruction by the fault of its first lane's address. -/
theorem alignmentTraps : Obligations.AlignmentTraps := by
  unfold Obligations.AlignmentTraps
  exact ⟨atom_misaligned fun _ _ => rfl, atom_misaligned fun _ _ => rfl, atom_misaligned fun _ _ => rfl, atom_misaligned fun _ _ => rfl,
    atom_misaligned fun _ _ => rfl, atom_misaligned fun _ _ => rfl, atom_misaligned fun _ _ => rfl, atom_misaligned fun _ _ => rfl,
    atomrf_misaligned fun _ _ => rfl, atomrf_misaligned fun _ _ => rfl, atomrf_misaligned fun _ _ => rfl,
    atomrf_misaligned fun _ _ => rfl, atomx_misaligned, atoms_misaligned, cas_misaligned, lr_misaligned, sc_misaligned⟩

end Sys2Proof.Proofs
end

section
/-! SUPPORT. The frame of loads and stores (R127 to R129, R133 to R139, R252): what the walks of an access leave of the machine's warps,
that a load's retirement changes no byte, and which bytes a store's changes. -/

namespace Sys2Proof.Proofs

open Sys2Proof.Machine Sys2Proof.Laws

/-! ### What walks leave of the warps (R127, R398) -/

/-- A warp without its reservations and its local store, which writes can change. -/
def bare (w : Warp) : Warp := { w with resv := [], lds := [] }

theorem bare_resvEnded (ls : List Loc) (w : Warp) : bare (resvEnded ls w) = bare w := by
  unfold resvEnded
  split <;> rfl

/-- The warps of two states differ at most in reservations and local stores. -/
def SameWarps (s t : State) : Prop := ∀ u, (t.warp? u).map bare = (s.warp? u).map bare

theorem SameWarps.refl (s : State) : SameWarps s s := fun _ => rfl

theorem SameWarps.trans {s t r : State} (h : SameWarps s t) (g : SameWarps t r) : SameWarps s r := fun u => (g u).trans (h u)

theorem SameWarps.ite {s a b : State} {p : Prop} [Decidable p] (ha : SameWarps s a) (hb : SameWarps s b) :
    SameWarps s (if p then a else b) := by
  split
  · exact ha
  · exact hb

theorem sameWarps_perform (s : State) (ws : List (Loc × Byte)) : SameWarps s (s.perform ws) :=
  warp?_perform (fun _ _ => rfl) (bare_resvEnded _)

theorem sameWarps_writeNum (s : State) (l : Loc) (n x : Nat) : SameWarps s (s.writeNum l n x) := sameWarps_perform s _

section Walks

variable {s t : State} {fn va : Nat} {write : Bool}

theorem sameWarps_setUsed (s : State) (write : Bool) (entries : List Nat) : SameWarps s (s.setUsed write entries) :=
  List.foldlRecOn (motive := SameWarps s) entries _ (SameWarps.refl s) fun t ht _ _ => SameWarps.ite ht (ht.trans (sameWarps_writeNum t _ _ _))

/-- The walk of a translation that the caches do not hold. -/
def walkedLeaf (s : State) (fn va : Nat) (write : Bool) : Except XFault (State × Leaf) :=
  match s.fn? fn with
  | none => .error .page
  | some f =>
    match s.walk fn va write true 4 f.root with
    | .error e => .error e
    | .ok l =>
      let s1 := s.setUsed write l.entries
      let t : TlbEntry := { fn := fn, page := l.page, size := l.size, pte := dword (Nat.lor l.pte (if write then 0x30 else 0x20)) }
      .ok ({ s1 with tlb := s1.tlb.filter (fun x => !(x.fn == fn && x.page == l.page)) ++ [t] }, l)

theorem sameWarps_walkedLeaf {l : Leaf} (h : walkedLeaf s fn va write = .ok (t, l)) : SameWarps s t := by
  unfold walkedLeaf at h
  split at h
  · cases h
  · split at h
    · cases h
    · cases h
      exact sameWarps_setUsed s write _

/-- A translation comes from a cached entry, or from a walk. -/
theorem leafOf_eq : s.leafOf fn va write =
    match s.tlb.find? fun t => t.fn == fn && t.page == va / 2 ^ t.size * 2 ^ t.size with
    | none => walkedLeaf s fn va write
    | some t =>
      if write && (!bitAt t.pte.toNat 2 || 4 ≤ pteAttr t.pte.toNat) then .error (.viol 2 none)
      else if write && (!bitAt t.pte.toNat 4 || bitAt t.pte.toNat 6) then walkedLeaf s fn va write
      else .ok (s, { page := t.page, size := t.size, pte := t.pte.toNat, entries := [] }) := rfl

theorem sameWarps_leafOf {l : Leaf} (h : s.leafOf fn va write = .ok (t, l)) : SameWarps s t := by
  rw [leafOf_eq] at h
  split at h
  · exact sameWarps_walkedLeaf h
  · split at h
    · cases h
    · split at h
      · exact sameWarps_walkedLeaf h
      · cases h
        exact SameWarps.refl s

theorem sameWarps_translate {l : Loc} (h : s.translate fn va write = .ok (t, l)) : SameWarps s t := by
  unfold State.translate at h
  split at h
  · cases h
  · split at h
    · cases h
    · next hleaf =>
      split at h
      · cases h
      · cases h
        exact sameWarps_leafOf hleaf

theorem sameWarps_translateFrom {n fuel : Nat} {ls : List Loc} (h : s.translateFrom fn va n write fuel = .ok (t, ls)) : SameWarps s t := by
  induction fuel generalizing s va n ls with
  | zero =>
    cases h
    exact SameWarps.refl _
  | succ fuel ih =>
    unfold State.translateFrom at h
    split at h
    · cases h
      exact SameWarps.refl _
    · dsimp only at h
      split at h
      · cases h
      · cases h
      · next hfirst _ =>
        split at h
        · cases h
        · next hrest =>
          cases h
          exact (sameWarps_translate hfirst).trans (ih hrest)

theorem reach_ok {c : Ctx} {x y : State × Acc} (h : c.reach x = .ok y) : y = x := by
  unfold Ctx.reach at h
  split at h
  · cases h
  · cases h
    rfl

theorem sameWarps_linear {c : Ctx} {must win : Bool} {size lane : Nat} {a : Acc}
    (h : c.linear write must win size s lane va = .ok (t, a)) : SameWarps s t := by
  unfold Ctx.linear at h
  split at h
  · split at h
    · cases reach_ok h
      exact SameWarps.refl s
    · cases h
  · split at h
    · cases h
    · split at h
      · next hwalk =>
        cases reach_ok h
        exact sameWarps_translateFrom hwalk
      · cases h
      · cases h

theorem sameWarps_scratch {c : Ctx} {size lane addr : Nat} {a : Acc} (h : c.scratch size s lane addr = .ok (t, a)) : SameWarps s t := by
  unfold Ctx.scratch at h
  dsimp only at h
  split at h
  · cases h
  · split at h
    · cases h
    · cases reach_ok h
      exact SameWarps.refl s

theorem sameWarps_resolve {f : State → Nat → Except AFault (State × Acc)} (hf : ∀ s i t a, f s i = .ok (t, a) → SameWarps s t)
    {lanes : List Nat} {as : List Acc} (h : resolve f lanes s = .ok (t, as)) : SameWarps s t := by
  induction lanes generalizing s as with
  | nil =>
    cases h
    exact SameWarps.refl _
  | cons i lanes ih =>
    unfold resolve at h
    split at h
    · cases h
    · next hfirst =>
      split at h
      · cases h
      · next hrest =>
        cases h
        exact (hf _ _ _ _ hfirst).trans (ih hrest)

end Walks

/-! ### Departures do not hang on the names that an instruction writes, where no lane departs (R301, R308) -/

section Names

variable {c : Ctx} {target : Nat → Option Dest}

theorem eraseDups_append_le {p : Nat → Bool} (xs ys : List Nat) :
    (xs.eraseDups.filter p).length ≤ ((xs ++ ys).eraseDups.filter p).length := by
  rw [List.eraseDups_append, List.filter_append, List.length_append]
  exact Nat.le_add_right ..

theorem departNames_le (names : List Nat) : (c.departNames []).length ≤ (c.departNames names).length := by
  unfold Ctx.departNames
  rw [ite_self, List.append_nil]
  exact eraseDups_append_le _ _

/-- A lane that is refused is refused for more names too. -/
theorem refusal_ne_zero {d : Dest} (names : List Nat) (h : c.refusal [] d ≠ 0) : c.refusal names d ≠ 0 := by
  have hle := departNames_le (c := c) names
  unfold Ctx.refusal at h ⊢
  simp only [Bool.or_eq_true, decide_eq_true_eq] at h ⊢
  split_ifs at h ⊢ <;> omega

/-- The lanes that would leave, each with its destination (R298). -/
def leaving (c : Ctx) (target : Nat → Option Dest) : List (Nat × Dest) :=
  (lanesOf c.act).filterMap fun i => (target i).bind fun d => if c.isHere d then none else some (i, d)

theorem wants_eq (names : List Nat) :
    c.wants names target = (leaving c target).map fun x => { lane := x.1, dest := x.2, early := c.refusal names x.2 } := by
  rw [Ctx.wants, leaving, List.map_filterMap]
  refine congrArg (List.filterMap · _) (funext fun i => ?_)
  cases target i with
  | none => rfl
  | some d =>
    rw [Option.bind_some, Option.bind_some]
    split <;> rfl

theorem wants_places (names : List Nat) (b : Bool) :
    ((c.wants names target).filter fun _ => b).map (fun x => (x.lane, x.dest)) = (leaving c target).filter fun _ => b := by
  rw [wants_eq, List.filter_map, List.map_map]
  exact List.map_id _

/-- The decision about the departures of lanes that belong to no team (R298, R302). -/
def alonePlan (c : Ctx) (ws : List Want) : Plan :=
  let asks := (((ws.filter (·.early == 0)).map (·.dest)).eraseDups).map (c.askOne ws)
  if asks.any fun a => a.tries < 3 && !(a.lacking ws).isEmpty then .ask asks
  else
    let granted (x : Want) : Bool := asks.any fun a => a.dest == x.dest && a.granted.contains x.lane
    match if modeMig c.m = 2 then ws.find? fun x => !granted x else none with
    | some x => .refuse x.lane (if x.early = 0 then 1 else x.early)
    | none => .go ((ws.filter granted).map fun x => (x.lane, x.dest)) asks

theorem plan_eq (names : List Nat) : c.plan names target false =
    if c.native || (modeMig c.m = 0 && !false) then .go [] []
    else
      let team := if c.team.isEmpty && c.sp.vote.isSome then [c.w] else c.team
      if !team.isEmpty then c.teamPlan team (c.wants names target) (modeMig c.m = 2) else alonePlan c (c.wants names target) := rfl

theorem eraseDups_eq_nil {α : Type} [BEq α] {l : List α} (h : l.eraseDups = []) : l = [] := by
  cases l with
  | nil => rfl
  | cons x l => rw [List.eraseDups_cons] at h; cases h

/-- No lane departs and none asks exactly where every lane that would leave is refused beforehand, and under must none would. -/
theorem alonePlan_stays (ws : List Want) :
    alonePlan c ws = .go [] [] ↔ (∀ x ∈ ws, x.early ≠ 0) ∧ (modeMig c.m = 2 → ws = []) := by
  unfold alonePlan
  dsimp only
  constructor
  · intro h
    split at h
    · cases h
    · split at h
      · cases h
      · next hfind =>
        obtain ⟨-, hasks⟩ := Plan.go.inj h
        rw [hasks] at hfind
        have hnone := eraseDups_eq_nil (List.map_eq_nil_iff.1 hasks)
        rw [List.map_eq_nil_iff, List.filter_eq_nil_iff] at hnone
        refine ⟨fun x hx => by simpa using hnone x hx, fun hm => ?_⟩
        rw [if_pos hm, List.find?_eq_none] at hfind
        exact List.eq_nil_iff_forall_not_mem.2 fun x hx => hfind x hx rfl
  · rintro ⟨hearly, hmust⟩
    have hfilter : ws.filter (·.early == 0) = [] := List.filter_eq_nil_iff.2 fun x hx => by simpa using hearly x hx
    rw [hfilter]
    by_cases hm : modeMig c.m = 2
    · simp [hmust hm]
    · simp [hm]

theorem teamPlan_stays {team : List Warp} {must : Bool} (names : List Nat)
    (h : c.teamPlan team (c.wants [] target) must = .go [] []) : c.teamPlan team (c.wants names target) must = .go [] [] := by
  unfold Ctx.teamPlan at h ⊢
  split at h
  · cases h
  · next v _ =>
    by_cases hv : v.decided = true
    · rw [if_pos hv, wants_places] at h ⊢
      exact h
    · rw [if_neg hv] at h
      dsimp only at h
      split at h
      · cases h
      · split at h <;> cases h

/-- Where no lane departs and none asks, none does for more names. -/
theorem plan_stays (names : List Nat) (h : c.plan [] target false = .go [] []) : c.plan names target false = .go [] [] := by
  rw [plan_eq] at h ⊢
  split at h
  · next hstay => rw [if_pos hstay]
  · next hgo =>
    rw [if_neg hgo]
    dsimp only at h ⊢
    generalize (if c.team.isEmpty && c.sp.vote.isSome then [c.w] else c.team) = team at h ⊢
    split at h
    · next hteam =>
      rw [if_pos hteam]
      exact teamPlan_stays names h
    · next hteam =>
      rw [if_neg hteam, alonePlan_stays]
      rw [alonePlan_stays] at h
      obtain ⟨hearly, hmust⟩ := h
      simp only [wants_eq, List.forall_mem_map, List.map_eq_nil_iff] at hearly hmust ⊢
      exact ⟨fun x hx => refusal_ne_zero names (hearly x hx), hmust⟩

end Names

/-! ### The frame of a retirement -/

section Retirement

variable {c : Ctx} {t : State}

/-- The warp of a context, but for its reservations and its local store. -/
def HasWarp (c : Ctx) (t : State) : Prop := (t.warp? c.w.uid).map bare = some (bare c.w)

theorem hasWarp_of_same {s : State} (h : HasWarp c s) (g : SameWarps s t) : HasWarp c t := (g c.w.uid).trans h

theorem hasWarp_part {β : Type} {w : Warp} (h : HasWarp c t) (hw : t.warp? c.w.uid = some w) (g : Warp → β)
    (hg : ∀ w, g (bare w) = g w := by intro; rfl) : g w = g c.w := by
  have hb : bare w = bare c.w := by simpa [HasWarp, hw] using h
  rw [← hg w, hb, hg]

/-- A retirement changes no byte. -/
theorem sameBytes_retire {opc : Nat} {uses : List Use} {ws : List LaneWrite} {st : BitVec 8} (hrun : Running c)
    (hsp : c.w.splits[c.k]? = some c.sp) (hne : opc ≠ 0xBC) (ht : HasWarp c t) : SameBytes t (c.retire opc uses t ws st) := by
  obtain ⟨hdense, hlanes, -⟩ := hrun
  obtain ⟨w, hw, -⟩ := Option.map_eq_some_iff.1 ht
  have hk : w.splits[c.k]? = some c.sp := by rw [hasWarp_part ht hw Warp.splits, hsp]
  have hu : w.uid = c.w.uid := hasWarp_part ht hw Warp.uid
  obtain ⟨x, hx, h, -⟩ := retire_warp (uses := uses) (ws := ws) (st := st) hdense hne hw hk hlanes
  rw [h, ← hu]
  exact sameBytes_modWarp (hu ▸ hw) ((restOf_apart.found hx).trans (restOf_retired ..))

/-- An access of an instruction that does not end the SFR is recorded, and remembered in debug mode (R258, R264). -/
theorem entered_eq {kind : MemKind} (h : kind.ends = false) (s : State) (as : List Acc) :
    ∃ (r : List SfrRecord) (q : List StrongAcc), c.entered kind s as = ({ s with records := r, strongs := q } : State) := by
  have hrecords : ∃ r : List SfrRecord, (if kind.strong then s else s.addRecords c.w kind.write as) = ({ s with records := r } : State) := by
    split
    · exact ⟨s.records, rfl⟩
    · refine List.foldlRecOn (motive := fun t => ∃ r : List SfrRecord, t = ({ s with records := r } : State)) _ _ ⟨s.records, rfl⟩ ?_
      rintro t ⟨r, rfl⟩ g -
      unfold State.addGranule
      dsimp only
      split <;> exact ⟨_, rfl⟩
  obtain ⟨r, hr⟩ := hrecords
  unfold Ctx.entered State.addStrongs
  rw [h]
  simp only [Bool.false_eq_true, if_false, hr]
  split
  · exact ⟨r, _, rfl⟩
  · exact ⟨r, s.strongs, rfl⟩

end Retirement

/-! ### Loads -/

section Loads

variable {i : Instr} {opc : Nat} {uses : Ctx → List Use} {ok : Ctx → Prop} {kind : MemKind} {lanes : Ctx → List Nat}
  {target : Ctx → Nat → Option Dest} {address : Ctx → State → Nat → Except AFault (State × Acc)} {names : Ctx → List Nat}
  {effect : Ctx → State → List Acc → MemResult}

/-- A load leaves every byte as its translation left it. -/
def LoadKeeps (i : Instr) (opc : Nat) (uses : Ctx → List Use) (ok : Ctx → Prop) (kind : MemKind) (lanes : Ctx → List Nat)
    (target : Ctx → Nat → Option Dest) (address : Ctx → State → Nat → Except AFault (State × Acc)) : Prop :=
  ∀ s c s1 as t, s.ctx? = some c → Running c → Admitted c opc (uses c) → ok c → Unhindered c kind (lanes c) (target c) (address c) s1 as →
    exec i s = .next t → SameBytes s1 t

/-- The walks of every lane leave the machine's warps, but for reservations. -/
def WalksOnly (address : Ctx → State → Nat → Except AFault (State × Acc)) : Prop :=
  ∀ c s i t a, address c s i = .ok (t, a) → SameWarps s t

/-- The agent's warp in the state in which its lanes have been resolved. -/
theorem hasWarp_resolved {s s1 : State} {c : Ctx} {as : List Acc} (hc : s.ctx? = some c) (hwalk : WalksOnly address)
    (hr : resolve (address c) (lanes c) c.st = .ok (s1, as)) : HasWarp c s1 := by
  have hw : HasWarp c s := by rw [HasWarp, (ctx_warp hc).1]; rfl
  rw [ctx_st hc] at hr
  exact hasWarp_of_same hw (sameWarps_resolve (hwalk c) hr)

/-- The names that an instruction writes do not matter to an access that nothing holds back. -/
theorem unhindered_names {c : Ctx} {s1 : State} {as : List Acc} (hk : kind.names = [])
    (h : Unhindered c kind (lanes c) (target c) (address c) s1 as) (ns : List Nat) :
    Unhindered c { kind with names := ns } (lanes c) (target c) (address c) s1 as := by
  obtain ⟨hplan, hrest⟩ := h
  rw [hk] at hplan
  exact ⟨fun hm => plan_stays ns (hplan hm), hrest⟩

theorem loadKeeps_of (ha : AccessesTo names i opc uses ok kind lanes target address effect) (he : kind.ends = false) (hn : kind.names = [])
    (hne : opc ≠ 0xBC) (heff : ∀ c s as, (effect c s as).1 = s) (hwalk : WalksOnly address) :
    LoadKeeps i opc uses ok kind lanes target address := by
  intro s c s1 as t hc hrun hadm hok hu ht
  have hw : HasWarp c s1 := hasWarp_resolved hc hwalk hu.2.1
  obtain ⟨r, q, hent⟩ := entered_eq (c := c) he s1 as
  rw [ha s c s1 as hc hadm hok (unhindered_names hn hu _), heff, hent] at ht
  cases ht
  intro l
  refine (sameBytes_retire (t := { s1 with records := r, strongs := q }) hrun (ctx_warp hc).2.1 hne hw l).trans ?_
  cases l <;> rfl

end Loads

/-! ### Stores -/

section Stores

theorem updateFirst_fixed {α : Type} {p : α → Bool} {f : α → α} {l : List α} {x : α} (h : l.find? p = some x) (hf : f x = x) :
    updateFirst p f l = l := by
  induction l with
  | nil => rfl
  | cons y l ih =>
    unfold updateFirst
    by_cases hy : p y = true
    · have hyx : y = x := by simpa [hy] using h
      rw [if_pos hy, hyx, hf]
    · rw [if_neg hy, ih (by simpa [hy] using h)]

theorem modWarp_fixed {s : State} {u : Nat} {f : Warp → Warp} {w : Warp} (h : s.warp? u = some w) (hf : f w = w) : s.modWarp u f = s := by
  rw [State.modWarp, updateFirst_fixed h hf]

variable {c : Ctx} {s : State} {ws : List (Loc × Byte)}

theorem sameWarps_land (h : s.unwatched) (writer : Option Nat) : SameWarps s (s.land ws writer) := by
  obtain ⟨a, ha⟩ := land_eq (ws := ws) h writer
  rw [ha]
  exact sameWarps_perform s ws

/-- What a store makes of a state in which nothing is watched and its agent has no open region: its bytes land. -/
def Lands (effect : Ctx → State → List Acc → MemResult) (value : Ctx → Nat → Nat) : Prop :=
  ∀ c s as, s.unwatched → HasWarp c s → c.w.region = none → (effect c s as).1 = s.land (accWrites as (value c)) c.w.writer

theorem storeFrom_lands (value : Ctx → Nat → Nat) : Lands (fun c => c.storeFrom (value c)) value := by
  intro c s as _ hw hr
  obtain ⟨w, hfound, -⟩ := Option.map_eq_some_iff.1 hw
  have hnone : (s.warp? c.w.uid).bind (·.region) = none := by
    rw [hfound, Option.bind_some, hasWarp_part hw hfound Warp.region, hr]
  change s.store c.w _ = _
  unfold State.store
  rw [hnone]

theorem storeNowFrom_lands (value : Ctx → Nat → Nat) : Lands (fun c => c.storeNowFrom (value c)) value := by
  intro c s as hs hw hr
  have hland : HasWarp c (s.land (accWrites as (value c)) c.w.writer) := hasWarp_of_same hw (sameWarps_land hs _)
  obtain ⟨w, hfound, -⟩ := Option.map_eq_some_iff.1 hland
  have hnone : w.region = none := (hasWarp_part hland hfound Warp.region).trans hr
  exact modWarp_fixed hfound (by rw [hnone, Option.map_none, ← hnone])

/-- The places that a store covers lie in memories in canonical form. -/
theorem placed_stored {as : List Acc} (hs : s.canonical) (hview : ∀ k b, Loc.view k b ∉ stored as)
    (hscr : ∀ b k, Loc.scr b k ∈ stored as → (s.block? b).isSome = true)
    (hlds : ∀ u k, Loc.lds u k ∈ stored as → (s.warp? u).isSome = true)
    (hstripe : ∀ k x, Loc.stripe k x ∈ stored as → ∃ m, s.stripes.find? (·.frame == k) = some m) {l : Loc} (hl : l ∈ stored as) :
    Placed s l := by
  obtain ⟨hmem, hhost, hblocks, hwarps, hstripes⟩ := hs
  cases l with
  | dev => exact hmem
  | host => exact hhost
  | stripe k x =>
    obtain ⟨m, hm⟩ := hstripe k x hl
    exact ⟨m, hm, hstripes m (List.mem_of_find?_eq_some hm)⟩
  | scr b k =>
    obtain ⟨x, hx⟩ := Option.isSome_iff_exists.1 (hscr b k hl)
    exact ⟨x, hx, hblocks x (List.mem_of_find?_eq_some hx)⟩
  | lds u k =>
    obtain ⟨w, hw⟩ := Option.isSome_iff_exists.1 (hlds u k hl)
    exact ⟨w, hw, hwarps w (List.mem_of_find?_eq_some hw)⟩
  | view k b => exact absurd hl (hview k b)

theorem accWrites_stored {as : List Acc} {f : Nat → Nat} {p : Loc × Byte} (h : p ∈ accWrites as f) : p.1 ∈ stored as := by
  obtain ⟨a, ha, hp⟩ := List.mem_flatMap.1 h
  exact List.mem_flatMap.2 ⟨a, ha, (List.of_mem_zip hp).1⟩

variable {i : Instr} {opc : Nat} {uses : Ctx → List Use} {ok : Ctx → Prop} {kind : MemKind} {lanes : Ctx → List Nat}
  {target : Ctx → Nat → Option Dest} {address : Ctx → State → Nat → Except AFault (State × Acc)}
  {effect : Ctx → State → List Acc → MemResult} {value : Ctx → Nat → Nat}

/-- A store changes the bytes that its accesses cover, each to the last value written to it. -/
def StoreWrites (i : Instr) (opc : Nat) (uses : Ctx → List Use) (ok : Ctx → Prop) (kind : MemKind) (lanes : Ctx → List Nat)
    (target : Ctx → Nat → Option Dest) (address : Ctx → State → Nat → Except AFault (State × Acc)) (value : Ctx → Nat → Nat) : Prop :=
  ∀ s c s1 as t, s.ctx? = some c → Running c → Admitted c opc (uses c) → ok c → Unhindered c kind (lanes c) (target c) (address c) s1 as →
    c.w.region = none → s1.canonical → s1.unwatched → (∀ k b, Loc.view k b ∉ stored as) →
    (∀ b k, Loc.scr b k ∈ stored as → (s1.block? b).isSome = true) → (∀ u k, Loc.lds u k ∈ stored as → (s1.warp? u).isSome = true) →
    (∀ k x, Loc.stripe k x ∈ stored as → ∃ m, s1.stripes.find? (·.frame == k) = some m) → exec i s = .next t →
    (∀ l, l ∉ stored as → t.readByte l = s1.readByte l) ∧
    ∀ l b, ((accWrites as (value c)).reverse.find? (·.1 == l)).map (·.2) = some b →
      (∀ k x m, l = .stripe k x → s1.stripes.find? (·.frame == k) = some m → x < m.words * 512) → t.readByte l = b

theorem storeWrites_of (ha : Accesses i opc uses ok kind lanes target address effect) (he : kind.ends = false) (hn : kind.names = [])
    (hne : opc ≠ 0xBC) (heff : Lands effect value) (hwalk : WalksOnly address) :
    StoreWrites i opc uses ok kind lanes target address value := by
  intro s c s1 as t hc hrun hadm hok hu hregion hcan hunw hview hscr hlds hstripe ht
  obtain ⟨r, q, hent⟩ := entered_eq (c := c) he s1 as
  let e : State := { s1 with records := r, strongs := q }
  let ws := accWrites as (value c)
  have hw1 : HasWarp c s1 := hasWarp_resolved hc hwalk hu.2.1
  have hw : HasWarp c e := hw1
  have hunwe : e.unwatched := hunw
  have hplaced : ∀ p ∈ ws, Placed e p.1 := fun p hp => by
    have h := placed_stored hcan hview hscr hlds hstripe (accWrites_stored hp)
    generalize p.1 = l at h
    cases l <;> exact h
  have hentered : ∀ l, e.readByte l = s1.readByte l := fun l => by cases l <;> rfl
  have hland : HasWarp c (e.land ws c.w.writer) := hasWarp_of_same hw (sameWarps_land hunwe _)
  have hread : ∀ l, t.readByte l = (written e ws).readByte l := fun l => by
    rw [ha s c s1 as hc hadm hok (unhindered_names hn hu []), hent, heff c e as hunwe hw hregion] at ht
    cases ht
    exact (sameBytes_retire hrun (ctx_warp hc).2.1 hne hland l).trans (readByte_land hunwe (view_notMem_of_placed hplaced) _)
  refine ⟨fun l hl => ?_, fun l b hb hkeep => ?_⟩
  · rw [hread, readByte_written_ne hplaced, hentered]
    intro h
    obtain ⟨p, hp, rfl⟩ := List.mem_map.1 h
    exact hl (accWrites_stored hp)
  · rw [hread, readByte_written hplaced hkeep, lastWritten, hb]
    rfl

end Stores

/-- Settles O57, each instruction by its access and the frame of its shape. -/
theorem memoryFrames : Obligations.MemoryFrames := by
  unfold Obligations.MemoryFrames
  have hlinear : ∀ {write must win : Bool} {size : Ctx → Nat} {addr : Ctx → Nat → Nat},
      WalksOnly fun c s i => c.linear write must win (size c) s i (addr c i) := fun _ _ _ _ _ => sameWarps_linear
  have hscratch : ∀ {size : Ctx → Nat} {addr : Ctx → Nat → Nat}, WalksOnly fun c s i => c.scratch (size c) s i (addr c i) :=
    fun _ _ _ _ _ => sameWarps_scratch
  refine ⟨fun o => loadKeeps_of (ld_accesses o) rfl rfl (by decide) (fun _ _ _ => rfl) hlinear,
    fun o => loadKeeps_of (sld_word o) rfl rfl (by decide) (fun _ _ _ => rfl) hlinear,
    fun o => loadKeeps_of (lds_accesses o) rfl rfl (by decide) (fun _ _ _ => rfl) hscratch,
    fun o => loadKeeps_of (gather_accesses o) rfl rfl (by decide) (fun _ _ _ => rfl) hlinear,
    fun o => storeWrites_of (st_accesses o) rfl rfl (by decide) (storeFrom_lands _) hlinear,
    fun o => storeWrites_of (st4_accesses o) rfl rfl (by decide) (storeFrom_lands _) hlinear,
    fun o => storeWrites_of (sst_accesses o) rfl rfl (by decide) (storeNowFrom_lands _) hlinear,
    fun o => storeWrites_of (sts_accesses o) rfl rfl (by decide) (storeNowFrom_lands _) hscratch,
    fun o => storeWrites_of (scatter_accesses o) rfl rfl (by decide) (storeFrom_lands _) hlinear⟩

end Sys2Proof.Proofs
end

section
/-! SUPPORT. The order-table instructions of R153 to R157: which region and slabs an operand names, and what the three instructions do with
them. -/

namespace Sys2Proof.Proofs

open Sys2Proof.Machine Sys2Proof.Laws

section Orders

variable {c : Ctx} {o : X} {r : Region}

/-- The region that s y names (R153). -/
def NamesOrder (o : X) (r : Region) (c : Ctx) : Prop := c.st.region? c.fn (c.s o.y.toNat).toNat = some r

/-- The coordinate in s z lies in the first dimension (R155). -/
def InsideOrder (o : X) (r : Region) (c : Ctx) : Prop :=
  0 ≤ toSigned 32 (c.s o.z.toNat).toNat ∧ toSigned 32 (c.s o.z.toNat).toNat < (r.desc.shape.headD 1 : Int)

/-- The slab of the coordinate in s z. -/
def slabOf (o : X) (r : Region) (c : Ctx) : Nat := (toSigned 32 (c.s o.z.toNat).toNat).toNat / r.desc.slabRows

/-- The slabs that a pin or advice is for. -/
def slabsOf (o : X) (r : Region) (c : Ctx) : List Nat :=
  if o.imm.getLsbD 0 = true then List.range r.slabs.length else [slabOf o r c]

/-- The coordinate in s z lies outside the first dimension. -/
def OutsideOrder (o : X) (r : Region) (c : Ctx) : Prop :=
  toSigned 32 (c.s o.z.toNat).toNat < 0 ∨ (r.desc.shape.headD 1 : Int) ≤ toSigned 32 (c.s o.z.toNat).toNat

theorem inside_iff_not_outside : InsideOrder o r c ↔ ¬ OutsideOrder o r c := by
  unfold InsideOrder OutsideOrder
  omega

/-! #### The slab of the coordinate -/

theorem regionTrap_one : regionTrap 1 = .trap 0xC 32 := rfl

theorem regionTrap_two : regionTrap 2 = .trap 0xC 64 := rfl

theorem orderSlab_unnamed (h : c.st.region? c.fn (c.s o.y.toNat).toNat = none) : c.orderSlab o = .error (.trap 0xC 32) := by
  simp only [Ctx.orderSlab, h, regionTrap_one]

theorem orderSlab_outside (hr : NamesOrder o r c) (ho : OutsideOrder o r c) : c.orderSlab o = .error (.trap 0xC 64) := by
  unfold NamesOrder at hr
  simp only [Ctx.orderSlab, hr, regionTrap_two]
  exact if_pos ho

theorem orderSlab_inside (hr : NamesOrder o r c) (hi : InsideOrder o r c) : c.orderSlab o = .ok (r, slabOf o r c) := by
  unfold NamesOrder at hr
  simp only [Ctx.orderSlab, hr]
  exact if_neg (inside_iff_not_outside.1 hi)

/-! #### The slabs of a pin or advice -/

theorem orderSlabs_unnamed (h : c.st.region? c.fn (c.s o.y.toNat).toNat = none) : c.orderSlabs o = .error (.trap 0xC 32) := by
  unfold Ctx.orderSlabs
  split
  · simp only [h, regionTrap_one]
  · simp only [orderSlab_unnamed h]

theorem orderSlabs_outside (hb : o.imm.getLsbD 0 = false) (hr : NamesOrder o r c) (ho : OutsideOrder o r c) :
    c.orderSlabs o = .error (.trap 0xC 64) := by
  rw [Ctx.orderSlabs, bitAt_toNat, hb]
  simp only [Bool.false_eq_true, if_false, orderSlab_outside hr ho]

theorem orderSlabs_named (hr : NamesOrder o r c) (hn : o.imm.getLsbD 0 = true ∨ InsideOrder o r c) :
    c.orderSlabs o = .ok (r, slabsOf o r c) := by
  rw [Ctx.orderSlabs, bitAt_toNat, slabsOf]
  cases hb : o.imm.getLsbD 0 with
  | true =>
    unfold NamesOrder at hr
    simp only [if_true, hr]
  | false =>
    have hi : InsideOrder o r c := hn.resolve_left (by rw [hb]; exact Bool.false_ne_true)
    simp only [Bool.false_eq_true, if_false, orderSlab_inside hr hi]

/-! #### Codes -/

/-- A code that a pin or advice refuses (R142, reason 5). -/
def InvalidCode (o : X) (r : Region) (c : Ctx) : Prop :=
  65536 ≤ (c.s o.x.toNat).toNat ∨ codeValid r.desc.rank r.desc.blockLen (c.s o.x.toNat).toNat = false

theorem badCode_iff : r.badCode (c.s o.x.toNat) = true ↔ InvalidCode o r c := by
  simp only [Region.badCode, InvalidCode, Bool.or_eq_true, bne_iff_ne, ne_eq, Bool.not_eq_true']
  refine or_congr_left ?_
  omega

theorem not_badCode (h : (c.s o.x.toNat).toNat < 65536 ∧ codeValid r.desc.rank r.desc.blockLen (c.s o.x.toNat).toNat = true) :
    ¬ r.badCode (c.s o.x.toNat) = true := by
  rw [badCode_iff, InvalidCode, h.2]
  simp only [Bool.true_eq_false, or_false, not_le]
  exact h.1

/-! #### The instructions -/

/-- The four words of a slab's order entry (R153). -/
def orderEntry (o : X) (r : Region) (c : Ctx) : List Nat := ((r.slabs[slabOf o r c]?).map Slab.entry).getD [0, 0, 0, 0]

theorem rdord_retires (o : X) (r : Region) :
    Retires (.rdord o) 0xA1 (fun _ => [sdst o.x 4, ssrc o.y 1, ssrc o.z 1]) (fun c => NamesOrder o r c ∧ InsideOrder o r c)
      (fun c => c.st)
      (fun c => swrite o.x.toNat ((orderEntry o r c).getD 0 0) ++ swrite (o.x.toNat + 1) ((orderEntry o r c).getD 1 0) ++
        swrite (o.x.toNat + 2) ((orderEntry o r c).getD 2 0) ++ swrite (o.x.toNat + 3) ((orderEntry o r c).getD 3 0)) fun _ => 0 := by
  refine retires_of (fun _ => rfl) (fun _ _ => rfl) fun c h => ?_
  simp only [orderSlab_inside h.1 h.2]
  rfl

theorem pinord_retires (o : X) (r : Region) :
    Retires (.pinord o) 0xA2 (fun _ => orderUses o)
      (fun c => NamesOrder o r c ∧ (o.imm.getLsbD 0 = true ∨ InsideOrder o r c) ∧
        (c.s o.x.toNat = 0xFFFF ∨ (c.s o.x.toNat).toNat < 65536 ∧ codeValid r.desc.rank r.desc.blockLen (c.s o.x.toNat).toNat = true))
      (fun c => (slabsOf o r c).foldl (fun s k => s.pinSlab (regionKey r.fn r.index) k ((c.s o.x.toNat).setWidth 16)) c.st) (fun _ => [])
      fun _ => 0 := by
  refine retires_of (fun _ => rfl) (fun _ _ => rfl) fun c h => ?_
  obtain ⟨hr, hn, hcode⟩ := h
  have hgo : ¬ (c.s o.x.toNat ≠ 0xFFFF ∧ r.badCode (c.s o.x.toNat) = true) := fun ⟨hne, hbad⟩ =>
    hcode.elim hne fun hv => not_badCode hv hbad
  simp only [orderSlabs_named hr hn, if_neg hgo, BitVec.ofNat_toNat]

theorem advord_retires (o : X) (r : Region) :
    Retires (.advord o) 0xA3 (fun _ => orderUses o)
      (fun c => NamesOrder o r c ∧ (o.imm.getLsbD 0 = true ∨ InsideOrder o r c) ∧
        (bitsAt o.imm.toNat 4 1 = 0 ∨ (c.s o.x.toNat).toNat < 65536 ∧ codeValid r.desc.rank r.desc.blockLen (c.s o.x.toNat).toNat = true))
      (fun c => (slabsOf o r c).foldl
        (fun s k => s.adviseSlab (regionKey r.fn r.index) k ((c.s o.x.toNat).setWidth 16) (bitsAt o.imm.toNat 4 1)) c.st)
      (fun _ => []) fun _ => 0 := by
  refine retires_of (fun _ => rfl) (fun _ _ => rfl) fun c h => ?_
  obtain ⟨hr, hn, hcode⟩ := h
  have hgo : ¬ (bitsAt o.imm.toNat 4 1 ≠ 0 ∧ r.badCode (c.s o.x.toNat) = true) := fun ⟨hne, hbad⟩ =>
    hcode.elim hne fun hv => not_badCode hv hbad
  simp only [orderSlabs_named hr hn, if_neg hgo, BitVec.ofNat_toNat]

/-! #### Their faults -/

section Faults

variable {s : State}

theorem rdord_faults {info : Word} (hc : s.ctx? = some c) (ha : Admitted c 0xA1 [sdst o.x 4, ssrc o.y 1, ssrc o.z 1])
    (h : c.orderSlab o = .error (.trap 0xC info)) : exec (.rdord o) s = .next (c.trap 0xC info) := by
  change issue _ s _ _ _ = _
  rw [issue_go hc ha rfl]
  simp only [h]
  rfl

/-- A pin or advice that names no slab faults with the reason of its operand. -/
theorem slabs_fault {i : Instr} {opc : Nat} {info : Word} (hi : i = .pinord o ∧ opc = 0xA2 ∨ i = .advord o ∧ opc = 0xA3) (hc : s.ctx? = some c)
    (ha : Admitted c opc (orderUses o)) (h : c.orderSlabs o = .error (.trap 0xC info)) : exec i s = .next (c.trap 0xC info) := by
  obtain ⟨rfl, rfl⟩ | ⟨rfl, rfl⟩ := hi
  · change issue _ s _ _ _ = _
    rw [issue_go hc ha rfl]
    simp only [h]
    rfl
  · change issue _ s _ _ _ = _
    rw [issue_go hc ha rfl]
    simp only [h]
    rfl

theorem pinord_code_fault {ks : List Nat} (hc : s.ctx? = some c) (ha : Admitted c 0xA2 (orderUses o)) (h : c.orderSlabs o = .ok (r, ks))
    (hx : c.s o.x.toNat ≠ 0xFFFF) (hbad : InvalidCode o r c) : exec (.pinord o) s = .next (c.trap 0xC 160) := by
  change issue _ s _ _ _ = _
  rw [issue_go hc ha rfl]
  simp only [h, if_pos (And.intro hx (badCode_iff.2 hbad))]
  rfl

theorem advord_code_fault {ks : List Nat} (hc : s.ctx? = some c) (ha : Admitted c 0xA3 (orderUses o)) (h : c.orderSlabs o = .ok (r, ks))
    (hw : bitsAt o.imm.toNat 4 1 ≠ 0) (hbad : InvalidCode o r c) : exec (.advord o) s = .next (c.trap 0xC 160) := by
  change issue _ s _ _ _ = _
  rw [issue_go hc ha rfl]
  simp only [h, if_pos (And.intro hw (badCode_iff.2 hbad))]
  rfl

end Faults

end Orders

/-- Settles O24: each instruction by the lemma about the slabs that its operands name. -/
theorem orderTable : Obligations.OrderTable := by
  unfold Obligations.OrderTable
  refine ⟨⟨rdord_retires, pinord_retires, advord_retires⟩, fun o s c hc => ⟨fun ha => ⟨fun hn => ?_, fun r hr hout => ?_⟩, ?_⟩⟩
  · exact rdord_faults hc ha (orderSlab_unnamed hn)
  · exact rdord_faults hc ha (orderSlab_outside hr hout)
  · refine fun i opc hi ha => ⟨fun hn => slabs_fault hi hc ha (orderSlabs_unnamed hn), fun r hr => ⟨fun hb hout => ?_, ?_, ?_⟩⟩
    · exact slabs_fault hi hc ha (orderSlabs_outside hb hr hout)
    · rintro rfl hn hx hbad
      obtain ⟨rfl, -⟩ | ⟨-, h⟩ := hi
      · exact pinord_code_fault hc ha (orderSlabs_named hr (hn.imp_right inside_iff_not_outside.2)) hx hbad
      · exact absurd h (by decide)
    · rintro rfl hn hw hbad
      obtain ⟨-, h⟩ | ⟨rfl, -⟩ := hi
      · exact absurd h (by decide)
      · exact advord_code_fault hc ha (orderSlabs_named hr (hn.imp_right inside_iff_not_outside.2)) hw hbad

end Sys2Proof.Proofs
end

section
/-! SUPPORT. PREF and PROBE, the fences and the barrier instructions of R158 to R166: the checks that they pass and what they leave. -/

namespace Sys2Proof.Proofs

open Sys2Proof.Machine Sys2Proof.Laws

/-! ### Checks -/

section Checks

variable {opc : Nat} {o : X} {c : Ctx}

theorem scopeCheck_ok (h : o.imm.toNat % 8 < 5) : scopeCheck opc o c = none := if_neg (by omega)

theorem compactedCheck_ok (h : c.dense = false) : c.compactedCheck = none := by
  unfold Ctx.compactedCheck
  rw [h]
  exact if_neg Bool.false_ne_true

theorem barCheck_ok (h : c.dense = false ∧ o.imm.toNat % 16 < 12 ∧ c.arrived (o.imm.toNat % 16) = false) : barCheck opc o c = none := by
  obtain ⟨hd, hn, ha⟩ := h
  simp only [barCheck, compactedCheck_ok hd, if_neg (Nat.not_le.2 hn), ha, Bool.false_eq_true, if_false]

/-- The phase of a barrier object of the agent's block. -/
def phaseAt (c : Ctx) (obj : Nat) : Nat := (c.block?.map fun b => (b.barrier obj).2).getD 0

end Checks

/-! ### PREF, PROBE and the fences -/

theorem pref_retires (o : M) : Retires (.pref o) 0xA4 (fun _ => [vsrc o.base 0 o.lb 2]) (fun _ => o.d.toNat < 2) (fun c => c.st)
    (fun _ => []) fun _ => 0 :=
  retires_of (fun _ => rfl) (fun _ h => if_neg (Nat.not_le.2 h)) fun _ _ => rfl

theorem probe_retires (o : X) : Retires (.probe o) 0xA5 (fun _ => [vdst o.x 1, vsrc o.y 0 false 2]) always
    (fun c => { c.st with free := c.st.free + 32 })
    (fun c => vwrite o.x.toNat false c.act fun i => c.st.probe c.fn (c.val true o.y.toNat i) (c.st.free + i)) fun _ => 0 :=
  retires_of (fun _ => rfl) (fun _ _ => rfl) fun _ _ => rfl

/-- An instruction whose scope is legal and whose body only ends what came before. -/
theorem fence_retires {i : Instr} {opc : Nat} {o : X} {out : Ctx → State}
    (he : ∀ s, exec i s = issue opc s (fun _ => []) (scopeCheck opc o) fun c => .done (out c) [] 0) :
    Retires i opc (fun _ => []) (fun _ => o.imm.toNat % 8 < 5) out (fun _ => []) fun _ => 0 :=
  retires_of he (fun _ => scopeCheck_ok) fun _ _ => rfl

/-! ### Barriers -/

theorem bar_blocks (o : X) : Blocks (.bar o) 0xAC (fun _ => [])
    (fun c => c.dense = false ∧ o.imm.toNat % 16 < 12 ∧ c.arrived (o.imm.toNat % 16) = false) Ctx.fenced
    fun _ => .wait (.arrive (o.imm.toNat % 16) none) :=
  blocks_of (fun _ => rfl) (fun _ => barCheck_ok) fun _ _ => rfl

theorem bara_blocks (o : X) : Blocks (.bara o) 0xAD (fun _ => [sdst o.x 1])
    (fun c => c.dense = false ∧ o.imm.toNat % 16 < 12 ∧ c.arrived (o.imm.toNat % 16) = false) Ctx.fenced
    fun _ => .wait (.arrive (o.imm.toNat % 16) (some o.x.toNat)) :=
  blocks_of (fun _ => rfl) (fun _ => barCheck_ok) fun _ _ => rfl

section Barw

variable (o : X)

theorem barw_retires : Retires (.barw o) 0xAE (fun _ => [ssrc o.y 1])
    (fun c => c.dense = false ∧ o.imm.toNat % 16 < 12 ∧ phaseAt c (o.imm.toNat % 16) ≠ (c.s o.y.toNat).toNat % 16) Ctx.fenced
    (fun _ => []) fun _ => 0 := by
  refine retires_of (fun _ => rfl) (fun c ⟨hd, hn, _⟩ => ?_) fun c ⟨_, _, hp⟩ => if_pos hp
  simp only [compactedCheck_ok hd, if_neg (Nat.not_le.2 hn)]

theorem barw_blocks : Blocks (.barw o) 0xAE (fun _ => [ssrc o.y 1])
    (fun c => c.dense = false ∧ o.imm.toNat % 16 < 12 ∧ phaseAt c (o.imm.toNat % 16) = (c.s o.y.toNat).toNat % 16) Ctx.fenced
    fun c => .wait (.barw (o.imm.toNat % 16) ((c.s o.y.toNat).toNat % 16)) := by
  refine blocks_of (fun _ => rfl) (fun c ⟨hd, hn, _⟩ => ?_) fun c ⟨_, _, hp⟩ => if_neg (not_not.2 hp)
  simp only [compactedCheck_ok hd, if_neg (Nat.not_le.2 hn)]

end Barw

theorem clbar_blocks (o : X) : Blocks (.clbar o) 0xAF (fun _ => []) (fun c => c.dense = false) Ctx.fenced
    fun _ => .wait (.arrive (12 + o.imm.toNat % 4) none) :=
  blocks_of (fun _ => rfl) (fun _ => compactedCheck_ok) fun _ _ => rfl

theorem gbar_blocks : Blocks .gbar 0xB0 (fun _ => []) (fun c => c.dense = false ∧ (c.launch?.map (·.cores)).getD false = true) Ctx.fenced
    fun _ => .wait (.arrive 16 none) := by
  refine blocks_of (fun _ => rfl) (fun c ⟨hd, hl⟩ => ?_) fun _ _ => rfl
  simp only [compactedCheck_ok hd, hl, if_true]

/-- Settles O25, each instruction by its own lemma. -/
theorem fencesAndBarriers : Obligations.FencesAndBarriers := by
  unfold Obligations.FencesAndBarriers
  exact ⟨⟨pref_retires, probe_retires, fun o => fence_retires (o := o) fun _ => rfl, fun o => fence_retires (o := o) fun _ => rfl,
      fun o => fence_retires (o := o) fun _ => rfl, fun o => fence_retires (o := o) fun _ => rfl⟩,
    bar_blocks, bara_blocks, barw_retires, barw_blocks, clbar_blocks, gbar_blocks⟩

end Sys2Proof.Proofs
end

section
/-! SUPPORT. The wait instructions of R167 to R170 and R189: the word that a wait on memory reads, the three answers of a wait on a
timeline, and the counters. -/

namespace Sys2Proof.Proofs

open Sys2Proof.Machine Sys2Proof.Laws

/-! ### A pair of words as one number -/

theorem leNat_append (xs ys : List Byte) : leNat (xs ++ ys) = leNat xs + 256 ^ xs.length * leNat ys := by
  induction xs with
  | nil => simp [leNat]
  | cons x xs ih => rw [List.cons_append, leNat, ih, leNat, List.length_cons, pow_succ]; ring

/-- The number that a written scalar pair holds. -/
theorem leNat_swrite2 (r x : Nat) : leNat ((swrite2 r x).flatMap fun w => leBytes 4 ((w.vals.headD 0).toNat)) = x % 2 ^ 64 := by
  change leNat (leBytes 4 (BitVec.ofNat 32 x).toNat ++ (leBytes 4 (BitVec.ofNat 32 (x / 2 ^ 32)).toNat ++ [])) = _
  rw [List.append_nil, leNat_append, leNat_leBytes, leNat_leBytes, leBytes_length, BitVec.toNat_ofNat, BitVec.toNat_ofNat]
  norm_num only
  omega

/-! ### Waits on memory (R167) -/

section Memory

variable {c : Ctx} {o : X} {s1 : State} {a : Acc}

/-- The access of WAITGE and WAITNE (R167, R258). -/
abbrev pollKind : MemKind := { write := false, strong := true, ends := true }

/-- The state in which a wait has read its word. -/
def polled (c : Ctx) (s1 : State) (a : Acc) : State := (c.entered pollKind s1 [a]).completeOps c.w.uid (·.memory)

/-- The word that a wait has read. -/
def polledWord (c : Ctx) (s1 : State) (a : Acc) : Nat := leNat ((c.entered pollKind s1 [a]).readLocs a.locs) % 2 ^ 64

/-- Nothing holds back the read of the word that s x addresses. -/
def PollsWord (c : Ctx) (o : X) (s1 : State) (a : Acc) : Prop :=
  Unhindered c pollKind [c.uniLane] (fun _ => none) (fun s i => c.linear false true false 8 s i (c.s2 o.x.toNat)) s1 [a]

theorem waitWord_ok (h : PollsWord c o s1 a) : c.waitWord (c.s2 o.x.toNat) = .ok (polled c s1 a, polledWord c s1 a) := by
  unfold Ctx.waitWord
  rw [access_done h]
  exact congrArg (fun v => Except.ok (polled c s1 a, v)) (leNat_swrite2 1 _)

/-- The condition of WAITNE, or else of WAITGE. -/
def WaitHolds (ne : Bool) (v y : Nat) : Prop := if ne then v ≠ y else y ≤ v

/-- What the split of WAITNE, or else of WAITGE, waits for. -/
def waitCond (ne : Bool) (va y : Dword) : Cond := if ne then .memNe va y else .memGe va y

theorem waitMem_goes {ne : Bool} (h : PollsWord c o s1 a) (hv : WaitHolds ne (polledWord c s1 a) (c.s2 o.y.toNat)) :
    c.waitMem o ne = .done (polled c s1 a) [] 0 := by
  unfold Ctx.waitMem
  simp only [waitWord_ok h]
  exact if_pos hv

theorem waitMem_waits {ne : Bool} (h : PollsWord c o s1 a) (hv : ¬ WaitHolds ne (polledWord c s1 a) (c.s2 o.y.toNat)) :
    c.waitMem o ne = .wait (polled c s1 a) (.wait (waitCond ne (dword (c.s2 o.x.toNat)) (dword (c.s2 o.y.toNat)))) := by
  unfold Ctx.waitMem
  simp only [waitWord_ok h]
  exact if_neg hv

/-- The state in which the split of a context has a status. -/
def blockedIn (c : Ctx) (t : State) (st : Status) : State :=
  (t.modWarp c.w.uid fun w => w.setSplit c.k { ((w.splits[c.k]?).getD Split.free) with status := st }).after c.w.uid

theorem waitMem_answers {i : Instr} {opc : Nat} {ne : Bool} {s : State}
    (he : exec i s = issue opc s (fun _ => [ssrc o.x 2, ssrc o.y 2]) (scopeCheck opc o) fun c => c.waitMem o ne) (hc : s.ctx? = some c)
    (ha : Admitted c opc [ssrc o.x 2, ssrc o.y 2]) (hs : o.imm.toNat % 8 < 5) (h : PollsWord c o s1 a) :
    (WaitHolds ne (polledWord c s1 a) (c.s2 o.y.toNat) →
      exec i s = .next (c.retire opc [ssrc o.x 2, ssrc o.y 2] (polled c s1 a) [] 0)) ∧
    (¬ WaitHolds ne (polledWord c s1 a) (c.s2 o.y.toNat) →
      exec i s = .next (blockedIn c (polled c s1 a) (.wait (waitCond ne (dword (c.s2 o.x.toNat)) (dword (c.s2 o.y.toNat)))))) := by
  refine ⟨fun hv => he.trans (issue_done hc ha (scopeCheck_ok hs) (waitMem_goes h hv)), fun hv => ?_⟩
  rw [he, issue_go hc ha (scopeCheck_ok hs), waitMem_waits h hv]
  rfl

end Memory

/-! ### Waits on a timeline (R168, R189, R286) -/

section Timelines

variable {c : Ctx} {code y : Nat} {cond : Cond} {l : Line}

theorem waitLine_goes (hl : c.st.line c.w code = some l) (hd : y ≤ l.done) (hf : ∀ f ∈ l.failed, y < f.num) :
    c.waitLine code y cond = .done c.fenced [] 0 := by
  have hnone : (l.failed.find? fun f => f.num ≤ y) = none := List.find?_eq_none.2 fun f hm => by simpa using hf f hm
  simp only [Ctx.waitLine, hl, if_neg (Nat.not_lt.2 hd), hnone]

theorem waitLine_waits (hl : c.st.line c.w code = some l) (hd : l.done < y) : c.waitLine code y cond = .wait c.fenced (.wait cond) := by
  simp only [Ctx.waitLine, hl, if_pos hd]

theorem waitLine_reports {f : Failure} (hl : c.st.line c.w code = some l) (hd : y ≤ l.done)
    (hf : (l.failed.find? fun f => f.num ≤ y) = some f) :
    c.waitLine code y cond = .trapIn (c.fenced.reported c.w code f.num) f.cause f.info := by
  simp only [Ctx.waitLine, hl, if_neg (Nat.not_lt.2 hd), hf]

/-- The answers of an instruction that waits on a timeline: it goes on, waits, or reports the first failure that it covers. -/
def LineWait (i : X → Instr) (opc : Nat) (u : X → List Use) (pre : X → Ctx → Prop) (code : X → Nat) (cond : X → Nat → Cond) : Prop :=
  (∀ (o : X) (l : Line), Retires (i o) opc (fun _ => u o)
    (fun c => pre o c ∧ c.st.line c.w (code o) = some l ∧ c.s2 o.y.toNat ≤ l.done ∧ ∀ f ∈ l.failed, c.s2 o.y.toNat < f.num) Ctx.fenced
    (fun _ => []) fun _ => 0) ∧
  (∀ (o : X) (l : Line), Blocks (i o) opc (fun _ => u o)
    (fun c => pre o c ∧ c.st.line c.w (code o) = some l ∧ l.done < c.s2 o.y.toNat) Ctx.fenced fun c => .wait (cond o (c.s2 o.y.toNat))) ∧
  ∀ (o : X) (l : Line) (f : Failure), Completes (i o) opc (fun _ => u o)
    (fun c => pre o c ∧ c.st.line c.w (code o) = some l ∧ c.s2 o.y.toNat ≤ l.done ∧
      l.failed.find? (fun f => f.num ≤ c.s2 o.y.toNat) = some f)
    fun c => (c.fenced.reported c.w (code o) f.num).takeTrap c.w.uid c.k f.cause f.info c.sp.pc c.sp.slot

theorem lineWait_of {i : X → Instr} {opc : Nat} {u : X → List Use} {pre : X → Ctx → Prop} {code : X → Nat} {cond : X → Nat → Cond}
    {own : X → Ctx → Option (Nat × Word)} (hown : ∀ o c, pre o c → own o c = none)
    (he : ∀ o s, exec (i o) s = issue opc s (fun _ => u o) (own o) fun c =>
      c.waitLine (code o) (c.s2 o.y.toNat) (cond o (c.s2 o.y.toNat))) : LineWait i opc u pre code cond := by
  refine ⟨fun o l => ?_, fun o l => ?_, fun o l f => ?_⟩
  · exact retires_of (he o) (fun c h => hown o c h.1) fun c ⟨_, hl, hd, hf⟩ => waitLine_goes hl hd hf
  · exact blocks_of (he o) (fun c h => hown o c h.1) fun c ⟨_, hl, hd⟩ => waitLine_waits hl hd
  · exact completes_of (he o) (fun c h => hown o c h.1) fun c ⟨_, hl, hd, hf⟩ => by
      rw [waitLine_reports hl hd hf]
      rfl

/-- TLWAIT and TLREAD accept the timeline that their immediate names (R28, R168). -/
def NamesLine (o : X) (c : Ctx) : Prop := c.native = false ∧ (o.imm.toNat % 4 = 1 → (c.st.ctxNum c.w).isSome = true)

theorem lineCheck_ok {opc : Nat} {o : X} (h : NamesLine o c) : lineCheck opc o c = none := by
  obtain ⟨hn, hm⟩ := h
  have hgo : ¬ (o.imm.toNat % 4 = 1 ∧ (c.st.ctxNum c.w).isNone = true) := fun ⟨h1, h2⟩ => by
    rw [Option.isNone_iff_eq_none.1 h2] at hm
    exact Bool.false_ne_true (hm h1)
  simp only [lineCheck, hn, Bool.false_eq_true, if_false, if_neg hgo]

theorem matCheck_ok (h : c.dense = false ∧ c.mat?.isSome = true) : matCheck c = none := by
  obtain ⟨hd, hm⟩ := h
  have hnone : c.mat?.isNone = false := by rw [Option.isNone_eq_false_iff]; exact hm
  simp only [matCheck, hd, hnone, Bool.false_eq_true, if_false]

theorem tlwait_waits : LineWait .tlwait 0xB3 (fun o => [ssrc o.y 2]) NamesLine (fun o => o.imm.toNat % 4)
    fun o y => .timeline (o.imm.toNat % 4) (dword y) :=
  lineWait_of (fun _ _ => lineCheck_ok) fun _ _ => rfl

theorem waitb_waits : LineWait .waitb 0xC5 (fun o => [ssrc o.y 2]) (fun _ c => c.dense = false ∧ c.mat?.isSome = true) (fun _ => 1)
    fun _ y => .batch (dword y) :=
  lineWait_of (fun _ _ => matCheck_ok) fun _ _ => rfl

theorem tlread_retires (o : X) (l : Line) : Retires (.tlread o) 0xB4 (fun _ => [sdst o.x 2])
    (fun c => NamesLine o c ∧ c.st.line c.w (o.imm.toNat % 4) = some l) (fun c => c.st)
    (fun _ => swrite2 o.x.toNat (if o.imm.getLsbD 2 = true then l.issued else l.done)) fun _ => 0 := by
  refine retires_of (fun _ => rfl) (fun _ h => lineCheck_ok h.1) fun c ⟨_, hl⟩ => ?_
  simp only [hl, bitAt_toNat]

end Timelines

/-! ### Counters (R169, R170) -/

section Counters

variable {c : Ctx} {o : X}

/-- The place in the block's scratchpad that s x names. -/
def counterOff (o : X) (c : Ctx) : Nat := (c.s o.x.toNat).toNat

/-- The access of CTRWAIT. -/
abbrev counterKind : MemKind := { write := false, ends := true }

/-- The state in which CTRWAIT has read its counter. -/
def counterRead (c : Ctx) (s1 : State) (a : Acc) : State := (c.entered counterKind s1 [a]).completeOps c.w.uid (·.memory)

theorem ctrwait_answers {s s1 : State} {a : Acc} (hc : s.ctx? = some c) (ha : Admitted c 0xB6 [ssrc o.x 1, ssrc o.y 2])
    (h : Unhindered c counterKind [c.uniLane] (stays c) (fun s i => c.scratch 8 s i (counterOff o c)) s1 [a]) {t1 : State} {b : Acc}
    (hb : c.scratch 8 (counterRead c s1 a) c.uniLane (counterOff o c) = .ok (t1, b)) :
    (c.s2 o.y.toNat ≤ leNat ((counterRead c s1 a).readLocs b.locs) →
      exec (.ctrwait o) s = .next (c.retire 0xB6 [ssrc o.x 1, ssrc o.y 2] (counterRead c s1 a) [] 0)) ∧
    (leNat ((counterRead c s1 a).readLocs b.locs) < c.s2 o.y.toNat →
      exec (.ctrwait o) s =
        .next (blockedIn c (counterRead c s1 a) (.wait (.counter (counterOff o c) (dword (c.s2 o.y.toNat)))))) := by
  unfold counterOff at hb
  have hread : (c.access counterKind [c.uniLane] (fun _ => none) (fun s i => c.scratch 8 s i (c.s o.x.toNat).toNat) fun s _ =>
      (s.completeOps c.w.uid (·.memory), [], 0)) = .done (counterRead c s1 a) [] 0 := access_done h
  refine ⟨fun hv => ?_, fun hv => ?_⟩
  · change issue _ s _ _ _ = _
    refine issue_done hc ha rfl ?_
    simp only [hread, hb, if_pos hv]
  · change issue _ s _ _ _ = _
    rw [issue_go hc ha rfl]
    simp only [hread, hb, if_neg (Nat.not_le.2 hv)]
    rfl

/-- The counters of the block at other places. -/
def otherCounters (o : X) (b : Block) (c : Ctx) : List Counter := b.counters.filter fun x => x.off != counterOff o c

/-- CTRARM accepts its counter and its range (R169). -/
def MayArm (o : X) (b : Block) (c : Ctx) : Prop :=
  c.block? = some b ∧ (∃ x, c.scratch 8 c.st c.uniLane (c.s o.x.toNat).toNat = .ok x) ∧
    ((c.s o.z.toNat).toNat = 0 ∨ c.st.rangeBad b (c.s o.y.toNat).toNat (c.s o.z.toNat).toNat = none) ∧
    counterRefused (b.counters.filter fun x => x.off != (c.s o.x.toNat).toNat) (c.s o.x.toNat).toNat (c.s o.y.toNat).toNat
      (c.s o.z.toNat).toNat = false

/-- The state in which the block's counter is armed, or disarmed. -/
def armedIn (o : X) (b : Block) (c : Ctx) (t : State) : State :=
  t.modBlock b.uid fun x => { x with counters := (b.counters.filter fun x => x.off != (c.s o.x.toNat).toNat) ++
    if (c.s o.z.toNat).toNat = 0 then [] else [{ off := (c.s o.x.toNat).toNat, start := (c.s o.y.toNat).toNat, len := (c.s o.z.toNat).toNat }] }

theorem armRange_ok {b : Block} (h : (c.s o.z.toNat).toNat = 0 ∨ c.st.rangeBad b (c.s o.y.toNat).toNat (c.s o.z.toNat).toNat = none) :
    (if (c.s o.z.toNat).toNat = 0 then none else c.st.rangeBad b (c.s o.y.toNat).toNat (c.s o.z.toNat).toNat) = none := by
  split
  · rfl
  · next hne => exact h.resolve_left hne

theorem ctrarm_retires (o : X) (b : Block) : Retires (.ctrarm o) 0xB5 (fun _ => [ssrc o.x 1, ssrc o.y 1, ssrc o.z 1])
    (fun c => MayArm o b c ∧ o.imm.getLsbD 0 = false) (fun c => armedIn o b c c.fenced) (fun _ => []) fun _ => 0 := by
  refine retires_of (fun _ => rfl) (fun _ _ => rfl) fun c ⟨⟨hb, ⟨x, hx⟩, hr, hn⟩, hi⟩ => ?_
  simp only [hb, hx, armRange_ok hr, hn, bitAt_toNat, hi, Bool.false_eq_true, if_false]
  rfl

theorem ctrarm_accesses (o : X) (b : Block) : Accesses (.ctrarm o) 0xB5 (fun _ => [ssrc o.x 1, ssrc o.y 1, ssrc o.z 1])
    (fun c => MayArm o b c ∧ o.imm.getLsbD 0 = true) { write := true, ends := true } (fun c => [c.uniLane]) stays
    (fun c s i => c.scratch 8 s i (c.s o.x.toNat).toNat) fun c s as =>
      ((armedIn o b c (s.completeOps c.w.uid (·.memory))).land (List.zip (as.flatMap (·.locs)) (leBytes 8 0)) c.w.writer, [], 0) := by
  refine accesses_of (fun _ => rfl) (fun _ _ => rfl) rfl fun c ⟨⟨hb, ⟨x, hx⟩, hr, hn⟩, hi⟩ => ?_
  simp only [hb, hx, armRange_ok hr, hn, bitAt_toNat, hi, Bool.false_eq_true, if_false, if_true]
  rfl

end Counters

/-- Settles O27: the waits on memory by the word that they read, those on a timeline by their three answers, the counters each by its own
lemma. -/
theorem waits : Obligations.Waits := by
  unfold Obligations.Waits
  refine ⟨?_, ?_, tlwait_waits, waitb_waits, tlread_retires, ?_, ctrarm_retires, ctrarm_accesses⟩
  · exact fun o s c s1 a hc ha hs h => waitMem_answers (ne := false) rfl hc ha hs h
  · exact fun o s c s1 a hc ha hs h => waitMem_answers (ne := true) rfl hc ha hs h
  · exact fun o s c s1 a hc ha h t1 b hb => ctrwait_answers hc ha h hb

end Sys2Proof.Proofs
end

section
/-! SUPPORT. The events that end waits and that grant or refuse GROW requests (R18, R19, R167 to R170, R189, R216, R269, R413). -/

namespace Sys2Proof.Proofs

open Sys2Proof.Machine Sys2Proof.Laws

/-! ### Splits whose wait is over -/

section Wakes

variable {s : State} {w : Warp} {sp : Split}

theorem condHolds_svcSlot {k : Nat} {a : Dword} (h : 0 < s.freeSlots true a.toNat) : s.condHolds w k (.svcSlot a) = true := by
  simp only [State.condHolds, h, decide_true]

/-- A split whose wait is over executes its instruction again. -/
theorem wakeSplit_wakes {u k : Nat} {p : Cond → Bool} {cond : Cond} (hw : s.warp? u = some w) (hsp : w.splits[k]? = some sp)
    (hl : sp.live = true) (hst : sp.status = .wait cond) (hp : p cond = true) (hc : s.condHolds w k cond = true) :
    s.wakeSplit u k p = (s.poll w cond).setSplit u k { sp with status := .ready } := by
  simp only [State.wakeSplit, hw, hsp, hst, hl, hp, hc, Bool.not_true, Bool.or_self, Bool.false_eq_true, if_false, if_true]

variable (hw : s.warp? s.args.a = some w) (hsp : w.splits[s.args.b]? = some sp)
include hw hsp

/-- An event that wakes its split where the split's wait is over. -/
theorem wakes_of {i : Instr} {p : Cond → Bool} {cond : Cond} (he : exec i s = .next (s.wakeSplit s.args.a s.args.b p))
    (hl : sp.live = true) (hst : sp.status = .wait cond) (hp : p cond = true) (hc : s.condHolds w s.args.b cond = true) :
    exec i s = .next ((s.poll w cond).setSplit s.args.a s.args.b { sp with status := .ready }) := by
  rw [he, wakeSplit_wakes hw hsp hl hst hp hc]

/-- The reply of a service call completes it (R216). -/
theorem svcReplyWake_completes {va : Dword} {bs : List Byte} {s0 : State} {i : Word} (hst : sp.status = .svc va)
    (hr : s.readVa (s.fnOf w) w.die va.toNat 8 = some bs) (hf : s.fetchWord w (sp.pc.toNat + 4 * sp.slot) = .ok (s0, i))
    (hb : bitAt (leNat bs) 63 = true) :
    exec .svcReplyWake s = .next (((((s.touch (s.fnOf w) w.die va.toNat 8).completeOps w.uid (·.memory)).endSfr w.uid).applyWrites w
      (swrite2 (bitsAt i.toNat 23 19) (leNat bs % 2 ^ 63))).setSplit w.uid s.args.b { sp.advance with status := .ready }) := by
  change execSvcReplyWake s = _
  simp only [execSvcReplyWake, hw, hsp, hst, hr, hf, hb, if_true]

theorem stallAt_record {l : Loc} (hst : sp.status = .wait (.record l)) : s.stallAt s.args.a s.args.b = some l := by
  simp only [State.stallAt, hw, hsp, Option.bind_some, hst]

/-- A split that stalls at a full line closes the oldest closable record of an owner that is no warp (R269). -/
theorem recordCloseRequest_closes {l : Loc} {r : SfrRecord} (hst : sp.status = .wait (.record l))
    (hr : (s.lineRecords l).find? (·.closable) = some r) (hn : s.warp? r.owner = none) :
    exec .recordCloseRequest s = .next (s.closeRecords r.owner) := by
  change execRecordCloseRequest s = _
  simp only [execRecordCloseRequest, stallAt_record hw hsp hst, Option.bind_some, hr, hn]

/-- A split that stalls at a full line asks the agent of the oldest closable record (R269). -/
theorem recordCloseRequest_asks {l : Loc} {r : SfrRecord} {x : Warp} (hst : sp.status = .wait (.record l))
    (hr : (s.lineRecords l).find? (·.closable) = some r) (hx : s.warp? r.owner = some x) :
    exec .recordCloseRequest s = .next (if x.closesNow then s.endSfr x.uid else s.setWarp { x with closeReq := true }) := by
  change execRecordCloseRequest s = _
  simp only [execRecordCloseRequest, stallAt_record hw hsp hst, Option.bind_some, hr, hx]

end Wakes

/-! ### GROW requests (R18, R19) -/

section Grow

variable {s : State} {q : GrowReq} {w : Warp} {core : Nat}

/-- The oldest request of a core. -/
def OldestGrow (s : State) (core : Nat) (q : GrowReq) : Prop :=
  s.growQ.find? (fun q => ((s.warp? q.warp).map (·.core)) == some core) = some q

/-- A warp whose request is answered: its split goes on, and its register takes the status. -/
def growAnswered (q : GrowReq) (status : Word) (w : Warp) : Warp :=
  (w.setSplit q.split { ((w.splits[q.split]?).getD Split.free).advance with status := .ready }).putS q.dst status false

theorem growGrants_grants (hq : OldestGrow s core q) (hw : s.warp? q.warp = some w) (hfit : (q.want : Int) - w.quota ≤ s.poolFree core)
    (fuel : Nat) : s.growGrants core (fuel + 1) =
      ({ s.setWarp (growAnswered q 0 { w with quota := max w.quota q.want }) with growQ := s.growQ.filter (· != q) } : State).growGrants
        core fuel := by
  unfold OldestGrow at hq
  rw [State.growGrants]
  simp only [hq, hw, if_pos hfit]
  rfl

theorem growGrants_waits (hq : OldestGrow s core q) (hw : s.warp? q.warp = some w) (hfit : s.poolFree core < (q.want : Int) - w.quota)
    (fuel : Nat) : s.growGrants core (fuel + 1) = s := by
  unfold OldestGrow at hq
  rw [State.growGrants]
  simp only [hq, hw, if_neg (not_le.2 hfit)]

theorem growDeadlock_fails (hq : s.growDeadlock s.args.a = some q) : exec .growDeadlock s =
    .next (({ s.modWarp q.warp (growAnswered q 1) with growQ := s.growQ.filter (· != q) } : State).growGrants s.args.a 96) := by
  change execGrowDeadlock s = _
  simp only [execGrowDeadlock, hq]
  rfl

end Grow

/-- Settles O42: the waits by the rule for a split that is woken, the other events each by its own lemma. -/
theorem waitEvents : Obligations.WaitEvents := by
  unfold Obligations.WaitEvents
  refine ⟨fun s w sp hw hsp hl => ?_, fun s q w hq hw => ⟨fun hfit => ?_, fun hfit => ?_, growDeadlock_fails⟩⟩
  · refine ⟨fun va v hst hc => ?_, fun va v hst hc => ?_, fun code v hst hc => ?_, fun off v hst hc => ?_, fun v hst hc => ?_,
      fun a hst hfree => ?_, fun va bs s0 i => svcReplyWake_completes hw hsp, fun l r hst hr =>
        ⟨recordCloseRequest_closes hw hsp hst hr, fun x => recordCloseRequest_asks hw hsp hst hr⟩⟩
    · exact wakes_of hw hsp rfl hl hst rfl hc
    · exact wakes_of hw hsp rfl hl hst rfl hc
    · exact wakes_of hw hsp rfl hl hst rfl hc
    · exact wakes_of hw hsp rfl hl hst rfl hc
    · exact wakes_of hw hsp rfl hl hst rfl hc
    · exact wakes_of hw hsp rfl hl hst rfl (condHolds_svcSlot hfree)
  · exact congrArg Host.Outcome.next (growGrants_grants hq hw hfit 95)
  · exact congrArg Host.Outcome.next (growGrants_waits hq hw hfit 95)

end Sys2Proof.Proofs
end

section
/-! SUPPORT. The order of TOPK (R213): the place of a number on the extended line, which orders scores, the order of entries that follows
from it, and insertion into a list in that order. -/

namespace Sys2Proof.Proofs

open Sys2Proof.Machine Sys2Proof.Laws

/-! ### Numbers on the extended line -/

/-- The finite value (-1)^neg x m x 2^e. -/
def finiteValue (neg : Bool) (m : Nat) (e : Int) : ℚ := (if neg then -(m : ℚ) else m) * 2 ^ e

/-- The place of a number that is no NaN among the rationals and both infinities. -/
def lineValue : Fp → WithBot (WithTop ℚ)
  | .nan _ => ⊥
  | .inf neg => if neg then ⊥ else ⊤
  | .fin neg m e => ((finiteValue neg m e : WithTop ℚ) : WithBot (WithTop ℚ))

theorem finiteValue_eq {q e : Int} (h : q ≤ e) (neg : Bool) (m : Nat) : finiteValue neg m e = (signedAt neg m e q : ℚ) * 2 ^ q := by
  have hpow : (2 : ℚ) ^ e = (2 : ℚ) ^ (e - q).toNat * 2 ^ q := by
    rw [← zpow_natCast, Int.toNat_of_nonneg (sub_nonneg.2 h), ← zpow_add₀ two_ne_zero, sub_add_cancel]
  rw [finiteValue, hpow, signedAt]
  cases neg <;> simp [mul_assoc]

theorem signedAt_lt_iff (n1 n2 : Bool) (m1 m2 : Nat) (e1 e2 : Int) :
    signedAt n1 m1 e1 (min e1 e2) < signedAt n2 m2 e2 (min e1 e2) ↔ finiteValue n1 m1 e1 < finiteValue n2 m2 e2 := by
  rw [finiteValue_eq (min_le_left e1 e2), finiteValue_eq (min_le_right e1 e2), mul_lt_mul_iff_left₀ (by positivity), Int.cast_lt]

theorem fpLess_iff {a b : Fp} (ha : a.isNan = false) (hb : b.isNan = false) : fpLess a b = true ↔ lineValue a < lineValue b := by
  match a, b, ha, hb with
  | .inf x, .inf y, _, _ => cases x <;> cases y <;> simp [fpLess, lineValue]
  | .inf x, .fin _ _ _, _, _ => cases x <;> simp [fpLess, lineValue]
  | .fin _ _ _, .inf y, _, _ => cases y <;> simp [fpLess, lineValue, lt_top_iff_ne_top, ← WithBot.coe_top]
  | .fin n1 m1 e1, .fin n2 m2 e2, _, _ => simp [fpLess, lineValue, signedAt_lt_iff]

theorem fpEqual_iff {a b : Fp} (ha : a.isNan = false) (hb : b.isNan = false) : fpEqual a b = true ↔ lineValue a = lineValue b := by
  simp only [fpEqual, ha, hb, Bool.not_false, Bool.true_and, Bool.and_eq_true, Bool.not_eq_true', ← Bool.not_eq_true, fpLess_iff ha hb,
    fpLess_iff hb ha, not_lt]
  exact ⟨fun h => le_antisymm h.2 h.1, fun h => ⟨h.ge, h.le⟩⟩

/-! ### The order of entries -/

/-- The score of an entry as a number. -/
def scoreOf (x : Scored) : Fp := Ty.f32.fmt.unpack false x.1

section Entries

variable {max : Bool} {x y z : Scored}

theorem topBefore_iff (hx : scoreNan x.1 = false) (hy : scoreNan y.1 = false) :
    topBefore max x y = true ↔
      (if max then lineValue (scoreOf y) < lineValue (scoreOf x) else lineValue (scoreOf x) < lineValue (scoreOf y)) ∨
        lineValue (scoreOf x) = lineValue (scoreOf y) ∧ x.2 < y.2 := by
  unfold topBefore
  cases max <;> simp [fpLess_iff, fpEqual_iff, scoreOf, show (Ty.f32.fmt.unpack false x.1).isNan = false from hx,
    show (Ty.f32.fmt.unpack false y.1).isNan = false from hy]

theorem topBefore_trans (hx : scoreNan x.1 = false) (hy : scoreNan y.1 = false) (hz : scoreNan z.1 = false) (hxy : topBefore max x y = true)
    (hyz : topBefore max y z = true) : topBefore max x z = true := by
  rw [topBefore_iff hx hy] at hxy
  rw [topBefore_iff hy hz] at hyz
  rw [topBefore_iff hx hz]
  cases max <;> simp only [if_true, Bool.false_eq_true, if_false] at * <;> grind

theorem topBefore_irrefl (hx : scoreNan x.1 = false) : topBefore max x x = false := by
  rw [← Bool.not_eq_true, topBefore_iff hx hx]
  simp

theorem topBefore_asymm (hx : scoreNan x.1 = false) (hy : scoreNan y.1 = false) (hxy : topBefore max x y = true) : topBefore max y x = false := by
  rw [← Bool.not_eq_true]
  intro hyx
  have hxx := topBefore_trans hx hy hx hxy hyx
  rw [topBefore_irrefl hx] at hxx
  exact Bool.false_ne_true hxx

end Entries

/-! ### Insertion and merging -/

/-- No entry of a list stands behind one that it precedes. -/
def Ordered (max : Bool) (l : List Scored) : Prop := l.Pairwise fun x y => topBefore max y x = false

/-- No score of a list is a NaN. -/
def NoNan (l : List Scored) : Prop := ∀ x ∈ l, scoreNan x.1 = false

section Merge

variable {max : Bool} {x : Scored}

theorem topInsert_perm (max : Bool) (x : Scored) (l : List Scored) : (topInsert max x l).Perm (x :: l) := by
  induction l with
  | nil => exact List.Perm.refl _
  | cons y ys ih =>
    rw [topInsert]
    split
    · exact List.Perm.refl _
    · exact (ih.cons y).trans (List.Perm.swap x y ys)

theorem topInsert_ordered {l : List Scored} (hx : scoreNan x.1 = false) (hn : NoNan l) (h : Ordered max l) : Ordered max (topInsert max x l) := by
  induction l with
  | nil => exact List.pairwise_singleton _ _
  | cons y ys ih =>
    obtain ⟨hy, hys⟩ := List.forall_mem_cons.1 hn
    obtain ⟨hfirst, hrest⟩ := List.pairwise_cons.1 h
    rw [topInsert]
    split
    case isTrue hxy =>
      refine List.pairwise_cons.2 ⟨fun z hz => ?_, h⟩
      rcases List.mem_cons.1 hz with rfl | hz
      · exact topBefore_asymm hx hy hxy
      · rw [← Bool.not_eq_true]
        intro hzx
        have hzy := topBefore_trans (hys z hz) hx hy hzx hxy
        rw [hfirst z hz] at hzy
        exact Bool.false_ne_true hzy
    case isFalse hxy =>
      refine List.pairwise_cons.2 ⟨fun z hz => ?_, ih hys hrest⟩
      rcases List.mem_cons.1 ((topInsert_perm max x ys).mem_iff.1 hz) with rfl | hz
      · exact Bool.eq_false_iff.2 hxy
      · exact hfirst z hz

/-- Entries inserted one after another into an ordered list. -/
theorem topInserts_perm_ordered {xs l : List Scored} (hxs : NoNan xs) (hl : NoNan l) (h : Ordered max l) :
    (xs.foldl (fun l x => topInsert max x l) l).Perm (l ++ xs) ∧ Ordered max (xs.foldl (fun l x => topInsert max x l) l) := by
  induction xs generalizing l with
  | nil => exact ⟨by simp, h⟩
  | cons x xs ih =>
    obtain ⟨hx, hxs⟩ := List.forall_mem_cons.1 hxs
    have hperm := topInsert_perm max x l
    have hn : NoNan (topInsert max x l) := fun z hz => (List.mem_cons.1 (hperm.mem_iff.1 hz)).elim (fun he => he ▸ hx) (hl z)
    obtain ⟨hp, ho⟩ := ih hxs hn (topInsert_ordered hx hl h)
    exact ⟨hp.trans ((hperm.append_right xs).trans List.perm_middle.symm), ho⟩

end Merge

/-- Settles O37: the merge inserts the entries of both lists, one after another, into the empty list. -/
theorem topKOrder : Obligations.TopKOrder := by
  unfold Obligations.TopKOrder
  intro max list cands hn
  have hm : topMerge max list cands = (list ++ cands).foldl (fun l x => topInsert max x l) [] := (List.foldl_append ..).symm
  rw [hm]
  exact topInserts_perm_ordered (l := []) hn (by simp [NoNan]) List.Pairwise.nil

end Sys2Proof.Proofs
end

section
/-! SUPPORT. Capability checks, rings and messages (R201 to R206, R413): one lemma for each answer of a capability use, and one for each
answer of CRING, SEND, RECV and CAPRD. -/

namespace Sys2Proof.Proofs

open Sys2Proof.Machine Sys2Proof.Laws

/-! ### Capability checks (R201, R202) -/

section Capabilities

variable {c : Ctx} {idx perm : Nat} {suits : Cap → Bool} {spends : Bool} {l : Launch} {x : Cap}

/-- Word 0 of an entry (R201). -/
abbrev capWord (x : Cap) : Nat := fieldAt x.bytes 0 4

theorem capRead_beyond (hl : c.capLaunch = some l) (h : l.capCount ≤ idx) : c.capRead idx = .error (capTrap idx 4) := by
  simp only [Ctx.capRead, hl, if_pos h]

theorem cap_unread {a : Act} (h : c.capRead idx = .error a) : c.cap idx perm suits spends = .error a := by
  simp only [Ctx.cap, h]

section Read

variable (hx : c.capRead idx = .ok x)
include hx

theorem cap_invalid (hv : bitAt (capWord x) 0 = false) : c.cap idx perm suits spends = .error (capTrap idx 1) := by
  simp only [Ctx.cap, hx, hv, Bool.not_false, if_true]

variable (hv : bitAt (capWord x) 0 = true)
include hv

theorem cap_forbidden (hp : bitAt (capWord x) (8 + perm) = false) : c.cap idx perm suits spends = .error (capTrap idx 2) := by
  simp only [Ctx.cap, hx, hv, hp, Bool.not_true, Bool.not_false, Bool.false_eq_true, if_false, if_true]

variable (hp : bitAt (capWord x) (8 + perm) = true)
include hp

theorem cap_unsuited (hs : suits x = false) : c.cap idx perm suits spends = .error (capTrap idx 3) := by
  simp only [Ctx.cap, hx, hv, hp, hs, Bool.not_true, Bool.not_false, Bool.true_or, Bool.false_eq_true, if_false, if_true]

theorem cap_granted (hs : suits x = true) (hk : x.kind < 3) : c.cap idx perm suits false = .ok x := by
  have h3 : (x.kind == 3) = false := beq_false_of_ne (by omega)
  have h4 : (x.kind == 4) = false := beq_false_of_ne (by omega)
  simp only [Ctx.cap, hx, hv, hp, hs, h3, h4, Bool.not_true, Bool.not_false, Bool.or_false, Bool.false_and, Bool.true_or, Bool.false_eq_true,
    if_false, if_true]

end Read

end Capabilities

/-- Settles O31, each answer by its own lemma. -/
theorem capabilityChecks : Obligations.CapabilityChecks := by
  unfold Obligations.CapabilityChecks
  intro fails c idx perm suits spends l hl
  refine ⟨fun h => ?_, fun x hx => ⟨cap_invalid hx, cap_forbidden hx, cap_unsuited hx, ?_⟩⟩
  · exact ⟨capRead_beyond hl h, cap_unread (capRead_beyond hl h)⟩
  · rintro hv hp hs hk rfl
    exact cap_granted hx hv hp hs hk

/-! ### CRING (R203) -/

theorem cring_retires (o : X) (b : Block) : Retires (.cring o) 0xD0 (fun _ => [ssrc o.x 1, ssrc o.y 1, ssrc o.z 1])
    (fun c => c.block? = some b ∧ ringBad b.scratchSize (c.s o.x.toNat).toNat (c.s o.y.toNat).toNat (c.s o.z.toNat).toNat = false ∧
      b.pending.2 ≤ b.pending.1)
    (fun c =>
      let now := c.st.readNum (.scr b.uid (c.s o.z.toNat).toNat) 8
      let ring : Ring := { off := (c.s o.x.toNat).toNat, count := (c.s o.y.toNat).toNat, notify := (c.s o.z.toNat).toNat, consumed := now,
                           base := b.copyIssued, from0 := now, published := now, pubs := [], stopped := false }
      c.fenced.modBlock b.uid fun x => { x with ring := if (c.s o.y.toNat).toNat = 0 then none else some ring }) (fun _ => []) fun _ => 0 := by
  refine retires_of (fun _ => rfl) (fun c ⟨hb, hr, _⟩ => ?_) fun c ⟨hb, _, hp⟩ => ?_
  · simp only [hb, Option.map_some, Option.getD_some, hr, Bool.false_eq_true, if_false]
  · simp only [hb, if_neg (Nat.not_lt.2 hp)]

/-! ### SEND (R204) -/

/-- An agent that is no away lane, or whose lane is active, acts. -/
theorem acts_of {c : Ctx} (h : c.guest = false ∨ c.act ≠ 0) : (c.guest && c.act == 0) = false := by
  rcases h with h | h
  · rw [h, Bool.false_and]
  · rw [beq_false_of_ne h, Bool.and_false]

section Send

variable {o : X} {x : Cap}

/-- The operands of SEND. -/
abbrev sendUses (o : X) : List Use := [sdst o.x 1, ssrc o.y 1, ssrc o.z 8]

/-- The agent acts, and the entry that s y names lets it send. -/
def MaySend (o : X) (x : Cap) (c : Ctx) : Prop :=
  (c.guest = false ∨ c.act ≠ 0) ∧ c.cap (c.s o.y.toNat).toNat 0 (fun x => x.kind == 0 || x.kind == 2) true = .ok x

/-- The state in which the entry has been read and the agent's accesses have ended. -/
def usedCap (x : Cap) (c : Ctx) : State := (c.within x.st).fenced

/-- The entry's endpoint has no free slot (R204, R413). -/
def endpointIsFull (x : Cap) (c : Ctx) : Bool := (usedCap x c).endpointFull (x.kind == 0) (x.param % 65536) x.addr

theorem send_idle (o : X) : Retires (.send o) 0xD1 (fun _ => sendUses o) (fun c => c.guest = true ∧ c.act = 0) (fun c => c.st) (fun _ => [])
    fun _ => 0 := by
  refine retires_of (fun _ => rfl) (fun _ _ => rfl) fun c ⟨hg, ha⟩ => ?_
  simp only [hg, ha, BEq.rfl, Bool.and_self, if_true]

theorem send_spent (o : X) (x : Cap) : Retires (.send o) 0xD1 (fun _ => sendUses o) (fun c => MaySend o x c ∧ x.left = 0) (usedCap x)
    (fun _ => swrite o.x.toNat 1) fun _ => 0 := by
  refine retires_of (fun _ => rfl) (fun _ _ => rfl) fun c ⟨⟨ha, hx⟩, hl⟩ => ?_
  simp only [acts_of ha, hx, hl, Bool.false_eq_true, if_false, if_true]
  rfl

theorem send_full (o : X) (x : Cap) : Retires (.send o) 0xD1 (fun _ => sendUses o)
    (fun c => MaySend o x c ∧ x.left ≠ 0 ∧ endpointIsFull x c = true) (usedCap x) (fun _ => swrite o.x.toNat 2) fun _ => 0 := by
  refine retires_of (fun _ => rfl) (fun _ _ => rfl) fun c ⟨⟨ha, hx⟩, hl, hf⟩ => ?_
  simp only [acts_of ha, hx, if_neg hl, Bool.false_eq_true, if_false]
  exact if_pos hf

theorem send_posts (o : X) (x : Cap) : Retires (.send o) 0xD1 (fun _ => sendUses o)
    (fun c => MaySend o x c ∧ x.left ≠ 0 ∧ endpointIsFull x c = false)
    (fun c => ((usedCap x c).post c x ((List.range (o.imm.toNat % 8 + 1)).map fun i => c.s (o.z.toNat + i))
      (o.imm.toNat % 8 + 1)).spend c x 1)
    (fun _ => swrite o.x.toNat 0) fun _ => 0 := by
  refine retires_of (fun _ => rfl) (fun _ _ => rfl) fun c ⟨⟨ha, hx⟩, hl, hf⟩ => ?_
  simp only [acts_of ha, hx, if_neg hl, Bool.false_eq_true, if_false]
  exact if_neg (Bool.eq_false_iff.1 hf)

end Send

/-! ### RECV (R205, R413) -/

section Recv

variable (o : X) (x : Cap)

/-- The operands of RECV. -/
abbrev recvUses (o : X) : List Use := [sdst o.x 1, ssrc o.y 1, sdst o.z 8]

/-- The entry that s y names is a mailbox of this device from which the agent may receive. -/
def MayReceive (o : X) (x : Cap) (c : Ctx) : Prop :=
  c.cap (c.s o.y.toNat).toNat 1 (fun x => x.kind == 2 && x.param % 65536 == c.st.admin.device) false = .ok x

/-- The mailbox's control block. -/
def mailbox (x : Cap) (c : Ctx) : List Byte := (usedCap x c).readLocs ((Loc.dev x.addr).span 64)

/-- The places of the mailbox's oldest unread message. -/
def oldestSlot (x : Cap) (c : Ctx) : List Loc :=
  (Loc.dev (fieldAt (mailbox x c) 0 8 + 64 * (fieldAt (mailbox x c) 24 8 % fieldAt (mailbox x c) 8 4))).span 64

theorem recv_blocks : Blocks (.recv o) 0xD2 (fun _ => recvUses o)
    (fun c => MayReceive o x c ∧ fieldAt (mailbox x c) 16 8 ≤ fieldAt (mailbox x c) 24 8 ∧ o.imm.getLsbD 0 = true) (usedCap x)
    fun _ => .wait (.recv (dword x.addr)) := by
  refine blocks_of (fun _ => rfl) (fun _ _ => rfl) fun c ⟨hx, he, hi⟩ => ?_
  unfold MayReceive at hx
  simp only [hx, bitAt_toNat, hi, if_true]
  exact if_pos he

theorem recv_empty : Retires (.recv o) 0xD2 (fun _ => recvUses o)
    (fun c => MayReceive o x c ∧ fieldAt (mailbox x c) 16 8 ≤ fieldAt (mailbox x c) 24 8 ∧ o.imm.getLsbD 0 = false) (usedCap x)
    (fun _ => swrite o.x.toNat 0) fun _ => 0 := by
  refine retires_of (fun _ => rfl) (fun _ _ => rfl) fun c ⟨hx, he, hi⟩ => ?_
  unfold MayReceive at hx
  simp only [hx, bitAt_toNat, hi, Bool.false_eq_true, if_false]
  exact if_pos he

theorem recv_takes : Retires (.recv o) 0xD2 (fun _ => recvUses o)
    (fun c => MayReceive o x c ∧ fieldAt (mailbox x c) 24 8 < fieldAt (mailbox x c) 16 8)
    (fun c => ((usedCap x c).landNum (.dev (x.addr + 24)) 8 (fieldAt (mailbox x c) 24 8 + 1) c.w.writer).returnCredit
      (fieldAt ((usedCap x c).readLocs (oldestSlot x c)) 48 2) (dword x.addr))
    (fun c =>
      let m := (usedCap x c).readLocs (oldestSlot x c)
      poisonAll ((usedCap x c).poisoned (oldestSlot x c)) (swrite o.x.toNat (fieldAt m 32 1 % 16) ++
        (List.range 8).flatMap fun j => swrite (o.z.toNat + j) (fieldAt m (4 * j) 4))) fun _ => 0 := by
  refine retires_of (fun _ => rfl) (fun _ _ => rfl) fun c ⟨hx, hm⟩ => ?_
  unfold MayReceive at hx
  simp only [hx]
  exact if_neg (Nat.not_le.2 hm)

end Recv

/-! ### CAPRD (R206) -/

theorem caprd_reads (o : X) (x : Cap) : Retires (.caprd o) 0xD3 (fun _ => [sdst o.x 8, ssrc o.y 1])
    (fun c => c.capRead (c.s o.y.toNat).toNat = .ok x) (fun c => x.st.addRecords c.w false [x.acc])
    (fun _ => poisonAll x.poisoned ((List.range 8).flatMap fun j => swrite (o.x.toNat + j) (fieldAt x.bytes (4 * j) 4))) fun _ => 0 := by
  refine retires_of (fun _ => rfl) (fun _ _ => rfl) fun c hx => ?_
  simp only [hx]

/-- Settles O32, each answer of the four instructions by its own lemma. -/
theorem ringsAndMessages : Obligations.RingsAndMessages := by
  unfold Obligations.RingsAndMessages
  exact ⟨cring_retires, send_idle, send_spent, send_full, send_posts, recv_blocks, recv_empty, recv_takes, caprd_reads⟩

end Sys2Proof.Proofs
end

section
/-! SUPPORT. LAUNCH, LAUNCHU and CANCEL (R207, R208, R248), and STKDISP and BANKOP (R209, R211, R318, R333). -/

namespace Sys2Proof.Proofs

open Sys2Proof.Machine Sys2Proof.Laws

/-! ### Child launches (R207, R208) -/

section Children

variable {o : X} {x : Cap} {c : Ctx}

/-- The operands of LAUNCH and LAUNCHU. -/
abbrev launchUses (o : X) : List Use := [vdst o.x 2, ssrc o.y 1, vsrc o.z 0 false 2]

/-- The access of an instruction that reads records and ends the agent's earlier accesses. -/
abbrev recordKind : MemKind := { write := false, ends := true }

/-- The entry that s y names lets the agent launch children. -/
def MayLaunch (o : X) (x : Cap) (c : Ctx) : Prop := c.cap (c.s o.y.toNat).toNat 2 (fun x => x.kind == 1) true = .ok x

/-- The record that a lane's pair names. -/
def childRecord (o : X) (c : Ctx) (s : State) (i : Nat) : Except AFault (State × Acc) :=
  c.linear false true false 128 s i (c.val true o.z.toNat i)

/-- The children of the records read, with their numbers. -/
def childrenOf (x : Cap) (c : Ctx) (s1 : State) (as : List Acc) : State × List Nat :=
  let e := (c.within x.st).entered recordKind s1 as
  c.children (e.completeOps c.w.uid (·.memory)) x (as.map fun a => e.readLocs a.locs)

theorem launch_retires {s s1 : State} {as : List Acc} (hc : s.ctx? = some c) (ha : Admitted c 0xD4 (launchUses o)) (hx : MayLaunch o x c)
    (hu : Unhindered (c.within x.st) recordKind (lanesOf c.act) (fun _ => none) (childRecord o c) s1 as) :
    exec (.launch o) s = .next (c.retire 0xD4 (launchUses o) (childrenOf x c s1 as).1
      (laneWrites o.x.toNat 2 (as.zipIdx.map fun p => (p.1.lane, (childrenOf x c s1 as).2.getD p.2 (2 ^ 64 - 1), false))) 0) := by
  unfold MayLaunch at hx
  change issue _ s _ _ _ = _
  refine issue_done hc ha rfl ?_
  simp only [hx]
  exact access_done hu

theorem launchu_retires {s s1 : State} {as : List Acc} (hc : s.ctx? = some c) (ha : Admitted c 0xD5 (launchUses o)) (hx : MayLaunch o x c)
    (hact : c.act ≠ 0) (hu : Unhindered (c.within x.st) recordKind [lowLane c.act] (fun _ => none) (childRecord o c) s1 as) :
    exec (.launchu o) s = .next (c.retire 0xD5 (launchUses o) (childrenOf x c s1 as).1
      (vwrite o.x.toNat true c.act fun _ => (childrenOf x c s1 as).2.headD (2 ^ 64 - 1)) 0) := by
  unfold MayLaunch at hx
  change issue _ s _ _ _ = _
  refine issue_done hc ha rfl ?_
  simp only [if_neg hact, hx]
  exact access_done hu

theorem launchu_idle (o : X) : Retires (.launchu o) 0xD5 (fun _ => launchUses o) (fun c => c.act = 0) (fun c => c.st) (fun _ => [])
    fun _ => 0 :=
  retires_of (fun _ => rfl) (fun _ _ => rfl) fun _ h => if_pos h

/-- The operands of CANCEL. -/
abbrev cancelUses (o : X) : List Use := [sdst o.x 1, ssrc o.y 2, ssrc o.z 1]

/-- The entry that s z names lets the agent cancel, and the cancellation of the identity in s y leaves a state, or finds nothing. -/
def Cancels (o : X) (x : Cap) (found : Option State) (c : Ctx) : Prop :=
  c.cap (c.s o.z.toNat).toNat 5 (fun x => x.kind == 1) false = .ok x ∧
    ((c.within x.st).fenced.queue? (x.param % 8192)).bind
      (fun q => (c.within x.st).fenced.cancelIdent q (o.imm.toNat % 4) (c.s2 o.y.toNat)) = found

theorem cancel_found (o : X) (x : Cap) (t : State) : Retires (.cancel o) 0xD6 (fun _ => cancelUses o) (Cancels o x (some t)) (fun _ => t)
    (fun _ => swrite o.x.toNat 0) fun _ => 0 :=
  retires_of (fun _ => rfl) (fun _ _ => rfl) fun c ⟨hx, ht⟩ => by simp only [hx, ht]

theorem cancel_unfound (o : X) (x : Cap) : Retires (.cancel o) 0xD6 (fun _ => cancelUses o) (Cancels o x none)
    (fun c => (c.within x.st).fenced) (fun _ => swrite o.x.toNat 1) fun _ => 0 :=
  retires_of (fun _ => rfl) (fun _ _ => rfl) fun c ⟨hx, ht⟩ => by simp only [hx, ht]

end Children

/-- Settles O33, each answer of the three instructions by its own lemma. -/
theorem childLaunches : Obligations.ChildLaunches := by
  unfold Obligations.ChildLaunches
  exact ⟨fun _ _ _ _ _ _ hc ha hx hu => launch_retires hc ha hx hu,
    fun _ _ _ _ _ _ hc ha hx hact hu => launchu_retires hc ha hx hact hu, launchu_idle, cancel_found, cancel_unfound⟩

/-! ### Sill dispatches (R209, R318) -/

/-- An instruction whose body is an access that nothing holds back, in a state in which its context already has a capability, retires with
what the access gives. -/
theorem issue_accesses {opc : Nat} {s s1 t : State} {uses : Ctx → List Use} {own : Ctx → Option (Nat × Word)} {body : Ctx → Act} {c d : Ctx}
    {kind : MemKind} {lanes : List Nat} {target : Nat → Option Dest} {address : State → Nat → Except AFault (State × Acc)}
    {effect : State → List Acc → MemResult} {as : List Acc} {ws : List LaneWrite} {st : BitVec 8} (hc : s.ctx? = some c)
    (ha : Admitted c opc (uses c)) (ho : own c = none) (hu : Unhindered d kind lanes target address s1 as)
    (hb : body c = d.access kind lanes target address effect) (he : effect (d.entered kind s1 as) as = (t, ws, st)) :
    issue opc s uses own body = .next (c.retire opc (uses c) t ws st) := by
  refine issue_done hc ha ho ?_
  rw [hb, access_done hu, he]

/-- A status and a number in a scalar pair (R209, R211). -/
def statusPair (o : X) (status num : Nat) : List LaneWrite := swrite o.x.toNat status ++ swrite (o.x.toNat + 1) num

/-- The state in which an instruction has read its record. -/
def recordRead (x : Cap) (c : Ctx) (s1 : State) (as : List Acc) : State := ((c.within x.st).entered recordKind s1 as).completeOps c.w.uid (·.memory)

/-- The bytes of the record. -/
def recordBytes (x : Cap) (c : Ctx) (s1 : State) (as : List Acc) : List Byte := (recordRead x c s1 as).readLocs (as.flatMap (·.locs))

/-- A record is malformed, or its reserved words are not zero (R209). -/
theorem record_malformed {r : List Byte} (h : dispatchBad r = true ∨ fieldAt r 56 8 ≠ 0) : (dispatchBad r || fieldAt r 56 8 != 0) = true := by
  rw [Bool.or_eq_true, bne_iff_ne]
  exact h

theorem record_wellFormed {r : List Byte} (hf : dispatchBad r = false) (hz : fieldAt r 56 8 = 0) :
    ¬ (dispatchBad r || fieldAt r 56 8 != 0) = true := by
  rw [hf, hz]
  exact Bool.false_ne_true

section Dispatches

variable {o : X} {s s1 : State} {c : Ctx} {x : Cap} {b : Block} {l : Launch} {as : List Acc}

/-- The operands of STKDISP. -/
abbrev stkdispUses (o : X) : List Use := [sdst o.x 2, ssrc o.y 1, ssrc o.z 1]

/-- STKDISP retires in a state with a status and a number. -/
def DispatchAnswers (o : X) (s : State) (c : Ctx) (t : State) (status num : Nat) : Prop :=
  exec (.stkdisp o) s = .next (c.retire 0xDC (stkdispUses o) t (statusPair o status num) 0)

/-- The dispatch that a record makes (R209). -/
def newDispatch (c : Ctx) (x : Cap) (b : Block) (l : Launch) (r : List Byte) (uid i : Nat) : Dispatch :=
  { uid := uid, stack := x.stack, fn := c.fn, launch := l.uid, block := b.uid, number := l.sill.issued + 1, record := r, level := 1, started := 0,
    ended := 0, failed := none, done := false, entry := some i, saveAt := none, code := l.code, window := b.window }

/-- The state in which an accepted record's dispatch stands, its number and one use of the entry taken. -/
def withDispatch (c : Ctx) (x : Cap) (b : Block) (l : Launch) (r : List Byte) (i : Nat) (s : State) : State :=
  let made : State := { s with nextUid := s.nextUid + 1, dispatches := s.dispatches ++ [newDispatch c x b l r s.nextUid i] }
  (made.modLaunch l.uid fun l => { l with sill := { l.sill with issued := l.sill.issued + 1 } }).spend c x 1

variable (hc : s.ctx? = some c) (ha : Admitted c 0xDC (stkdispUses o))
  (hx : c.cap (c.s o.y.toNat).toNat 3 (fun x => x.kind == 3) true = .ok x) (hb : c.block? = some b) (hl : c.launch? = some l)
  (hw : (c.within x.st).ringWait x.stack = none)
  (hu : Unhindered (c.within x.st) recordKind [c.uniLane] (fun _ => none) (c.recordAcc b (c.s o.z.toNat).toNat) s1 as)
include hc ha hx hb hl hw hu

theorem stkdisp_malformed (h : dispatchBad (recordBytes x c s1 as) = true ∨ fieldAt (recordBytes x c s1 as) 56 8 ≠ 0) :
    DispatchAnswers o s c (recordRead x c s1 as) 4 0 :=
  issue_accesses hc ha rfl hu (by simp only [hx, hb, hl, hw]; rfl) (if_pos (record_malformed h))

variable (hf : dispatchBad (recordBytes x c s1 as) = false) (hz : fieldAt (recordBytes x c s1 as) 56 8 = 0)
include hf hz

theorem stkdisp_missing (hm : (recordRead x c s1 as).dispatchMissing x.stack (recordBytes x c s1 as) = true) :
    DispatchAnswers o s c (recordRead x c s1 as) 2 0 :=
  issue_accesses hc ha rfl hu (by simp only [hx, hb, hl, hw]; rfl) ((if_neg (record_wellFormed hf hz)).trans (if_pos hm))

variable (hm : (recordRead x c s1 as).dispatchMissing x.stack (recordBytes x c s1 as) = false)
include hm

theorem stkdisp_spent (hn : x.left = 0) : DispatchAnswers o s c (recordRead x c s1 as) 1 0 :=
  issue_accesses hc ha rfl hu (by simp only [hx, hb, hl, hw]; rfl)
    ((if_neg (record_wellFormed hf hz)).trans ((if_neg (Bool.eq_false_iff.1 hm)).trans (if_pos hn)))

variable (hn : x.left ≠ 0) {s2 : State}
include hn

theorem stkdisp_noRoom (hp : (recordRead x c s1 as).produce c.w.die x.stack c.fn (recordBytes x c s1 as) = (s2, none)) :
    DispatchAnswers o s c s2 3 0 := by
  refine issue_accesses hc ha rfl hu (by simp only [hx, hb, hl, hw]; rfl)
    ((if_neg (record_wellFormed hf hz)).trans ((if_neg (Bool.eq_false_iff.1 hm)).trans ((if_neg hn).trans ?_)))
  rw [recordRead, recordBytes, recordRead] at hp
  simp only [hp]
  rfl

theorem stkdisp_dispatches {i : Nat}
    (hp : (recordRead x c s1 as).produce c.w.die x.stack c.fn (recordBytes x c s1 as) = (s2, some i)) :
    DispatchAnswers o s c (withDispatch c x b l (recordBytes x c s1 as) i s2) 0 (l.sill.issued + 1) := by
  refine issue_accesses hc ha rfl hu (by simp only [hx, hb, hl, hw]; rfl)
    ((if_neg (record_wellFormed hf hz)).trans ((if_neg (Bool.eq_false_iff.1 hm)).trans ((if_neg hn).trans ?_)))
  rw [recordRead, recordBytes, recordRead] at hp
  simp only [hp]
  rfl

end Dispatches

/-! ### Bank operations (R211, R333) -/

section BankOperations

variable {o : X} {s s1 : State} {c : Ctx} {x : Cap} {b : Block} {l : Launch} {as : List Acc}

/-- The operands of BANKOP. -/
abbrev bankopUses (o : X) : List Use := [sdst o.x 2, ssrc o.y 1, vsrc o.z 0 false 1]

/-- BANKOP retires in a state with a status and a number. -/
def BankopAnswers (o : X) (s : State) (c : Ctx) (t : State) (status num : Nat) : Prop :=
  exec (.bankop o) s = .next (c.retire 0xDB (bankopUses o) t (statusPair o status num) 0)

theorem bankop_idle (o : X) : Retires (.bankop o) 0xDB (fun _ => bankopUses o) (fun c => c.act = 0) (fun c => c.st)
    (fun _ => statusPair o 5 0) fun _ => 0 :=
  retires_of (fun _ => rfl) (fun _ _ => rfl) fun _ h => if_pos h

/-- The state after the walk for the weights' address. -/
def bankopWalked (x : Cap) (c : Ctx) (s1 : State) (as : List Acc) : State :=
  (recordRead x c s1 as).touch c.fn c.w.die (opW (recordBytes x c s1 as)) 1

/-- The weights lie in an allocation of the entry's pseudo-channel. -/
def weightsAtHome (x : Cap) (c : Ctx) (s1 : State) (as : List Acc) : Bool :=
  ((bankopWalked x c s1 as).stripeAt c.fn (opW (recordBytes x c s1 as))).any fun z => z.stack == x.stack && z.pch == x.pch

theorem not_elsewhere (h : weightsAtHome x c s1 as = true) : ¬ (!weightsAtHome x c s1 as) = true := by
  rw [h]
  exact Bool.false_ne_true

/-- The bank operation that a descriptor makes (R211). -/
def newBankop (c : Ctx) (x : Cap) (b : Block) (l : Launch) (d : List Byte) (uid : Nat) : BankOp :=
  { uid := uid, launch := l.uid, block := b.uid, fn := c.fn, stack := x.stack, pch := x.pch, number := l.bank.issued + 1, desc := d, rows := [],
    groups := 0, poisoned := [], ran := false, landed := 0, status := 0, done := false }

/-- The state in which an accepted bank operation waits for its pseudo-channel, its number and one use of the entry taken. -/
def withBankop (c : Ctx) (x : Cap) (b : Block) (l : Launch) (d : List Byte) (t : State) : State :=
  let made : State := { t with nextUid := t.nextUid + 1, bankops := t.bankops ++ [newBankop c x b l d t.nextUid] }
  ((made.setPch { t.pch x.stack x.pch with waiters := (t.pch x.stack x.pch).waiters ++ [t.nextUid] }).modLaunch l.uid fun l =>
    { l with bank := { l.bank with issued := l.bank.issued + 1 } }).spend c x 1

variable (hc : s.ctx? = some c) (ha : Admitted c 0xDB (bankopUses o)) (hact : c.act ≠ 0)
  (hx : c.cap (c.s o.y.toNat).toNat 4 (fun x => x.kind == 4) true = .ok x) (hb : c.block? = some b) (hl : c.launch? = some l)
  (hu : Unhindered (c.within x.st) recordKind [lowLane c.act] (fun _ => none) (c.recordAcc b (c.lane o.z.toNat (lowLane c.act)).toNat) s1 as)
include hc ha hact hx hb hl hu

theorem bankop_malformed (h : (bankopWalked x c s1 as).bankopBad c.fn (recordBytes x c s1 as) = true) :
    BankopAnswers o s c (bankopWalked x c s1 as) 3 0 :=
  issue_accesses hc ha rfl hu (by simp only [if_neg hact, hx, hb, hl]; rfl) (if_pos h)

variable (hf : (bankopWalked x c s1 as).bankopBad c.fn (recordBytes x c s1 as) = false)
include hf

theorem bankop_missing (hm : (bankopWalked x c s1 as).pchMissing x.stack x.pch = true) : BankopAnswers o s c (bankopWalked x c s1 as) 2 0 :=
  issue_accesses hc ha rfl hu (by simp only [if_neg hact, hx, hb, hl]; rfl) ((if_neg (Bool.eq_false_iff.1 hf)).trans (if_pos hm))

variable (hm : (bankopWalked x c s1 as).pchMissing x.stack x.pch = false)
include hm

theorem bankop_elsewhere (hh : weightsAtHome x c s1 as = false) : BankopAnswers o s c (bankopWalked x c s1 as) 4 0 :=
  issue_accesses hc ha rfl hu (by simp only [if_neg hact, hx, hb, hl]; rfl)
    ((if_neg (Bool.eq_false_iff.1 hf)).trans ((if_neg (Bool.eq_false_iff.1 hm)).trans (if_pos (congrArg not hh))))

variable (hh : weightsAtHome x c s1 as = true)
include hh

theorem bankop_spent (hn : x.left = 0) : BankopAnswers o s c (bankopWalked x c s1 as) 1 0 :=
  issue_accesses hc ha rfl hu (by simp only [if_neg hact, hx, hb, hl]; rfl)
    ((if_neg (Bool.eq_false_iff.1 hf)).trans ((if_neg (Bool.eq_false_iff.1 hm)).trans ((if_neg (not_elsewhere hh)).trans (if_pos hn))))

theorem bankop_accepted (hn : x.left ≠ 0) :
    BankopAnswers o s c (withBankop c x b l (recordBytes x c s1 as) (bankopWalked x c s1 as)) 0 (l.bank.issued + 1) :=
  issue_accesses hc ha rfl hu (by simp only [if_neg hact, hx, hb, hl]; rfl)
    ((if_neg (Bool.eq_false_iff.1 hf)).trans ((if_neg (Bool.eq_false_iff.1 hm)).trans ((if_neg (not_elsewhere hh)).trans (if_neg hn))))

end BankOperations

/-- Settles O34, each answer of the two instructions by its own lemma. -/
theorem sillDispatchesAndBankOperations : Obligations.SillDispatchesAndBankOperations := by
  unfold Obligations.SillDispatchesAndBankOperations
  refine ⟨fun o s c x b l s1 as hc ha hx hb hl hw hu => ⟨stkdisp_malformed hc ha hx hb hl hw hu, fun hf hz => ⟨?_, fun hm => ⟨?_, ?_, ?_⟩⟩⟩,
    bankop_idle, fun o s c x b l s1 as hc ha hact hx hb hl hu => ⟨bankop_malformed hc ha hact hx hb hl hu, fun hf => ⟨?_, fun hm => ⟨?_, ?_, ?_⟩⟩⟩⟩
  · exact stkdisp_missing hc ha hx hb hl hw hu hf hz
  · exact stkdisp_spent hc ha hx hb hl hw hu hf hz hm
  · exact fun s2 hn hp => stkdisp_noRoom hc ha hx hb hl hw hu hf hz hm hn hp
  · exact fun s2 i hn hp => stkdisp_dispatches hc ha hx hb hl hw hu hf hz hm hn hp
  · exact bankop_missing hc ha hact hx hb hl hu hf
  · exact bankop_elsewhere hc ha hact hx hb hl hu hf hm
  · exact bankop_spent hc ha hact hx hb hl hu hf hm
  · exact bankop_accepted hc ha hact hx hb hl hu hf hm

end Sys2Proof.Proofs
end

section
/-! SUPPORT. Distances, the migration query and request, service calls, and TOPK (R212 to R216). -/

namespace Sys2Proof.Proofs

open Sys2Proof.Machine Sys2Proof.Laws

/-! ### DIST (R212) -/

section Distances

variable {i : X → Instr} {opc : Nat} {l2 : Bool}

/-- The operands of DIST. -/
abbrev distUses (o : X) : List Use := [vdst o.x 1, vsrc o.y 0 false 2, ssrc o.z 1]

/-- The distance of a candidate from the query, with the sticky bits that it raises. -/
def distanceAt (o : X) (l2 : Bool) (v : State) (q a : Acc) : Res :=
  distance l2 (distTy o) (halves (distDim o) (v.readLocs q.locs)) (halves (distDim o) (v.readLocs a.locs))

/-- What DIST writes: a distance for the candidate of each lane, the query's access being the first. -/
def distResult (o : X) (l2 : Bool) (c : Ctx) (s : State) (as : List Acc) : MemResult :=
  let v := s.overlay c.w.uid
  match as with
  | [] => (s, [], 0)
  | q :: cs =>
    (s, laneWrites o.x.toNat 1 (cs.map fun a => (a.lane, (distanceAt o l2 v q a).1, v.poisoned q.locs || v.poisoned a.locs)),
      cs.foldl (fun b a => b ||| (distanceAt o l2 v q a).2) 0)

theorem distCheck_ok {o : X} (h : bitsAt o.imm.toNat 2 0 < 5) (c : Ctx) : distCheck o c = none := if_neg (Nat.not_le.2 h)

theorem dist_idle (he : ∀ o s, exec (i o) s = distOf opc l2 o s) (o : X) : Retires (i o) opc (fun _ => distUses o)
    (fun c => bitsAt o.imm.toNat 2 0 < 5 ∧ c.act = 0) (fun c => c.st) (fun _ => []) fun _ => 0 :=
  retires_of (he o) (fun c h => distCheck_ok h.1 c) fun _ h => if_pos h.2

theorem dist_accesses (he : ∀ o s, exec (i o) s = distOf opc l2 o s) (o : X) : Accesses (i o) opc (fun _ => distUses o)
    (fun c => bitsAt o.imm.toNat 2 0 < 5 ∧ c.act ≠ 0) { write := false } (fun c => 32 :: lanesOf c.act) stays
    (fun c s i => if i = 32 then c.distQuery o s else c.distCandidate o s i) (distResult o l2) := by
  refine accesses_of (he o) (fun c h => distCheck_ok h.1 c) rfl fun c ⟨_, hact⟩ => ?_
  refine (if_neg hact).trans (congrArg (c.access _ _ _ _) ?_)
  funext s as
  cases as with
  | nil => rfl
  | cons q cs => simp only [List.map_map, List.foldl_map]; rfl

end Distances

/-! ### MIGQRY and MIGR (R214, R215) -/

section Migration

variable (o : X)

/-- The place to which a lane's pair would have it depart. -/
def migrTarget (o : X) (c : Ctx) (i : Nat) : Option Dest := c.st.linearTarget c.fn (c.val true o.y.toNat i)

/-- The departures that MIGR plans. -/
def migrPlan (o : X) (c : Ctx) : Plan := c.plan [] (migrTarget o c) true

/-- The operands of MIGR. -/
abbrev migrUses (o : X) : List Use := [vsrc o.y 0 false 2]

theorem migqry_retires : Retires (.migqry o) 0xDD (fun _ => [vdst o.x 1, vsrc o.y 0 false 2]) always (fun c => c.st)
    (fun c => vwrite o.x.toNat false c.act fun i => c.migWord (c.val true o.y.toNat i)) fun _ => 0 :=
  retires_of (fun _ => rfl) (fun _ _ => rfl) fun _ _ => rfl

theorem migr_stays : Retires (.migr o) 0xDE (fun _ => migrUses o) (fun c => ∃ asks, migrPlan o c = .go [] asks)
    (fun c => c.st.endSfr c.w.uid) (fun _ => []) fun _ => 0 := by
  refine retires_of (fun _ => rfl) (fun _ _ => rfl) fun c ⟨asks, hp⟩ => ?_
  unfold migrPlan migrTarget at hp
  simp only [hp, List.isEmpty_nil, if_true]

theorem migr_departs (go : List (Nat × Dest)) (asks : List ShedAsk) (hgo : go ≠ []) :
    Retires (.migr o) 0xDE (fun _ => migrUses o) (fun c => migrPlan o c = .go go asks)
      (fun c => c.st.depart c.w.uid c.k go c.sp.advance.pc c.sp.advance.slot) (fun _ => []) fun _ => 0 := by
  refine retires_of (fun _ => rfl) (fun _ _ => rfl) fun c hp => ?_
  unfold migrPlan migrTarget at hp
  simp only [hp, List.isEmpty_eq_false_iff.2 hgo, Bool.false_eq_true, if_false]

theorem migr_asks (asks : List ShedAsk) : Blocks (.migr o) 0xDE (fun _ => migrUses o) (fun c => migrPlan o c = .ask asks)
    (fun c => c.keep asks) fun _ => .shed := by
  refine blocks_of (fun _ => rfl) (fun _ _ => rfl) fun c hp => ?_
  unfold migrPlan migrTarget at hp
  simp only [hp]

theorem migr_refused (lane reason : Nat) : Completes (.migr o) 0xDE (fun _ => migrUses o) (fun c => migrPlan o c = .refuse lane reason)
    fun c => c.trap 0xF (Machine.word (reason + lane * 16)) := by
  refine completes_of (fun _ => rfl) (fun _ _ => rfl) fun c hp => ?_
  unfold migrPlan migrTarget at hp
  simp only [hp]
  rfl

end Migration

/-! ### SVC (R216) -/

section Service

/-- The operands of SVC. -/
abbrev svcUses (o : X) : List Use := [sdst o.x 2, ssrc o.y 4, ssrc o.z 2]

/-- The access of SVC to its reply word. -/
abbrev replyKind : MemKind := { write := true, ends := true }

/-- The state in which the reply word is zero. -/
def replyZeroed (x : Cap) (c : Ctx) (s1 : State) (as : List Acc) : State :=
  (((c.within x.st).entered replyKind s1 as).completeOps c.w.uid (·.memory)).land (List.zip (as.flatMap (·.locs)) (leBytes 8 0)) c.w.writer

/-- The words of a call. -/
def svcWords (o : X) (c : Ctx) : List Word :=
  Machine.word (o.imm.toNat % 256) :: ((List.range 4).map fun i => c.s (o.y.toNat + i)) ++
    [Machine.word (c.s2 o.z.toNat), Machine.word (c.s2 o.z.toNat / 2 ^ 32)]

theorem svc_idle (o : X) : Retires (.svc o) 0xDF (fun _ => svcUses o) (fun c => c.guest = true ∧ c.act = 0) (fun c => c.st) (fun _ => [])
    fun _ => 0 := by
  refine retires_of (fun _ => rfl) (fun _ _ => rfl) fun c ⟨hg, ha⟩ => ?_
  simp only [hg, ha, BEq.rfl, Bool.and_self, if_true]

variable {o : X} {x : Cap} {s s1 : State} {c : Ctx} {as : List Acc}

theorem svc_waits (hc : s.ctx? = some c) (ha : Admitted c 0xDF (svcUses o)) (hact : c.guest = false ∨ c.act ≠ 0)
    (hx : c.cap 0 0 (fun x => x.kind == 0) false = .ok x)
    (hu : Unhindered (c.within x.st) replyKind [c.uniLane] (fun _ => none) (fun s i => c.linear true true false 8 s i (c.s2 o.z.toNat)) s1 as) :
    exec (.svc o) s = .next (if (replyZeroed x c s1 as).endpointFull true 0 x.addr = true then
      blockedIn c (replyZeroed x c s1 as) (.wait (.svcSlot (dword x.addr)))
    else blockedIn c ((replyZeroed x c s1 as).post c x (svcWords o c) 7) (.svc (dword (c.s2 o.z.toNat)))) := by
  have hdone := access_done (effect := fun s as => ((s.completeOps c.w.uid (·.memory)).land (List.zip (as.flatMap (·.locs)) (leBytes 8 0))
    c.w.writer, [], 0)) hu
  change issue _ s _ _ _ = _
  rw [issue_go hc ha rfl]
  simp only [acts_of hact, hx, hdone, Bool.false_eq_true, if_false]
  exact congrArg Host.Outcome.next (apply_ite (c.finish 0xDF (svcUses o)) _ _ _)

end Service

/-- Settles O35, each answer of the instructions by its own lemma. -/
theorem searchMigrationAndService : Obligations.SearchMigrationAndService := by
  unfold Obligations.SearchMigrationAndService
  exact ⟨⟨dist_idle fun _ _ => rfl, dist_accesses fun _ _ => rfl⟩, ⟨dist_idle fun _ _ => rfl, dist_accesses fun _ _ => rfl⟩, migqry_retires,
    migr_stays, migr_departs, migr_asks, migr_refused, svc_idle, fun _ _ _ _ _ _ hc ha hact hx hu => svc_waits hc ha hact hx hu⟩

/-! ### TOPK (R213) -/

section Top

variable {c : Ctx} {o : X}

/-- Entry i of a list in a register pair. -/
def listEntry (c : Ctx) (r i : Nat) : Scored := ((c.lane r i).toNat, (c.lane (r + 1) i).toNat)

/-- The number of entries of TOPK's list. -/
def topCount (o : X) : Nat := bitsAt o.imm.toNat 4 0 + 1

/-- TOPK may issue, and its list holds no NaN. -/
def TopLegal (o : X) (c : Ctx) : Prop :=
  c.dense = false ∧ c.w.liveCount = 1 ∧ c.w.someAway = false ∧ ∀ j, j < topCount o → scoreNan (listEntry c o.x.toNat j).1 = false

theorem topCheck_ok (h : TopLegal o c) : topCheck c = none := by
  obtain ⟨hd, hn, ha, _⟩ := h
  simp only [topCheck, hd, hn, ha, bne_self_eq_false, Bool.or_self, Bool.false_eq_true, if_false]

theorem topList_noNan (h : TopLegal o c) : (((List.range (topCount o)).map (listEntry c o.x.toNat)).any fun x => scoreNan x.1) = false := by
  obtain ⟨_, _, _, hl⟩ := h
  simpa [List.any_eq_false] using hl

/-- The merged list of TOPK. -/
def topMerged (o : X) (max : Bool) (c : Ctx) : List Scored :=
  topMerge max ((List.range (topCount o)).map (listEntry c o.x.toNat))
    (((lanesOf c.act).map fun i => ((c.lane o.y.toNat i).toNat, (c.lane o.z.toNat i).toNat)).filter fun x => !scoreNan x.1)

/-- Entry i of TOPK's result: a sentinel beyond the list and beyond what was merged. -/
def topEntry (o : X) (max : Bool) (c : Ctx) (i : Nat) : Scored :=
  if topCount o ≤ i then (Ty.f32.fmt.inf max, 0xFFFFFFFF) else (topMerged o max c).getD i (Ty.f32.fmt.inf max, 0xFFFFFFFF)

/-- A register of TOPK's result, written in every lane. -/
def topWrite (reg : Nat) (f : Nat → Nat) : LaneWrite :=
  { cls := 0, reg := reg, mask := 0xFFFFFFFF, vals := perLane fun i => Machine.word (f i), poison := 0 }

theorem topk_retires {i : X → Instr} {opc : Nat} {max : Bool} (he : ∀ o s, exec (i o) s = topk opc max o s) (o : X) :
    Retires (i o) opc
      (fun _ => [{ cls := 0, reg := o.x.toNat, cnt := 2, align := 2, rd := true, wr := true, all := true }, vsrc o.y 0 false 1,
        vsrc o.z 0 false 1])
      (TopLegal o) (fun c => c.st)
      (fun c => [topWrite o.x.toNat fun i => (topEntry o max c i).1, topWrite (o.x.toNat + 1) fun i => (topEntry o max c i).2]) fun _ => 0 := by
  refine retires_of (he o) (fun _ => topCheck_ok) fun c h => ?_
  have hn := topList_noNan h
  unfold topCount listEntry at hn
  simp only [hn, Bool.false_eq_true, if_false]
  rfl

end Top

/-- Settles O36, both instructions by one lemma. -/
theorem topK : Obligations.TopK := by
  unfold Obligations.TopK
  exact ⟨topk_retires fun _ _ => rfl, topk_retires fun _ _ => rfl⟩

end Sys2Proof.Proofs
end

section
/-! SUPPORT. The bank commands of an owner (R221 to R225, R331): the checks that they pass, and each command by its own lemma. -/

namespace Sys2Proof.Proofs

open Sys2Proof.Machine Sys2Proof.Laws

section BankCommands

variable {c : Ctx} {o : X}

/-! ### Checks (R179, R220, R223) -/

/-- The wavefront owns a pseudo-channel. -/
def Owns (c : Ctx) : Prop := c.owned.isSome = true

theorem bankCheck_owner {more : Ctx → Option (Nat × Word)} (h : Owns c) (hm : more c = none) : bankCheck more c = none :=
  (if_pos h).trans hm

/-- An owner names a column, and a segment, within their limits, and every acting bank has an open row. -/
def NamesColumn (col seg : Nat) (c : Ctx) : Prop :=
  Owns c ∧ col ≤ 31 ∧ seg ≤ 63 ∧ ∀ b ∈ lanesOf c.act, (c.bank.rows.getD b none).isSome = true

theorem columnCheck_ok {col seg : Nat} (h : NamesColumn col seg c) : bankCheck (fun c => c.columnCheck col seg) c = none := by
  obtain ⟨ho, hc, hs, hr⟩ := h
  have hlimits : ¬ (31 < col ∨ 63 < seg) := by omega
  have hopen : ((lanesOf c.act).any fun b => (c.bank.rows.getD b none).isNone) = false := by
    rw [List.any_eq_false]
    intro b hb
    rw [Bool.not_eq_true, Option.isNone_eq_false_iff]
    exact hr b hb
  refine bankCheck_owner ho ?_
  simp only [Ctx.columnCheck, if_neg hlimits, hopen, Bool.false_eq_true, if_false]

/-- A row that the wavefront may open: no bank acts, the wavefront is Aderic's, or the row is its function's (R222). -/
def MayOpen (row : Nat) (c : Ctx) : Prop :=
  c.act = 0 ∨ c.w.tenant = false ∨ ∃ t, c.st.stripeRow c.stack c.bank.idx row = some t ∧ t.fn = c.fn

theorem mayOpen_own {row : Nat} (h : MayOpen row c) :
    (c.act != 0 && c.w.tenant && !((c.st.stripeRow c.stack c.bank.idx row).any fun t => t.fn == c.fn)) = false := by
  rcases h with h | h | ⟨t, ht, hf⟩
  · simp [h]
  · simp [h]
  · simp [ht, hf]

/-! ### The commands -/

/-- The owned pseudo-channel changed (R221 to R225). -/
abbrev ownedPut (c : Ctx) (f : Pch → Pch) (s : State) : State := s.setPch (f (s.pch c.stack (c.owned.getD 0)))

/-- The number that s y holds. -/
abbrev numY (o : X) (c : Ctx) : Nat := (c.s o.y.toNat).toNat

/-- The access of an acting bank to the column word that s y names in its open row. -/
def columnWord (o : X) (c : Ctx) (s : State) (b : Nat) : Except AFault (State × Acc) :=
  .ok (s, s.columnAcc c.stack c.bank.idx ((c.bank.rows.getD b none).getD 0) (numY o c) b)

/-- A lane's element set in a segment of the broadcast store. -/
def broadcastLane (o : X) (c : Ctx) (b : List (BitVec 16)) (l : Nat) : List (BitVec 16) :=
  b.set (16 * numY o c + l) ((c.lane o.x.toNat l).setWidth 16)

theorem vbcast_retires (o : X) : Retires (.vbcast o) 0xE1 (fun _ => [vsrc o.x 0 false 1, ssrc o.y 1]) (fun c => Owns c ∧ numY o c ≤ 63)
    (fun c => ownedPut c (fun p => { p with
      bcast := (lanesOf c.act).foldl (broadcastLane o c) p.bcast,
      bcastPoison := p.bcastPoison.filter fun x => !(x / 16 == numY o c && hasLane c.act (x % 16)) }) c.st) (fun _ => []) fun _ => 0 := by
  refine retires_of (fun _ => rfl) (fun c ⟨ho, hs⟩ => bankCheck_owner ho (if_neg (Nat.not_lt.2 hs))) fun c _ => ?_
  simp only [BitVec.ofNat_toNat]
  rfl

theorem rowact_retires (o : X) : Retires (.rowact o) 0xE6 (fun _ => [ssrc o.y 1])
    (fun c => Owns c ∧ numY o c ≤ 65535 ∧ MayOpen (numY o c) c)
    (fun c => ownedPut c (fun p => { p with rows := (lanesOf c.act).foldl (fun r b => r.set b (some (numY o c))) p.rows }) c.st)
    (fun _ => []) fun _ => 0 := by
  refine retires_of (fun _ => rfl) (fun c ⟨ho, hr, hm⟩ => bankCheck_owner ho ?_) fun _ _ => rfl
  exact (if_neg (Nat.not_lt.2 hr)).trans (if_neg (Bool.eq_false_iff.1 (mayOpen_own hm)))

/-- The state after the multiply-accumulates of the acting banks, one after another (R223). -/
def macResult (o : X) (dsb : Bool) (c : Ctx) (s : State) (as : List Acc) : State :=
  as.foldl (fun s a => ownedPut c (fun p => p.mac dsb (o.imm.toNat % 8) (c.s o.z.toNat).toNat a.lane (c.columnBytes (numY o c) s a)
    (s.poisoned a.locs)) s) s

theorem mac_accesses {i : X → Instr} {opc : Nat} {dsb : Bool} (he : ∀ o s, exec (i o) s = bankMul opc dsb o s) (o : X) :
    Accesses (i o) opc (fun _ => [ssrc o.y 1, ssrc o.z 1]) (fun c => NamesColumn (numY o c) (c.s o.z.toNat).toNat c) { write := false } active
      stays (columnWord o) fun c s as => ((macResult o dsb c s as).spendColumns as, [], 0) :=
  accesses_of (he o) (fun _ h => columnCheck_ok h) rfl fun _ _ => rfl

theorem bmacrd_retires (o : X) : Retires (.bmacrd o) 0xE4
    (fun c => { cls := 0, reg := o.x.toNat, cnt := 16, align := 16 } :: (lanesOf c.act).map fun b =>
      { cls := 0, reg := o.x.toNat + b, wr := true }) Owns
    (fun c => c.st)
    (fun c => (lanesOf c.act).map fun b =>
      { cls := 0, reg := o.x.toNat + b, mask := 0xFFFF,
        vals := perLane fun l => if l < 16 then (c.bank.accs.getD b []).getD (16 * (o.imm.toNat % 8) + l) 0 else 0,
        poison := maskOf fun l => l < 16 && c.bank.accPoison.contains (128 * b + 16 * (o.imm.toNat % 8) + l) }) fun _ => 0 :=
  retires_of (fun _ => rfl) (fun _ h => bankCheck_owner h rfl) fun _ _ => rfl

/-- The elements of the accumulator registers that BMACZ clears. -/
def clearedElems (o : X) : List Nat :=
  (if bitAt o.imm.toNat 3 = true then List.range 8 else [o.imm.toNat % 8]).flatMap fun r => (List.range 16).map fun l => 16 * r + l

/-- A bank's accumulators with those elements cleared (R224). -/
def clearedBank (o : X) (p : Pch) (b : Nat) : Pch :=
  { p with accs := p.accs.modify b fun a => (clearedElems o).foldl (fun a i => a.set i 0) a,
           accPoison := p.accPoison.filter fun x => !(x / 128 == b && (clearedElems o).contains (x % 128)) }

theorem bmacz_retires (o : X) : Retires (.bmacz o) 0xE5 (fun _ => []) Owns
    (fun c => ownedPut c (fun p => (lanesOf c.act).foldl (clearedBank o) p) c.st) (fun _ => []) fun _ => 0 :=
  retires_of (fun _ => rfl) (fun _ h => bankCheck_owner h rfl) fun _ _ => rfl

theorem colrd_accesses (o : X) : Accesses (.colrd o) 0xE7 (fun _ => [vdst o.x 8, ssrc o.y 1]) (fun c => NamesColumn (numY o c) 0 c)
    { write := false } active stays (columnWord o) fun c s as =>
      (s.spendColumns as,
       laneWrites o.x.toNat 8 (as.map fun a => (a.lane, leNat (c.columnBytes (numY o c) s a), s.poisoned a.locs)), 0) :=
  accesses_of (fun _ => rfl) (fun _ h => columnCheck_ok h) rfl fun _ _ => rfl

/-- The bytes that a lane's registers hold for its column word. -/
def columnStored (o : X) (c : Ctx) (i : Nat) : List Byte := (List.range 8).flatMap fun j => leBytes 4 (c.lane (o.x.toNat + j) i).toNat

theorem colwr_accesses (o : X) : Accesses (.colwr o) 0xE8 (fun _ => [vsrc o.x 0 false 8, ssrc o.y 1]) (fun c => NamesColumn (numY o c) 0 c)
    { write := true } active stays (columnWord o) fun c s as =>
      c.storeNowFrom (fun i => leNat (columnStored o c i)) ((as.filter (·.locs.isEmpty)).foldl (fun s a => ownedPut c
        (fun p => p.putRaw (c.rawKey (numY o c) a.lane) (columnStored o c a.lane)) s) s) as :=
  accesses_of (fun _ => rfl) (fun _ h => columnCheck_ok h) rfl fun _ _ => rfl

end BankCommands

/-- Settles O39, each command by its own lemma. -/
theorem bankCommands : Obligations.BankCommands := by
  unfold Obligations.BankCommands
  exact ⟨vbcast_retires, rowact_retires, mac_accesses fun _ _ => rfl, mac_accesses fun _ _ => rfl, bmacrd_retires, bmacz_retires,
    colrd_accesses, colwr_accesses⟩

end Sys2Proof.Proofs
end

section
/-! SUPPORT. What performed writes and walks leave of the matrix contexts: the end of a region's stores, which instructions of the matrix engine
bring about, leaves every block's contexts alone (R264, R281, R398). -/

namespace Sys2Proof.Proofs

open Sys2Proof.Machine Sys2Proof.Laws

/-! ### What walks keep (R398) -/

section Walks

variable {β : Type} {g : State → β} {s t : State} {fn va : Nat} {write : Bool}

theorem part_ite {a b : State} {x : β} {p : Prop} [Decidable p] (ha : g a = x) (hb : g b = x) : g (if p then a else b) = x := by
  split
  · exact ha
  · exact hb

/-- A part of the state that lies in no memory, no translation cache and no table of Aderic's. -/
structure ApartFromWalks (g : State → β) : Prop where
  perform : ∀ s ws, g (s.perform ws) = g s
  tlb : ∀ (s : State) l, g { s with tlb := l } = g s
  admin : ∀ (s : State) a, g { s with admin := a } = g s

variable (hg : ApartFromWalks g)
include hg

theorem ApartFromWalks.writeNum (s : State) (l : Loc) (n x : Nat) : g (s.writeNum l n x) = g s := hg.perform s _

theorem ApartFromWalks.setUsed (s : State) (write : Bool) (entries : List Nat) : g (s.setUsed write entries) = g s :=
  List.foldlRecOn (motive := fun t => g t = g s) entries _ rfl fun t ht _ _ => part_ite ht ((hg.writeNum t _ _ _).trans ht)

theorem ApartFromWalks.walkedLeaf {l : Leaf} (h : walkedLeaf s fn va write = .ok (t, l)) : g t = g s := by
  unfold Proofs.walkedLeaf at h
  split at h
  · cases h
  · split at h
    · cases h
    · cases h
      exact (hg.tlb _ _).trans (hg.setUsed s write _)

theorem ApartFromWalks.leafOf {l : Leaf} (h : s.leafOf fn va write = .ok (t, l)) : g t = g s := by
  rw [leafOf_eq] at h
  split at h
  · exact hg.walkedLeaf h
  · split at h
    · cases h
    · split at h
      · exact hg.walkedLeaf h
      · cases h
        rfl

theorem ApartFromWalks.translate {l : Loc} (h : s.translate fn va write = .ok (t, l)) : g t = g s := by
  unfold State.translate at h
  split at h
  · cases h
  · split at h
    · cases h
    · next hleaf =>
      split at h
      · cases h
      · cases h
        exact hg.leafOf hleaf

theorem ApartFromWalks.translateFrom {n fuel : Nat} {ls : List Loc} (h : s.translateFrom fn va n write fuel = .ok (t, ls)) : g t = g s := by
  induction fuel generalizing s va n ls with
  | zero => cases h; rfl
  | succ fuel ih =>
    unfold State.translateFrom at h
    split at h
    · cases h; rfl
    · dsimp only at h
      split at h
      · cases h
      · cases h
      · next hfirst _ =>
        split at h
        · cases h
        · next hrest =>
          cases h
          exact (ih hrest).trans (hg.translate hfirst)

theorem ApartFromWalks.writeVa {bs : List Byte} (h : s.writeVa fn va bs = some t) : g t = g s := by
  unfold State.writeVa State.translateN at h
  split at h
  · next hwalk =>
    cases h
    exact (hg.perform _ _).trans (hg.translateFrom hwalk)
  · cases h

theorem ApartFromWalks.modFn (s : State) (fn : Nat) (f : Fn → Fn) : g (s.modFn fn f) = g s := hg.admin s _

theorem ApartFromWalks.interrupt (s : State) (fn n : Nat) : g (s.interrupt fn n) = g s := part_ite (hg.admin s _) rfl

theorem ApartFromWalks.log (s : State) (fn cls b0 b8 b16 b20 b24 b28 : Nat) : g (s.log fn cls b0 b8 b16 b20 b24 b28).1 = g s := by
  unfold State.log
  split
  · rfl
  · next f _ =>
    cases f.log with
    | none => exact hg.modFn s fn _
    | some cb =>
      have hdrop := (hg.writeNum (s.modFn fn fun f' => { f' with logWrite := f.logWrite + 1, logLost := f.logLost + 1 })
        (.dev (cb.toNat + 32)) 8 (f.logLost + 1)).trans (hg.modFn s fn _)
      dsimp only
      split
      · exact hdrop
      · split
        · exact hdrop
        · next s1 hw =>
          have hrec := (hg.writeNum (s1.modFn fn fun f' => { f' with logWrite := f.logWrite + 1 }) (.dev (cb.toNat + 16)) 8
            (f.logWrite + 1)).trans ((hg.modFn s1 fn _).trans (hg.writeVa hw))
          exact part_ite ((hg.interrupt _ _ _).trans hrec) hrec

end Walks

/-! ### Matrix contexts -/

/-- The matrix contexts of every block. -/
def contexts (s : State) : List (Nat × List MatCtx) := s.blocks.map fun b => (b.uid, b.mctx)

theorem map_updateFirst_of_first {α β : Type} {p : α → Bool} {f : α → α} {g : α → β} {l : List α} (h : ∀ x, l.find? p = some x → g (f x) = g x) :
    (updateFirst p f l).map g = l.map g := by
  induction l with
  | nil => rfl
  | cons x xs ih =>
    rw [updateFirst]
    cases hp : p x with
    | true => simp only [if_true, List.map_cons, h x (List.find?_cons_of_pos hp)]
    | false =>
      simp only [Bool.false_eq_true, if_false, List.map_cons]
      rw [ih fun y hy => h y (by rwa [List.find?_cons_of_neg (by simp [hp])])]

theorem contexts_putByte (s : State) (l : Loc) (v : Byte) : contexts (s.putByte l v) = contexts s := by
  cases l with
  | scr b o => exact map_updateFirst_of_first (l := s.blocks) fun _ _ => rfl
  | _ => rfl

theorem contexts_perform (s : State) (ws : List (Loc × Byte)) : contexts (s.perform ws) = contexts s := by
  obtain ⟨p, rs, a, h⟩ := perform_eq (s := s) (ws := ws)
  rw [h]
  exact written_keeps (P := fun t => contexts t = contexts s) (fun t l v ht => (contexts_putByte t l v).trans ht) rfl

theorem contexts_apart : ApartFromWalks contexts := ⟨contexts_perform, fun _ _ => rfl, fun _ _ => rfl⟩

/-! ### Performed writes, with all that they bring about (R169, R281, R315, R374) -/

theorem contexts_arrive (s : State) (ls : List Loc) (writer : Option Nat) : contexts (s.arrive ls writer) = contexts s := by
  refine List.foldlRecOn (motive := fun t => contexts t = contexts s) s.blocks _ rfl fun t ht b _ => part_ite ht ?_
  refine List.foldlRecOn (motive := fun t => contexts t = contexts s) b.counters _ ht fun r hr k _ => ?_
  dsimp only
  split
  · exact part_ite hr ((contexts_apart.writeNum r _ _ _).trans hr)
  · exact hr

theorem finishCopy_contexts (b : Block) (n status : Nat) : (b.finishCopy n status).uid = b.uid ∧ (b.finishCopy n status).mctx = b.mctx := ⟨rfl, rfl⟩

theorem publish_contexts (b : Block) (p : Nat) (publisher : Option Nat) :
    (b.publish p publisher).uid = b.uid ∧ (b.publish p publisher).mctx = b.mctx := by
  unfold Block.publish
  split
  · exact ⟨rfl, rfl⟩
  · split
    · exact ⟨rfl, rfl⟩
    · split
      · exact finishCopy_contexts _ _ _
      · exact ⟨rfl, rfl⟩

/-- A block replaced by one with its number and its contexts. -/
theorem contexts_setBlock {s : State} {b b' : Block} (hb : s.block? b.uid = some b) (h : b'.uid = b.uid ∧ b'.mctx = b.mctx) :
    contexts (s.setBlock b') = contexts s := by
  refine map_updateFirst_of_first fun x hx => ?_
  rw [h.1] at hx
  obtain rfl : b = x := Option.some.inj (hb.symm.trans hx)
  exact Prod.ext h.1 h.2

theorem contexts_publishRing (s : State) (block p : Nat) (publisher : Option Nat) : contexts (s.publishRing block p publisher) = contexts s := by
  unfold State.publishRing
  split
  · rfl
  · next b hb =>
    have hu : b.uid = block := by simpa using List.find?_some hb
    have hset := contexts_setBlock (hu ▸ hb) (publish_contexts b p publisher)
    exact part_ite hset ((contexts_apart.log _ _ _ _ _ _ _ _ _).trans hset)

theorem contexts_noticeRings (s : State) (ls : List Loc) (writer : Option Nat) : contexts (s.noticeRings ls writer) = contexts s := by
  refine List.foldlRecOn (motive := fun t => contexts t = contexts s) s.blocks _ rfl fun t ht b _ => ?_
  split
  · exact part_ite ((contexts_publishRing t _ _ _).trans ht) ht
  · exact ht

theorem contexts_queueCheck (s : State) (q : Queue) : contexts (s.queueCheck q) = contexts s := by
  unfold State.queueCheck
  dsimp only
  split
  · rw [contexts_apart.writeNum, contexts_apart.writeNum]
  · rfl

theorem contexts_noticeQueues (s : State) (ls : List Loc) : contexts (s.noticeQueues ls) = contexts s :=
  List.foldlRecOn (motive := fun t => contexts t = contexts s) s.admin.queues _ rfl fun t ht q _ =>
    part_ite ((contexts_queueCheck t q).trans ht) ht

theorem contexts_noticeDoorbells (s : State) (ls : List Loc) : contexts (s.noticeDoorbells ls) = contexts s := by
  unfold State.noticeDoorbells
  dsimp only
  split
  · rfl
  · rfl

theorem contexts_land (s : State) (ws : List (Loc × Byte)) (writer : Option Nat) : contexts (s.land ws writer) = contexts s := by
  unfold State.land
  rw [contexts_noticeDoorbells, contexts_noticeQueues, contexts_noticeRings, contexts_arrive, contexts_perform]

theorem contexts_modWarp (s : State) (u : Nat) (f : Warp → Warp) : contexts (s.modWarp u f) = contexts s := rfl

theorem contexts_endRegion (s : State) (u : Nat) : contexts (s.endRegion u) = contexts s := by
  unfold State.endRegion
  split
  · split
    · rw [contexts_modWarp, contexts_land]
    · rfl
  · rfl

/-- The contexts decide which context a block and a number name. -/
theorem mctx?_contexts (s : State) (u n : Nat) :
    (s.mctx? u n).map (·.2) = ((contexts s).find? (·.1 == u)).bind fun e => e.2[n]? := by
  have hfind : (contexts s).find? (·.1 == u) = (s.block? u).map fun b => (b.uid, b.mctx) := List.find?_map ..
  rw [hfind, State.mctx?]
  cases s.block? u with
  | none => rfl
  | some b =>
    simp only [Option.map_some, Option.bind_some, Option.map_map]
    cases b.mctx[n]? <;> rfl

theorem updateFirst_congr {α : Type} {p : α → Bool} {f g : α → α} {l : List α} (h : ∀ x, l.find? p = some x → f x = g x) :
    updateFirst p f l = updateFirst p g l := by
  induction l with
  | nil => rfl
  | cons x xs ih =>
    simp only [updateFirst]
    split
    · next hp => rw [h x (List.find?_cons_of_pos hp)]
    · next hp => rw [ih fun y hy => h y (by rwa [List.find?_cons_of_neg hp])]

/-- A change of a context depends on the context as it is. -/
theorem modCtx_congr {s : State} {u n : Nat} {x : MatCtx} {f g : MatCtx → MatCtx} (hx : (s.mctx? u n).map (·.2) = some x) (h : f x = g x) :
    s.modCtx u n f = s.modCtx u n g := by
  have hblocks : updateFirst (·.uid == u) (fun b : Block => { b with mctx := b.mctx.modify n f }) s.blocks =
      updateFirst (·.uid == u) (fun b : Block => { b with mctx := b.mctx.modify n g }) s.blocks := by
    refine updateFirst_congr fun b hb => ?_
    have hn : b.mctx[n]? = some x := by
      rw [State.mctx?, show s.block? u = some b from hb] at hx
      simpa using hx
    have hm : b.mctx.modify n f = b.mctx.modify n g := by
      refine List.ext_getElem? fun i => ?_
      rw [List.getElem?_modify, List.getElem?_modify]
      split
      · next hi =>
        rw [← hi, hn]
        exact congrArg some h
      · rfl
    rw [hm]
  unfold State.modCtx State.modBlock
  rw [hblocks]

/-! ### Commands enter their context (R178 to R184, R187, R190, R194, R195, R294) -/

theorem busyTile_none {x : MatCtx} {tiles : List Nat} {open? : Option Nat}
    (h : ∀ t ∈ tiles, t < 16 → ∀ p ∈ x.busy, p.1 = t → some p.2 = open?) : x.busyTile tiles open? = none := by
  unfold MatCtx.busyTile
  refine List.findSome?_eq_none_iff.2 fun t ht => ?_
  split
  · next hm =>
    refine List.find?_eq_none.2 fun p hp hb => ?_
    rw [Bool.and_eq_true, beq_iff_eq, bne_iff_ne] at hb
    exact hb.2 (h t (List.contains_iff_mem.1 hm) (List.mem_range.1 ht) p hp hb.1)
  · rfl

section Commands

variable {c : Ctx} {b : Block} {n : Nat} {x : MatCtx} {m : MatCmd}

/-- The executing warp uses context n of block b, which holds x (R28). -/
def UsesContext (b : Block) (n : Nat) (x : MatCtx) (c : Ctx) : Prop := c.dense = false ∧ c.mat? = some (b, n, x)

theorem matCheck_uses (h : UsesContext b n x c) : matCheck c = none := matCheck_ok ⟨h.1, by rw [h.2]; rfl⟩

theorem stoppedCheck_ok (h : UsesContext b n x c) (hs : x.stopped = false) : stoppedCheck c = none := by
  simp only [stoppedCheck, matCheck_uses h, h.2, Option.map_some, hs, Option.getD_some, Bool.false_eq_true, if_false]

/-- The context that a warp uses is the one of that number in that block. -/
theorem mat?_mctx? (h : c.mat? = some (b, n, x)) : c.st.mctx? b.uid n = some (b, x) := by
  unfold Ctx.mat? at h
  split at h
  · cases h
  · next k _ =>
    obtain ⟨⟨b', x'⟩, hm, he⟩ := Option.map_eq_some_iff.1 h
    cases he
    have hu : b'.uid = c.w.block := by
      unfold State.mctx? at hm
      split at hm
      · cases hm
      · next y hy =>
        obtain ⟨_, _, hb⟩ := Option.map_eq_some_iff.1 hm
        cases hb
        simpa using List.find?_some hy
    rw [hu]
    exact hm

/-- Nothing but a full queue keeps a command from its context: its own fields are legal, its bytes allocated, its tiles held by no other
batch, and it reads no unfinished copy. -/
def MayQueue (m : MatCmd) (b : Block) (n : Nat) (x : MatCtx) (c : Ctx) : Prop :=
  c.dense = false ∧ c.mat? = some (b, n, x) ∧ x.stopped = false ∧ m.code = none ∧ (∀ r ∈ m.ranges, c.st.rangeBad b r.1 r.2 = none) ∧
    (∀ t, t ∈ m.tiles → ∀ p ∈ x.busy, p.1 = t → t < 16 → p.2 = x.open') ∧ c.st.copyTarget b m = none

theorem cmdCheck_ok {f : Ctx → MatCmd} (h : MayQueue m b n x c) (hf : (f c).code = m.code) : cmdCheck f c = none := by
  obtain ⟨hd, hx, hs, hc, _⟩ := h
  simp only [cmdCheck, stoppedCheck_ok ⟨hd, hx⟩ hs, hf, hc, Option.map_none]

/-- The state in which a command has joined its context's queue in the open batch. -/
def queuedIn (m : MatCmd) (b : Block) (n : Nat) (x : MatCtx) (c : Ctx) : State :=
  (({ c.st with nextUid := c.st.nextUid + 1 } : State).endRegion c.w.uid).modCtx b.uid n fun x' =>
    x'.push { m with uid := c.st.nextUid, batch := x.open' }

theorem queueMat_room (h : MayQueue m b n x c) (hn : x.cmds.length < 16) : c.queueMat m = .done (queuedIn m b n x c) [] 0 := by
  obtain ⟨_, hx, _, _, hr, ht, hc⟩ := h
  have hranges : (m.ranges.findSome? fun r => c.st.rangeBad b r.1 r.2) = none := List.findSome?_eq_none_iff.2 hr
  have htiles : x.busyTile m.tiles (some x.open') = none := busyTile_none fun t hm hlt p hp he => congrArg some (ht t hm p hp he hlt)
  simp only [Ctx.queueMat, hx, hranges, htiles, hc, if_neg (Nat.not_le.2 hn)]
  refine congrArg (Act.done · [] 0) (modCtx_congr (x := x) ?_ rfl)
  rw [mctx?_contexts, contexts_endRegion]
  exact (mctx?_contexts c.st b.uid n).symm.trans (congrArg (Option.map (·.2)) (mat?_mctx? hx))

theorem queueMat_full (h : MayQueue m b n x c) (hn : 16 ≤ x.cmds.length) : c.queueMat m = .wait c.st (.wait .contextFull) := by
  obtain ⟨_, hx, _, _, hr, ht, hc⟩ := h
  have hranges : (m.ranges.findSome? fun r => c.st.rangeBad b r.1 r.2) = none := List.findSome?_eq_none_iff.2 hr
  have htiles : x.busyTile m.tiles (some x.open') = none := busyTile_none fun t hm hlt p hp he => congrArg some (ht t hm p hp he hlt)
  simp only [Ctx.queueMat, hx, hranges, htiles, hc, if_pos hn]



/-- A command whose instruction queues it joins its context's queue, or waits where the queue is full. -/
def Queues (i : Instr) (opc : Nat) (uses : Ctx → List Use) (m : Ctx → MatCmd) : Prop :=
  ∀ (b : Block) (n : Nat) (x : MatCtx),
    Retires i opc uses (fun c => MayQueue (m c) b n x c ∧ x.cmds.length < 16) (fun c => queuedIn (m c) b n x c) (fun _ => []) (fun _ => 0) ∧
    Blocks i opc uses (fun c => MayQueue (m c) b n x c ∧ 16 ≤ x.cmds.length) (fun c => c.st) fun _ => .wait .contextFull

theorem queues_of {i : Instr} {opc : Nat} {uses : Ctx → List Use} {f m : Ctx → MatCmd}
    (he : ∀ s, exec i s = issue opc s uses (cmdCheck f) fun c => c.queueMat (m c)) (hf : ∀ c, (f c).code = (m c).code) :
    Queues i opc uses m := fun _ _ _ =>
  ⟨retires_of he (fun c h => cmdCheck_ok h.1 (hf c)) fun _ h => queueMat_room h.1 h.2,
    blocks_of he (fun c h => cmdCheck_ok h.1 (hf c)) fun _ h => queueMat_full h.1 h.2⟩

end Commands

/-! ### Batches, accumulators, queries and cancellation (R187, R188, R193, R196, R197, R200) -/

section Contexts

variable (o : X) (b : Block) (n : Nat) (x : MatCtx)

theorem commit_closes : Retires (.commit o) 0xC4 (fun _ => [sdst o.x 2]) (fun c => UsesContext b n x c ∧ c.st.followPending b n = false)
    (fun c => (c.st.endRegion c.w.uid).modCtx b.uid n MatCtx.close) (fun _ => swrite2 o.x.toNat x.open') fun _ => 0 := by
  refine retires_of (fun _ => rfl) (fun _ h => matCheck_uses h.1) fun c ⟨⟨_, hx⟩, hp⟩ => ?_
  simp only [hx, hp, Bool.false_eq_true, if_false]

theorem commit_waits : Blocks (.commit o) 0xC4 (fun _ => [sdst o.x 2]) (fun c => UsesContext b n x c ∧ c.st.followPending b n = true)
    (fun c => c.st) fun _ => .wait .commit := by
  refine blocks_of (fun _ => rfl) (fun _ h => matCheck_uses h.1) fun c ⟨⟨_, hx⟩, hp⟩ => ?_
  simp only [hx, hp, if_true]

/-- No batch holds the tiles. -/
def TilesIdle (x : MatCtx) (ts : List Nat) : Prop := ∀ p ∈ x.busy, p.1 < 16 → p.1 ∉ ts

variable {x} in
theorem busyTile_idle {ts : List Nat} (h : TilesIdle x ts) : x.busyTile ts none = none :=
  busyTile_none fun _ ht hlt p hp he => absurd (he ▸ ht) (h p hp (he ▸ hlt))

/-- The tiles that ACCZ names. -/
def zeroedTiles (o : X) : List Nat := (List.range (bitsAt o.imm.toNat 7 4 + 1)).map (o.imm.toNat % 16 + ·)

theorem accz_zeroes (hn : o.imm.toNat % 16 + (bitsAt o.imm.toNat 7 4 + 1) ≤ 16) : Retires (.accz o) 0xC6 (fun _ => [])
    (fun c => UsesContext b n x c ∧ x.stopped = false ∧ TilesIdle x (zeroedTiles o))
    (fun c => (c.st.endRegion c.w.uid).modCtx b.uid n fun x =>
      { x with tiles := (zeroedTiles o).foldl (fun l t => l.set t (List.replicate 256 0)) x.tiles,
               poison := x.poison.filter fun e => !(zeroedTiles o).contains (e / 256) })
    (fun _ => []) fun _ => 0 := by
  refine retires_of (fun _ => rfl) (fun c ⟨hu, hs, _⟩ => ?_) fun c ⟨⟨_, hx⟩, _, hi⟩ => ?_
  · simp only [accCheck, stoppedCheck_ok hu hs, if_neg (Nat.not_lt.2 hn)]
  · have hidle := busyTile_idle hi
    unfold zeroedTiles at hidle
    simp only [hx, hidle]
    rfl

/-- The tile that ACCRD and ACCWR name. -/
abbrev accTile (o : X) : Nat := o.imm.toNat % 16

theorem accrd_reads : Retires (.accrd o) 0xC7 (fun _ => [vdst o.x 8])
    (fun c => UsesContext b n x c ∧ x.stopped = false ∧ TilesIdle x [accTile o]) (fun c => c.st)
    (fun c => (List.range 8).map fun j =>
      { cls := 0, reg := o.x.toNat + j, mask := c.act, vals := perLane fun i => (x.tiles.getD (accTile o) []).getD (tileIndex j i) 0,
        poison := maskOf fun i => x.poison.contains (accTile o * 256 + tileIndex j i) }) fun _ => 0 := by
  refine retires_of (fun _ => rfl) (fun c ⟨hu, hs, _⟩ => stoppedCheck_ok hu hs) fun c ⟨⟨_, hx⟩, _, hi⟩ => ?_
  simp only [hx, busyTile_idle hi]

/-- A tile with the elements that a split's lanes write into it (R193). -/
def tileWritten (o : X) (c : Ctx) (tile : List Word) : List Word :=
  (List.range 8).foldl (fun tile j => (lanesOf c.act).foldl (fun tile i => tile.set (tileIndex j i) (c.lane (o.x.toNat + j) i)) tile) tile

theorem accwr_writes : Retires (.accwr o) 0xC8 (fun _ => [vsrc o.x 0 false 8])
    (fun c => UsesContext b n x c ∧ x.stopped = false ∧ TilesIdle x [accTile o])
    (fun c => (c.st.endRegion c.w.uid).modCtx b.uid n fun x =>
      { x with tiles := x.tiles.modify (accTile o) (tileWritten o c),
               poison := x.poison.filter fun e => !(e / 256 == accTile o && hasLane c.act (e % 16 + 16 * (e % 256 / 16 % 2))) })
    (fun _ => []) fun _ => 0 := by
  refine retires_of (fun _ => rfl) (fun c ⟨hu, hs, _⟩ => stoppedCheck_ok hu hs) fun c ⟨⟨_, hx⟩, _, hi⟩ => ?_
  simp only [hx, busyTile_idle hi]
  rfl

theorem mqry_reports : Retires (.mqry o) 0xCB (fun _ => [sdst o.x 4]) (UsesContext b n x) (fun c => c.st)
    (fun _ =>
      swrite o.x.toNat ((List.range 16).foldl (fun n t => if x.busy.any (·.1 == t) = true then n + 2 ^ t else n) 0 + x.cmds.length * 2 ^ 16 +
        (if x.stopped = true then 2 ^ 21 else 0) + (if x.failed.isEmpty = true then 0 else 2 ^ 22)) ++
      swrite (o.x.toNat + 1) x.done ++ swrite (o.x.toNat + 2) (x.open' - 1) ++
      swrite (o.x.toNat + 3) ((sortBy id (x.failed.map (·.batch))).headD 0)) fun _ => 0 := by
  refine retires_of (fun _ => rfl) (fun _ h => matCheck_uses h) fun c ⟨_, hx⟩ => ?_
  simp only [hx]

theorem mbudg_reports : Retires (.mbudg o) 0xCF (fun _ => [sdst o.x 2]) (UsesContext b n x) (fun c => c.st)
    (fun _ => swrite o.x.toNat x.last ++ swrite (o.x.toNat + 1) x.total) fun _ => 0 := by
  refine retires_of (fun _ => rfl) (fun _ h => matCheck_uses h) fun c ⟨_, hx⟩ => ?_
  simp only [hx]

theorem mcancel_cancels : Retires (.mcancel o) 0xCE (fun _ => [sdst o.x 2]) (UsesContext b n x)
    (fun c => ((c.st.endRegion c.w.uid).dropFollows b.uid n).modCtx b.uid n MatCtx.cancel) (fun _ => swrite2 o.x.toNat x.normal) fun _ => 0 := by
  refine retires_of (fun _ => rfl) (fun _ h => matCheck_uses h) fun c ⟨_, hx⟩ => ?_
  simp only [hx]

end Contexts

/-! ### Saving and restoring (R198, R199) -/

section SaveRestore

variable {o : X} {b : Block} {n : Nat} {x y : MatCtx} {s s1 : State} {c : Ctx}

/-- The context in which MSAVE and MREST make their access: the open region has ended. -/
def regionEnded (c : Ctx) : Ctx := { c with st := c.st.endRegion c.w.uid }

/-- The state after a saved context's register operands have been drained. -/
def drained (b : Block) (n : Nat) (x : MatCtx) (c : Ctx) (s1 : State) (as : List Acc) : State :=
  ((regionEnded c).entered { write := true } s1 as).drainRegs b.uid n x.stepsLeft

theorem msave_saves {as : List Acc} {y' : Block} (hc : s.ctx? = some c) (ha : Admitted c 0xCC [ssrc o.x 2]) (hx : UsesContext b n x c)
    (hu : Unhindered (regionEnded c) { write := true } [c.uniLane] (fun _ => none) (c.msaveAcc (c.s2 o.x.toNat)) s1 as)
    (hy : (drained b n x c s1 as).mctx? b.uid n = some (y', y)) :
    exec (.msave o) s = .next (c.retire 0xCC [ssrc o.x 2]
      ((((drained b n x c s1 as).storeNow c.w (List.zip (as.flatMap (·.locs)) y.save)).mark
        (y.poison.flatMap fun e => ((as.flatMap (·.locs)).drop (0x440 + 4 * e)).take 4)).modCtx
          b.uid n fun x => { x with stopped := true }) [] 0) := by
  have hmat := hx.2
  refine issue_accesses hc ha (matCheck_uses hx) hu (by simp only [hmat]; rfl) ?_
  simp only [show (((regionEnded c).entered { write := true } s1 as).drainRegs b.uid n x.stepsLeft).mctx? b.uid n = some (y', y) from hy]
  rfl


theorem resolve_one {f : State → Nat → Except AFault (State × Acc)} {i : Nat} {s s1 : State} {a : Acc}
    (h : resolve f [i] s = .ok (s1, [a])) : f s i = .ok (s1, a) := by
  unfold resolve at h
  split at h
  · cases h
  · next hf =>
    cases h
    exact hf

/-- The state in which a context holds what a record gave it. -/
def restoredIn (b : Block) (n : Nat) (y : MatCtx) (s : State) : State :=
  ({ s with nextUid := s.nextUid + 16, free := s.free + 1 } : State).modCtx b.uid n fun _ => y

theorem mrest_restores {a : Acc} (hc : s.ctx? = some c) (ha : Admitted c 0xCD [ssrc o.x 2]) (hx : UsesContext b n x c) (he : x.cmds = [])
    (hu : Unhindered (regionEnded c) { write := false } [c.uniLane] (fun _ => none)
      (fun s i => (regionEnded c).linear false false false matRecord s i ((regionEnded c).s2 o.x.toNat)) s1 [a]) (hp : s1.poison = [])
    (hy : readContext (s1.readLocs a.locs) s1.nextUid c.w.uid [] (Config.freeWord s1.free).toNat = some y) :
    exec (.mrest o) s = .next (c.retire 0xCD [ssrc o.x 2]
      (restoredIn b n y ((regionEnded c).entered { write := false } s1 [a])) [] 0) := by
  have hmat := hx.2
  have ⟨_, hres, _⟩ := hu
  have hread : (regionEnded c).linear false false false matRecord (c.st.endRegion c.w.uid) (regionEnded c).uniLane
    ((regionEnded c).s2 o.x.toNat) = .ok (s1, a) := resolve_one hres
  unfold regionEnded at hread
  refine issue_accesses (effect := fun s _ => (restoredIn b n y s, [], 0)) hc ha ?_ hu ?_ rfl
  · simp only [matCheck_uses hx, hmat, Option.map_some, he, List.isEmpty_nil, Bool.not_true, Option.getD_some, Bool.false_eq_true, if_false]
  · simp only [hmat, hread, hp, List.isEmpty_nil, if_true, hy]
    rfl

end SaveRestore

/-- Settles O29: the commands by the rule for a command that is queued, the other instructions each by its own lemma. -/
theorem matrixCommandsAndState : Obligations.MatrixCommandsAndState := by
  unfold Obligations.MatrixCommandsAndState
  refine ⟨?_, commit_closes, commit_waits, fun o b n x hn => accz_zeroes o b n x hn, accrd_reads, accwr_writes, mqry_reports,
    mbudg_reports, mcancel_cancels, ?_, ?_⟩
  · refine ⟨?_, ?_, ?_, ?_, ?_, ?_⟩ <;> exact fun _ => queues_of (fun _ => rfl) fun _ => rfl
  · exact fun o b n x s c s1 as y y' hc ha hx hu hy => msave_saves hc ha hx hu hy
  · exact fun o b n x s c s1 a y hc ha hx he hu hp hy => mrest_restores hc ha hx he hu hp hy

end Sys2Proof.Proofs
end

section
/-! SUPPORT. The events of the copy engine and of the drives (R188, R278 to R281, R286, R290, R292, R415), one lemma for each. -/

namespace Sys2Proof.Proofs

open Sys2Proof.Machine Sys2Proof.Laws

section CopyEvents

variable {s : State} {b : Block} {c : CopyCmd}

theorem copyRingNotify_publishes {r : Ring} (hb : s.block? s.args.a = some b) (hr : b.ring = some r) :
    exec .copyRingNotify s = .next (s.publishRing s.args.a (s.readNum (.scr s.args.a r.notify) 8) none) := by
  change execCopyRingNotify s = _
  simp only [execCopyRingNotify, hb, Option.bind_some, hr]

/-! ### Consumption (R279, R281) -/

section Consumption

variable {r : Ring} {n : Named}

/-- The entry that the block's engine consumes next. -/
def nextEntry (b : Block) (r : Ring) : List Byte := b.entry r r.consumed

/-- The function of a block's launch. -/
def blockFn (s : State) (b : Block) : Nat := ((s.launch? b.launch).map (·.fn)).getD 0

/-- The length that an entry adds to its gate's counter. -/
def gateLength (b : Block) (r : Ring) (n : Named) : Nat :=
  if 4 ≤ entryKind (nextEntry b r) ∧ entryKind (nextEntry b r) ≤ 6 then n.dstLen else entryLen (nextEntry b r)

/-- The command of an entry that neither follows nor waits at a gate. -/
def consumedCopy (s : State) (b : Block) (r : Ring) (n : Named) : CopyCmd :=
  { uid := s.nextUid, block := s.args.a, fn := blockFn s b, number := b.copyIssued + 1, entry := nextEntry b r, src := n.src, dst := n.dst,
    srcLen := n.srcLen, dstLen := n.dstLen, template := [], target := none, units := 0, staged := none,
    gateT := (((b.gates.find? (·.1 == fieldAt (nextEntry b r) 24 4)).map (·.2)).getD 0 + gateLength b r n) % 2 ^ 32, gated := false,
    drive := [], ended := none, publisher := (r.pubs.find? (·.index == r.consumed)).bind (·.publisher) }

/-- The state in which a block's next entry is consumed. -/
def entryTaken (s : State) (b : Block) (r : Ring) : State :=
  ({ s with nextUid := s.nextUid + 1 } : State).modBlock s.args.a fun x =>
    { x with copyIssued := b.copyIssued + 1, ring := some { r with consumed := r.consumed + 1, pubs := r.pubs.filter (·.index != r.consumed) } }

theorem copyEntryConsume_consumes (hb : s.block? s.args.a = some b) (hr : b.ring = some r) (hs : r.stopped = false)
    (hp : r.consumed < r.published) (hpre : b.preempt = .none) (h8 : entryFlag (nextEntry b r) 8 = false)
    (h9 : entryFlag (nextEntry b r) 9 = false) (h13 : entryFlag (nextEntry b r) 13 = false)
    (hn : s.entryCheck b r (blockFn s b) (nextEntry b r) false = .ok n) :
    exec .copyEntryConsume s = .next ((({ entryTaken s b r with copies := (entryTaken s b r).copies ++ [consumedCopy s b r n] } : State).setCopy
      (consumedCopy s b r n)).openCopy b (consumedCopy s b r n)) := by
  change Host.Outcome.next (s.consumeEntry s.args.a false) = _
  unfold nextEntry blockFn at *
  have hgo : ¬ (r.stopped = true ∨ r.published ≤ r.consumed ∨ b.preempt ≠ .none) := by
    rw [hs, hpre]
    simp only [Bool.false_eq_true, ne_eq, not_true_eq_false, or_false, false_or, not_le]
    exact hp
  have htarget : b.followTarget r r.consumed (b.entry r r.consumed) = none := by
    simp only [Block.followTarget, h9, Bool.false_eq_true, if_false]
  simp only [State.consumeEntry, hb, hr, if_neg hgo, h8, h9, h13, htarget, Bool.false_eq_true, false_and, if_false, Except.toOption,
    Option.isNone_some, hn, Bool.false_and]
  rfl

end Consumption

/-! ### Landing, gates and completion (R278, R280, R290) -/

theorem copyUnitLand_lands (hc : s.copy? s.args.a = some c) (hb : s.block? c.block = some b)
    (hl : ((s.launch? b.launch).map (·.cancelled)).getD false = false) (hr : s.copyMayRun b c = true) (hd : s.landed c = false)
    (hk : entryKind c.entry ≠ 8) (ho : c.staged.isSome = true ∨ s.selfOverlap c = false) (hdr : c.drive = []) :
    exec .copyUnitLand s = .next (((((s.copyWaitsOn b c).map (s.askHost c.fn)).getD s).openCopy b c).landUnit b c) := by
  change execCopyUnitLand s = _
  have hstage : (c.staged.isNone && s.selfOverlap c) = false := by
    rcases ho with h | h
    · rw [Option.isNone_eq_false_iff.2 h, Bool.false_and]
    · rw [h, Bool.and_false]
  simp only [execCopyUnitLand, hc, hb, hl, hr, hd, if_neg hk, hstage, hdr, Bool.false_eq_true, and_false, Bool.not_true, Bool.or_self,
    List.isEmpty_nil, if_false, if_true]

/-- The state in which a finished command's number is counted. -/
def copyCounted (s : State) (c : CopyCmd) : State := (s.closeRecords s.args.a).modBlock c.block fun b => b.finishCopy c.number 0

theorem copyCommandDone_ends (hc : s.copy? s.args.a = some c) (hb : s.block? c.block = some b) (hp : b.preempt = .none)
    (he : c.ended = none) (hl : s.landed c = true) (ht : c.target = none) (h8 : entryFlag c.entry 8 = false)
    (h12 : entryFlag c.entry 12 = false) :
    exec .copyCommandDone s = .next { copyCounted s c with copies := (copyCounted s c).copies.filter (·.uid != s.args.a) } := by
  change Host.Outcome.next (s.copyDone s.args.a false) = _
  have hc' : (s.closeRecords s.args.a).copy? s.args.a = some c := hc
  simp only [State.copyDone, hc, hb, hp, he, hl, ht, h8, h12, hc', Option.getD_none, Option.isSome_none, Option.isNone_none, Bool.and_self,
    Bool.or_true, Bool.not_true, bne_self_eq_false, Bool.or_self, Bool.false_and, Bool.false_eq_true, and_false, if_false, Option.bind_some]
  rfl

theorem gateReevaluate_opens (hc : s.copy? s.args.a = some c) (hb : s.block? c.block = some b) (hg : c.gated = true)
    (ho : s.gateOpen b c = true) : exec .gateReevaluate s = .next (s.setCopy { c with gated := false }) := by
  change execGateReevaluate s = _
  simp only [execGateReevaluate, hc, hb, hg, ho, Bool.and_self, if_true]

/-! ### Follow-ons (R188, R292) -/

theorem followOnIssue_issues {t : Nat × Nat} {x : MatCtx} (hc : s.copy? s.args.a = some c) (ht : c.target = some t)
    (hx : s.mctx? c.block t.1 = some (b, x)) (he : c.ended = none) (hg : c.gated = false) (hl : s.landed c = true) (hp : b.preempt = .none)
    (hs : x.stopped = false) {m : MatCmd} (hm : m = followCmd c.template s.nextUid t.2 (c.publisher.getD 0)) (hcode : m.code = none)
    (hr : ∀ r ∈ m.ranges, s.rangeBad b r.1 r.2 = none) (hbusy : x.busyTile m.tiles (some t.2) = none) (hn : x.cmds.length < 16) :
    exec .followOnIssue s = .next ((({ s with nextUid := s.nextUid + 1 } : State).modCtx c.block t.1
      fun x => x.push m).setCopy { c with target := none }) := by
  change execFollowOnIssue s = _
  subst hm
  have hranges := List.findSome?_eq_none_iff.2 hr
  simp only [execFollowOnIssue, hc, ht, hx, he, hg, hl, hp, hs, hcode, hranges, hbusy, Option.isSome_none, Bool.not_true, bne_self_eq_false,
    Bool.or_self, Bool.false_eq_true, Bool.false_or, decide_eq_true_eq, if_neg (Nat.not_le.2 hn), if_false]
  rfl

/-! ### Drives (R415) -/

section Reads

variable {d : DriveCmd} {g : List Byte} (hc : s.copy? s.args.a = some c)
include hc

theorem nvmeCompletion_done (hd : c.read? s.args.b = some d) (hg : s.grant? c = some g) (h : s.args.value = 0) :
    exec .nvmeCompletion s = .next ((s.readCompletion c.fn c.grantIndex g d.cid s.args.value.toNat).setCopy
      { c with drive := c.drive.map fun x => if x = d then { x with done := true } else x }) := by
  change execNvmeCompletion s = _
  simp only [execNvmeCompletion, hc, hd, hg, if_neg (not_not.2 h), beq_iff_eq]

theorem nvmeCompletion_failed (hd : c.read? s.args.b = some d) (hg : s.grant? c = some g) (h : s.args.value ≠ 0) :
    exec .nvmeCompletion s = .next ((s.readCompletion c.fn c.grantIndex g d.cid s.args.value.toNat).copyFail c.uid 7 0) := by
  change execNvmeCompletion s = _
  simp only [execNvmeCompletion, hc, hd, hg, if_pos h]

theorem nvmeTimeout_fails (h : ∃ d ∈ c.drive, d.done = false) : exec .nvmeTimeout s = .next (s.copyFail c.uid 7 0) := by
  change execNvmeTimeout s = _
  have hany : (c.drive.any fun d => !d.done) = true := by simpa using h
  simp only [execNvmeTimeout, hc, hany, if_true]

end Reads

/-- Where the bytes of a drive's write lie. -/
def driveBytes (s : State) : List Loc := (List.range s.args.bytes.length).map fun i => s.driveLoc (s.args.c + i)

/-- The write of a drive as an access. -/
def driveAcc (s : State) (c : CopyCmd) : Acc := { lane := 0, va := sideAddr c.dst 0, locs := driveBytes s }

/-- A copy that reads from the storage grant of the write. -/
def ofDriveGrant (s : State) (c : CopyCmd) : Bool := c.fn == s.args.a && (match c.src with | .drive g _ => g == s.args.b | _ => false)

theorem driveWrite_lands (hone : s.copies.filter (ofDriveGrant s) = [c]) (hb : s.block? c.block = some b)
    (hd : ∃ d ∈ c.drive, d.done = false ∧ ∀ l ∈ driveBytes s, l ∈ (s.readAccs b c d).flatMap (·.locs)) (hr : s.copyMayRun b c = true)
    (hw : s.bankWait c.uid none [driveAcc s c] = none) (hh : s.heldLoc (driveBytes s) (fun u m => u == c.block && !m.follow) = none)
    (hx : s.copyConflict c true [driveAcc s c] = none) (ho : s.heldLoc (driveBytes s) (fun u _ => u != c.block) = none) :
    exec .driveWrite s = .next ((s.land (List.zip (driveBytes s) s.args.bytes) none).closeGranules c.uid true
      ((s.land (List.zip (driveBytes s) s.args.bytes) none).granules (driveAcc s c))) := by
  have hfound : (c.drive.find? fun d => !d.done && (driveBytes s).all ((s.readAccs b c d).flatMap (·.locs)).contains).isSome = true := by
    obtain ⟨d, hm, hnot, hall⟩ := hd
    refine List.find?_isSome.2 ⟨d, hm, ?_⟩
    rw [hnot, Bool.not_false, Bool.true_and, List.all_eq_true]
    exact fun l hl => List.contains_iff_mem.2 (hall l hl)
  obtain ⟨d, hfind⟩ := Option.isSome_iff_exists.1 hfound
  have hhit : ((s.copies.filter (ofDriveGrant s)).findSome? fun c => (s.block? c.block).bind fun b =>
      (c.drive.find? fun d => !d.done && (driveBytes s).all ((s.readAccs b c d).flatMap (·.locs)).contains).map fun _ => (b, c)) =
      some (b, c) := by
    simp only [hone, List.findSome?_cons, hb, Option.bind_some, hfind, Option.map_some]
  change execDriveWrite s = _
  unfold execDriveWrite
  dsimp only
  split
  · next hnone =>
    cases hhit.symm.trans hnone
  · next hsome =>
    cases hhit.symm.trans hsome
    unfold driveAcc driveBytes at *
    simp only [hr, hw, hh, hx, ho, Option.isSome_none, Bool.not_true, Bool.or_self, Bool.false_eq_true, if_false]

end CopyEvents

/-- Settles O45, each event by its own lemma. -/
theorem copyEvents : Obligations.CopyEvents := by
  unfold Obligations.CopyEvents
  refine fun s => ⟨fun b r hb hr => copyRingNotify_publishes hb hr, ?_, ?_, ?_, ?_, ?_, ?_, ?_, ?_⟩
  · exact fun b r hb hr hs hp hpre h8 h9 h13 n hn => copyEntryConsume_consumes hb hr hs hp hpre h8 h9 h13 hn
  · exact fun c b hc hb hl hr hd hk ho hdr => copyUnitLand_lands hc hb hl hr hd hk ho hdr
  · exact fun c b hc hb hp he hl ht h8 h12 => copyCommandDone_ends hc hb hp he hl ht h8 h12
  · exact fun c b hc hb hg ho => gateReevaluate_opens hc hb hg ho
  · exact fun c t b x hc ht hx he hg hl hp hs hcode hr hbusy hn => followOnIssue_issues hc ht hx he hg hl hp hs rfl hcode hr hbusy hn
  · exact fun c d g hc hd hg => ⟨nvmeCompletion_done hc hd hg, nvmeCompletion_failed hc hd hg⟩
  · exact fun c hc h => nvmeTimeout_fails hc h
  · exact fun c b hone hb hd hr hw hh hx ho => driveWrite_lands hone hb hd hr hw hh hx ho

end Sys2Proof.Proofs
end

section
/-! SUPPORT. The events of the matrix engines and of the monitors (R183, R187, R358, R360, R440), and those of the front ends: rings, wavefronts,
all-bank mode and bank operations (R209, R211, R218, R219, R228, R315 to R323, R326, R333), one lemma for each answer. -/

namespace Sys2Proof.Proofs

open Sys2Proof.Machine Sys2Proof.Laws

variable {s : State}

/-! ### Matrix engines (R183, R440) -/

theorem engineStep_steps {b : Block} {x : MatCtx} (hx : s.mctx? s.args.a s.args.b = some (b, x)) (hs : x.stopped = false) (hc : x.cmds ≠ [])
    (hq : s.spentOf (s.stepQuadrant b x) < s.admin.budget) :
    let q := s.stepQuadrant b x
    let s1 := s.engineStep s.args.a s.args.b
    exec .engineStep s = .next { s1 with admin := { s1.admin with
      spent := s1.admin.spent.filter (·.1 != q) ++ [(q, s.spentOf q + ((s1.mctx? s.args.a s.args.b).map (·.2.last)).getD 0)] } } := by
  change execEngineStep s = _
  simp only [execEngineStep, hx, hs, List.isEmpty_eq_false_iff.2 hc, Bool.or_self, Bool.false_or, decide_eq_true_eq, if_neg (Nat.not_le.2 hq)]

theorem batchComplete_completes (s : State) : exec .batchComplete s =
    .next (s.modBlock s.args.a fun b => { b with mctx := b.mctx.modify s.args.b MatCtx.complete }) := rfl

theorem matrixBudgetPeriod_renews (s : State) : exec .matrixBudgetPeriod s = .next { s with admin := { s.admin with spent := [] } } := rfl

/-! ### Monitors (R358, R360) -/

section Monitors

variable {r : Region} {sl : Slab}

/-- A slab whose window closes: its counts begin anew, with the run of windows that qualified for one code. -/
def windowClosed (sl : Slab) (run : Option (BitVec 16)) : Slab :=
  { sl with seen := 0, strides := [], closed := sl.closed + 1, win := sl.win + 1, run := run }

/-- The slab that an event names, in another form. -/
def slabPut (s : State) (sl : Slab) : State := s.setSlab s.args.a s.args.b sl

section Windows

variable (hsl : s.slab? s.args.a s.args.b = some (r, sl)) (hseen : 2 ^ r.desc.wlog ≤ sl.seen)
include hsl hseen

theorem windowClose_moving (h : sl.state ≠ 0) : exec .monitorWindowClose s = .next (slabPut s (windowClosed sl none)) := by
  change Host.Outcome.next (s.closeWindow s.args.a s.args.b) = _
  simp only [State.closeWindow, hsl, if_neg (Nat.not_lt.2 hseen), if_pos h]
  rfl

variable (hst : sl.state = 0)
include hst

theorem windowClose_cooling (hc : 0 < sl.cool) :
    exec .monitorWindowClose s = .next (slabPut s { windowClosed sl none with cool := sl.cool - 1 }) := by
  change Host.Outcome.next (s.closeWindow s.args.a s.args.b) = _
  simp only [State.closeWindow, hsl, if_neg (Nat.not_lt.2 hseen), if_neg (not_not.2 hst), if_pos hc]
  rfl

variable (hc : sl.cool = 0)
include hc

theorem windowClose_decided (hd : sl.decided.isSome = true) : exec .monitorWindowClose s = .next (slabPut s (windowClosed sl none)) := by
  change Host.Outcome.next (s.closeWindow s.args.a s.args.b) = _
  simp only [State.closeWindow, hsl, if_neg (Nat.not_lt.2 hseen), if_neg (not_not.2 hst), if_neg (Nat.not_lt.2 hc.le), if_pos hd]
  rfl

variable (hd : sl.decided = none)
include hd

/-- With no move under way, decided or cooling off, what a window brings about is what its counts qualify for. -/
theorem windowClose_idle : exec .monitorWindowClose s = .next (match sl.qualify r.desc s.args.b with
    | none => slabPut s (windowClosed sl none)
    | some x =>
      if sl.run = some (BitVec.ofNat 16 x) then
        (slabPut s (windowClosed sl (some (BitVec.ofNat 16 x)))).decideMove s.args.a s.args.b (BitVec.ofNat 16 x) false
      else slabPut s (windowClosed sl (some (BitVec.ofNat 16 x)))) := by
  have hnone : sl.decided.isNone = true := Option.isNone_iff_eq_none.2 hd
  have hsome : ¬ sl.decided.isSome = true := by rw [hd]; exact Bool.false_ne_true
  change Host.Outcome.next (s.closeWindow s.args.a s.args.b) = _
  simp only [State.closeWindow, hsl, if_neg (Nat.not_lt.2 hseen), if_neg (not_not.2 hst), if_neg (Nat.not_lt.2 hc.le), if_neg hsome,
    if_pos (And.intro hst (And.intro hnone hc))]
  rfl

theorem windowClose_unqualified (hq : sl.qualify r.desc s.args.b = none) :
    exec .monitorWindowClose s = .next (slabPut s (windowClosed sl none)) := by
  rw [windowClose_idle hsl hseen hst hc hd, hq]

variable {x : Nat} (hq : sl.qualify r.desc s.args.b = some x)
include hq

theorem windowClose_qualified (hr : sl.run ≠ some (BitVec.ofNat 16 x)) :
    exec .monitorWindowClose s = .next (slabPut s (windowClosed sl (some (BitVec.ofNat 16 x)))) := by
  rw [windowClose_idle hsl hseen hst hc hd, hq]
  exact congrArg _ (if_neg hr)

theorem windowClose_decides (hr : sl.run = some (BitVec.ofNat 16 x)) :
    exec .monitorWindowClose s = .next ((slabPut s (windowClosed sl (some (BitVec.ofNat 16 x)))).decideMove s.args.a s.args.b
      (BitVec.ofNat 16 x) false) := by
  rw [windowClose_idle hsl hseen hst hc hd, hq]
  exact congrArg _ (if_pos hr)

end Windows

section Moves

variable {code : BitVec 16} {f : Stack} (hsl : s.slab? s.args.a s.args.b = some (r, sl)) (hd : sl.decided = some code) (hst : sl.state ≠ 1)
  (hf : s.frontEnds[sl.home]? = some f)
include hsl hd hst hf

theorem moveStart_dropped (hn : f.reserve < r.desc.slabUnits s.args.b code.toNat) :
    exec .moveStart s = .next (slabPut s { sl with decided := none, pinnedMove := false, pin := none }) := by
  change Host.Outcome.next (s.tryMove s.args.a s.args.b) = _
  simp only [State.tryMove, hsl, hd, if_neg hst, hf, Option.map_some, Option.getD_some, if_pos hn]
  rfl

theorem moveStart_starts (hn : r.desc.slabUnits s.args.b code.toNat ≤ f.reserve)
    (hfree : (r.desc.slabUnits s.args.b code.toNat : Int) ≤ s.reserveFree sl.home) :
    exec .moveStart s = .next (slabPut s { sl with decided := none, state := 1, target := code, frontier := 0, new := [], newMarks := [] }) := by
  change Host.Outcome.next (s.tryMove s.args.a s.args.b) = _
  simp only [State.tryMove, hsl, hd, if_neg hst, hf, Option.map_some, Option.getD_some, if_neg (Nat.not_lt.2 hn), if_neg (not_lt.2 hfree)]
  rfl

end Moves

end Monitors

/-! ### Rings (R315 to R318) -/

section Rings

variable {cb i : Nat} {blk r : List Byte}

theorem pollRing_serves (hw : s.admin.wiping = false) (ht : s.ringTurn s.args.a = some s.args.b)
    (hb : s.ringBlock s.args.a s.args.b = some (cb, blk)) (hok : ringBlockOk blk = true)
    (hn : s.ringNext s.args.a s.args.b = some (cb, i, r)) (hi : fieldAt r 56 4 = i % 2 ^ 32) :
    let die := dieOfStack s.args.a
    let invalid := (s.touch s.args.b die (ringEntry blk i) 64).putVa s.args.b die ((ringEntry blk i + 60) % 2 ^ 64) (leBytes 4 0)
    let started := (invalid.landNum (.dev (cb + 24)) 8 ((i + 1) % 2 ^ 64) none).startEntry s.args.a s.args.b i r
    s.pollRing s.args.a s.args.b = (started.getD s).modFront s.args.a fun f => { f with turn := s.args.b + 1 } := by
  simp only [State.pollRing, State.serveRing, hw, ht, hb, hok, hn, if_neg (not_not.2 hi), Bool.not_false, Bool.not_true, Bool.true_and, Bool.false_eq_true,
    decide_true, if_true, if_false]

end Rings

/-! ### Wavefronts (R209, R319 to R323) -/

section Wavefronts

variable {d : Dispatch} {core : Nat}

/-- The next wavefront of a dispatch in the slot that it takes on a sill core (R210, R319). -/
def startedWave (s : State) (d : Dispatch) (core : Nat) : Warp :=
  let slot := (s.freeNative d.stack core).headD 0
  let v : WaveInfo := { stack := d.stack, core := core, slot := slot, level := d.level, dispatch := d.uid, index := d.started, owned := none,
                        claim := none, request := none }
  { startWarp s.nextUid .native (dword (fieldAt d.record 0 8)) 0xFFFF with
    s := d.regs d.started, wave := some v, slot := slot, ldsSize := d.local', age := s.nextUid }

theorem wavefrontStart_starts (hd : s.dispatch? s.args.a = some d) (hn : s.startsNext d = true)
    (hc : s.sillCore d.stack d.local' (some d.uid) = some core) :
    exec .wavefrontStart s = .next
      ((({ s with nextUid := s.nextUid + 1, warps := s.warps ++ [startedWave s d core] } : State).setDispatch
        { d with started := d.started + 1 }).modFront d.stack
          fun f => { f with kept := ((f.kept.find? (·.2 == d.uid)).map f.kept.erase).getD f.kept }) := by
  change execWavefrontStart s = _
  simp only [execWavefrontStart, hd, hn, hc, Bool.not_true, Bool.false_eq_true, if_false]
  refine congrArg (fun g => Host.Outcome.next (State.modFront _ d.stack g)) (funext fun f => ?_)
  cases f.kept.find? (·.2 == d.uid) <;> rfl

theorem sillPreemptTimeout_takes {w : Warp} {sp : Split} {since : Nat} (hw : s.warp? s.args.a = some w) (hsp : w.splits[0]? = some sp)
    (hr : w.wave.bind (·.request) = some since) (hp : s.passed since 25600 = true) (hst : sp.status = .ready) (hb : sp.begun = false)
    (hrep : w.replay = none) :
    exec .sillPreemptTimeout s = .next (({ st := s, w := w, k := 0, sp := sp } : Ctx).finish 0xEE []
      (({ st := s, w := w, k := 0, sp := sp } : Ctx).preempt { sp with slot := (s.resumeSlot w sp).getD 7 })) := by
  change execSillPreemptTimeout s = _
  simp only [execSillPreemptTimeout, hw, hsp, hr, hp, hst, hb, hrep, Bool.not_false, Option.isNone_none, and_self, if_true]

theorem level3Save_saves {w : Warp} {v : WaveInfo} {sp : Split} (hw : s.warp? s.args.a = some w) (hv : w.wave = some v)
    (hsp : w.splits[0]? = some sp) (hl : v.level = 3) (hst : sp.status = .ready) (hd : s.dispatches.find? (s.wantsSlot w) = some d) :
    exec .level3Save s = .next
      (((s.completeOps w.uid fun _ => true).parkWave (((s.completeOps w.uid fun _ => true).warp? w.uid).getD w) 0 sp true
        (v.owned.map ((s.completeOps w.uid fun _ => true).pch v.stack))).modFront v.stack fun f => { f with kept := f.kept ++ [(v.core, d.uid)] }) := by
  have hgo : ¬ (v.level ≠ 3 ∨ sp.status ≠ .ready) := fun h => h.elim (· hl) (· hst)
  change execLevel3Save s = _
  simp only [execLevel3Save, hw, hv, hsp, hd, if_neg hgo]

section Resume

variable {x : SavedWave} {v : WaveInfo} (hx : s.saved[s.args.a]? = some x) (hv : x.warp.wave = some v)
  (hc : s.sillCore v.stack x.warp.ldsSize none = some core) (hr : v.level = 3 ∨ ((s.fn? (s.fnOf x.warp)).map (·.running)).getD false = true)
include hx hv hc hr

theorem wavefrontResume_own (ho : x.own = true) (hp : ∀ p, v.owned = some p → s.pchFree v.stack p = true) :
    exec .wavefrontResume s = .next (s.resumeWave x v core []) := by
  have hrun : (v.level == 3 || ((s.fn? (s.fnOf x.warp)).map (·.running)).getD false) = true := by simpa using hr
  have hfree : (v.owned.all fun p => s.pchFree v.stack p) = true := (Option.all_eq_true _ _).2 hp
  change execWavefrontResume s = _
  simp only [execWavefrontResume, hx, hv, hc, ho, hrun, hfree, Bool.and_self, if_true]

/-- The place of a saved wavefront as its record has it (R228). -/
def recordedPlace (s : State) (v : WaveInfo) (r : List (Byte × Bool)) : WaveInfo :=
  { v with owned := recordOwned (r.map (·.1)), dispatch := s.recordDispatch v (r.map (·.1)) }

theorem wavefrontResume_record {s1 : State} {r : List (Byte × Bool)} (ho : x.own = false) (hload : s.loadRecord x v.stack = some (s1, r))
    (hp : ∀ p, recordOwned (r.map (·.1)) = some p → s.pchFree v.stack p = true) :
    exec .wavefrontResume s = .next (s1.resumeWave x (recordedPlace s v r) core r) := by
  have hrun : (v.level == 3 || ((s.fn? (s.fnOf x.warp)).map (·.running)).getD false) = true := by simpa using hr
  have hfree : ((recordOwned (r.map (·.1))).all fun p => s.pchFree v.stack p) = true := (Option.all_eq_true _ _).2 hp
  change execWavefrontResume s = _
  simp only [execWavefrontResume, hx, hv, hc, ho, hload, hrun, hfree, Bool.and_self, Bool.false_eq_true, if_true, if_false]
  rfl

end Resume

theorem sillDispatchDone_ends (hd : s.dispatch? s.args.a = some d) (ho : s.dispatchOver d = true) (hst : d.stamp = 0) :
    exec .sillDispatchDone s = .next
      (({ s with dispatches := s.dispatches.filter (·.uid != s.args.a),
                 saved := s.saved.filter fun x => (x.warp.wave.map (·.dispatch)) != some s.args.a } : State).modLaunch d.launch fun l =>
        { l with sill := l.sill.finish d.number (d.failed.map fun f => (0x15, dispatchInfo f.1 f.2 d.number)) }) := by
  change Host.Outcome.next (s.finishDispatch s.args.a false) = _
  simp only [State.finishDispatch, hd, ho, if_pos hst, Bool.not_true, Bool.false_and, Bool.false_eq_true, if_false]

end Wavefronts

/-! ### All-bank mode and bank operations (R211, R218, R219, R326, R333) -/

section Banks

variable {u : Nat} {w : Warp} {o : BankOp} {b : Block}

theorem allBankModeExpiry_expires (ho : (s.pch s.args.a s.args.b).owner = some u) (hw : s.warp? u = some w) :
    exec .allBankModeExpiry s = .next ((s.leavePch s.args.a s.args.b (s.fnOf w)).setOwned u none (some s.args.b)) := by
  change execAllBankModeExpiry s = _
  simp only [execAllBankModeExpiry, ho, hw]

theorem setPch_args (s : State) (p : Pch) : (s.setPch p).args = s.args := by
  unfold State.setPch
  split <;> rfl

theorem enterPch_args (s : State) (stack idx u fn : Nat) : (s.enterPch stack idx u fn).args = s.args := setPch_args s _

theorem abmodeBlockedEntry_enters (hh : (s.pch s.args.a s.args.b).waiters.head? = some u) (hw : s.warp? u = some w)
    (hm : s.pchMissing s.args.a s.args.b = false) (hf : s.pchFree s.args.a s.args.b = true) :
    exec .abmodeBlockedEntry s = .next ((s.enterPch s.args.a s.args.b u (s.fnOf w)).modWarp u fun w =>
      { w with splits := w.splits.map fun (sp : Split) => if sp.status = .wait (.abmode s.args.a s.args.b) then { sp with status := .ready } else sp }) := by
  change execAbmodeBlockedEntry s = _
  simp only [execAbmodeBlockedEntry, hh, hw, hm, hf, enterPch_args, Bool.false_eq_true, if_false, if_true]

theorem bankopRun_runs (ho : s.bankop? s.args.a = some o) (hb : s.block? o.block = some b) (hst : o.status = 0) (hran : o.ran = false)
    (hfn : ((s.fn? o.fn).map (·.running)).getD false = true) (hh : (s.pch o.stack o.pch).waiters.head? = some o.uid)
    (hf : s.pchFree o.stack o.pch = true) : exec .bankopRun s = .next (s.runBankop o b) := by
  change execBankopRun s = _
  simp only [execBankopRun, ho, hb, if_neg (not_not.2 hst), hran, hfn, hh, hf, ne_eq, not_true_eq_false, Bool.not_true, Bool.false_eq_true, or_self, if_false]

section Landing

variable (ho : s.bankop? s.args.a = some o) (hst : o.status = 0) (hb : s.block? o.block = some b)
include ho hst hb

theorem bankopResultLand_ends (hr : o.rows[o.landed]? = none) (hran : o.ran = true) :
    exec .bankopResultLand s = .next (s.bankopEnd o.uid 0 0) := by
  change execBankopResultLand s = _
  simp only [execBankopResultLand, ho, if_neg (not_not.2 hst), hb, hr, hran, if_true]

theorem bankopResultLand_lands {r : Nat × List Word} (hr : o.rows[o.landed]? = some r) (hp : b.preempt = .none) :
    exec .bankopResultLand s = .next (s.landRow o b r) := by
  change execBankopResultLand s = _
  simp only [execBankopResultLand, ho, if_neg (not_not.2 hst), hb, hr, if_pos hp]

end Landing

end Banks

/-- Settles O46, each event by its own lemma. -/
theorem engineAndSillEvents : Obligations.EngineAndSillEvents := by
  unfold Obligations.EngineAndSillEvents
  refine ⟨fun s => ⟨?_, batchComplete_completes s, matrixBudgetPeriod_renews s,
    fun r sl hsl hseen => ⟨?_, ?_, ?_, ?_, fun x hst hd hc hq => ⟨?_, ?_⟩⟩,
    fun r sl code f hsl hd hst hf => ⟨moveStart_dropped hsl hd hst hf, moveStart_starts hsl hd hst hf⟩⟩,
    fun s => ⟨?_, ?_, ?_, ?_, ?_, ?_, ?_, ?_, ?_, ?_, rfl⟩⟩
  · exact fun b x hx hs hc hq => @engineStep_steps s b x hx hs hc hq
  · exact windowClose_moving hsl hseen
  · exact windowClose_decided hsl hseen
  · exact windowClose_cooling hsl hseen
  · exact fun hst hd hc hq => windowClose_unqualified hsl hseen hst hc hd hq
  · exact windowClose_qualified hsl hseen hst hc hd hq
  · exact windowClose_decides hsl hseen hst hc hd hq
  · intro cb blk i r hw ht hb hok hn hi
    have hread := congrArg (Host.Outcome.next : State → Out) (pollRing_serves hw ht hb hok hn hi)
    exact ⟨hread, hread⟩
  · exact fun d core hd hn hc => wavefrontStart_starts hd hn hc
  · exact fun w sp since hw hsp hr hp hst hb hrep => sillPreemptTimeout_takes hw hsp hr hp hst hb hrep
  · exact fun w v sp d hw hv hsp hl hst hd => level3Save_saves hw hv hsp hl hst hd
  · exact fun x v core hx hv hc hr => ⟨wavefrontResume_own hx hv hc hr, fun s1 r => wavefrontResume_record hx hv hc hr⟩
  · exact fun d hd ho hst => sillDispatchDone_ends hd ho hst
  · exact fun u w ho hw => allBankModeExpiry_expires ho hw
  · exact fun u w hh hw hm hf => abmodeBlockedEntry_enters hh hw hm hf
  · exact fun o b ho hb hst hran hfn hh hf => bankopRun_runs ho hb hst hran hfn hh hf
  · exact fun o b ho hst hb => ⟨bankopResultLand_ends ho hst hb, fun r => bankopResultLand_lands ho hst hb⟩

end Sys2Proof.Proofs
end

section
/-! SUPPORT. The events of queues, launches and blocks (R246, R247, R373 to R375, R380, R381, R439), and those of slices, pre-emption and
resumption, with the bandwidth buckets (R312, R313, R322, R386 to R394, R406, R408), one lemma for each. -/

namespace Sys2Proof.Proofs

open Sys2Proof.Machine Sys2Proof.Laws

variable {s : State}

/-! ### Queues (R372 to R375) -/

section Queues

variable {q : Queue}

/-- A queue is served first where every other consumable record has a lower PRIO, or an equal one and a later turn (R373). -/
theorem queueFirst_of {p : Nat} (h : let order (n : Nat) : Nat := (n + 8192 - s.admin.queueTurns.getD p 0) % 8192
      ∀ x ∈ s.admin.queues, x.num ≠ q.num → ∀ n, s.consumable x false = some n → n < p ∨ n = p ∧ order q.num < order x.num) :
    s.queueFirst q p = true := by
  unfold State.queueFirst
  refine List.all_eq_true.2 fun x hx => ?_
  by_cases hnum : x.num = q.num
  · simp [hnum]
  · cases hc : s.consumable x false with
    | none => simp
    | some n => simpa [hnum, hc] using h x hx hnum n hc

variable (hq : s.queue? s.args.a = some q)
include hq

theorem queueWriteUpdate_moves (hf : blkDevfed (s.queueBlock q) = false) :
    exec .queueWriteUpdate s = .next (s.landNum (.dev (q.cb + 16)) 8 s.args.value.toNat none) := by
  change execQueueWriteUpdate s = _
  simp only [execQueueWriteUpdate, hq, hf, Bool.false_eq_true, if_false]

theorem launchRecordConsume_wiping (hw : s.admin.wiping = true) : exec .launchRecordConsume s = .next s := by
  change execLaunchRecordConsume s = _
  simp only [execLaunchRecordConsume, hq, hw, if_true]

variable (hw : s.admin.wiping = false)
include hw

theorem launchRecordConsume_malformed (hok : queueBlockOk (s.queueBlock q) = false) : exec .launchRecordConsume s = .next
    (if q.reported = s.queueBlock q then s
     else ((s.log q.fn 0x16 q.cb 0 0 3 0 0).1).setQueue { q with reported := s.queueBlock q }) := by
  change execLaunchRecordConsume s = _
  simp only [execLaunchRecordConsume, hq, hw, hok, Bool.false_eq_true, Bool.not_false, if_false, if_true]

theorem launchRecordConsume_consumes {p seq : Nat} {r : List Byte} (hok : queueBlockOk (s.queueBlock q) = true) (hrep : q.reported = [])
    (hc : s.consumable q s.args.flag = some p) (hr : s.nextRecord q = some (seq, r)) (hfirst : s.queueFirst q p = true) :
    let s1 := (s.touch q.fn 4 (recordAt (s.queueBlock q) seq) 128).consume q seq r s.args.flag
    exec .launchRecordConsume s = .next { s1 with admin := { s1.admin with queueTurns := s1.admin.queueTurns.set p ((q.num + 1) % 8192) } } := by
  have hsame : ({ q with reported := [] } : Queue) = q := by rw [← hrep]
  change execLaunchRecordConsume s = _
  simp only [execLaunchRecordConsume, hq, hw, hok, hr, hsame, hrep, hc, hfirst, List.isEmpty_nil, Bool.not_true, Bool.false_eq_true, if_false,
    if_true]

end Queues

/-! ### Placement (R380) -/

section Placement

variable {l : Launch} (hl : s.servedLaunches.head? = some l) (hu : l.uid = s.args.a) (hr : s.resumesFirst l.fn = false)
include hl hu hr

theorem blockPlacement_next {t : State × Launch} (hc : l.cores = false) (ht : s.placeNext l = some t) :
    exec .blockPlacement s = .next t.1 := by
  change execBlockPlacement s = _
  simp only [execBlockPlacement, hl, hu, hr, hc, ht, ne_eq, not_true_eq_false, Bool.false_eq_true, or_self, if_false, Option.map_some,
    Option.getD_some]

theorem blockPlacement_grid {t : State} (hc : l.cores = true) (ht : s.placeAll l l.grid = some t) : exec .blockPlacement s = .next t := by
  change execBlockPlacement s = _
  simp only [execBlockPlacement, hl, hu, hr, hc, ht, ne_eq, not_true_eq_false, Bool.false_eq_true, or_self, if_false, if_true,
    Option.getD_some]

end Placement

/-! ### Freeing (R246, R247) -/

section Freeing

variable {b : Block}

theorem filter_updateFirst_single {α : Type} {p : α → Bool} {f : α → α} {l : List α} {x : α} (h : l.filter p = [x]) (hf : p (f x) = true) :
    (updateFirst p f l).filter p = [f x] := by
  induction l with
  | nil => cases h
  | cons y l ih =>
    unfold updateFirst
    by_cases hy : p y = true
    · rw [List.filter_cons_of_pos hy, List.cons.injEq] at h
      obtain ⟨rfl, hrest⟩ := h
      rw [if_pos hy, List.filter_cons_of_pos hf, hrest]
    · rw [List.filter_cons_of_neg hy] at h
      rw [if_neg hy, List.filter_cons_of_neg hy, ih h]

/-- A block that is freed holds only its allocation. -/
def freedBlock (b : Block) : Block := { b with freed := true, spare := [], mctx := [], ring := none, counters := [] }

/-- The state in which a block is freed and its warps are gone. -/
def blockFreed (s : State) (b : Block) : State :=
  { s.modBlock b.uid freedBlock with warps := s.warps.filter fun w => !b.warps.contains w.uid && !b.dense.contains w.uid }

theorem blockFree_frees (hb : s.block? s.args.a = some b) (hf : s.freeable b = true) (hm : b.members = [b.uid])
    (hone : s.blocks.filter (·.uid == b.uid) = [b]) (hopen : (b.mctx.any fun x => x.cmds.any fun c => c.batch == x.open') = false) :
    exec .blockFree s =
      .next (((blockFreed s b).removeBlocks ((blockFreed s b).blocks.filter fun x => x.uid == b.uid)).growGrants b.core 96) := by
  have hgroup : (blockFreed s b).blocks.filter (fun x => b.members.contains x.uid) = (blockFreed s b).blocks.filter fun x => x.uid == b.uid := by
    simp only [hm, List.contains_cons, List.contains_nil, Bool.or_false]
  have hfreed : (blockFreed s b).blocks.filter (fun x => x.uid == b.uid) = [freedBlock b] :=
    filter_updateFirst_single hone (beq_self_eq_true b.uid)
  have hall : ((blockFreed s b).blocks.filter fun x => b.members.contains x.uid).all (·.freed) = true := by
    rw [hgroup, hfreed]
    rfl
  change execBlockFree s = _
  simp only [execBlockFree, hb, hf, hopen, Bool.and_false, Bool.not_true, Bool.false_eq_true, if_false]
  rw [← hgroup]
  exact congrArg (fun t : State => Host.Outcome.next (t.growGrants b.core 96)) (if_pos hall)

end Freeing

/-! ### Completion (R381, R382, R439) -/

section Completion

variable {l : Launch}

/-- The state in which a launch is complete and the islands that it balanced are back at their clock. -/
def launchEnded (s : State) (l : Launch) : State :=
  let s0 := s.setLaunch { l with complete := true, status := some (l.status.getD 0) }
  { s0 with admin := s0.admin.resetClocks l }

theorem launchComplete_completes {q : Queue} (hl : s.launch? s.args.a = some l) (hc : s.completable l = true)
    (hq : (launchEnded s l).queue? l.queue = some q) :
    let s1 := launchEnded s l
    let s2 := s1.putVa q.fn 4 ((recordAt (s1.queueBlock q) l.seq + 120) % 2 ^ 64) (leBytes 4 (l.status.getD 0))
    exec .launchComplete s = .next ((s2.countIds q l.record).passDone q (s2.launches.length + 1)) := by
  unfold launchEnded at *
  change execLaunchComplete s = _
  simp only [execLaunchComplete, hl, hc, hq, Bool.not_true, Bool.false_eq_true, if_false]

variable {a : Admin} {i : Nat}

theorem resetClocks_unbalanced (h : l.balance = false) : a.resetClocks l = a := by
  simp only [Admin.resetClocks, h, Bool.false_and, Bool.false_eq_true, if_false, List.zipIdx_map_fst]

theorem resetClocks_cluster (a : Admin) (l : Launch) (i : Nat) : (a.resetClocks l).clusters[i]? = a.clusters[i]?.map fun x =>
    if (l.balance && l.ranks.any (·.1 == i)) = true then (if a.limiting = true then min x 2400 else 2400) else x := by
  simp only [Admin.resetClocks, List.getElem?_map, List.getElem?_zipIdx, Option.map_map, Nat.zero_add]
  rfl

theorem resetClocks_balanced (hlim : a.limiting = false) (hb : l.balance = true) (hr : l.ranks.any (·.1 == i) = true)
    (hi : i < a.clusters.length) : (a.resetClocks l).clusters[i]? = some 2400 := by
  simp only [resetClocks_cluster, List.getElem?_eq_getElem hi, hlim, hb, hr, Bool.and_self, Bool.false_eq_true, if_true, if_false, Option.map_some]

theorem resetClocks_other (hr : l.ranks.any (·.1 == i) = false) : (a.resetClocks l).clusters[i]? = a.clusters[i]? := by
  simp only [resetClocks_cluster, hr, Bool.and_false, Bool.false_eq_true, if_false, Option.map_id']

end Completion

/-! ### The end of a slice (R312, R313, R322, R386, R406) -/

/-- The blocks of a function whose slice has ended are asked for their cores. -/
def sliceBlocksAsked (s : State) (f : Fn) : State :=
  let s1 := s.modFn f.id fun f => { f with running := false }
  (s1.blocks.filter fun b => s1.fnOfBlock b == f.id).foldl State.requestBlock s1

/-- The agents of a function. -/
def agentsOf (s : State) (f : Fn) : List Warp := s.warps.filter fun w => s.fnOf w == f.id

/-- A wavefront gets a request, or keeps the one that it has. -/
def askWave (s : State) (u : Nat) : State :=
  s.modWarp u fun w => { w with wave := w.wave.map fun v => { v with request := some (v.request.getD s.turns) } }

/-- The guest wavefronts of the function dock, and its tenant wavefronts get a request. -/
def sliceWavesAsked (s : State) (f : Fn) : State :=
  let s2 := sliceBlocksAsked s f
  let s3 := (((agentsOf s2 f).filter fun w => w.guest.any fun g => g.onStack && g.slot.isSome).map (·.uid)).foldl State.dockAgain s2
  (((agentsOf s2 f).filter Warp.tenant).map (·.uid)).foldl askWave s3

theorem sliceEnd_ends {f : Fn} (hf : s.fn? s.args.a = some f) (hr : f.running = true) :
    exec .sliceEnd s = .next ((((sliceWavesAsked s f).nextSlice f).map fun x => (sliceWavesAsked s f).beginSlice x.id).getD
      (sliceWavesAsked s f)) := by
  change execSliceEnd s = _
  simp only [execSliceEnd, hf, hr, Bool.not_true, Bool.false_eq_true, if_false]
  rfl

/-! ### Taking warps (R386 to R390) -/

section Taking

variable {w : Warp} {b : Block}

/-- A warp without outstanding operations has none to complete. -/
theorem completeOps_none {u : Nat} {p : LongOp → Bool} (hw : s.warp? u = some w) (h : w.ops = []) : s.completeOps u p = s := by
  simp only [State.completeOps, hw, h, List.filter_nil, List.foldl_nil]

/-- What a warp that can be taken satisfies beside where it stands (R386). -/
theorem takable_ready {atPoint : Bool} (h : w.takable atPoint = true) :
    w.kind = .main ∧ w.gone = false ∧ w.parked = false ∧ w.ops = [] ∧ w.handler = .none := by
  simp only [Warp.takable, Bool.and_eq_true, beq_iff_eq, Bool.not_eq_true', List.isEmpty_iff] at h
  obtain ⟨⟨⟨⟨⟨⟨hk, hg⟩, hp⟩, ho⟩, hh⟩, -⟩, -⟩ := h
  exact ⟨hk, hg, hp, ho, hh⟩

/-- The slots at which a warp's splits resume. -/
def resumeSlots (s : State) (w : Warp) : List (Option Nat) := w.splits.map fun sp => if sp.live then s.resumeSlot w sp else some 1

theorem warpTaken_takes (hw : s.warp? s.args.a = some w) (hb : s.block? w.block = some b) (hp : b.preempt = .requested)
    (hc : b.compacted = false) (ha : w.someAway = false) (ht : w.takable (s.atTakePoint w b.deadline) = true)
    (hslots : ∀ x ∈ resumeSlots s w, x.isSome = true) :
    exec .warpTaken s = .next (((s.setWarp
      { w with splits := w.splits.zipIdx.map fun x => { x.1 with slot := ((resumeSlots s w).getD x.2 none).getD 1 } }).takeWarp
        w.uid).headerStep w.block) := by
  obtain ⟨hkind, hgone, hparked, hops, hhandler⟩ := takable_ready ht
  have hw' : s.warp? w.uid = some w := by rw [warp?_uid hw, hw]
  unfold resumeSlots at *
  change execWarpTaken s = _
  simp only [execWarpTaken, hw, hb, Option.any_some, ht, if_true, State.takeNow, completeOps_none hw' hops, hw', hp, hc, ha, hkind, hgone,
    hparked, hhandler, List.all_eq_true.2 hslots, bne_self_eq_false, beq_self_eq_true, Bool.not_false, Bool.not_true, Bool.and_self,
    Bool.or_self, Bool.false_eq_true, if_false]

theorem preemptionDeadline_drains (hb : s.block? s.args.a = some b) (hp : b.preempt = .requested) (hd : b.deadline = false) :
    exec .preemptionDeadline s = .next ((s.modBlock b.uid fun b => { b with deadline := true }).log (s.fnOfBlock b) 0x17 0
      (s.agentWord (.block b.uid) false) s.args.b 0 0 0).1 := by
  change execPreemptionDeadline s = _
  simp only [execPreemptionDeadline, hb, hp, hd, ne_eq, not_true_eq_false, Bool.false_eq_true, or_self, if_false]

end Taking

/-! ### Resumption (R380, R393, R394) -/

section Resumption

variable {b : Block}

/-- The blocks of a function that are taken, in the order in which they were taken. -/
def takenBlocks (s : State) (fn : Nat) : List Block := sortBy (·.tag) (s.blocks.filter fun x => x.preempt == .taken && s.fnOfBlock x == fn)

theorem blockResumption_resumes {l : Launch} {f : Fn} {c core : Nat} {need : Nat × Nat × Nat × Nat} (hb : s.block? s.args.a = some b)
    (hl : s.launch? b.launch = some l) (hf : s.fn? (s.fnOfBlock b) = some f) (hm : s.sliceMayBegin f = false) (hg : l.group = false)
    (hp : b.preempt = .taken) (hfw : s.forwards b.leftCore < 16) (hfirst : ((takenBlocks s f.id).head?).map (·.uid) = some b.uid)
    (hr : (s.fn? f.id).any (·.running) = true) (hn : s.resumeNeeds l b = some need) (hplace : s.findPlace l [need] = some (c, [core])) :
    exec .blockResumption s = .next
      (({ s with pointers := s.pointers.set (c / 11) (11 * (c / 11) + (c - 11 * (c / 11) + 1) % 11) } : State).resumeOn l b core) := by
  unfold takenBlocks at hfirst
  change execBlockResumption s = _
  simp only [execBlockResumption, hb, hl, hf, hm, hg, hp, hfw, hfirst, hr, hn, hplace, Bool.false_eq_true, if_false, List.all_cons, List.all_nil,
    List.map_cons, List.map_nil, beq_self_eq_true, Bool.true_or, Bool.and_self, decide_true, Option.isSome_some, Bool.not_true, ne_eq,
    not_true_eq_false, or_self, List.filterMap_cons, List.filterMap_nil, id, List.zip_cons_cons, List.zip_nil_left, List.foldl_cons,
    List.foldl_nil]

/-- The state at a block's resume episode, after its release and acquire, with the walks of the save area that it reads. -/
def resumeFenced (s : State) (b : Block) : State :=
  let acquired := (s.liveWarps b).foldl (fun s w => (s.completeOps w.uid fun _ => true).endSfr w.uid) s
  let die := s.blockDie b.uid
  (s.liveWarps b).foldl (fun s w => s.touch (s.fnOf w) die (s.warpSlot w) 1024) (acquired.touch (s.fnOfBlock b) die (s.blockSlot b) 256)

/-- The block's warps as their prologues restore them. -/
def resumeWarps (s : State) (b : Block) : List (Option Warp) := ((resumeFenced s b).liveWarps b).map (resumeFenced s b).restoreWarp

/-- The state with the warps restored, and the block as its header restores it. -/
def resumeRestored (s : State) (b : Block) (h : List Byte) : State :=
  (((resumeWarps s b).filterMap id).foldl (fun s w => s.setWarp w) (resumeFenced s b)).modBlock b.uid fun b => b.restored h

/-- What the notify word of the restored ring publishes is published again. -/
def resumeRung (s : State) (b : Block) (h : List Byte) : State :=
  (((resumeRestored s b h).block? b.uid).bind (·.ring)).elim (resumeRestored s b h) fun r =>
    ((resumeRestored s b h).publishRing b.uid ((resumeRestored s b h).readNum (.scr b.uid r.notify) 8) none).modBlock b.uid
      fun x => x.withPubs b.pubs

/-- The waits of the restored warps go on. -/
def resumeOver (s : State) (b : Block) (h : List Byte) : State :=
  (s.liveWarps b).foldl (fun s w => s.reselect w.uid false) ((resumeRung s b h).gbarStep b.launch |>.barrierSteps b.uid)

theorem resumeEpisode_restores {h : List Byte} (hb : s.block? s.args.a = some b)
    (hread : (resumeFenced s b).readVa (s.fnOfBlock b) (s.blockDie b.uid) (s.blockSlot b) 256 = some h) (hall : s.allResumed b = true)
    (hback : ∀ x ∈ resumeWarps s b, x.isSome = true)
    (hruns : ∀ f, (resumeOver s b h).fn? ((resumeOver s b h).fnOfBlock b) = some f → f.running = true) :
    exec .resumeEpisode s = .next (resumeOver s b h) := by
  have hruns' : (((resumeOver s b h).fn? ((resumeOver s b h).fnOfBlock b)).map (·.running)).getD true = true := by
    cases hf : (resumeOver s b h).fn? ((resumeOver s b h).fnOfBlock b) with
    | none => rfl
    | some f => exact hruns f hf
  have hgo : ¬ (!s.allResumed b ∨ !((resumeWarps s b).all (·.isSome))) := by
    rw [hall, List.all_eq_true.2 hback]
    decide
  change execResumeEpisode s = _
  unfold execResumeEpisode
  simp only [hb]
  split
  · next hnone => cases hread.symm.trans hnone
  · next hsome =>
    cases hread.symm.trans hsome
    refine (if_neg hgo).trans (congrArg Host.Outcome.next ?_)
    -- What is published again depends only on whether the header restores a ring.
    obtain ⟨ring, hring⟩ : ∃ ring, ((resumeRestored s b h).block? b.uid).bind (·.ring) = ring := ⟨_, rfl⟩
    simp only [resumeOver, resumeRung, hring] at hruns' ⊢
    simp only [resumeRestored, resumeWarps, resumeFenced] at hring hruns' ⊢
    simp only [hring]
    cases ring with
    | none => exact if_pos hruns'
    | some r => exact if_pos hruns'

end Resumption

/-! ### Bandwidth shares (R408) -/

section Buckets

variable {b : Bucket} {n : Nat} {rest : List Nat}

/-- The partition of a bucket's function. -/
def bucketPart (s : State) (b : Bucket) : Nat := ((s.fn? b.fn).map (·.partition)).getD 0

/-- The tokens in the pool that a bucket overflows to. -/
def bucketPool (s : State) (b : Bucket) : Nat :=
  ((s.admin.pools.find? fun p => p.1 == bucketPart s b && p.2.1 == b.stack).map (·.2.2)).getD 0

/-- The tokens of a bucket with those that have come since, before any overflow. -/
def bucketTotal (s : State) (b : Bucket) : Nat := b.level + 128 * b.rate.toNat * s.args.c

/-- The tokens of the pool with what a bucket overflows to it. -/
def bucketPooled (s : State) (b : Bucket) : Nat :=
  min (max (bucketPool s b) (s.poolDepth (bucketPart s b) b.stack)) (bucketPool s b + (bucketTotal s b - b.size))

/-- A bucket's oldest request is admitted: what is left in the bucket and in the pool. -/
def bucketAdmits (s : State) (b : Bucket) (rest : List Nat) (level left : Nat) : State :=
  { s with admin := { s.admin with
    buckets := updateFirst (fun y => y.fn == b.fn && y.stack == b.stack) (fun _ => { b with level := level, waiting := rest }) s.admin.buckets,
    pools := s.admin.pools.filter (fun p => !(p.1 == bucketPart s b && p.2.1 == b.stack)) ++
      if left = 0 then [] else [(bucketPart s b, b.stack, left)] } }

variable (hb : (s.admin.buckets.find? fun b => b.fn == s.args.a && b.stack == s.args.b) = some b) (hw : b.waiting = n :: rest)
  (hr : b.rate ≠ 0xFFFF)
include hb hw hr

theorem bucketAdmission_bucket (hn : n ≤ min b.size (bucketTotal s b)) :
    exec .bucketAdmission s = .next (bucketAdmits s b rest (min b.size (bucketTotal s b) - n) (bucketPooled s b)) := by
  unfold bucketTotal at hn
  change execBucketAdmission s = _
  simp only [execBucketAdmission, Bucket.accrue, hb, hw, if_neg hr, if_pos hn]
  rfl

theorem bucketAdmission_pool (hn : min b.size (bucketTotal s b) < n) (hp : n ≤ min b.size (bucketTotal s b) + bucketPooled s b) :
    exec .bucketAdmission s = .next (bucketAdmits s b rest 0 (bucketPooled s b - (n - min b.size (bucketTotal s b)))) := by
  unfold bucketPooled bucketTotal bucketPool bucketPart at *
  change execBucketAdmission s = _
  simp only [execBucketAdmission, Bucket.accrue, hb, hw, if_neg hr, if_neg (Nat.not_le.2 hn), if_pos hp]
  rfl

end Buckets

/-- Settles O44, each event by its own lemma. -/
theorem launchAndSliceEvents : Obligations.LaunchAndSliceEvents := by
  unfold Obligations.LaunchAndSliceEvents
  refine ⟨fun s => ⟨?_, ?_, ?_, ?_, ?_, ?_, ?_, ?_, ?_⟩, fun s => ⟨?_, ?_, ?_, ?_, ?_, ?_⟩⟩
  · exact fun q hq hf => queueWriteUpdate_moves hq hf
  · intro hw hq
    obtain ⟨q, hq⟩ := Option.isSome_iff_exists.1 hq
    exact launchRecordConsume_wiping hq hw
  · exact fun q hq hw hok => launchRecordConsume_malformed hq hw hok
  · exact fun q p seq r hq hw hok hrep hc hr hfirst => launchRecordConsume_consumes hq hw hok hrep hc hr (queueFirst_of hfirst)
  · exact fun l t hl hu hr hc ht => blockPlacement_next hl hu hr hc ht
  · exact fun l t hl hu hr hc ht => blockPlacement_grid hl hu hr hc ht
  · exact fun b hb hf hm hone hopen => blockFree_frees hb hf hm hone hopen
  · exact fun l q hl hc hq => launchComplete_completes hl hc hq
  · exact fun a l i => ⟨resetClocks_unbalanced, resetClocks_balanced, resetClocks_other⟩
  · exact fun f hf hr => sliceEnd_ends hf hr
  · exact fun w b hw hb hp hc ha ht hslots => warpTaken_takes hw hb hp hc ha ht hslots
  · exact fun b hb hp hd => preemptionDeadline_drains hb hp hd
  · exact fun b l f c core need hb hl hf hrun hm hg hp hfw hfirst hr hn hplace =>
      blockResumption_resumes hb hl hf hm hg hp hfw hfirst hr hn hplace
  · exact fun b h hb hread hall hback hruns => resumeEpisode_restores hb hread hall hback hruns
  · exact fun b n rest hb hw hr => ⟨bucketAdmission_bucket hb hw hr, bucketAdmission_pool hb hw hr⟩

end Sys2Proof.Proofs
end

section
/-! SUPPORT. The events of shuttles (R300 to R313), one lemma for each: a full shed is asked again, a shuttle lands and docks, docked lanes
form guest wavefronts and guest warps and dock again at a pre-emption, and shuttles come home together. -/

namespace Sys2Proof.Proofs

open Sys2Proof.Machine Sys2Proof.Laws

variable {s : State}

/-! ### Departure and landing (R300, R302, R312) -/

theorem shedRetry_asksAgain : exec .shedRetry s = .next (s.modWarp s.args.a fun w => { w with splits := w.splits.map Split.askAgain }) := rfl

/-- The state in which outward shuttle a has landed and its lane is docked. -/
def shuttleLanded (s : State) (h : Shuttle) (home : Warp) : State :=
  { s with nextUid := s.nextUid + 1, shuttles := s.shuttles.eraseIdx s.args.a, warps := s.warps ++ [h.guest s.nextUid home] }

/-- The new lane's home says whether it is recalled: the state before the landing decides. -/
theorem shuttleLanding_docks {h : Shuttle} {home : Warp} (hh : s.shuttles[s.args.a]? = some h) (hout : h.homeward = false)
    (hw : s.warp? h.home = some home) : exec .shuttleLanding s =
      .next (if s.recalls home = true then (shuttleLanded s h home).recallGuest (h.guest s.nextUid home) else shuttleLanded s h home) := by
  change execShuttleLanding s = _
  simp only [execShuttleLanding, hh, hw, hout, Bool.false_eq_true, if_false]
  rfl

/-! ### Guest wavefronts and guest warps (R303, R304, R313) -/

section Guests

variable {w : Warp} {ws : List Warp} {k : Nat}

/-- The guest slots of sill core b of stack a that away lanes occupy. -/
def guestSlots (s : State) : List Nat :=
  s.warps.filterMap fun w => w.guest.bind fun g => if g.onStack && g.site == s.args.a && g.sillCore == s.args.b then g.slot else none

/-- Sill core b is alive where the front end of stack a does not name it dead. -/
theorem sillCore_alive {f : Stack} (hf : s.frontEnds[s.args.a]? = some f) (hlive : s.args.b ∉ f.deadCores) :
    ((s.frontEnds[s.args.a]?).map fun f => f.deadCores.contains s.args.b).getD true = false := by
  simpa [hf] using hlive

theorem guestWavefrontFormation_forms {f : Stack} (hws : s.formation true s.args.a 16 = w :: ws) (hf : s.frontEnds[s.args.a]? = some f)
    (hb : s.args.b < 16) (hlive : s.args.b ∉ f.deadCores) (hk : ((List.range 8).find? fun k => !(guestSlots s).contains k) = some k) :
    exec .guestWavefrontFormation s = .next (s.form (w :: ws) s.args.b k) := by
  unfold guestSlots at hk
  change execGuestWavefrontFormation s = _
  simp only [execGuestWavefrontFormation, hk, hws, sillCore_alive hf hlive, hb, decide_true, Bool.not_false, Bool.and_self, if_true]

theorem guestWarpFormation_forms (hws : s.formation false s.args.a 32 = w :: ws)
    (hk : ((List.range 96).find? fun k => !(s.usedSlots s.args.a).contains k) = some k) :
    exec .guestWarpFormation s = .next (s.form (w :: ws) s.args.a k) := by
  change execGuestWarpFormation s = _
  simp only [execGuestWarpFormation, hk, hws]

/-- The lanes that a pre-emption asks to dock again: those in guest slot c of sill core b of stack a, or with flag in warp slot c of core a. -/
def preemptedGuest (s : State) (w : Warp) : Bool := w.guest.any fun g =>
  g.slot == some s.args.c && g.site == s.args.a && (if s.args.flag then !g.onStack else g.onStack && g.sillCore == s.args.b)

theorem guestPreemption_docks :
    exec .guestPreemption s = .next (((s.warps.filter (preemptedGuest s)).map (·.uid)).foldl State.dockAgain s) := rfl

end Guests

/-! ### Coming home (R309 to R311) -/

/-- The shuttles that arrive with a homeward shuttle: itself, and those that left the same guest wavefront at the same step for the same home. -/
def returnsWith (h x : Shuttle) : Bool :=
  x == h || (x.homeward && h.group != 0 && x.home == h.home && x.group == h.group && x.left == h.left)

theorem shuttleReturn_comesHome {h : Shuttle} (hh : s.shuttles[s.args.a]? = some h) (hhome : h.homeward = true)
    (hothers : s.othersComing h = false) : exec .shuttleReturn s =
      .next ((({ s with shuttles := s.shuttles.filter fun x => !returnsWith h x } : State).modWarp h.home fun w =>
        (sortBy (·.lane) (s.shuttles.filter (returnsWith h))).foldl Warp.comeHome w).settleHome h.home) := by
  change execShuttleReturn s = _
  simp only [execShuttleReturn, hh, hhome, hothers, Bool.not_true, Bool.or_self, Bool.false_eq_true, if_false]
  rfl

/-- Settles O43, each event by its own lemma. -/
theorem shuttleEvents : Obligations.ShuttleEvents := by
  unfold Obligations.ShuttleEvents
  refine fun s => ⟨shedRetry_asksAgain, ?_, ?_, ?_, guestPreemption_docks, ?_⟩
  · exact fun h home hh hout hw => shuttleLanding_docks hh hout hw
  · exact fun w ws k f hws hf hb hlive hk => guestWavefrontFormation_forms hws hf hb hlive hk
  · exact fun w ws k hws hk => guestWarpFormation_forms hws hk
  · exact fun h hh hhome hothers => shuttleReturn_comesHome hh hhome hothers

end Sys2Proof.Proofs
end

section
/-! SUPPORT. The commands that set up the device, its functions, their memory and their limits (R315, R325, R364, R372, R383, R397 to
R407, R414 to R440): what a command that is accepted answers, said once, then what each of them does, and the obligation that puts them
together. -/

namespace Sys2Proof.Proofs

open Sys2Proof.Machine

variable {s t : State} {scope : Scope} {row : Instr}

/-! ### A command that is accepted (R431, R432) -/

/-- The command that arrives is executed now, and a requester that may issue it sent it. -/
structure Accepts (s : State) (scope : Scope) : Prop where
  usable : s.admin.wiping = false
  first : s.commandWaits = false
  allowed : s.refusal scope false = none

/-- The requester owns the device, in a life-cycle state that takes its commands. -/
def FromOwner (s : State) : Prop :=
  s.admin.lifecycle ≠ 3 ∧ s.admin.owner = some s.args.cmd.req ∧ (s.admin.lifecycle = 0 → isBexfort s.args.cmd.req = true)

/-- The requester owns the device or drives function a through that function's own mailbox. -/
def FromDriver (s : State) : Prop :=
  s.admin.lifecycle ≠ 3 ∧ (s.admin.owner = some s.args.cmd.req ∨ s.args.cmd.req = .function s.args.a ∧ s.args.cmd.via = .mailbox s.args.a)

theorem refusal_owner (hh : headerOk s.args.cmd = true) (h : FromOwner s) : s.refusal .device false = none := by
  obtain ⟨hl, ho, hb⟩ := h
  simpa [State.refusal, hh, hl, ho] using hb

theorem refusal_driver (hh : headerOk s.args.cmd = true) (h : FromDriver s) : s.refusal (.function s.args.a) false = none := by
  obtain ⟨hl, ho | ⟨hr, hv⟩⟩ := h
  · simp [State.refusal, hh, hl, ho]
  · simp [State.refusal, hh, hl, hr, hv, ofDriver]

/-- The command has left state t: it waits no longer and is answered with status 0. -/
def commandDone (s t : State) (p : List Byte) : State :=
  { t.unhold with admin := { t.admin with
    responses := t.admin.responses ++ [{ req := s.args.cmd.req, via := s.args.cmd.via, tag := s.args.cmd.tag, status := 0, payload := p }] } }

theorem respond_unhold (p : List Byte) : (t.respond s.args.cmd 0 p).unhold = commandDone s t p := rfl

theorem execute_done (h : Accepts s scope) (p : List Byte) : s.execute row scope false (.ok (t, some p)) = commandDone s t p := by
  simp only [State.execute, h.usable, h.first, h.allowed, Bool.false_and, Bool.false_eq_true, if_false, respond_unhold]

theorem execute_held (h : Accepts s scope) : s.execute row scope false (.ok (t, none)) = t.hold row := by
  simp only [State.execute, h.usable, h.first, h.allowed, Bool.false_and, Bool.false_eq_true, if_false]

theorem command_done (h : Accepts s scope) (p : List Byte) : s.command row scope false (.ok (t, p)) = commandDone s t p :=
  execute_done h p

theorem command_wellFormed {ok : Bool} (h : Accepts s scope) (hok : ok = true) :
    s.command row scope false (wellFormedIf ok t) = commandDone s t [] := by
  subst hok
  exact command_done h []

/-! ### Commands of the device's owner (R315, R325, R364, R372, R397, R406, R407, R414, R417, R421, R438, R440) -/

section Owner

variable {fn : Nat} {f : Fn} (h : Accepts s .device)
include h

theorem cmdFunction_creates {partition root pasid : Nat} {rings queues : List (Nat × Nat)}
    (hload : s.args.load = .function (.create fn partition root pasid rings queues))
    (hok : s.functionOk fn partition root pasid rings queues = true) (hfn : s.fn? fn = none)
    (hq : ∀ q ∈ queues, ∀ x ∈ s.admin.queues, x.num ≠ q.1) :
    exec .cmdFunction s = .next (commandDone s (s.createFunction fn partition root pasid rings queues) []) := by
  have hnew : (queues.any fun q => s.admin.queues.any (·.num == q.1)) = false := by simpa using hq
  change execCmdFunction s = _
  simp [execCmdFunction, hload, hok, hfn, hnew, command_done h]

theorem cmdFunction_destroys (hload : s.args.load = .function (.destroy fn)) (hf : s.fn? fn = some f) (hbusy : s.fnBusy fn = false) :
    exec .cmdFunction s = .next (commandDone s (s.destroyFunction fn) []) := by
  change execCmdFunction s = _
  simp [execCmdFunction, hload, hf, hbusy, command_done h]

theorem cmdGrant_frames {base len : Nat} (hload : s.args.load = .grant (.frames fn base len)) (hf : s.fn? fn = some f)
    (hb : base % 4096 = 0) (hl : len % 4096 = 0) (hin : ∃ k, stackOf base = some k ∧ s.stackIn fn k = true)
    (hend : len ≠ 0 → stackOf (base + len - 1) = stackOf base) :
    exec .cmdGrant s = .next (commandDone s (s.modFn fn fun f => { f with frames := f.frames ++ [(base, len)] }) []) := by
  obtain ⟨k, hk, hs⟩ := hin
  change execCmdGrant s = _
  simp only [execCmdGrant, hload]
  rw [if_neg, command_done h]
  rintro (hnone | hbase | hlen | hout | ⟨hz, hne⟩)
  · simp [hf] at hnone
  · exact hbase hb
  · exact hlen hl
  · simp [hk, hs] at hout
  · exact hne (hend hz)

/-- The grant as the function holds it from now on: no other of its number. -/
def storageGranted (s : State) (fn i : Nat) (g : List Byte) : State :=
  s.modFn fn fun f => { f with grants := f.grants.filter (·.1 != i) ++ [(i, g)] }

theorem cmdGrant_storage {i : Nat} {g : List Byte} (hload : s.args.load = .grant (.storage fn i g)) (hf : s.fn? fn = some f)
    (hi : i < 256) (hg : grantOk g = true) :
    exec .cmdGrant s = .next (commandDone s ((storageGranted s fn i g).modAdmin fun a =>
      { a with nvme := a.nvme.filter fun x => !(x.fn == fn && x.grant == i) }) []) := by
  change execCmdGrant s = _
  simp [execCmdGrant, hload, hf, hg, Nat.not_le.2 hi, command_done h, storageGranted]

theorem cmdGrant_heddle {peer len : Nat} (hload : s.args.load = .grant (.heddle peer len)) (hp : peer < 256) (hl : len ≤ 2 ^ 40) :
    exec .cmdGrant s = .next (commandDone s (s.modAdmin fun x =>
      { x with windows := x.windows.filter (·.1 != peer) ++ [(peer, len)] }) []) := by
  change execCmdGrant s = _
  simp only [execCmdGrant, hload]
  rw [if_neg (by omega), command_done h]

theorem cmdGrant_route {device port : Nat} (hload : s.args.load = .grant (.route device port)) (hd : device < 256) (hp : port < 16) :
    exec .cmdGrant s = .next (commandDone s (s.modAdmin fun x =>
      { x with routes := x.routes.filter (·.1 != device) ++ [(device, port)] }) []) := by
  change execCmdGrant s = _
  simp only [execCmdGrant, hload]
  rw [if_neg (by omega), command_done h]

theorem cmdGrant_device {n : Nat} (hload : s.args.load = .grant (.device n)) (hn : n < 256) :
    exec .cmdGrant s = .next (commandDone s (s.modAdmin fun x => { x with device := n }) []) := by
  change execCmdGrant s = _
  simp only [execCmdGrant, hload]
  rw [if_neg (Nat.not_le.2 hn), command_done h]

theorem cmdReserve_sets (ha : s.args.a < 12) (hb : s.args.b ≤ 131072) :
    exec .cmdReserve s = .next (commandDone s (s.modFront s.args.a fun f => { f with reserve := s.args.b }) []) := by
  change execCmdReserve s = _
  simp only [execCmdReserve]
  rw [if_neg (by omega), command_done h]

theorem cmdSplit_sets_one (ha : s.args.a < 12) (hb : s.args.b < 62) (hc0 : 0 < s.args.c) (hc : s.args.c < 8) (hflag : s.args.flag = false) :
    exec .cmdSplit s = .next (commandDone s (s.setPch ((s.pch s.args.a s.args.b).setSplit s.args.c)) []) := by
  change execCmdSplit s = _
  simp only [execCmdSplit, hflag, Bool.false_eq_true, if_false, List.foldl]
  rw [if_neg (by omega), command_done h]

theorem cmdScrub_sets (h1 : 1 ≤ s.args.a) (h2 : s.args.a ≤ 168) :
    exec .cmdScrub s = .next (commandDone s (s.modAdmin fun x => { x with scrubHours := s.args.a }) []) :=
  congrArg _ (command_wellFormed h (by simp [h1, h2]))

theorem cmdSlice_sets (hf : s.fn? s.args.a = some f) (h1 : 100 ≤ s.args.b) (h2 : s.args.b ≤ 100000) :
    exec .cmdSlice s = .next (commandDone s (s.modFn s.args.a fun f => { f with slice := s.args.b }) []) :=
  congrArg _ (command_wellFormed h (by simp [hf, h1, h2]))

theorem cmdBucket_sets (hf : s.fn? s.args.a = some f) (hb : s.args.b < 12) :
    exec .cmdBucket s = .next (commandDone s (s.setBucket s.args.a s.args.b (Machine.word s.args.value.toNat)) []) :=
  congrArg _ (command_wellFormed h (by simp [hf, hb]))

theorem cmdPower_sets (h1 : 1200 ≤ s.args.a) (h2 : s.args.a ≤ 2400) :
    exec .cmdPower s = .next (commandDone s (s.modAdmin fun x => { x with powerLimit := s.args.a })
      (Config.layout 0x40 (s.admin.clusters ++ s.admin.uncore ++ s.admin.sill))) := by
  change execCmdPower s = _
  simp only [execCmdPower]
  rw [if_neg (by omega), command_done h]

theorem cmdBudget_sets (ha : s.args.a ≤ 19200) :
    exec .cmdBudget s = .next (commandDone s (s.modAdmin fun x => { x with budget := s.args.a }) []) :=
  congrArg _ (command_wellFormed h (by simp [ha]))

end Owner

/-! ### Translation (R400, R403) -/

/-- Dropping translations leaves what regions and drives still hold back. -/
theorem buffered_invalidate (s : State) (fn va len g : Nat) : (s.invalidate fn va len).buffered g = s.buffered g := rfl

/-- The migration under way whose page holds the address that a command names. -/
def namedMigration (s : State) : Option Migration :=
  s.migrations.find? fun m => m.fn == s.args.a && m.page ≤ s.args.value.toNat && s.args.value.toNat < m.page + 2 ^ m.size

/-- R403: a page may migrate that does not migrate yet, is plain memory of this package and lies in the other tier, to a frame that is aligned
for it and, in the device tier, granted to the function. -/
structure MayMigrate (s : State) (l : Leaf) : Prop where
  still : bitAt l.pte 6 = false
  plain : pteAttr l.pte = 0
  otherTier : bitAt l.pte 7 ≠ s.args.flag
  inPackage : isPeer (ptePa l.pte) = false
  aligned : s.args.b % 2 ^ l.size = 0
  inRange : s.args.b < 2 ^ 52
  granted : s.args.flag = true ∨ s.granted s.args.a s.args.b (2 ^ l.size) = true

theorem MayMigrate.not_refused {l : Leaf} (h : MayMigrate s l) :
    ¬(pteAttr l.pte ≠ 0 ∨ bitAt l.pte 7 = s.args.flag ∨ isPeer (ptePa l.pte) = true ∨ s.args.b % 2 ^ l.size ≠ 0 ∨ 2 ^ 52 ≤ s.args.b ∨
      (!s.args.flag) = true ∧ (!s.granted s.args.a s.args.b (2 ^ l.size)) = true) := by
  rintro (hattr | htier | hpeer | hal | hrange | ⟨hflag, hgrant⟩)
  · exact hattr h.plain
  · exact h.otherTier htier
  · exact Bool.eq_false_iff.1 h.inPackage hpeer
  · exact hal h.aligned
  · exact Nat.not_le.2 h.inRange hrange
  · exact h.granted.elim (by simpa using hflag) (by simpa using hgrant)

section Driver

variable {f : Fn} (h : Accepts s (.function s.args.a))
include h

theorem cmdInval_done (hf : s.fn? s.args.a = some f) (hb : s.buffered s.args.a = false) :
    exec .cmdInval s = .next (commandDone s (s.invalidate s.args.a s.args.value.toNat s.args.b) []) := by
  change execCmdInval s = _
  simp [execCmdInval, hf, buffered_invalidate, hb, execute_done h]

theorem cmdInval_held (hf : s.fn? s.args.a = some f) (hb : s.buffered s.args.a = true) :
    exec .cmdInval s = .next ((s.invalidate s.args.a s.args.value.toNat s.args.b).hold .cmdInval) := by
  change execCmdInval s = _
  simp [execCmdInval, hf, buffered_invalidate, hb, execute_held h]

theorem cmdMigrate_switches {m : Migration} (hm : namedMigration s = some m) :
    exec .cmdMigrate s = .next (commandDone s (s.migrate m) []) := by
  unfold namedMigration at hm
  change execCmdMigrate s = _
  simp only [execCmdMigrate, hm]
  rw [execute_done h]

theorem cmdMigrate_starts {l : Leaf} (hm : namedMigration s = none) (hf : s.fn? s.args.a = some f)
    (hw : s.walk s.args.a s.args.value.toNat false true 4 f.root = .ok l) (hl : MayMigrate s l) :
    exec .cmdMigrate s = .next ((s.startMigration s.args.a l s.args.flag s.args.b).hold .cmdMigrate) := by
  unfold namedMigration at hm
  change execCmdMigrate s = _
  simp only [execCmdMigrate, hm, hf, hw, Option.map_some, hl.still, Bool.false_eq_true, if_false]
  rw [if_neg hl.not_refused, execute_held h]

/-! ### Memory and limits of a function (R347, R348, R383, R398, R429) -/

/-- R347, R348, R354: the region of a descriptor, its SLABROWS filled in, each slab in the initial order. -/
def createdRegion (s : State) (i : Nat) (d : RegionDesc) : Region :=
  { fn := s.args.a, index := i, desc := d, slabs := (List.range (roundUp (d.shape.headD 1) d.slabRows / d.slabRows)).map d.slab }

theorem cmdRegion_creates {i : Nat} {b : List Byte} (hload : s.args.load = .region (.create i b)) (hf : s.fn? s.args.a = some f)
    (hi : i < 65536) (hd : s.descriptorOk s.args.a b = true) (hnew : ∀ x ∈ s.regions, ¬(x.fn = s.args.a ∧ x.index = i)) :
    exec .cmdRegion s = .next (commandDone s
      { s with regions := s.regions ++ [createdRegion s i (RegionDesc.parse b).filled] }
      (leBytes 4 ((RegionDesc.parse b).filled.gen * 65536 + i))) := by
  have hfree : (s.regions.any fun r => r.fn == s.args.a && r.index == i) = false := by simpa using hnew
  change execCmdRegion s = _
  simp only [execCmdRegion, hload, hfree, Bool.false_eq_true, if_false]
  rw [if_neg (by simp [hf, hd, hi]), command_done h]
  rfl

theorem cmdAlloc_sill {va len frame : Nat} {es : List Nat} (hload : s.args.load = .alloc (.sill va len frame)) (hva : va % 4096 = 0)
    (hlen : len % 4096 = 0) (hframe : frame % 4096 = 0) (hc : canonical va = true) (hg : s.granted s.args.a frame len = true)
    (hes : s.entriesFrom s.args.a va (len / 4096) = some es) :
    exec .cmdAlloc s = .next (commandDone s (s.mapPages s.args.a es (fun i => frame + 4096 * i + 5) 1) []) := by
  change execCmdAlloc s = _
  simp only [execCmdAlloc, hload, hes]
  rw [if_neg (by simp [hva, hlen, hframe, hc, hg]), command_done h]

theorem cmdLogctl_sets (hf : s.fn? s.args.a = some f) (hv : s.args.value.toNat % 64 = 0)
    (hok : logBlockOk (s.readLocs ((Loc.dev s.args.value.toNat).span 64)) = true) :
    exec .cmdLogctl s = .next (commandDone s (s.modFn s.args.a fun f => { f with log := some s.args.value }) []) := by
  change execCmdLogctl s = _
  simp only [execCmdLogctl, hok, if_true]
  rw [command_wellFormed h (by simp [hf, hv])]

theorem cmdCancel_cancels {q : Queue} (hq : s.queue? s.args.b = some q) (hfn : q.fn = s.args.a) (hc : s.args.c < 4)
    (ht : s.cancelIdent q s.args.c s.args.value.toNat = some t) : exec .cmdCancel s = .next (commandDone s t []) := by
  change execCmdCancel s = _
  simp only [execCmdCancel, hq, ht]
  rw [if_neg (by omega), command_done h]

end Driver

/-- Settles O49, each command by the lemma about its effect, with what its requester may issue. -/
theorem setupCommands : Obligations.SetupCommands := by
  unfold Obligations.SetupCommands
  intro s a r answers admin device mine hwait hwipe hhead
  have own (hd : device) : Accepts s .device := ⟨hwipe, hwait, refusal_owner hhead hd⟩
  have drv (hm : mine) : Accepts s (.function s.args.a) := ⟨hwipe, hwait, refusal_driver hhead hm⟩
  refine ⟨?_, ?_, ?_, ?_, ?_, ?_, ?_, ?_, ?_, ?_, ?_, ?_, ?_, ?_, ?_, ?_, ?_, ?_, ?_, ?_, ?_⟩
  · exact fun hd fn partition root pasid rings queues hload hok hfn hq => cmdFunction_creates (own hd) hload hok hfn hq
  · exact fun hd fn f hload hf hbusy => cmdFunction_destroys (own hd) hload hf hbusy
  · exact fun hd fn f base len hload hf hb hl hin hend => cmdGrant_frames (own hd) hload hf hb hl hin hend
  · exact fun hd fn f i g hload hf hi hg => cmdGrant_storage (own hd) hload hf hi hg
  · exact fun hd peer len hload hp hl => cmdGrant_heddle (own hd) hload hp hl
  · exact fun hd device' port hload hdev hp => cmdGrant_route (own hd) hload hdev hp
  · exact fun hd n hload hn => cmdGrant_device (own hd) hload hn
  · exact fun hm f hf => ⟨cmdInval_done (drv hm) hf, cmdInval_held (drv hm) hf⟩
  · exact fun hm m hnamed => cmdMigrate_switches (drv hm) hnamed
  · exact fun hm f l hnamed hf hw hstill hplain htier hpeer hal hrange hgrant =>
      cmdMigrate_starts (drv hm) hnamed hf hw ⟨hstill, hplain, htier, hpeer, hal, hrange, hgrant⟩
  · exact fun hm f i b hload hf hi hd hnew => cmdRegion_creates (drv hm) hload hf hi hd hnew
  · exact fun hm va len frame es hload hva hlen hframe hc hg hes => cmdAlloc_sill (drv hm) hload hva hlen hframe hc hg hes
  · exact fun hd ha hb => cmdReserve_sets (own hd) ha hb
  · exact fun hd ha hb hc0 hc hflag => cmdSplit_sets_one (own hd) ha hb hc0 hc hflag
  · exact fun hd h1 h2 => cmdScrub_sets (own hd) h1 h2
  · exact fun hd f hf h1 h2 => cmdSlice_sets (own hd) hf h1 h2
  · exact fun hd f hf hb => cmdBucket_sets (own hd) hf hb
  · exact fun hm f hf hv hok => cmdLogctl_sets (drv hm) hf hv hok
  · exact fun hm q t hq hfn hc ht => cmdCancel_cancels (drv hm) hq hfn hc ht
  · exact fun hd h1 h2 => ⟨_, cmdPower_sets (own hd) h1 h2⟩
  · exact fun hd ha => cmdBudget_sets (own hd) ha

end Sys2Proof.Proofs
end

section
/-! SUPPORT. The commands about the device itself (R404, R405, R431 to R436): what turns any command away, said once for each scope, then
what ownership, attestation, state, life-cycle and partition commands do, and the obligation that puts them together. -/

namespace Sys2Proof.Proofs

open Sys2Proof.Machine

variable {s t : State} {scope : Scope} {always : Bool} {row i : Instr}

/-! ### The table of commands (R432) -/

/-- The instruction is a command of this scope, and state 3 takes it or not. -/
def Performs (s : State) (i : Instr) (scope : Scope) (always : Bool) : Prop :=
  ∃ body, exec i s = .next (s.execute i scope always body)

/-- The commands that only the owner may issue in the states that take them; LIFECYCLE, which state 3 takes too, is apart. -/
def ownerCommands : List Instr :=
  [.cmdHandover, .cmdRelease, .cmdPartition, .cmdFunction, .cmdGrant, .cmdReserve, .cmdSplit, .cmdScrub, .cmdSlice, .cmdBucket, .cmdPower,
    .cmdBudget]

/-- The commands that a function's own driver may issue too. -/
def driverCommands : List Instr := [.cmdInval, .cmdMigrate, .cmdRegion, .cmdAlloc, .cmdLogctl, .cmdCancel]

/-- The other commands, each with its scope and whether state 3 takes it. -/
def otherCommands : List (Instr × Scope × Bool) :=
  [(.cmdClaim, .any, false), (.cmdMeasure, .any, true), (.cmdGetcert, .any, true), (.cmdStatus, .any, true), (.cmdReadlog, .any, false),
    (.cmdLifecycle, .device, true)]

theorem performs_device (hi : i ∈ ownerCommands) : Performs s i .device false := by
  simp only [ownerCommands, List.mem_cons, List.not_mem_nil, or_false] at hi
  rcases hi with rfl | rfl | rfl | rfl | rfl | rfl | rfl | rfl | rfl | rfl | rfl | rfl <;> exact ⟨_, rfl⟩

theorem performs_function (hi : i ∈ driverCommands) : Performs s i (.function s.args.a) false := by
  simp only [driverCommands, List.mem_cons, List.not_mem_nil, or_false] at hi
  rcases hi with rfl | rfl | rfl | rfl | rfl | rfl <;> exact ⟨_, rfl⟩

theorem performs_other (hi : (i, scope, always) ∈ otherCommands) : Performs s i scope always := by
  simp only [otherCommands, List.mem_cons, List.not_mem_nil, or_false, Prod.mk.injEq] at hi
  rcases hi with ⟨rfl, rfl, rfl⟩ | ⟨rfl, rfl, rfl⟩ | ⟨rfl, rfl, rfl⟩ | ⟨rfl, rfl, rfl⟩ | ⟨rfl, rfl, rfl⟩ | ⟨rfl, rfl, rfl⟩ <;>
    exact ⟨_, rfl⟩

/-- Every command of the table, in the table's order. -/
def allCommands : List Instr :=
  [.cmdClaim, .cmdHandover, .cmdRelease, .cmdMeasure, .cmdGetcert, .cmdStatus, .cmdReadlog, .cmdPartition, .cmdFunction, .cmdGrant, .cmdInval,
    .cmdMigrate, .cmdRegion, .cmdAlloc, .cmdReserve, .cmdSplit, .cmdScrub, .cmdSlice, .cmdBucket, .cmdLogctl, .cmdCancel, .cmdPower, .cmdBudget,
    .cmdLifecycle]

theorem allCommands_scoped : ∀ i ∈ allCommands, i ∈ ownerCommands ∨ i ∈ driverCommands ∨ i ∈ otherCommands.map (·.1) := by decide

theorem performs_of_mem (hi : i ∈ allCommands) : ∃ scope always, Performs s i scope always := by
  obtain hd | hf | ho := allCommands_scoped i hi
  · exact ⟨_, _, performs_device hd⟩
  · exact ⟨_, _, performs_function hf⟩
  · obtain ⟨⟨j, scope, always⟩, hj, rfl⟩ := List.mem_map.1 ho
    exact ⟨scope, always, performs_other hj⟩

/-! ### What turns a command away (R431 to R433, R435, R436) -/

theorem refusal_malformed (hh : headerOk s.args.cmd = false) : s.refusal scope always = some 2 := by
  simp [State.refusal, hh]

theorem refusal_returned (hh : headerOk s.args.cmd = true) (hl : s.admin.lifecycle = 3) : s.refusal scope false = some 4 := by
  simp [State.refusal, hh, hl]

theorem refusal_manufacture (hh : headerOk s.args.cmd = true) (hl : s.admin.lifecycle = 0) (hb : isBexfort s.args.cmd.req = false) :
    s.refusal .device false = some 4 := by
  simp [State.refusal, hh, hl, hb]

theorem refusal_notOwner (hh : headerOk s.args.cmd = true) (hl : s.admin.lifecycle ≠ 3)
    (hb : s.admin.lifecycle = 0 → isBexfort s.args.cmd.req = true) (ho : s.admin.owner ≠ some s.args.cmd.req) :
    s.refusal .device false = some 1 := by
  simpa [State.refusal, hh, hl, ho] using hb

theorem refusal_notDriver {fn : Nat} (hh : headerOk s.args.cmd = true) (hl : s.admin.lifecycle ≠ 3)
    (ho : s.admin.owner ≠ some s.args.cmd.req) (hd : s.args.cmd.req ≠ .function fn ∨ s.args.cmd.via ≠ .mailbox fn) :
    s.refusal (.function fn) false = some 1 := by
  have hdriver : ofDriver s.args.cmd fn = false := by simpa [ofDriver, Decidable.or_iff_not_imp_left] using hd
  simp [State.refusal, hh, hl, ho, hdriver]

/-- A command that acts on nothing waits no longer and is answered with its status. -/
def turnedAway (s : State) (status : Nat) : State := (s.respond s.args.cmd status []).unhold

theorem exec_wiping (hp : Performs s i scope always) (hi : i ≠ .cmdStatus) (hw : s.admin.wiping = true) :
    exec i s = .next s.wipeRefusal.unhold := by
  obtain ⟨body, hexec⟩ := hp
  simp [hexec, State.execute, hw, hi]

theorem exec_waiting (hp : Performs s i scope always) (hw : s.admin.wiping = false) (hc : s.commandWaits = true) :
    exec i s = .next (s.hold i) := by
  obtain ⟨body, hexec⟩ := hp
  simp [hexec, State.execute, hw, hc]

theorem exec_refused {st : Nat} (hp : Performs s i scope always) (hw : s.admin.wiping = false) (hc : s.commandWaits = false)
    (hr : s.refusal scope always = some st) : exec i s = .next (turnedAway s st) := by
  obtain ⟨body, hexec⟩ := hp
  simp [hexec, State.execute, hw, hc, hr, turnedAway]

/-- The status of a command that a wipe turns away is one of R431's, other than 0. -/
theorem wipeRefusal_answers : ∃ st, st ∈ [1, 2, 3, 4, 5] ∧ s.wipeRefusal.unhold = { turnedAway s st with free := s.free + 1 } := by
  refine ⟨1 + (Config.freeWord s.free).toNat % 5, ?_, rfl⟩
  simp only [List.mem_cons, List.not_mem_nil, or_false]
  omega

/-! ### Commands that any requester may issue, or that state 3 takes (R432, R435) -/

theorem refusal_any (hh : headerOk s.args.cmd = true) (h : s.admin.lifecycle = 3 → always = true) : s.refusal .any always = none := by
  simpa [State.refusal, hh] using h

theorem refusal_owner_always (hh : headerOk s.args.cmd = true) (ho : s.admin.owner = some s.args.cmd.req)
    (hb : s.admin.lifecycle = 0 → isBexfort s.args.cmd.req = true) : s.refusal .device true = none := by
  simpa [State.refusal, hh, ho] using hb

/-! ### Partition modes (R404, R405, R423, R436) -/

/-- The package as a change of partition mode leaves it: wiped, its queues, placement and cores afresh, its bridges set. -/
def repartitioned (s : State) (m : Nat) : State :=
  ({ s.wipe with pointers := [0, 11, 22, 33] } : State).modAdmin fun a =>
    { a.setBridges m with mode := m, deadCores := [], queues := a.queues.map fun (q : Queue) => { q with reported := [], cancelled := [] } }

theorem repartitioned_queues (m : Nat) : ∀ q ∈ (repartitioned s m).admin.queues, q.reported = [] ∧ q.cancelled = [] := by
  intro q hq
  obtain ⟨_, _, rfl⟩ := List.mem_map.1 hq
  exact ⟨rfl, rfl⟩

section Accepted

variable (hw : s.admin.wiping = false) (hc : s.commandWaits = false)
include hw hc

/-- As command_done, also for the commands that state 3 takes. -/
theorem command_accepted (hr : s.refusal scope always = none) (p : List Byte) :
    s.command row scope always (.ok (t, p)) = commandDone s t p := by
  simp only [State.command, State.execute, Except.map, hw, hc, hr, Bool.false_and, Bool.false_eq_true, if_false, respond_unhold]

theorem command_fails {st : Nat} (hr : s.refusal scope always = none) :
    s.command row scope always (.error st) = turnedAway s st := by
  simp only [State.command, State.execute, Except.map, hw, hc, hr, Bool.false_and, Bool.false_eq_true, if_false, turnedAway]

variable (hh : headerOk s.args.cmd = true)
include hh

/-! ### Ownership (R433) -/

theorem cmdClaim_owns (hl : s.admin.lifecycle ≠ 3) (ho : s.admin.owner = none) :
    exec .cmdClaim s = .next (commandDone s (s.modAdmin fun a => { a with owner := some s.args.cmd.req }) []) := by
  change execCmdClaim s = _
  simp only [execCmdClaim, ho, Option.isSome_none, Bool.false_eq_true, if_false,
    command_accepted hw hc (refusal_any hh (absurd · hl))]

theorem cmdClaim_owned (hl : s.admin.lifecycle ≠ 3) (ho : s.admin.owner ≠ none) : exec .cmdClaim s = .next (turnedAway s 1) := by
  change execCmdClaim s = _
  rw [execCmdClaim, if_pos (Option.isSome_iff_ne_none.2 ho), command_fails hw hc (refusal_any hh (absurd · hl))]

theorem cmdHandover_gives (h : FromOwner s) {r : Requester} (hload : s.args.load = .requester r) :
    exec .cmdHandover s = .next (commandDone s (s.modAdmin fun a => { a with owner := some r }) []) := by
  change execCmdHandover s = _
  simp only [execCmdHandover, hload, command_accepted hw hc (refusal_owner hh h)]

theorem cmdRelease_frees (h : FromOwner s) :
    exec .cmdRelease s = .next (commandDone s (s.modAdmin fun a => { a with owner := none }) []) := by
  change execCmdRelease s = _
  rw [execCmdRelease, command_accepted hw hc (refusal_owner hh h)]

/-! ### Attestation and state (R432, R434) -/

theorem cmdMeasure_reports (hlen : s.args.bytes.length = 64) :
    exec .cmdMeasure s =
      .next (commandDone s s (s.args.bytes ++ s.measures ++ Config.signature (s.args.bytes ++ s.measures))) := by
  change execCmdMeasure s = _
  rw [execCmdMeasure, if_neg (not_not.2 hlen), command_accepted hw hc (refusal_any hh fun _ => rfl)]

theorem cmdGetcert_answers : exec .cmdGetcert s = .next (commandDone s s Config.certificate) := by
  change execCmdGetcert s = _
  rw [execCmdGetcert, command_accepted hw hc (refusal_any hh fun _ => rfl)]

theorem cmdStatus_answers : ∃ p, exec .cmdStatus s = .next (commandDone s s p) := by
  change ∃ p, execCmdStatus s = _
  exact ⟨_, congrArg _ (command_accepted hw hc (refusal_any hh fun _ => rfl) _)⟩

theorem cmdReadlog_answers (hl : s.admin.lifecycle ≠ 3) : ∃ p, exec .cmdReadlog s = .next (commandDone s s p) := by
  change ∃ p, execCmdReadlog s = _
  exact ⟨_, congrArg _ (command_accepted hw hc (refusal_any hh (absurd · hl)) _)⟩

/-! ### LIFECYCLE and PARTITION (R404, R405, R435, R436) -/

theorem cmdLifecycle_wipes (ho : s.admin.owner = some s.args.cmd.req) (hb : s.admin.lifecycle = 0 → isBexfort s.args.cmd.req = true)
    (hnext : (s.admin.lifecycle = 0 ∧ s.args.a = 1) ∨ (s.admin.lifecycle = 1 ∧ s.args.a = 2) ∨ (s.admin.lifecycle = 2 ∧ s.args.a = 3) ∨
      (s.admin.lifecycle = 3 ∧ s.args.a = 1)) :
    exec .cmdLifecycle s =
      .next (commandDone s (s.wipe.modAdmin fun a => { a with lifecycle := s.args.a, wiping := true }) []) := by
  change execCmdLifecycle s = _
  rw [execCmdLifecycle, if_pos hnext, command_accepted hw hc (refusal_owner_always hh ho hb)]

variable (h : FromOwner s) (hm : s.args.a = 1 ∨ s.args.a = 2 ∨ s.args.a = 4) (hnew : s.args.a ≠ s.admin.mode)
include h hm hnew

theorem cmdPartition_changes (hidle : s.idle = true) :
    exec .cmdPartition s = .next (commandDone s (repartitioned s s.args.a) []) := by
  change execCmdPartition s = _
  simp only [execCmdPartition]
  rw [if_neg (by omega), if_neg hnew, if_neg (by simp [hidle]), command_accepted hw hc (refusal_owner hh h)]
  rfl

theorem cmdPartition_busy (hidle : s.idle = false) : exec .cmdPartition s = .next (turnedAway s 3) := by
  change execCmdPartition s = _
  simp only [execCmdPartition]
  rw [if_neg (by omega), if_neg hnew, if_pos (by simp [hidle]), command_fails hw hc (refusal_owner hh h)]

end Accepted

/-- Settles O48, each effect by the lemma about its command, each refusal by what turns a command of its scope away. -/
theorem deviceCommands : Obligations.DeviceCommands := by
  unfold Obligations.DeviceCommands
  constructor
  · intro s r answers owner live device hc hw hh
    refine ⟨cmdClaim_owns hw hc hh, cmdClaim_owned hw hc hh, ?_, cmdRelease_frees hw hc hh, cmdMeasure_reports hw hc hh,
      cmdGetcert_answers hw hc hh, cmdStatus_answers hw hc hh, cmdReadlog_answers hw hc hh, ?_, ?_, ?_⟩
    · exact fun hd x hload => cmdHandover_gives hw hc hh hd hload
    · exact fun ⟨ho, hb⟩ hnext => cmdLifecycle_wipes hw hc hh ho hb hnext
    · exact fun hd hm hnew hidle => ⟨repartitioned s s.args.a, cmdPartition_changes hw hc hh hd hm hnew hidle, rfl, rfl, rfl, rfl, rfl, rfl,
        repartitioned_queues _, rfl⟩
    · exact fun hd hnew hm hidle => cmdPartition_busy hw hc hh hd hm hnew hidle
  · intro s r answers all i
    refine ⟨?_, ?_, ?_, fun hc hw hh => ⟨fun hi => ⟨?_, ?_, ?_⟩, fun hi => ⟨?_, ?_⟩⟩⟩
    · intro hi hne hw
      obtain ⟨scope, always, hp⟩ := performs_of_mem (s := s) hi
      obtain ⟨st, hst, heq⟩ := wipeRefusal_answers (s := s)
      exact ⟨st, hst, (exec_wiping hp hne hw).trans (congrArg _ heq)⟩
    · intro hi hw hc
      obtain ⟨scope, always, hp⟩ := performs_of_mem (s := s) hi
      exact exec_waiting hp hw hc
    · intro hi hw hc hh
      obtain ⟨scope, always, hp⟩ := performs_of_mem (s := s) hi
      exact exec_refused hp hw hc (refusal_malformed hh)
    · exact fun hl => exec_refused (performs_device hi) hw hc (refusal_returned hh hl)
    · exact fun hl hb => exec_refused (performs_device hi) hw hc (refusal_manufacture hh hl hb)
    · exact fun hl hb ho => exec_refused (performs_device hi) hw hc (refusal_notOwner hh hl hb ho)
    · exact fun hl => exec_refused (performs_function hi) hw hc (refusal_returned hh hl)
    · exact fun hl ho hd => exec_refused (performs_function hi) hw hc (refusal_notDriver hh hl ho hd)

end Sys2Proof.Proofs
end
